-- ==== Sys2Proof/Word.lean ====
section
/-! DEFINITION. The words of the machine: registers, vectors, bytes, and how a word is cut into
bit fields and glued from them (07 R138, R139). -/

namespace Sys2Proof

/-- A byte of memory. -/
abbrev Byte := BitVec 8

/-- A scalar register, a control register, an address while it is computed. -/
abbrev Word := BitVec 64

/-- A vector register (06 R121). -/
abbrev VWord := BitVec 1024

/-- The number of a scalar register s0 to s63. -/
abbrev SReg := Fin 64

/-- The number of a vector register v0 to v31. -/
abbrev VReg := Fin 32

/-- The number of a predicate register p0 to p7. -/
abbrev PReg := Fin 8

/-- The fields of `n`, whose widths are `ws` from the least significant field upward. -/
def cut : List Nat → Nat → List Nat
  | [], _ => []
  | w :: ws, n => n % 2 ^ w :: cut ws (n / 2 ^ w)

/-- The number whose fields, from the least significant upward, are the pairs (width, value). -/
def glue : List (Nat × Nat) → Nat
  | [] => 0
  | (w, v) :: fs => v % 2 ^ w + 2 ^ w * glue fs

end Sys2Proof
end

