-- ==== Sys2Proof/Config.lean ====
section
/-! DEFINITION. What an implementation fixes and the values the manual leaves open: opaque constants, applied to
the counter of free values in the state, so that nothing can be proved of what they are. -/

namespace Sys2Proof.Config

/-- The n-th free value of width `w` (log 5). -/
opaque freeBits : Nat → (w : Nat) → BitVec w

/-- The n-th free choice among natural numbers, reduced by whoever asks for it (log 5). -/
opaque freeNat : Nat → Nat

/-- How many cycles of the local core clock the n-th step takes (log 4). -/
opaque stepCycles : Nat → Nat

/-- Which of the 32 leaves that a contiguous leaf names gives the translations of the n-th step (20 R343, log 19). -/
opaque contLeaf : Nat → Nat

/-- Whether a faithfully rounded special function gives the upper of the two numbers that enclose the exact
value; `op` numbers the function and `x` is its operand (09 R205, log 7). -/
opaque faithfulUp : (op x : Nat) → Bool

/-- How many entries an on-chip queue holds (10 R247 gives no number). -/
opaque queueDepth : Nat

/-- A signature check of the security controller: over the bytes signed, the key and the signature (log 9). -/
opaque signatureOk : List Byte → List Byte → List Byte → Bool

/-- A signature the module makes over a message with the key numbered `k` (log 9). -/
opaque sign : (k : Nat) → List Byte → List Byte

/-- The n-th output of the module's random number generator, `len` bytes (log 9). -/
opaque random : (n len : Nat) → List Byte

/-- AES-256-XTS of a sector under the data key that the n-th draw of the key source gave, with its address as the tweak
(01 R17, log 9). -/
opaque xts : (key tweak : Nat) → BitVec 512 → BitVec 512

/-- The first 32 bits of the AES-256-GMAC of a sector's ciphertext, address and SLOT under that draw's integrity key (01 R18,
log 9). -/
opaque gmac : (key : Nat) → BitVec 512 → (pa slot : Nat) → BitVec 32

/-- The symbol code over a sector and bits [63:24] of its metadata word (01 R18 gives no code, log 9). -/
opaque ecc : BitVec 512 → BitVec 40 → BitVec 24

/-- The AES-256-GMAC tag of a code block under the n-th draw of the key source, with a nonce of 96 bits (23 R364, log 9). -/
opaque gmacTag : (key : Nat) → (nonce : BitVec 96) → List Byte → BitVec 128

/-- The four owner key hashes as the management port provisioned them (23 R364, log 113). -/
opaque ownerKeyHash : Nat → BitVec 256

/-- The session key of the n-th training of the link of a stack (01 R19, log 9). -/
opaque linkKey : (link n : Nat) → BitVec 256

/-- Whether the boot ROM accepts the signature of a firmware image (23 R367, log 9). -/
opaque firmwareOk : List Byte → Bool

/-- The module's 64-bit unique id (23 R366). -/
opaque deviceId : BitVec 64

/-- How many bytes a debug unlock token has; its signature check, the id and nonce it covers, and its mask of contexts
(23 R366 gives no layout, log 27). -/
opaque tokenLength : Nat
opaque tokenOk : List Byte → Bool
opaque tokenId : List Byte → BitVec 64
opaque tokenNonce : List Byte → BitVec 64
opaque tokenMask : List Byte → BitVec 256

/-- The bytes of the boot ROM, and the certificate chain of slot 0 (23 R369). -/
opaque bootRom : List Byte
opaque certificate : List Byte

/-- The bytes that measurement `index` digests, from the facts it covers (23 R369 gives no encoding, log 27). -/
opaque measured : (index : Nat) → List Byte → List Byte

end Sys2Proof.Config
end

