-- ==== Sys2Proof/Syntax.lean ====
section
/-! DEFINITION. The instructions: one constructor of `Instr` per row of the opcode table. The operands of an
encoded slot are one record per operand layout (07 R139, with only the fields the instruction uses, R145); the
E bit belongs to the bundle and stands in `Slot`. The rows without an encoding are the steps the machine takes
beside its instructions (95); their arguments are what the step's agent or the outside world supplies. -/

namespace Sys2Proof

/-- Vector width W (07 R141). -/
inductive Width where
  | w256 | w512 | w1024
  deriving DecidableEq, Repr

/-- Element type DT, DTF, DTT (07 R141). -/
inductive ElemType where
  | i8 | i16 | i32 | bf16 | f16 | f32 | f64 | f8
  deriving DecidableEq, Repr

/-- Element or access size ESZ, SZ: 1, 2, 4 or 8 bytes (07 R141). -/
inductive Esz where
  | e8 | e16 | e32 | e64
  deriving DecidableEq, Repr

/-- A scope as a 3-bit code (00 R6). -/
inductive Scope where
  | co | cl | di | pk | sy
  deriving DecidableEq, Repr

/-- The 2-bit scope of an atomic (00 R6). -/
inductive AScope where
  | cl | di | pk | sy
  deriving DecidableEq, Repr

/-- ORD of an atomic (07 R141). -/
inductive Ord where
  | rlx | acq | rel | ar
  deriving DecidableEq, Repr

/-- CC of VCMP (07 R141). -/
inductive CcV where
  | eq | ne | lt | le | ltu | leu | un | ord
  deriving DecidableEq, Repr

/-- CC of CMP and CMPI (07 R141). -/
inductive CcI where
  | eq | ne | lt | ge | ltu | geu | bit
  deriving DecidableEq, Repr

/-- CC of FCMP (07 R141). -/
inductive CcF where
  | eq | ne | lt | le | un | or
  deriving DecidableEq, Repr

/-- Overflow policy (05 R112). -/
inductive Ovf where
  | sat | inf | nan | trap
  deriving DecidableEq, Repr

/-- Rounding field of a conversion (05 R111). -/
inductive Rnd where
  | rfm | rne | rtz | rsto
  deriving DecidableEq, Repr

/-- QF of VQUANT and VDEQUANT (07 R141). -/
inductive QFmt where
  | kd8 | kd4 | mxe4m3 | mxe5m2 | mxfp4 | e4m3 | e5m2
  deriving DecidableEq, Repr

/-- Scalar floating-point type F (07 R142). -/
inductive FType where
  | f64 | f32 | f16 | bf16
  deriving DecidableEq, Repr

/-- Type code of FCVT (07 R142). -/
inductive CvtType where
  | i64 | u64 | f64 | f32 | f16 | bf16
  deriving DecidableEq, Repr

/-- Timeline code (07 R141). -/
inductive Timeline where
  | haul | mma | attn | fabric | kv | sw
  deriving DecidableEq, Repr

/-- Operands of ADD, SUB, MUL, MULH ..., from bit 21 down: d[6] a[6] b[6] wa[1] wb[1] 0[2]. -/
structure RRR where
  (d a b : SReg)
  (wa wb : Bool)
  deriving DecidableEq, Repr

/-- Operands of ADDI, ANDI, ORI, XORI ..., from bit 21 down: d[6] a[6] wa[1] imm[9]. -/
structure RI where
  (d a : SReg)
  (wa : Bool)
  (imm : BitVec 9)
  deriving DecidableEq, Repr

/-- Operands of DIV, DIVU, REM, REMU, from bit 21 down: d[6] a[6] b[6] wa[1] wb[1] op[2]. -/
structure DivOps where
  (d a b : SReg)
  (wa wb : Bool)
  deriving DecidableEq, Repr

/-- Operands of CLZ, CTZ, POPC, EMCOMB ..., from bit 21 down: d[6] a[6] 0[6] wa[1] 0[3]. -/
structure RR where
  (d a : SReg)
  (wa : Bool)
  deriving DecidableEq, Repr

/-- Operands of SEL, from bit 21 down: d[6] a[6] b[6] p[3] n[1]. -/
structure SelOps where
  (d a b : SReg)
  (p : PReg)
  (n : Bool)
  deriving DecidableEq, Repr

/-- Operands of LI, LSI, from bit 21 down: d[6] imm[16]. -/
structure LiOps where
  (d : SReg)
  (imm : BitVec 16)
  deriving DecidableEq, Repr

/-- Operands of CMP, from bit 21 down: pd[3] cc[3] a[6] b[6] wa[1] wb[1] 0[1] w32[1]. -/
structure CmpOps where
  (pd : PReg)
  (cc : CcI)
  (a b : SReg)
  (wa wb w32 : Bool)
  deriving DecidableEq, Repr

/-- Operands of CMPI, from bit 21 down: pd[3] cc[3] a[6] wa[1] imm[9]. -/
structure CmpiOps where
  (pd : PReg)
  (cc : CcI)
  (a : SReg)
  (wa : Bool)
  (imm : BitVec 9)
  deriving DecidableEq, Repr

/-- Operands of PAND, POR, PXOR, PANDC ..., from bit 21 down: pd[3] pa[3] pb[3] op[3] 0[10]. -/
structure PlogOps where
  (pd pa pb : PReg)
  deriving DecidableEq, Repr

/-- Operands of PPACK, EMSAVE, CMSAVE, RDCYC ..., from bit 21 down: d[6] 0[16]. -/
structure DOnly where
  (d : SReg)
  deriving DecidableEq, Repr

/-- Operands of PUNPACK, EMLOAD, CMLOAD, JMP ..., from bit 21 down: 0[6] a[6] 0[6] wa[1] 0[3]. -/
structure AOnly where
  (a : SReg)
  (wa : Bool)
  deriving DecidableEq, Repr

/-- Operands of FADD, FSUB, FMUL, FFMA ..., from bit 21 down: d[6] a[6] b[6] wa[1] wb[1] f[2]. -/
structure FRRR where
  (d a b : SReg)
  (wa wb : Bool)
  (f : FType)
  deriving DecidableEq, Repr

/-- Operands of FCMP, from bit 21 down: pd[3] cc[3] a[6] b[6] wa[1] wb[1] f[2]. -/
structure FcmpOps where
  (pd : PReg)
  (cc : CcF)
  (a b : SReg)
  (wa wb : Bool)
  (f : FType)
  deriving DecidableEq, Repr

/-- Operands of FCVT, from bit 21 down: d[6] a[6] src[3] dst[3] wa[1] 0[1] ovf[2]. -/
structure FcvtOps where
  (d a : SReg)
  (src dst : CvtType)
  (wa : Bool)
  (ovf : Ovf)
  deriving DecidableEq, Repr

/-- Operands of FSQRT, from bit 21 down: d[6] a[6] 0[6] wa[1] 0[1] f[2]. -/
structure FRR where
  (d a : SReg)
  (wa : Bool)
  (f : FType)
  deriving DecidableEq, Repr

/-- Operands of CRD, from bit 21 down: d[6] 0[6] k[10]. -/
structure DK where
  (d : SReg)
  (k : BitVec 10)
  deriving DecidableEq, Repr

/-- Operands of CWR, ETCHMARK, from bit 21 down: 0[6] a[6] k[10]. -/
structure AK where
  (a : SReg)
  (k : BitVec 10)
  deriving DecidableEq, Repr

/-- Operands of FMTSET, from bit 21 down: 0[6] a[6] 0[10]. -/
structure AX where
  (a : SReg)
  deriving DecidableEq, Repr

/-- Operands of BR, CALL, from bit 21 down: p[3] n[1] h[1] off[17]. -/
structure BrOps where
  (p : PReg)
  (n h : Bool)
  (off : BitVec 17)
  deriving DecidableEq, Repr

/-- Operands of ENTER, LEAVE, from bit 21 down: 0[13] imm[9]. -/
structure FrameOps where
  (imm : BitVec 9)
  deriving DecidableEq, Repr

/-- Operands of DBNZ, from bit 21 down: d[6] off[16]. -/
structure DbnzOps where
  (d : SReg)
  (off : BitVec 16)
  deriving DecidableEq, Repr

/-- Operands of TRAP, SVC, BRK, from bit 21 down: 0[12] k[10]. -/
structure KOnly where
  (k : BitVec 10)
  deriving DecidableEq, Repr

/-- Operands of VADD, VSUB, VMUL, VFMA ..., from bit 21 down: vd[5] va[5] vb[5] w[2] dt[3] wa[1] wb[1]. -/
structure VRR where
  (vd va vb : VReg)
  (w : Width)
  (dt : ElemType)
  (wa wb : Bool)
  deriving DecidableEq, Repr

/-- Operands of VABS, VNEG, VNOT, VMOV ..., from bit 21 down: vd[5] va[5] 0[5] w[2] dt[3] wa[1] 0[1]. -/
structure VR1 where
  (vd va : VReg)
  (w : Width)
  (dt : ElemType)
  (wa : Bool)
  deriving DecidableEq, Repr

/-- Operands of VCMP, from bit 21 down: cc[3] 0[1] va[5] vb[5] w[2] dt[3] wa[1] wb[1] acc[1]. -/
structure VcmpOps where
  (cc : CcV)
  (va vb : VReg)
  (w : Width)
  (dt : ElemType)
  (wa wb acc : Bool)
  deriving DecidableEq, Repr

/-- Operands of VBCAST, from bit 21 down: vd[5] 0[5] s[6] w[2] dt[3] wa[1]. -/
structure VBc where
  (vd : VReg)
  (s : SReg)
  (w : Width)
  (dt : ElemType)
  (wa : Bool)
  deriving DecidableEq, Repr

/-- Operands of VEXT, from bit 21 down: sd[6] va[5] sb[6] dt[3] w[2]. -/
structure VextOps where
  (sd : SReg)
  (va : VReg)
  (sb : SReg)
  (dt : ElemType)
  (w : Width)
  deriving DecidableEq, Repr

/-- Operands of VINS, VADDSC, VMULSC, VFMASC ..., from bit 21 down: vd[5] va[5] s[6] w[2] dt[3] wa[1]. -/
structure VSS where
  (vd va : VReg)
  (s : SReg)
  (w : Width)
  (dt : ElemType)
  (wa : Bool)
  deriving DecidableEq, Repr

/-- Operands of VADDI, VSHLI, VSHRI, VSARI, from bit 21 down: vd[5] va[5] imm[7] w[2] dt[3]. -/
structure VII where
  (vd va : VReg)
  (imm : BitVec 7)
  (w : Width)
  (dt : ElemType)
  deriving DecidableEq, Repr

/-- Operands of VLI, from bit 21 down: vd[5] 0[5] imm[7] w[2] dt[3]. -/
structure VLiOps where
  (vd : VReg)
  (imm : BitVec 7)
  (w : Width)
  (dt : ElemType)
  deriving DecidableEq, Repr

/-- Operands of VIOTA, from bit 21 down: vd[5] 0[10] w[2] dt[3] 0[2]. -/
structure VIota where
  (vd : VReg)
  (w : Width)
  (dt : ElemType)
  deriving DecidableEq, Repr

/-- Operands of VPOPC, VFIRST, from bit 21 down: sd[6] 0[14] w[2]. -/
structure VcntOps where
  (sd : SReg)
  (w : Width)
  deriving DecidableEq, Repr

/-- Operands of VDEFER, VDRAIN, from bit 21 down: va[5] n[3] path[8] s[6]. -/
structure VdfOps where
  (va : VReg)
  (n : BitVec 3)
  (path : BitVec 8)
  (s : SReg)
  deriving DecidableEq, Repr

/-- Operands of VDSTAT, from bit 21 down: sd[6] 0[5] sb[6] 0[5]. -/
structure VdstatOps where
  (sd sb : SReg)
  deriving DecidableEq, Repr

/-- Operands of VCVT, from bit 21 down: vd[5] va[5] dtf[3] dtt[3] w[2] ovf[2] rnd[2]. -/
structure VcvtOps where
  (vd va : VReg)
  (dtf dtt : ElemType)
  (w : Width)
  (ovf : Ovf)
  (rnd : Rnd)
  deriving DecidableEq, Repr

/-- Operands of VQUANT, from bit 21 down: vd[5] va[5] sd[6] qf[3] ovf[2] sr[1]. -/
structure VqOps where
  (vd va : VReg)
  (sd : SReg)
  (qf : QFmt)
  (ovf : Ovf)
  (sr : Bool)
  deriving DecidableEq, Repr

/-- Operands of VDEQUANT, from bit 21 down: vd[5] va[5] sd[6] qf[3] ovf[2] 0[1]. -/
structure VdqOps where
  (vd va : VReg)
  (sd : SReg)
  (qf : QFmt)
  (ovf : Ovf)
  deriving DecidableEq, Repr

/-- Operands of VREDSUM, VREDMAX, VREDMIN, VARGMAX, from bit 21 down: sd[6] va[5] 0[6] dt[3] w[2]. -/
structure VredOps where
  (sd : SReg)
  (va : VReg)
  (dt : ElemType)
  (w : Width)
  deriving DecidableEq, Repr

/-- Operands of SMERGE, from bit 21 down: vd[5] va[5] sd[6] sa[6]. -/
structure XmOps where
  (vd va : VReg)
  (sd sa : SReg)
  deriving DecidableEq, Repr

/-- Operands of MMA, from bit 21 down: d[6] 0[6] 0[9] f[1]. -/
structure MmaOps where
  (d : SReg)
  (f : Bool)
  deriving DecidableEq, Repr

/-- Operands of MPSET, from bit 21 down: 0[6] a[6] 0[7] mp[3]. -/
structure MpsetOps where
  (a : SReg)
  (mp : PReg)
  deriving DecidableEq, Repr

/-- Operands of MPGET, from bit 21 down: d[6] 0[6] 0[7] mp[3]. -/
structure MpgetOps where
  (d : SReg)
  (mp : PReg)
  deriving DecidableEq, Repr

/-- Operands of ATTN, from bit 21 down: d[6] a[6] b[6] pf[1] res[1] tree[1] causal[1]. -/
structure AttnOps where
  (d a b : SReg)
  (pf res tree causal : Bool)
  deriving DecidableEq, Repr

/-- Operands of LDB, LDH, LDW, LDD ..., from bit 21 down: d[6] a[6] wa[1] off[9]. -/
structure MSOps where
  (d a : SReg)
  (wa : Bool)
  (off : BitVec 9)
  deriving DecidableEq, Repr

/-- Operands of LDX, STX, from bit 21 down: d[6] a[6] b[6] wa[1] wb[1] sz[2]. -/
structure MROps where
  (d a b : SReg)
  (wa wb : Bool)
  (sz : Esz)
  deriving DecidableEq, Repr

/-- Operands of VLD, VST, RLDV, RSTV, from bit 21 down: vd[5] a[6] wa[1] w[2] off[8]. -/
structure MVOps where
  (vd : VReg)
  (a : SReg)
  (wa : Bool)
  (w : Width)
  (off : BitVec 8)
  deriving DecidableEq, Repr

/-- Operands of VLDS, VSTS, from bit 21 down: vd[5] a[6] b[6] w[2] esz[2] wa[1]. -/
structure MVSOps where
  (vd : VReg)
  (a b : SReg)
  (w : Width)
  (esz : Esz)
  (wa : Bool)
  deriving DecidableEq, Repr

/-- Operands of VGATH, VSCAT, from bit 21 down: vd[5] a[6] vb[5] 0[1] w[2] esz[2] wa[1]. -/
structure MVGOps where
  (vd : VReg)
  (a : SReg)
  (vb : VReg)
  (w : Width)
  (esz : Esz)
  (wa : Bool)
  deriving DecidableEq, Repr

/-- Operands of FESET_EMPTY, FESET_FULL, from bit 21 down: 0[6] a[6] b[6] wa[1] wb[1] op[2]. -/
structure FesetOps where
  (a b : SReg)
  (wa wb : Bool)
  deriving DecidableEq, Repr

/-- Operands of ATADD_W, ATADD_D, ATMIN_W, ATMIN_D ..., from bit 21 down: d[6] a[6] b[6] ord[2] sc[2]. -/
structure ATOps where
  (d a b : SReg)
  (ord : Ord)
  (sc : AScope)
  deriving DecidableEq, Repr

/-- Operands of ACQ, REL, from bit 21 down: d[6] a[6] wa[1] 0[6] sc[3]. -/
structure SyncOps where
  (d a : SReg)
  (wa : Bool)
  (sc : Scope)
  deriving DecidableEq, Repr

/-- Operands of BIND, UNBIND, from bit 21 down: d[6] a[6] wa[1] 0[3] lg[6]. -/
structure BindOps where
  (d a : SReg)
  (wa : Bool)
  (lg : BitVec 6)
  deriving DecidableEq, Repr

/-- Operands of FENCE, from bit 21 down: 0[19] sc[3]. -/
structure FenceOps where
  (sc : Scope)
  deriving DecidableEq, Repr

/-- Operands of TLWAIT, from bit 21 down: d[6] a[6] 0[7] tl[3]. -/
structure TlAOps where
  (d a : SReg)
  (tl : Timeline)
  deriving DecidableEq, Repr

/-- Operands of TLREAD, TLBUMP, from bit 21 down: d[6] 0[6] 0[7] tl[3]. -/
structure TlOps where
  (d : SReg)
  (tl : Timeline)
  deriving DecidableEq, Repr

/-- Operands of RLD, RST, from bit 21 down: d[6] a[6] wa[1] 0[7] sz[2]. -/
structure MSZ where
  (d a : SReg)
  (wa : Bool)
  (sz : Esz)
  deriving DecidableEq, Repr

/-- Operands of HSET, from bit 21 down: 0[6] a[6] 0[6] fld[4]. -/
structure HsetOps where
  (a : SReg)
  (fld : BitVec 4)
  deriving DecidableEq, Repr

/-- Operands of HGO, from bit 21 down: d[6] 0[6] 0[8] q[2]. -/
structure HgoOps where
  (d : SReg)
  (q : BitVec 2)
  deriving DecidableEq, Repr

/-- Operands of HGET, from bit 21 down: d[6] 0[6] 0[6] fld[4]. -/
structure HgetOps where
  (d : SReg)
  (fld : BitVec 4)
  deriving DecidableEq, Repr

/-- Operands of BLYGRANT, from bit 21 down: 0[6] 0[6] 0[3] buf[1] ch[6]. -/
structure GrantOps where
  (buf : Bool)
  (ch : BitVec 6)
  deriving DecidableEq, Repr

/-- Operands of BLYSTAT, from bit 21 down: d[6] 0[6] 0[4] ch[6]. -/
structure ChOps where
  (d : SReg)
  (ch : BitVec 6)
  deriving DecidableEq, Repr

/-- Operands of PREF, FLUSH, INVAL, from bit 21 down: 0[6] a[6] wa[1] off[9]. -/
structure MSA where
  (a : SReg)
  (wa : Bool)
  (off : BitVec 9)
  deriving DecidableEq, Repr

/-- Operands of WAYCONV, from bit 21 down: d[6] 0[6] 0[7] n[3]. -/
structure WayOps where
  (d : SReg)
  (n : BitVec 3)
  deriving DecidableEq, Repr

/-- Operands of QPUSH, from bit 21 down: 0[6] a[6] 0[4] q[6]. -/
structure QAOps where
  (a : SReg)
  (q : BitVec 6)
  deriving DecidableEq, Repr

/-- Operands of QPOP, QSTAT, from bit 21 down: d[6] 0[6] 0[4] q[6]. -/
structure QDOps where
  (d : SReg)
  (q : BitVec 6)
  deriving DecidableEq, Repr

/-- Operands of WATCH, UNWATCH, from bit 21 down: d[6] a[6] 0[10]. -/
structure DAX where
  (d a : SReg)
  deriving DecidableEq, Repr

/-- Operands of TLBINV_PAGE, TLBINV_CTX, TLBINV_ALL, from bit 21 down: d[6] a[6] wa[1] 0[7] op[2]. -/
structure TlbOps where
  (d a : SReg)
  (wa : Bool)
  deriving DecidableEq, Repr

/-- Operands of KVSPACE, from bit 21 down: d[6] a[6] wa[1] 0[1] sp[8]. -/
structure SpaceOps where
  (d a : SReg)
  (wa : Bool)
  (sp : BitVec 8)
  deriving DecidableEq, Repr

/-- The computation of an atomic (10 R229); ATFADD carries the rounding mode captured at issue. -/
inductive AtOp where
  | add | min | max | minu | maxu | and | or | xor | xch | cas | fadd (rnd : BitVec 2)
  deriving DecidableEq, Repr

/-- What the check of a sector's ECC and tag finds (01 R20). -/
inductive EccFound where
  | clean | corrected (symbol : BitVec 8) | tag | uncorrectable
  deriving DecidableEq, Repr

/-- A sector a patrol pass finds in error, and whether its rebuild from the stripe passes (01 R20, R23). -/
structure ScrubHit where
  pa : Nat
  channel : Nat
  found : EccFound
  rebuilt : Bool
  deriving DecidableEq, Repr

/-- How far a patrol pass comes, as a stripe, and the errors that it has found at its end (01 R23, R24). -/
structure ScrubSpan where
  upTo : Nat
  hits : List ScrubHit
  deriving DecidableEq, Repr

/-- What a request asks of its target (03 R61 to R64). -/
inductive ReqKind where
  | load (size : Nat)
  | store (bytes : List (Option Byte))
  | atomic (op : AtOp) (wide : Bool) (b e : Word) (ord : Ord) (sc : AScope)
  | acq
  | rel (v : Word)
  deriving DecidableEq, Repr

/-- A request-class packet (03 R61, R66). -/
structure Request where
  id : Nat
  src : Nat
  inc : Nat
  expect : Nat
  fctx : Nat
  off : Nat
  kind : ReqKind
  /-- The bytes of a store are poisoned (04 R101). -/
  poison : Bool
  /-- The object of its event, and in proof mode the count of the object's series that its turn awaits (19 R328, R333). -/
  obj : Word
  turn : Option Nat
  /-- The location of the core that it comes from (03 R64). -/
  core : Nat
  deriving DecidableEq, Repr

/-- The fabric status of an access: 0 performed, then the codes of 03 R68. -/
inductive FabStatus where
  | ok | stale | unreachable | access | aborted
  deriving DecidableEq, Repr

/-- A reply to a remote load or atomic (03 R67). -/
structure Reply where
  id : Nat
  src : Nat
  inc : Nat
  expect : Nat
  status : FabStatus
  bytes : List Byte
  poison : Bool
  /-- The object's sequence number at the target, for the etch record (19 R328). -/
  seq : Nat
  deriving DecidableEq, Repr

/-- What a debugger does (23 R366): it halts a task, or reads or writes a register of a task by its number (`Dst.num`), bytes of a
context's memory at a virtual address, or bytes of one of its images at an offset. -/
inductive DebugReq where
  | halt (task : Nat)
  | readReg (task n : Nat)
  | writeReg (task n : Nat) (v : BitVec 1024)
  | readMem (ctx : Nat) (va : Word) (len : Nat)
  | writeMem (ctx : Nat) (va : Word) (bytes : List Byte)
  | readImage (ctx image off len : Nat)
  | writeImage (ctx image off : Nat) (bytes : List Byte)
  deriving DecidableEq, Repr

/-- What the host reaches through its port (24 R370): a physical address of nodes 0 to 6 or of BAR0, a byte of the configuration
space, or a byte of the MSI-X table. -/
inductive HostAddr where
  | mem (pa : Nat)
  | config (off : Nat)
  | msix (off : Nat)
  deriving DecidableEq, Repr

/-- Which acquire of a remote object goes on (10 R232): a waiting request of a module is answered at this one, which is its
target, or an acquire of this module that was answered is sent again. -/
inductive NotYet where
  | answer (src id : Nat)
  | again (id : Nat)
  deriving DecidableEq, Repr

/-- A frame on its way to a lender (02 R51, R52): its bytes in all layers, the 32-byte granules of them that are poisoned, and the
bytes of each layer, which give the borrower's SZ(T1). -/
structure LendFrame where
  data : List Byte
  bad : List Nat
  layer : Nat
  deriving DecidableEq, Repr

/-- The bytes that answer a lending read, with the number of the request (03 R64, R381). -/
structure LendReply where
  id : Nat
  data : List Byte
  deriving DecidableEq, Repr

/-- The envelope of a control-class packet: the sender, its incarnation and the one it expects here (03 R66). -/
structure Envelope where
  src : Nat
  inc : Nat
  expect : Nat
  deriving DecidableEq, Repr

/-- A child's result at a node of a reduction tree (03 R71): which reduction, which members it combines, its tile. -/
structure Contribution where
  env : Envelope
  fctx : Nat
  group : Nat
  k : Nat
  /-- The number of the sender's request, which the parent's acceptance names. -/
  id : Nat
  /-- OP, the destination format and D of the reduction (03 R72). -/
  op : Nat
  fmt : Nat
  d : Nat
  members : List Nat
  tile : List Byte
  poison : Bool
  deriving DecidableEq, Repr

/-- The instructions and steps of the machine, one per row of the opcode table. -/
inductive Instr where
  | nop
  | add (o : RRR)
  | sub (o : RRR)
  | addi (o : RI)
  | mul (o : RRR)
  | mulh (o : RRR)
  | div (o : DivOps)
  | divu (o : DivOps)
  | rem (o : DivOps)
  | remu (o : DivOps)
  | and (o : RRR)
  | or (o : RRR)
  | xor (o : RRR)
  | andi (o : RI)
  | ori (o : RI)
  | xori (o : RI)
  | shl (o : RRR)
  | shr (o : RRR)
  | sar (o : RRR)
  | shli (o : RI)
  | shri (o : RI)
  | sari (o : RI)
  | rotl (o : RRR)
  | clz (o : RR)
  | ctz (o : RR)
  | popc (o : RR)
  | min (o : RRR)
  | max (o : RRR)
  | sel (o : SelOps)
  | li (o : LiOps)
  | lsi (o : LiOps)
  | cmp (o : CmpOps)
  | cmpi (o : CmpiOps)
  | pand (o : PlogOps)
  | por (o : PlogOps)
  | pxor (o : PlogOps)
  | pandc (o : PlogOps)
  | porc (o : PlogOps)
  | pnand (o : PlogOps)
  | pnor (o : PlogOps)
  | pxnor (o : PlogOps)
  | ppack (o : DOnly)
  | punpack (o : AOnly)
  | fadd (o : FRRR)
  | fsub (o : FRRR)
  | fmul (o : FRRR)
  | ffma (o : FRRR)
  | fmin (o : FRRR)
  | fmax (o : FRRR)
  | fcmp (o : FcmpOps)
  | fcvt (o : FcvtOps)
  | fdiv (o : FRRR)
  | fsqrt (o : FRR)
  | crd (o : DK)
  | cwr (o : AK)
  | fmtset (o : AX)
  | emsave (o : DOnly)
  | emload (o : AOnly)
  | emcomb (o : RR)
  | cmsave (o : DOnly)
  | cmload (o : AOnly)
  | br (o : BrOps)
  | call (o : BrOps)
  | jmp (o : AOnly)
  | callr (o : AOnly)
  | ret
  | enter (o : FrameOps)
  | leave (o : FrameOps)
  | dbnz (o : DbnzOps)
  | trap (o : KOnly)
  | svc (o : KOnly)
  | rte
  | brk (o : KOnly)
  | halt
  | tspawn (o : RR)
  | texit
  | knext
  | etchmark (o : AK)
  | rdcyc (o : DOnly)
  | vadd (o : VRR)
  | vsub (o : VRR)
  | vmul (o : VRR)
  | vfma (o : VRR)
  | vfnma (o : VRR)
  | vmin (o : VRR)
  | vmax (o : VRR)
  | vabs (o : VR1)
  | vneg (o : VR1)
  | vand (o : VRR)
  | vor (o : VRR)
  | vxor (o : VRR)
  | vnot (o : VR1)
  | vshl (o : VRR)
  | vshr (o : VRR)
  | vsar (o : VRR)
  | vminu (o : VRR)
  | vmaxu (o : VRR)
  | vadds (o : VRR)
  | vsubs (o : VRR)
  | vmulh (o : VRR)
  | vcmp (o : VcmpOps)
  | vsel (o : VRR)
  | vmov (o : VR1)
  | vmovu (o : VR1)
  | vbcast (o : VBc)
  | vext (o : VextOps)
  | vins (o : VSS)
  | vaddsc (o : VSS)
  | vmulsc (o : VSS)
  | vfmasc (o : VSS)
  | vaddi (o : VII)
  | vshli (o : VII)
  | vshri (o : VII)
  | vsari (o : VII)
  | vli (o : VLiOps)
  | vperm (o : VRR)
  | vslide (o : VSS)
  | viota (o : VIota)
  | vpopc (o : VcntOps)
  | vfirst (o : VcntOps)
  | vdefer (o : VdfOps)
  | vdrain (o : VdfOps)
  | vdstat (o : VdstatOps)
  | vexp2 (o : VR1)
  | vlog2 (o : VR1)
  | vrcp (o : VR1)
  | vrsqrt (o : VR1)
  | vsqrt (o : VR1)
  | vtanh (o : VR1)
  | vsigm (o : VR1)
  | vsint (o : VR1)
  | vcost (o : VR1)
  | vexp (o : VR1)
  | verf (o : VR1)
  | vcvt (o : VcvtOps)
  | vquant (o : VqOps)
  | vdequant (o : VdqOps)
  | vrng (o : VSS)
  | vredsum (o : VredOps)
  | vredmax (o : VredOps)
  | vredmin (o : VredOps)
  | vargmax (o : VredOps)
  | vscan (o : VR1)
  | vsort (o : VRR)
  | vmrg (o : VRR)
  | smerge (o : XmOps)
  | mma (o : MmaOps)
  | mpset (o : MpsetOps)
  | mpget (o : MpgetOps)
  | attn (o : AttnOps)
  | ldb (o : MSOps)
  | ldh (o : MSOps)
  | ldw (o : MSOps)
  | ldd (o : MSOps)
  | ldbu (o : MSOps)
  | ldhu (o : MSOps)
  | ldwu (o : MSOps)
  | stb (o : MSOps)
  | sth (o : MSOps)
  | stw (o : MSOps)
  | std (o : MSOps)
  | ldx (o : MROps)
  | stx (o : MROps)
  | vld (o : MVOps)
  | vst (o : MVOps)
  | vlds (o : MVSOps)
  | vsts (o : MVSOps)
  | vgath (o : MVGOps)
  | vscat (o : MVGOps)
  | ldwf (o : MSOps)
  | ldtk (o : MSOps)
  | stwe (o : MSOps)
  | stfl (o : MSOps)
  | fesetEmpty (o : FesetOps)
  | fesetFull (o : FesetOps)
  | feget (o : MSOps)
  | ataddW (o : ATOps)
  | ataddD (o : ATOps)
  | atminW (o : ATOps)
  | atminD (o : ATOps)
  | atmaxW (o : ATOps)
  | atmaxD (o : ATOps)
  | atminuW (o : ATOps)
  | atminuD (o : ATOps)
  | atmaxuW (o : ATOps)
  | atmaxuD (o : ATOps)
  | atandW (o : ATOps)
  | atandD (o : ATOps)
  | atorW (o : ATOps)
  | atorD (o : ATOps)
  | atxorW (o : ATOps)
  | atxorD (o : ATOps)
  | atxchW (o : ATOps)
  | atxchD (o : ATOps)
  | atcasW (o : ATOps)
  | atcasD (o : ATOps)
  | atfaddW (o : ATOps)
  | atfaddD (o : ATOps)
  | acq (o : SyncOps)
  | rel (o : SyncOps)
  | bind (o : BindOps)
  | unbind (o : BindOps)
  | fence (o : FenceOps)
  | tlwait (o : TlAOps)
  | tlread (o : TlOps)
  | tlbump (o : TlOps)
  | rld (o : MSZ)
  | rst (o : MSZ)
  | rldv (o : MVOps)
  | rstv (o : MVOps)
  | hset (o : HsetOps)
  | hgo (o : HgoOps)
  | hget (o : HgetOps)
  | blygrant (o : GrantOps)
  | blystat (o : ChOps)
  | pref (o : MSA)
  | flush (o : MSA)
  | inval (o : MSA)
  | wayconv (o : WayOps)
  | wayrest (o : DOnly)
  | qpush (o : QAOps)
  | qpop (o : QDOps)
  | qstat (o : QDOps)
  | watch (o : DAX)
  | unwatch (o : DAX)
  | kvopen (o : MSOps)
  | kvfork (o : MSOps)
  | kvrsv (o : MSOps)
  | kvwr (o : MSOps)
  | kvtrim (o : MSOps)
  | kvfree (o : MSOps)
  | kvclass (o : MSOps)
  | kvpin (o : MSOps)
  | kvdemote (o : MSOps)
  | kvpromote (o : MSOps)
  | kvlend (o : MSOps)
  | kvquery (o : MSOps)
  | tlbinvPage (o : TlbOps)
  | tlbinvCtx (o : TlbOps)
  | tlbinvAll (o : TlbOps)
  | kvspace (o : SpaceOps)
  | registerWrite (pa : Nat) (v : Word)
  | memoryRead (pa : Nat) (found : EccFound) (rebuilt : Bool)
  | scrubPass (die stack : Nat) (x : ScrubSpan)
  | keyRotate (die stack : Nat) (v : Word)
  | channelRetire (die stack : Nat) (v : Word)
  | retireStripeRebuild (die stack : Nat)
  | hbmLinkRetrain (die stack : Nat)
  | t2RangeWithdrawn (base : Nat)
  | poolLinkFail
  | l2Eviction (pa : Nat) (bad : List Nat)
  | wayconvDrainDone (id : Nat)
  | wayrestDone (id : Nat)
  | haulStart (slice : Nat)
  | haulComplete (h : Nat)
  | belayTransferHeld (ctx ch : Nat) (pong : Bool)
  | wsUnseal (k : Nat) (v : Word)
  | wsSeal (k : Nat) (v : Word)
  | wsRefreshPhase (k : Nat)
  | feWaitGrant (pa : Nat)
  | loadComplete (id : Nat)
  | scalarDivComplete (id : Nat)
  | xResultComplete (id : Nat)
  | vdrainComplete (id : Nat)
  | mmaComplete (id : Nat)
  | tlbinvComplete (id : Nat)
  | acqWake (id : Nat)
  | acqRemoteNotYet (x : NotYet)
  | relPerform (id : Nat)
  | fencePerform (id : Nat)
  | watchdog (task : Nat)
  | pageWalk (va : Word)
  | xfrespRetry (die : Nat) (v : Word)
  | xfrespFailXlate (die : Nat) (v : Word)
  | xfrespFailProt (die : Nat) (v : Word)
  | icacheFill (va : Word)
  | debuggerResume (task : Nat)
  | remoteRequest (q : Request)
  | remoteReply (r : Reply)
  | storeAck (env : Envelope) (id : Nat) (status : FabStatus) (seq : Nat)
  | staleNotice (id : Nat) (srcInc tgtInc : Nat)
  | remoteTimeout (id : Nat)
  | laneFail (die port : Nat)
  | flitTagFail (die port : Nat) (third : Bool)
  | linkRekey (die port : Nat)
  | fabricEnable (v : Word)
  | fabricDisable (v : Word)
  | incarnationNotice (env : Envelope)
  | multicastDeliver (q : Request)
  | multicastComplete (h : Nat) (done : List Nat)
  | reductionContribution (c : Contribution)
  | reductionTimeout (ctx group k : Nat)
  | lendPut (env : Envelope) (space ident peerSpace : Nat) (fmt : Nat) (bytes : LendFrame)
  | lendAck (env : Envelope) (space ident : Nat) (lender : Option Nat)
  | lendFree (env : Envelope) (space ident : Nat)
  | lendRecall (env : Envelope) (ident : Nat)
  | lendGone (env : Envelope) (space : Option Nat)
  | lendAckTimeout (space ident : Nat)
  | lendingRead (env : Envelope) (id space ident off len : Nat)
  | lendingReadReply (env : Envelope) (space ident off : Nat) (status : FabStatus) (bytes : LendReply)
      (poison : List Nat)
  | frameOpen (stream : Nat)
  | frameClose (stream : Nat)
  | moveHold (space ident : Nat)
  | moveSwitch (space ident : Nat)
  | appendWaitResume (id : Nat)
  | kvOpComplete (id : Nat)
  | streamAssign (stream : Nat)
  | attnPageLand (stream : Nat)
  | attnSlotConsume (stream : Nat)
  | attnComplete (stream : Nat)
  | launchAccept
  | taskBind (slice : Nat)
  | taskStart (task : Nat)
  | swapOut (task : Nat)
  | taskRestore (task : Nat)
  | quantumExpire (task : Nat)
  | agePromote (task : Nat)
  | crossClusterEligible (task : Nat)
  | taskEnd (task : Nat)
  | counterTreeFlush (ctx set : Nat) (die : Nat) (cluster : Option Nat)
  | ntfDelayExpire
  | watchTrigger (wid : Nat)
  | mailboxSubmit (wid slot : Nat)
  | ctxCreate
  | ctxDestroy
  | keyNew
  | keyClear
  | ctxRekey
  | segLoad
  | segUnload
  | dbgNonce (nonce : Word)
  | dbgUnlock
  | dbgLock
  | arbRaise
  | ctxSetetch
  | inPackageLinkAuth (link : Nat) (ok : Bool)
  | offPackageLinkKeying (die port peer : Nat) (ok : Bool)
  | getVersion
  | getCapabilities
  | negotiateAlgorithms
  | getDigests
  | getCertificate (slot off len : Nat)
  | challenge (slot : Nat) (nonce : List Byte)
  | getMeasurements (index : Nat)
  | getHealth
  | readLog
  | readJournal (seq : Nat)
  | reset (powerCycle : Bool)
  | fwStage (version : Nat) (image : List Byte)
  | fwActivate
  | scCmd (block : List Byte)
  | setPowerLimit (watts : Nat)
  | hostMemAccess (at_ : HostAddr) (len : Nat) (write : Option (List Byte))
  | hostLinkLoss
  | functionLevelReset
  | moduleReset
  | bringUp (linksOk stacksOk : Bool) (failedCores : List Nat)
  | throttle (die : Nat)
  | overTemperature
  | criticalTemperature
  | debuggerHalt (x : DebugReq)
  | t2RangeAssigned (base size : Nat)
  | parked256Cycles (task : Nat)
  deriving DecidableEq, Repr

/-- A slot of a bundle: the E bit, which ends the bundle, and the instruction (07 R138). -/
structure Slot where
  e : Bool
  i : Instr
  deriving DecidableEq, Repr

end Sys2Proof
end

