-- ==== Sys2Proof/WellFormed.lean ====
section
/-! DEFINITION. Which instructions the machine has: the limits that 07 R145 and the descriptions of 08 to 11
put on operand values beyond the layouts themselves. -/

namespace Sys2Proof

/-- The element size in bits (09 R188). -/
def ElemType.bits : ElemType → Nat
  | .i8 | .f8 => 8
  | .i16 | .bf16 | .f16 => 16
  | .i32 | .f32 => 32
  | .f64 => 64

/-- The INT group (09 R188). -/
def ElemType.isInt : ElemType → Bool
  | .i8 | .i16 | .i32 => true
  | _ => false

/-- The FP group (09 R188). -/
def ElemType.isFp : ElemType → Bool
  | .bf16 | .f16 | .f32 | .f64 => true
  | _ => false

/-- INT or FP: every type but f8. -/
def ElemType.isNum (t : ElemType) : Bool := t.isInt || t.isFp

/-- A run of `n` vector registers from `v` stays within v31 (07 R140). -/
def runOk (v : VReg) (n : Nat) : Bool := v.val + n ≤ 32

/-- The condition codes VCMP accepts for a type (09 R194). -/
def CcV.okFor (t : ElemType) : CcV → Bool
  | .eq | .ne | .lt | .le => t.isNum
  | .ltu | .leu => t.isInt
  | .un | .ord => t.isFp

/-- A control register number that is listed, or one from 0x100 upward, whose fate depends on the mode
(06 R136). -/
def ctlNumOk (k : BitVec 10) : Bool := k.toNat ≤ 0x1A || 0x100 ≤ k.toNat

/-- The limits of each instruction's operands (07 R145). Steps without an encoding have none. -/
def Instr.wf : Instr → Bool
  | .shli o | .shri o | .sari o => o.imm.toNat < 64
  | .enter o | .leave o => o.imm != 0
  | .dbnz o => o.d != 0
  | .crd o => ctlNumOk o.k
  | .cwr o => ctlNumOk o.k
  | .vadd o | .vsub o | .vmul o | .vfma o | .vfnma o | .vmin o | .vmax o => o.dt.isNum
  | .vabs o | .vneg o | .vscan o => o.dt.isNum
  | .vshl o | .vshr o | .vsar o | .vminu o | .vmaxu o | .vadds o | .vsubs o | .vmulh o => o.dt.isInt
  | .vcmp o => o.cc.okFor o.dt
  | .vaddsc o | .vmulsc o | .vfmasc o => o.dt.isNum
  | .vaddi o => o.dt.isInt
  | .vshli o | .vshri o | .vsari o => o.dt.isInt && o.imm.toNat < o.dt.bits
  | .vli o => o.dt.isNum
  | .viota o => o.dt.isNum
  | .vdefer o => runOk o.va (o.n.toNat + 1)
  | .vdrain o => runOk o.va (o.n.toNat + 2)
  | .vexp2 o | .vlog2 o | .vrcp o | .vrsqrt o | .vsqrt o | .vtanh o | .vsigm o | .vsint o | .vcost o
  | .vexp o | .verf o => o.dt == .f32
  | .vrng o => o.dt == .i32
  | .vredsum o | .vredmax o | .vredmin o | .vargmax o => o.dt.isNum
  | .vsort o => (o.dt == .i32 || o.dt == .f32) && runOk o.vd 2
  | .vmrg o => (o.dt == .i32 || o.dt == .f32) && runOk o.vd 2 && runOk o.va 2 && runOk o.vb 2
  | .attn o => !(o.causal && o.tree)
  | .vgath o | .vscat o => o.esz == .e32 || o.esz == .e64
  | .bind o | .unbind o => 8 ≤ o.lg.toNat && o.lg.toNat ≤ 40
  | .hset o => o.fld.toNat < 11
  | .hget o => o.fld.toNat < 11
  | .wayconv o => 1 ≤ o.n.toNat && o.n.toNat ≤ 6
  | .tlbinvCtx o | .tlbinvAll o => o.a == 0
  | _ => true

end Sys2Proof
end

