-- ==== Sys2Proof/Machine/Flags.lean ====
section
/-! DEFINITION. The number formats and every computation on them: exact values, rounding, overflow policies,
floating-point arithmetic, conversions, the block formats and the stochastic words (05 R102 to R120). -/

namespace Sys2Proof.Machine

/-- Which bit patterns of a format are not ordinary numbers (05 R103, R105, R106). -/
inductive Specials where
  | ieee   -- the top exponent holds the infinities and the NaNs
  | e4m3   -- only S.1111.111 is NaN; no infinity
  | never  -- neither infinity nor NaN
  deriving DecidableEq, Repr

/-- A binary format: exponent bits, fraction bits, bias, specials. -/
structure Fmt where
  eb : Nat
  mb : Nat
  bias : Int
  sp : Specials
  deriving DecidableEq, Repr

/-- FP64 (05 R103). -/
def fp64 : Fmt := ⟨11, 52, 1023, .ieee⟩
/-- FP32 (05 R103). -/
def fp32 : Fmt := ⟨8, 23, 127, .ieee⟩
/-- FP16 (05 R103). -/
def fp16 : Fmt := ⟨5, 10, 15, .ieee⟩
/-- BF16 (05 R103). -/
def bf16 : Fmt := ⟨8, 7, 127, .ieee⟩
/-- FP8 E4M3 (05 R105). -/
def e4m3 : Fmt := ⟨4, 3, 7, .e4m3⟩
/-- FP8 E5M2 (05 R105). -/
def e5m2 : Fmt := ⟨5, 2, 15, .ieee⟩
/-- E2M1, the element of MXFP4 (05 R106). -/
def e2m1 : Fmt := ⟨2, 1, 1, .never⟩
/-- The magnitude of a KD8 element (05 R108): 3 exponent bits of bias 3 and 3 fraction bits. -/
def kd8Elem : Fmt := ⟨3, 3, 3, .never⟩
/-- The magnitude of a KD4 element (05 R109): 0, 0.5, 1 or 1.5. -/
def kd4Elem : Fmt := ⟨1, 1, 1, .never⟩

/-- Bits of one element, sign included. -/
def Fmt.bits (f : Fmt) : Nat := 1 + f.eb + f.mb

/-- Whether the format has an infinity. -/
def Fmt.hasInf (f : Fmt) : Bool := f.sp == .ieee

/-- The exponent of the last place of the subnormals. -/
def Fmt.uMin (f : Fmt) : Int := 1 - f.bias - f.mb

/-- The exponent and fraction fields of the largest finite magnitude (05 R103, R105). -/
def Fmt.maxMag (f : Fmt) : Nat :=
  match f.sp with
  | .ieee => (2 ^ f.eb - 1) * 2 ^ f.mb - 1
  | .e4m3 => 2 ^ (f.eb + f.mb) - 2
  | .never => 2 ^ (f.eb + f.mb) - 1

/-- The canonical NaN (05 R103, R105); 0 in a format without one. -/
def Fmt.qnan (f : Fmt) : Nat :=
  match f.sp with
  | .ieee => (2 ^ f.eb - 1) * 2 ^ f.mb + 2 ^ (f.mb - 1)
  | .e4m3 => 2 ^ (f.eb + f.mb) - 1
  | .never => 0

/-- The magnitude of infinity. -/
def Fmt.infMag (f : Fmt) : Nat := (2 ^ f.eb - 1) * 2 ^ f.mb

/-- The sign bit of a format, put on a magnitude. -/
def Fmt.signed (f : Fmt) (neg : Bool) (mag : Nat) : Nat := (if neg then 2 ^ (f.eb + f.mb) else 0) + mag

/-- A value: NaN, an infinity, or (−1)^neg · m · 2^e exactly; m = 0 is a signed zero. -/
inductive FVal where
  | nan
  | inf (neg : Bool)
  | fin (neg : Bool) (m : Nat) (e : Int)
  deriving DecidableEq, Repr

/-- The value of the bits of an element (05 R103 to R109). -/
def Fmt.decode (f : Fmt) (w : Nat) : FVal :=
  let m := w % 2 ^ f.mb
  let e := w / 2 ^ f.mb % 2 ^ f.eb
  let neg := w / 2 ^ (f.eb + f.mb) % 2 == 1
  let number : FVal :=
    if e = 0 then .fin neg m f.uMin else .fin neg (2 ^ f.mb + m) (f.uMin + (e : Int) - 1)
  match f.sp with
  | .ieee => if e = 2 ^ f.eb - 1 then (if m = 0 then .inf neg else .nan) else number
  | .e4m3 => if e = 2 ^ f.eb - 1 ∧ m = 2 ^ f.mb - 1 then .nan else number
  | .never => number

/-- A rounding mode (05 R111); `sto` carries the element's 16-bit random word. -/
inductive Rm where
  | rne | rtz | up | down
  | sto (w : Nat)
  deriving DecidableEq, Repr

/-- fmt.RND as a mode (06 R127). -/
def Rm.ofRnd (r : BitVec 2) : Rm :=
  match r.toNat with
  | 0 => .rne
  | 1 => .rtz
  | 2 => .up
  | _ => .down

/-- The exponent of the leading bit of n / d, for n and d not 0. -/
def ratLog2 (n d : Nat) : Int :=
  let l : Int := (Nat.log2 n : Int) - (Nat.log2 d : Int)
  let below := if 0 ≤ l then n < d * 2 ^ l.toNat else n * 2 ^ (-l).toNat < d
  if below then l - 1 else l

/-- Whether the quotient `q` with remainder `r` over `den` is rounded away from zero (05 R111, R113). -/
def roundsUp (rm : Rm) (neg : Bool) (q r den : Nat) : Bool :=
  match rm with
  | .rne => den < 2 * r || (2 * r == den && q % 2 == 1)
  | .rtz => false
  | .up => !neg && 0 < r
  | .down => neg && 0 < r
  | .sto w => 2 ^ 16 ≤ r * 2 ^ 16 / den + w

/-- The magnitude (n / d) · 2^e as an integer multiple of 2^u, rounded. -/
def roundAt (rm : Rm) (neg : Bool) (n d : Nat) (e u : Int) : Nat :=
  let s := e - u
  let num := if 0 ≤ s then n * 2 ^ s.toNat else n
  let den := if 0 ≤ s then d else d * 2 ^ (-s).toNat
  let q := num / den
  if roundsUp rm neg q (num % den) den then q + 1 else q

/-- The exponent of the last place at which (n / d) · 2^e is rounded in a format, its exponent unbounded above. -/
def Fmt.lastPlace (f : Fmt) (n d : Nat) (e : Int) : Int := max (ratLog2 n d + e - f.mb) f.uMin

/-- The exponent and fraction fields of the magnitude m · 2^u, where u is the last place of a rounded magnitude;
above the format's range the fields grow past it. -/
def Fmt.magOf (f : Fmt) (m : Nat) (u : Int) : Nat :=
  if m < 2 ^ f.mb then m
  else ((u - f.uMin).toNat + 1) * 2 ^ f.mb + (m - 2 ^ f.mb)

/-- (n / d) · 2^e rounded to the format with the exponent unbounded: the fields of its magnitude. The fields of
one magnitude past the largest finite one mean an overflow (05 R112). -/
def Fmt.roundMag (f : Fmt) (rm : Rm) (neg : Bool) (n d : Nat) (e : Int) : Nat :=
  if n = 0 then 0
  else
    let u := f.lastPlace n d e
    f.magOf (roundAt rm neg n d e u) u

/-- What an overflow gives under policy 01 in a format (05 R112). -/
def Fmt.ovfInf (f : Fmt) (rm : Rm) (neg : Bool) : Nat :=
  let toInf := match rm with
    | .rne | .sto _ => true
    | .rtz => false
    | .up => !neg
    | .down => neg
  f.signed neg (if f.hasInf && toInf then f.infMag else f.maxMag)

/-- What an overflow gives under a policy (05 R112); policy 11 traps, and its value is not written. -/
def Fmt.ovfValue (f : Fmt) (pol : Ovf) (rm : Rm) (neg : Bool) : Nat :=
  match pol with
  | .sat => f.signed neg f.maxMag
  | .inf => f.ovfInf rm neg
  | .nan | .trap => f.qnan

/-- A converted element and whether it overflowed (05 R112). -/
structure Conv where
  bits : Nat
  ovf : Bool
  deriving DecidableEq, Repr

/-- The conversion of the exact value ±(n / d) · 2^e to a format. -/
def Fmt.convRat (f : Fmt) (rm : Rm) (pol : Ovf) (neg : Bool) (n d : Nat) (e : Int) : Conv :=
  let mag := f.roundMag rm neg n d e
  if f.maxMag < mag then ⟨f.ovfValue pol rm neg, true⟩ else ⟨f.signed neg mag, false⟩

/-- The conversion of a value to a format: an infinity overflows a format without one, and a NaN gives the
canonical NaN (05 R112). -/
def Fmt.conv (f : Fmt) (rm : Rm) (pol : Ovf) : FVal → Conv
  | .nan => ⟨f.qnan, false⟩
  | .inf neg =>
    if f.hasInf then ⟨f.signed neg f.infMag, false⟩
    else match pol with
      | .nan | .trap => ⟨f.qnan, true⟩
      | _ => ⟨f.signed neg f.maxMag, true⟩
  | .fin neg m e => f.convRat rm pol neg m 1 e

/-- A value rounded as arithmetic rounds it: policy 01 (05 R112). -/
def Fmt.round (f : Fmt) (rm : Rm) (x : FVal) : Nat := (f.conv rm .inf x).bits

/-! ### Exact arithmetic on values -/

/-- Whether the value is a NaN. -/
def FVal.isNan : FVal → Bool
  | .nan => true
  | _ => false

/-- Whether the value is an infinity. -/
def FVal.isInf : FVal → Bool
  | .inf _ => true
  | _ => false

/-- The value with its sign changed; a NaN stays. -/
def FVal.neg : FVal → FVal
  | .nan => .nan
  | .inf s => .inf !s
  | .fin s m e => .fin (!s) m e

/-- The value without its sign. -/
def FVal.abs : FVal → FVal
  | .nan => .nan
  | .inf _ => .inf false
  | .fin _ m e => .fin false m e

/-- The value times 2^k. -/
def FVal.scale (k : Int) : FVal → FVal
  | .fin s m e => .fin s m (e + k)
  | x => x

/-- The signed integer ±m · 2^(e − u), for u at most e. -/
def alignAt (neg : Bool) (m : Nat) (e u : Int) : Int :=
  let a : Int := (m : Int) * 2 ^ (e - u).toNat
  if neg then -a else a

/-- The exact sum. The sign of a zero sum of numbers that are not both zeros of one sign is minus only in the
mode toward −∞ (05 R104). -/
def FVal.add (rm : Rm) : FVal → FVal → FVal
  | .nan, _ => .nan
  | _, .nan => .nan
  | .inf a, .inf b => if a = b then .inf a else .nan
  | .inf a, .fin .. => .inf a
  | .fin .., .inf b => .inf b
  | .fin s m e, .fin s' m' e' =>
    let u := min e e'
    let t := alignAt s m e u + alignAt s' m' e' u
    if t = 0 then
      (if s = s' ∧ m = 0 then .fin s 0 u else .fin (rm == .down) 0 u)
    else .fin (decide (t < 0)) t.natAbs u

/-- The exact product; ∞ × 0 is NaN (05 R104). -/
def FVal.mul : FVal → FVal → FVal
  | .nan, _ => .nan
  | _, .nan => .nan
  | .inf a, .inf b => .inf (a != b)
  | .inf a, .fin s m _ => if m = 0 then .nan else .inf (a != s)
  | .fin s m _, .inf b => if m = 0 then .nan else .inf (s != b)
  | .fin s m e, .fin s' m' e' => .fin (s != s') (m * m') (e + e')

/-- How two values that are not NaN compare; −0 equals +0. -/
def FVal.cmp : FVal → FVal → Ordering
  | .inf a, .inf b => compare b.toNat a.toNat
  | .inf a, _ => if a then .lt else .gt
  | _, .inf b => if b then .gt else .lt
  | .fin s m e, .fin s' m' e' =>
    let u := min e e'
    compare (alignAt s m e u) (alignAt s' m' e' u)
  | _, _ => .eq

/-- Whether a < b; false with a NaN (08 R166). -/
def FVal.lt (a b : FVal) : Bool := !a.isNan && !b.isNan && a.cmp b == .lt

/-- Whether a = b; false with a NaN (08 R166). -/
def FVal.eqv (a b : FVal) : Bool := !a.isNan && !b.isNan && a.cmp b == .eq

/-- The sign of a value. -/
def FVal.sign : FVal → Bool
  | .nan => false
  | .inf s => s
  | .fin s _ _ => s

/-- minimumNumber: a NaN loses to a number and −0 counts as less than +0 (05 R104). -/
def FVal.minNum (a b : FVal) : FVal :=
  if a.isNan then b else if b.isNan then a
  else match a.cmp b with
    | .lt => a
    | .gt => b
    | .eq => if a.sign then a else b

/-- maximumNumber (05 R104). -/
def FVal.maxNum (a b : FVal) : FVal :=
  if a.isNan then b else if b.isNan then a
  else match a.cmp b with
    | .lt => b
    | .gt => a
    | .eq => if a.sign then b else a

/-! ### Arithmetic in a format: operands and result as bits -/

/-- round(a + b) (08 R165). -/
def Fmt.addBits (f : Fmt) (rm : Rm) (a b : Nat) : Nat := f.round rm ((f.decode a).add rm (f.decode b))

/-- round(a − b). -/
def Fmt.subBits (f : Fmt) (rm : Rm) (a b : Nat) : Nat := f.round rm ((f.decode a).add rm (f.decode b).neg)

/-- round(a × b). -/
def Fmt.mulBits (f : Fmt) (rm : Rm) (a b : Nat) : Nat := f.round rm ((f.decode a).mul (f.decode b))

/-- round(a × b + c) with one rounding. -/
def Fmt.fmaBits (f : Fmt) (rm : Rm) (a b c : Nat) : Nat :=
  f.round rm (((f.decode a).mul (f.decode b)).add rm (f.decode c))

/-- round(−(a × b) + c) with one rounding. -/
def Fmt.fnmaBits (f : Fmt) (rm : Rm) (a b c : Nat) : Nat :=
  f.round rm (((f.decode a).mul (f.decode b)).neg.add rm (f.decode c))

/-- minimumNumber in a format. -/
def Fmt.minBits (f : Fmt) (a b : Nat) : Nat := f.round .rne ((f.decode a).minNum (f.decode b))

/-- maximumNumber in a format. -/
def Fmt.maxBits (f : Fmt) (a b : Nat) : Nat := f.round .rne ((f.decode a).maxNum (f.decode b))

/-- round(a / b) with the special cases of 08 R167. -/
def Fmt.divBits (f : Fmt) (rm : Rm) (a b : Nat) : Nat :=
  match f.decode a, f.decode b with
  | .nan, _ => f.qnan
  | _, .nan => f.qnan
  | .inf _, .inf _ => f.qnan
  | .inf s, .fin s' _ _ => f.signed (s != s') f.infMag
  | .fin s _ _, .inf s' => f.signed (s != s') 0
  | .fin s m e, .fin s' m' e' =>
    if m' = 0 then (if m = 0 then f.qnan else f.signed (s != s') f.infMag)
    else (f.convRat rm .inf (s != s') m m' (e - e')).bits

/-- The integer square root of n, given at least as many base-4 digits as n has. -/
def isqrt : Nat → Nat → Nat
  | 0, _ => 0
  | k + 1, n =>
    let r := 2 * isqrt k (n / 4)
    if (r + 1) * (r + 1) ≤ n then r + 1 else r

/-- The square root of m · 2^e as (n, e'), where n · 2^e' lies on the same side of every rounding boundary of a
format of at most 60 fraction bits as the exact root does, and equals it when the root is exact. -/
def sqrtSticky (m : Nat) (e : Int) : Nat × Int :=
  let odd := e % 2 == 1
  let m' := (if odd then 2 * m else m) * 2 ^ 128
  let e' : Int := (if odd then e - 1 else e) / 2 - 64
  let r := isqrt (m'.log2 / 2 + 1) m'
  (2 * r + (if r * r = m' then 0 else 1), e' - 1)

/-- The rounded square root with the special cases of 08 R167. -/
def Fmt.sqrtBits (f : Fmt) (rm : Rm) (a : Nat) : Nat :=
  match f.decode a with
  | .nan => f.qnan
  | .inf s => if s then f.qnan else f.infMag
  | .fin s m e =>
    if m = 0 then f.signed s 0
    else if s then f.qnan
    else
      let r := sqrtSticky m e
      (f.convRat rm .inf false r.1 1 r.2).bits

/-! ### Conversions between integers and values -/

/-- The low `w` bits of an integer. -/
def intBits (w : Nat) (x : Int) : Nat := (x % (2 ^ w : Int)).toNat

/-- The `w` bits of `n` as a two's complement integer. -/
def toSigned (w n : Nat) : Int :=
  let m := n % 2 ^ w
  if m < 2 ^ (w - 1) then (m : Int) else (m : Int) - (2 ^ w : Int)

/-- The value of an integer. -/
def FVal.ofInt (x : Int) : FVal := .fin (decide (x < 0)) x.natAbs 0

/-- The conversion of a value to an integer type from `lo` to `hi`, `w` bits wide (05 R112). The flag is set by
an overflow and by a NaN. -/
def convInt (w : Nat) (lo hi : Int) (rm : Rm) (pol : Ovf) : FVal → Conv
  | .nan =>
    match pol with
    | .sat | .inf => ⟨0, true⟩
    | _ => ⟨intBits w lo, true⟩
  | .inf neg =>
    match pol with
    | .sat | .inf => ⟨intBits w (if neg then lo else hi), true⟩
    | _ => ⟨intBits w lo, true⟩
  | .fin neg m e =>
    let q := roundAt rm neg m 1 e 0
    let x : Int := if neg then -(q : Int) else q
    if x < lo ∨ hi < x then
      match pol with
      | .sat | .inf => ⟨intBits w (if x < lo then lo else hi), true⟩
      | _ => ⟨intBits w lo, true⟩
    else ⟨intBits w x, false⟩

end Sys2Proof.Machine

namespace Sys2Proof

open Machine

/-- The format of a scalar floating-point type (07 R142). -/
def FType.fmt : FType → Fmt
  | .f64 => fp64
  | .f32 => fp32
  | .f16 => fp16
  | .bf16 => Machine.bf16

/-! ### Element types -/

/-- The format of a floating-point element type; `f8` is the kind that fmt.F8 names (06 R127, 09 R188). -/
def ElemType.fmt (f8 : Nat) : ElemType → Option Fmt
  | .bf16 => some Machine.bf16
  | .f16 => some fp16
  | .f32 => some fp32
  | .f64 => some fp64
  | .f8 => some (if f8 = 0 then e4m3 else e5m2)
  | _ => none

/-- The value of an element's bits. -/
def ElemType.value (f8 : Nat) (t : ElemType) (w : Nat) : FVal :=
  match t.fmt f8 with
  | some f => f.decode w
  | none => .ofInt (toSigned t.bits w)

/-- The conversion of a value to an element type (05 R112). -/
def ElemType.conv (f8 : Nat) (t : ElemType) (rm : Rm) (pol : Ovf) (x : FVal) : Conv :=
  match t.fmt f8 with
  | some f => f.conv rm pol x
  | none => convInt t.bits (-2 ^ (t.bits - 1)) (2 ^ (t.bits - 1) - 1) rm pol x

end Sys2Proof

namespace Sys2Proof.Machine

/-- FCVT on the 64 bits of its source (08 R168). -/
def cvtScalar (src dst : CvtType) (rm : Rm) (pol : Ovf) (a : Nat) : Conv :=
  let fmtOf : CvtType → Option Fmt := fun t =>
    match t with
    | .f64 => some fp64
    | .f32 => some fp32
    | .f16 => some fp16
    | .bf16 => some bf16
    | _ => none
  let x : FVal :=
    match fmtOf src with
    | some f => f.decode a
    | none => if src == .i64 then .ofInt (toSigned 64 a) else .ofInt (a % 2 ^ 64)
  match fmtOf dst with
  | some f => f.conv rm pol x
  | none =>
    if dst == .i64 then convInt 64 (-2 ^ 63) (2 ^ 63 - 1) rm pol x
    else convInt 64 0 (2 ^ 64 - 1) rm pol x

/-! ### Stochastic words -/

/-- KCG (05 R115): 32 bits from a key and a counter. -/
def kcg (k c : Word) : BitVec 32 :=
  let x := c ^^^ k
  let x := (x ^^^ (x >>> 31)) * 0xD6E8FEB86659FD93#64
  let x := (x ^^^ (x >>> 29)) * 0xA04C28A3E1B74D35#64
  let x := x ^^^ (x >>> 32)
  x.extractLsb' 32 32

/-- The 16-bit random word of element `j` under key and counter (05 R114). -/
def stoWord (key ctr : Word) (j : Nat) : Nat :=
  let q := kcg key (ctr * 64#64 + BitVec.ofNat 64 (j / 2))
  (if j % 2 = 0 then q.extractLsb' 0 16 else q.extractLsb' 16 16).toNat

/-! ### Block formats -/

/-- A block format: the element, how many bits it takes, and how its elements and exponents are chosen
(05 R107 to R110). -/
inductive BlockFmt where
  | kd8 | kd4 | mxe4m3 | mxe5m2 | mxfp4
  deriving DecidableEq, Repr

/-- Bits of one packed element. -/
def BlockFmt.elemBits : BlockFmt → Nat
  | .kd4 | .mxfp4 => 4
  | _ => 8

/-- Whether a block carries two exponents. -/
def BlockFmt.isKd : BlockFmt → Bool
  | .kd8 | .kd4 => true
  | _ => false

/-- Bytes of a packed block of 32 elements. -/
def BlockFmt.bytes : BlockFmt → Nat
  | .kd8 => 34
  | .kd4 => 18
  | .mxe4m3 | .mxe5m2 => 33
  | .mxfp4 => 17

/-- The format of the element's own number. -/
def BlockFmt.elem : BlockFmt → Fmt
  | .kd8 => kd8Elem
  | .kd4 => kd4Elem
  | .mxe4m3 => e4m3
  | .mxe5m2 => e5m2
  | .mxfp4 => e2m1

/-- E_top of the exponent rules (05 R107, R110). -/
def BlockFmt.eTop : BlockFmt → Int
  | .kd8 => 4
  | .kd4 => 0
  | .mxe4m3 => 8
  | .mxe5m2 => 15
  | .mxfp4 => 2

/-- The value of an element of a block under its scale bytes (05 R107 to R109). -/
def BlockFmt.value (b : BlockFmt) (x0 x1 w : Nat) : FVal :=
  if b.isKd then
    if x0 = 0xFF ∨ x1 = 0xFF then .nan
    else
      let magBits := b.elemBits - 2
      let sel := w / 2 ^ magBits % 2
      let neg := w / 2 ^ (magBits + 1) % 2 == 1
      let v := b.elem.decode (w % 2 ^ magBits)
      ((if neg then v.neg else v).scale ((if sel = 0 then x0 else x1 : Nat) - 127))
  else if x0 = 0xFF then .nan
  else (b.elem.decode w).scale ((x0 : Int) - 127)

/-- floor(log2 x) of a finite value that is not 0. -/
def FVal.log2 : FVal → Int
  | .fin _ m e => (Nat.log2 m : Int) + e
  | _ => 0

/-- The largest finite magnitude of a list of values; 0 where there is none. -/
def maxAbs (xs : List FVal) : FVal :=
  xs.foldl (fun a x => match x with
    | .fin _ m e => a.maxNum (.fin false m e)
    | _ => a) (.fin false 0 0)

/-- Whether a finite value is a zero. -/
def FVal.isZero : FVal → Bool
  | .fin _ m _ => m == 0
  | _ => false

/-- An integer between two bounds. -/
def clampInt (lo hi x : Int) : Int := max lo (min hi x)

/-- |a − b| of finite values, and an error past every finite one (`none`) when b is infinite. -/
def absErr (a b : FVal) : FVal := (a.add .rne b.neg).abs

/-- A block of 32 elements: its element codes, its scale bytes (KD has two) and the elements
that overflowed, lowest first. -/
structure Block where
  elems : List Nat
  x0 : Nat
  x1 : Nat
  ovf : List Nat
  deriving DecidableEq, Repr

/-- One element of a KD block under the exponent `sel` selects; an overflow saturates (05 R110). -/
def kdElem (b : BlockFmt) (rm : Rm) (sel x : Nat) (v : FVal) : Conv :=
  let magBits := b.elemBits - 2
  let c : Conv := match v with
    | .fin s m e => b.elem.convRat rm .sat s m 1 (e + 127 - x)
    | _ => ⟨b.elem.maxMag, true⟩
  ⟨(if v.sign then 2 ^ (magBits + 1) else 0) + sel * 2 ^ magBits + c.bits % 2 ^ magBits, c.ovf⟩

/-- The KD encoding rule (05 R110). `rms` gives the mode of each element; where it is not RNE the kept exponent
is rounded under again. -/
def kdBlock (b : BlockFmt) (rms : Nat → Rm) (pol : Ovf) (xs : List FVal) : Block :=
  if xs.any FVal.isNan then ⟨xs.map fun _ => 0, 0xFF, 0xFF, []⟩
  else
    let amax := maxAbs xs
    let d : Int := if b == .kd8 then 3 else 2
    let x0 : Int := if amax.isZero then 1 else clampInt 1 254 (amax.log2 - b.eTop + 127)
    let x1 : Int := max (x0 - d) 1
    let n0 := x0.toNat
    let n1 := x1.toNat
    let enc (k : Nat) (v : FVal) : Conv :=
      let c0 := kdElem b .rne 0 n0 v
      let c1 := kdElem b .rne 1 n1 v
      let e0 := absErr (b.value n0 n1 c0.bits) v
      let e1 := absErr (b.value n0 n1 c1.bits) v
      let sel := if v.isInf then 0 else if e1.lt e0 then 1 else 0
      match rms k with
      | .rne => if sel = 0 then c0 else c1
      | rm => kdElem b rm sel (if sel = 0 then n0 else n1) v
    let cs := xs.zipIdx.map fun p => enc p.2 p.1
    let ovf := (cs.zipIdx.filter fun p => p.1.ovf).map Prod.snd
    if !ovf.isEmpty && pol == .nan then ⟨xs.map fun _ => 0, 0xFF, 0xFF, ovf⟩
    else ⟨cs.map Conv.bits, n0, n1, ovf⟩

/-- Conversion to an MX block (05 R107): the shared exponent is that of 02 R47, always rounded down, and the elements follow the
conversion's own fields, an infinity and the sign of a zero included (05 R112). -/
def mxBlock (b : BlockFmt) (rms : Nat → Rm) (pol : Ovf) (xs : List FVal) : Block :=
  if xs.any FVal.isNan then ⟨xs.map fun _ => 0, 0xFF, 0xFF, []⟩
  else
    let amax := maxAbs xs
    let x : Int := if amax.isZero then -127 else clampInt (-127) 127 (amax.log2 - b.eTop)
    let cs := xs.zipIdx.map fun p => b.elem.conv (rms p.2) pol (p.1.scale (-x))
    let ovf := (cs.zipIdx.filter fun p => p.1.ovf).map Prod.snd
    let n := (x + 127).toNat
    if !ovf.isEmpty && pol == .nan then ⟨xs.map fun _ => 0, 0xFF, 0xFF, ovf⟩
    else ⟨cs.map Conv.bits, n, n, ovf⟩

/-- 32 values as a block. -/
def BlockFmt.encode (b : BlockFmt) (rms : Nat → Rm) (pol : Ovf) (xs : List FVal) : Block :=
  if b.isKd then kdBlock b rms pol xs else mxBlock b rms pol xs

/-- Element codes packed into bytes, two nibbles to a byte with the lower index low (05 R107, R109). -/
def packNibbles : List Nat → List Nat
  | a :: b :: rest => (a % 16 + 16 * (b % 16)) :: packNibbles rest
  | [a] => [a % 16]
  | [] => []

/-- The packed bytes of a block: elements, then the scales (05 R107 to R109). -/
def BlockFmt.pack (b : BlockFmt) (k : Block) : List Nat :=
  (if b.elemBits = 4 then packNibbles k.elems else k.elems) ++ (if b.isKd then [k.x0, k.x1] else [k.x0])

/-- Element codes of packed bytes. -/
def unpackNibbles : List Nat → List Nat
  | [] => []
  | a :: rest => a % 16 :: a / 16 % 16 :: unpackNibbles rest

/-- The 32 values of a packed block. -/
def BlockFmt.unpack (b : BlockFmt) (bytes : List Nat) : List FVal :=
  let n := 4 * b.elemBits
  let codes := if b.elemBits = 4 then unpackNibbles (bytes.take n) else bytes.take n
  let x0 := bytes.getD n 0
  let x1 := bytes.getD (n + 1) 0
  codes.map (b.value x0 x1)

end Sys2Proof.Machine

namespace Sys2Proof

open Machine

/-! ### Conditions -/

/-- A condition of CMP and CMPI on 64-bit operands (08 R162). -/
def CcI.holds (cc : CcI) (x y : Word) : Bool :=
  match cc with
  | .eq => x == y
  | .ne => x != y
  | .lt => x.slt y
  | .ge => !x.slt y
  | .ltu => x.ult y
  | .geu => !x.ult y
  | .bit => x &&& y != 0

/-- Whether CMP.w sign-extends its operands under a condition (08 R162). -/
def CcI.signed : CcI → Bool
  | .lt | .ge => true
  | _ => false

/-- A condition of FCMP (08 R166). -/
def CcF.holds (cc : CcF) (a b : FVal) : Bool :=
  match cc with
  | .eq => a.eqv b
  | .ne => !a.eqv b
  | .lt => a.lt b
  | .le => a.lt b || a.eqv b
  | .un => a.isNan || b.isNan
  | .or => !a.isNan && !b.isNan

end Sys2Proof
end

