-- ==== Sys2Proof/Machine/State.lean ====
section
/-! DEFINITION. Everything the specification gives the machine, as plain data, and the state after reset. -/

namespace Sys2Proof.Machine

/-- Why the machine stops with a fault. No step of this machine does: whatever fails is a trap, a failed register or
ticket, a dropped access or, where no context owns an error, a module reset (20 R352, 24 R375). The one constructor is
raised by no definition. -/
inductive Fault where
  /-- Kept for the interface; never raised, so it is safe. -/
  | none
  deriving DecidableEq, Repr

/-- Why an instruction has no meaning here. -/
inductive Refusal where
  /-- Raised by an arm of `exec` whose instruction is not modelled yet. Safe: the machine stops. -/
  | notModelled (mnemonic : String)
  deriving DecidableEq, Repr

/-! ### Sparse tables -/

/-- A table from numbers to values: pairs with keys strictly rising, none of them the default value. -/
abbrev Tbl (α : Type) := List (Nat × α)

/-- The value at a key; the default where none is listed. -/
def Tbl.get {α : Type} (d : α) : Tbl α → Nat → α
  | [], _ => d
  | (k', v) :: t, k => if k' = k then v else Tbl.get d t k

/-- The table with a value set in its place. -/
def Tbl.insert {α : Type} (k : Nat) (v : α) : Tbl α → Tbl α
  | [] => [(k, v)]
  | (k', v') :: t =>
    if k < k' then (k, v) :: (k', v') :: t
    else if k = k' then (k, v) :: t
    else (k', v') :: Tbl.insert k v t

/-- The table with a new value at a key; writing the default removes the entry. -/
def Tbl.put {α : Type} [DecidableEq α] (d : α) (t : Tbl α) (k : Nat) (v : α) : Tbl α :=
  if v = d then t.filter fun e => e.1 != k else Tbl.insert k v t

/-- Keys rise strictly from above `lo` and no value is the default. -/
def Tbl.okFrom {α : Type} [DecidableEq α] (d : α) : Option Nat → Tbl α → Bool
  | _, [] => true
  | lo, (k, v) :: t =>
    (match lo with
     | none => true
     | some l => decide (l < k)) && decide (v ≠ d) && Tbl.okFrom d (some k) t

/-- The canonical form of a table. -/
def Tbl.ok {α : Type} [DecidableEq α] (d : α) (t : Tbl α) : Bool := Tbl.okFrom d none t

/-! ### Registers of a task -/

/-- Why a register or a ticket failed (06 R124, 04 R101): the cause, the fabric status, the value for c.EVAL, and the
ticket that fails with it: timeline code and number (11 R262). -/
structure Fail where
  cause : Nat
  status : Nat
  eval : Word
  link : Option (Nat × Nat)
  deriving DecidableEq, Repr

/-- The state of a register (06 R124). -/
inductive RState (w : Nat) where
  | full
  | poisoned
  /-- `op` is the producer; `after` is what the register holds once the cause has been raised. -/
  | failed (f : Fail) (op : Nat) (after : BitVec w)
  /-- `n` producers outstanding; the value before the first of them; the failure of one that failed, with its
  producer and the value after; whether the last to complete delivered poison. -/
  | empty (n : Nat) (before : BitVec w) (bad : Option (Fail × Nat × BitVec w)) (poison : Bool)
  deriving DecidableEq, Repr

/-- A register with full/empty state. -/
structure Reg (w : Nat) where
  val : BitVec w
  st : RState w
  deriving DecidableEq, Repr

/-- A full register. -/
def Reg.ofVal {w : Nat} (x : BitVec w) : Reg w := ⟨x, .full⟩

/-- Something a slot writes, counted by the one-writer rule (06 R130) and a destination of results. -/
inductive Dst where
  | s (r : SReg)
  | v (r : VReg)
  | p (r : PReg)
  | em | cm | fmt | sp | lk
  | mp (k : Fin 8)
  /-- A control register by its number (06 R136). -/
  | cr (k : Nat)
  /-- A field of the haul shadow set (04 R96). -/
  | shadow (k : Nat)
  /-- c.STATUS.CONVX as a conversion sets it (05 R112). -/
  | convx
  deriving DecidableEq, Repr

/-- A value for the bits `mask` of a destination. -/
structure Out where
  dst : Dst
  mask : BitVec 1024
  data : BitVec 1024
  deriving DecidableEq, Repr

/-- A fixed-latency result that has not landed: how many bundle boundaries remain (06 R131, R133). -/
structure Pend where
  rem : Nat
  out : Out
  deriving DecidableEq, Repr

/-- The register files (06 R121). -/
structure Regs where
  s : Vector (Reg 64) 64
  v : Vector (Reg 1024) 32
  em : Reg 32
  p : BitVec 8
  cm : BitVec 32
  fmt : BitVec 32
  sp : Word
  lk : Word
  mp : Vector Word 8
  deriving DecidableEq, Repr

/-- The control registers that belong to a task's image (06 R136, R137; 20 R340). -/
structure Ctl where
  sv : Bool
  scopex : Bool
  convx : Bool
  intrap : Bool
  cause : Word
  epc : Word
  eval : Word
  tvec : Word
  slim : Word
  spb : Word
  spl : Word
  iter : Word
  trip : Word
  taskid : Word
  coord : Word
  part : Word
  stage : Word
  srkey : Word
  srctr : Word
  wdint : Word
  trigcnt : Word
  mcstat : Word
  kvstat : Word
  xinfo : Word
  psv : Bool
  sscr : Vector Word 4
  wdcnt : Word
  deriving DecidableEq, Repr

/-- A failed ticket (10 R237). -/
structure FailedTicket where
  ticket : Nat
  fail : Fail
  /-- The producer of registers that fails with it. -/
  op : Option Nat
  reported : Bool
  deriving DecidableEq, Repr

/-- A timeline (04 R100): its counter, how many tickets were drawn, those completed ahead of the counter, those
that failed. -/
structure Tl where
  count : Nat
  issued : Nat
  early : List Nat
  failed : List FailedTicket
  deriving DecidableEq, Repr

/-- A cause pending on a task (20 R341), in the order in which they are raised. -/
inductive PendCause where
  | runaway (wid : Nat)
  | diverge (event : Word)
  | fabric (f : Fail)
  deriving DecidableEq, Repr

/-- The parts of a task (08 R182). -/
inductive Part where
  | prologue | kernel | epilogue
  deriving DecidableEq, Repr

/-- Where a task is in its life (15 R294 to R302). -/
inductive TaskStatus where
  | ready      -- in a ready queue of its target cluster
  | bound      -- holds an issue context, its tiles are being loaded
  | running
  | parked
  | stopped    -- pre-empted at a KNEXT, to be saved
  | halted
  | saved      -- swapped out, waiting for its event
  | ending     -- ended, waiting for its tickets
  deriving DecidableEq, Repr

/-- An entry of the bivouac queue (09 R199, R200): whether it came back from the ring poisoned, its place in the order in which
the tasks of a core append, and the slot of the context's ring that holds it, once it is spilled. -/
structure BivEntry where
  tag : Nat
  ix : Nat
  words : List (BitVec 32)
  poison : Bool
  n : Nat
  slot : Option Nat
  deriving DecidableEq, Repr

/-- An entry of the bind table (10 R234). -/
structure Bind where
  obj : Word
  base : Word
  lg : Nat
  deriving DecidableEq, Repr

/-- A loop record (07 R153). -/
structure LoopRec where
  addr : Word
  prologue : Word
  kernel : Word
  epilogue : Word
  trip : Nat
  flags : BitVec 32
  coord : Word
  tiles : Word
  args : Word
  done : Word
  deriving DecidableEq, Repr

/-- The timelines of a task with the number of each posted store that is not yet acknowledged (03 R65). -/
structure Posted where
  id : Nat
  ticket : Nat
  addr : Word
  /-- Another half of the store has failed (03 R69). -/
  bad : Option Fail
  deriving DecidableEq, Repr

/-- A captured MMA command (11 R250 to R255): its mp registers, formats and SETFULL as they stood, where the pages of an
operand B in the weight store lie, the physical ranges it reads and writes, and whether they were written while it was
outstanding. -/
structure MmaCmd where
  mp : Vector Word 8
  fmt : BitVec 32
  f : Bool
  ticket : Nat
  pages : List (Nat × Nat)
  foot : List (Nat × Nat)
  spoiled : Bool
  deriving DecidableEq, Repr

/-- Where an access leads: a physical address, or a fabric address. -/
inductive Dest where
  | pad (pa : Nat)
  | ext (pa : Nat)
  | node (pa : Nat)
  | weights (pa : Nat)
  | control (pa : Nat)
  | fabric (fa : Word)
  deriving DecidableEq, Repr

/-- A piece of an access: where it leads, how many bytes, from which bit of the register, and which of them are
accessed. -/
structure Piece where
  dst : Dest
  n : Nat
  bit : Nat
  mask : List Bool
  deriving DecidableEq, Repr

/-- An atomic as its slot captured it (10 R229): its place, what it computes, its order and scope, whether its acquire
and its release count (10 R231), and the posted stores it waits for. -/
structure AtCmd where
  dst : Dest
  op : AtOp
  wide : Bool
  b : Word
  e : Word
  ord : Ord
  sc : AScope
  acq : Bool
  rel : Bool
  upTo : Nat
  deriving DecidableEq, Repr

/-- A TLB: of a core by its location, or of a cluster by its slice (20 R344). -/
inductive Tlb where
  | core (loc : Nat)
  | cluster (slice : Nat)
  deriving DecidableEq, Repr

/-- What a TLB entry maps (20 R344): a 64 KiB page, a run of 2 MiB or a block of 512 MiB. -/
inductive Span where
  | page | run | block
  deriving DecidableEq, Repr

/-- A TLB entry: where it is, the leaf that a walk for a page of a context gave, and what it maps (20 R344). -/
structure TlbEntry where
  tlb : Tlb
  ctx : Nat
  page : Nat
  leaf : Word
  span : Span
  deriving DecidableEq, Repr

/-- What a TLBINV drops (20 R345): the entries of the context that map an address, all of the context, or all. -/
inductive TlbWhat where
  | page (va : Word)
  | ctx
  | all
  deriving DecidableEq, Repr

/-- A command of a slot that is performed only behind earlier memory operations of its context (10 R221): a QPUSH of a value,
a BLYGRANT of a buffer, an HGO by the number of its haul, a FLUSH or INVAL of the line at an address. -/
inductive Cmd where
  | qpush (n : Nat) (v : Word)
  | grant (chan : Nat) (pong : Bool)
  | hgo (haul : Nat)
  | flush (pa : Nat)
  | inval (pa : Nat)
  deriving DecidableEq, Repr

/-- What an outstanding operation does when it completes. -/
inductive OpKind where
  /-- A load, an atomic's old value, QPOP, QSTAT, FEGET, BLYSTAT, WATCH, UNWATCH: the data has been read. -/
  | load
  | div
  | x
  | drain
  | mma (c : MmaCmd)
  /-- An ATTN command served by a stream (02 R55). -/
  | attn (stream : Nat)
  /-- A KV instruction at its home controller (11 R263). -/
  | kv (n : Nat)
  /-- TLBINV (20 R345); once it has dropped its entries, the number of the next operation at that time. -/
  | tlbinv (what : TlbWhat) (dropped : Option Nat)
  /-- ACQ (10 R232): the object, whether it advances the generation, and for an object on a fabric page whether its
  request has been sent. -/
  | acq (dst : Dest) (adv sent : Bool)
  /-- REL (10 R233): the object, the value, the posted stores it waits for, whether it writes back, and for an object on
  a fabric page whether its request has been sent. -/
  | rel (dst : Dest) (v : Word) (upTo : Nat) (flush sent : Bool)
  /-- FENCE (10 R235), the posted stores it waits for, and whether its scope is .co. -/
  | fence (upTo : Nat) (co : Bool)
  /-- A command that waits for earlier memory operations of its context (10 R221). -/
  | cmd (c : Cmd)
  /-- A remote load or atomic (03 R67), and whether it acquires (10 R230). -/
  | remote (acq : Bool)
  /-- A load held behind an operation of its context (10 R221, R227): where `sext` is not 0, it is the number of bits
  sign-extended. -/
  | heldRead (ps : List Piece) (sext : Nat)
  /-- A store held behind an operation of its context (10 R221, R227), with the ticket of its remote pieces. -/
  | heldWrite (ps : List Piece) (x : VWord) (ticket : Nat)
  /-- An atomic held behind an operation of its context, or behind posted stores (10 R230). -/
  | atomic (c : AtCmd)
  /-- FESET behind earlier accesses of its context (10 R228): physical address and number of words of each run. -/
  | feSet (runs : List (Nat × Nat)) (full : Bool)
  /-- FEGET of the 128 bytes at a physical address (10 R228). -/
  | feGet (pa : Nat)
  /-- LDWF and LDTK (10 R227). -/
  | feRead (pa : Nat) (take : Bool)
  /-- STWE, which waits until the word is empty, and STFL (10 R227). -/
  | feWrite (pa : Nat) (w : BitVec 32) (wait : Bool)
  /-- QPOP on an empty queue (10 R247). -/
  | qpop (q : Nat)
  | wayconv (n : Nat)
  | wayrest
  /-- The count of a task's end at a fabric page (15 R302). -/
  | endCount
  /-- TSPAWN of the launch record at a virtual address (08 R184), and whether it has gone to the dispatcher. -/
  | spawn (va : Word) (sent : Bool)
  deriving DecidableEq, Repr

/-- A place in the etch log that a task's event took at issue (19 R327, R331, R333): the value of HEAD, EVENT, and in proof
mode the record it is checked against. -/
structure EtchSlot where
  slot : Nat
  event : Nat
  cursor : Nat
  deriving DecidableEq, Repr

/-- An outstanding operation: its module-wide number, what it does, the registers it fills with what, whether it
failed, whether its data is poisoned, and whether a bundle that waits for it parks (06 R125). -/
structure Op where
  id : Nat
  kind : OpKind
  outs : List Out
  fail : Option Fail
  poison : Bool
  parks : Bool
  /-- c.STATUS.CONVX is set when the result lands (09 R206). -/
  convx : Bool
  /-- c.STATUS.SCOPEX is set at completion (10 R231). -/
  scopex : Bool
  /-- Lanes of its destination that have arrived, and whether several requests bring them (03 R69). -/
  lanes : BitVec 32
  split : Bool
  /-- The place in the etch log of its event (19 R331). -/
  etch : Option EtchSlot
  /-- The object of its event (19 R329). -/
  obj : Word
  deriving DecidableEq, Repr

/-- An entry of a tile list (07 R154); the stride is signed. -/
structure Tile where
  kind : Nat
  source : Word
  spoff : Nat
  stride : BitVec 32
  bytes : Nat
  rows : Nat
  deriving DecidableEq, Repr

/-- A task (06 R121, R137; 15). -/
structure Task where
  id : Nat
  ctx : Nat
  loc : Nat
  status : TaskStatus
  regs : Regs
  pend : List Pend
  held : List Pend
  ops : List Op
  tls : Vector Tl 6
  posted : List Posted
  pc : Word
  ctl : Ctl
  shadow : Vector Word 11
  binds : List Bind
  biv : List BivEntry
  /-- The position in the proof task array, its end, and the events recorded (19 R327, R333). -/
  etchCursor : Nat
  etchEnd : Nat
  etchEvents : Nat
  causes : List PendCause
  part : Part
  loop : LoopRec
  capS : Nat
  capV : Nat
  prio : Nat
  partition : Nat
  stage : Nat
  setId : Nat
  ordinal : Nat
  wid : Nat
  depth : Nat
  /-- Claimed belay transfers (18 R321): channel, whether pong, XFERS. -/
  claims : List (Nat × Bool × Nat)
  /-- Parked for at least 256 cycles (15 R299). -/
  parkedLong : Bool
  /-- Its pre-emption at the next KNEXT has been asked for (15 R299). -/
  preempt : Bool
  /-- The waiting task that a requested pre-emption is for (15 R299). -/
  preemptFor : Option Nat
  /-- Its ready wait passed AGELIM (15 R300). -/
  aged : Bool
  /-- It may be bound to another cluster of its die (15 R300). -/
  crossOk : Bool
  /-- When it became ready, as the model's step count. -/
  readyAt : Nat
  /-- When it started or was restored, and when it parked. -/
  startedAt : Nat
  parkedAt : Nat
  /-- The registers whose results a parked task awaits (06 R125). -/
  awaits : List Dst
  /-- Its target cluster and the clusters it may be placed on, as slices (15 R292). -/
  target : Nat
  elig : List Nat
  /-- Its offset in the set's extents (15 R291). -/
  off : Nat × Nat × Nat
  /-- Its tiles: kind, source, scratchpad offset, stride, bytes per row, rows (07 R154). -/
  tiles : List Tile
  /-- Its end has been counted at the doubleword of its loop record (15 R302). -/
  counted : Bool
  /-- The haul tiles whose completion it waits for before its start (15 R295). -/
  tilesLeft : List Nat
  /-- The awaited event arrived while it was swapped out. -/
  latched : Bool
  /-- Its set's tile of this task faulted (15 R296). -/
  aborted : Bool
  /-- Converted ways to take again at a restore (04 R88). -/
  savedWays : Nat
  /-- The slot of the image pool that holds its image (20 R350). -/
  image : Option Nat
  /-- The bundle that last waited in a TLWAIT, and the timeline and the ticket that it waited for (20 R351). -/
  stalled : Option (Word × Nat × Nat)
  deriving DecidableEq, Repr

/-! ### The bundle being executed -/

/-- What a slot uses, for the checks of its bundle (06 R122, R124, R125, R130). -/
inductive Use where
  /-- A source register; `wait` is its wait bit, true where it has none. -/
  | srcS (r : SReg) (wait : Bool)
  | srcV (r : VReg) (wait : Bool)
  /-- A blocking read of em. -/
  | srcEm
  /-- A fixed-latency write: it waits while the destination is EMPTY. -/
  | write (d : Dst)
  /-- A destination marked EMPTY. -/
  | mark (d : Dst)
  /-- A vector width drawn from the lane groups. -/
  | lanes (n : Nat)
  /-- A slot with an element type f8 (06 R127). -/
  | f8
  /-- A slot that rounds stochastically (05 R114). -/
  | sto
  /-- A control transfer (08 R172). -/
  | ctl
  /-- FMTSET of the value of a register (06 R129). -/
  | fmtset (a : SReg)
  /-- ILLEGAL in supervisor mode, or always (06 R136). -/
  | illegalIf (c : Bool)
  /-- A synchronisation (20 R341). -/
  | sync
  deriving DecidableEq, Repr

/-- A trap that a bundle raises: c.CAUSE fields, c.EVAL, c.XINFO where translation raised it, and what counts as
reported by raising it. -/
structure Trap where
  cause : Nat
  eval : Word
  status : Nat
  deferred : Bool
  xinfo : Option Word
  /-- The producer whose FAILED registers become FULL. -/
  op : Option Nat
  /-- The tickets that count as reported: timeline code and number. -/
  tickets : List (Nat × Nat)
  /-- The task-pending cause that is no longer pending. -/
  pending : Option PendCause
  /-- UNCORRECTABLE of the context is no longer pending. -/
  ue : Bool
  /-- The poisoned entry that a walk has read (20 R343). -/
  walk : Option Nat
  /-- A divergence found before the bundle committed (19 R333, R335): the expected record, and the one it would have
  written. -/
  report : Option (Option (List Byte) × List Byte)
  deriving DecidableEq, Repr

/-- How far the instructions of a bundle are to be executed (log 6). -/
inductive Phase where
  | whole     -- the instruction alone in its bundle: every check, its effect and the bundle's commit
  | collect   -- only note what it uses
  | run       -- only its execution checks and its effect
  deriving DecidableEq, Repr

/-- What a bundle does after it commits. -/
inductive After where
  | trap (cause : Nat) (slot : Nat) (eval : Word)
  | rte
  | halt
  | knext
  | texit
  deriving DecidableEq, Repr

/-- The bundle being executed: between two steps every field has its value of `Scratch.clean`. -/
structure Scratch where
  ph : Phase
  /-- The number of the slot. -/
  slot : Nat
  /-- The encodings of the bundle's slots. -/
  encs : List Word
  /-- What each slot uses. -/
  uses : List (List Use)
  /-- The bundle waits at issue, and whether its task parks. -/
  waiting : Option Bool
  trapped : Option (Trap × Nat)
  /-- Where control goes instead of the next bundle. -/
  target : Option Word
  after : Option After
  /-- How many slots the bundle has. -/
  slots : Nat
  /-- Stochastic slots seen so far in the bundle. -/
  sto : Nat
  /-- The timelines and the bivouac queue as they stood before the bundle. -/
  tls : Option (Vector Tl 6)
  biv : Option (List BivEntry)
  /-- c.STATUS.CONVX is set as the bundle commits (08 R168). -/
  convx : Bool
  /-- The number of the first operation that the bundle begins, where it has several slots. -/
  first : Option Nat
  deriving DecidableEq, Repr

/-- No bundle is being executed. -/
def Scratch.clean : Scratch := ⟨.whole, 0, [], [], none, none, none, none, 1, 0, none, none, false, none⟩

/-! ### Cores and memory -/

/-- A line of an L1 (04 R84): valid and dirty bytes; the fill generation, `none` once the line is marked for refetch
(04 R85); the chain depth of its dirty bytes and the task that stored last (16 R310, R311); poison by 32-byte half. -/
structure L1Line where
  loc : Nat
  ctx : Nat
  line : Nat
  valid : BitVec 64
  dirty : BitVec 64
  data : BitVec 512
  gen : Option (BitVec 6)
  depth : Nat
  task : Nat
  poison : BitVec 2
  deriving DecidableEq, Repr

/-- A core: its generation register (04 R85), its cycle count (06 R136), the owner of its converted ways and
their number (04 R87, R88), ways being converted or given back, whether a WAYREST is running. -/
structure Core where
  gen : BitVec 6
  cycles : Word
  extOwner : Nat
  extWays : Nat
  converting : Nat
  restoring : Bool
  failed : Bool
  deriving DecidableEq, Repr

/-- A core nothing has used. -/
def Core.init : Core := ⟨0, 0, 0, 0, 0, false, false⟩

/-- A block of an instruction cache: the bytes of one 1 KiB code block as authenticated (20 R380, 23 R365). -/
structure IBlock where
  loc : Nat
  ctx : Nat
  va : Nat
  bytes : Tbl Byte
  deriving DecidableEq, Repr

/-- The metadata of a memory sector (01 R18): SLOT, where 0xFF marks it as poisoned, and one more than the number of
the key it was written under, 0 for a sector that nothing has written. ECC and TAG are computed from these and the data. -/
structure Sector where
  slot : Nat
  key : Nat
  deriving DecidableEq, Repr

/-- A sector nothing has written. -/
def Sector.init : Sector := ⟨0, 0⟩

/-- A sector of an L2 line (04 R79): its valid bit and dirty bit, its owner context, the last to make it dirty, and
whether its bytes are poisoned. -/
structure L2Sector where
  valid : Bool
  dirty : Bool
  owner : Nat
  poison : Bool
  deriving DecidableEq, Repr

/-- A sector that a line does not hold. -/
def L2Sector.init : L2Sector := ⟨false, false, 0, false⟩

/-- A line of the slice that homes it (04 R79): its 256-byte line number, its four sectors, and the clusters, by slice,
whose L1s may hold a part of it. -/
structure L2Line where
  line : Nat
  secs : Vector L2Sector 4
  presence : BitVec 64
  deriving DecidableEq, Repr

/-- An error met in this step, handled at its end (01 R16, R20, R21, R30; 04 R82): where, the context it is charged to,
if to any, and the type of its record, 0 where none is written, with the key slot found. -/
structure Found where
  pa : Nat
  owner : Option Nat
  type : Nat
  slot : Nat
  deriving DecidableEq, Repr

/-! ### Contexts, segments, keys -/

/-- One of the two buffers of a belay channel (18 R319): the dies that hold the permit, HELD, the commands of the
current transfer started and completed by each die, its permit counter (19 R328), and XFERS of the transfer that it holds
(18 R322). -/
structure BelayBuf where
  permits : BitVec 6
  held : Bool
  started : Vector Nat 6
  done : Vector Nat 6
  /-- Elements of the transfer already written, by buffer offset (18 R323). -/
  written : List Nat
  seq : BitVec 32
  xfer : BitVec 32
  deriving DecidableEq, Repr

/-- A belay channel (18 R318, R319). -/
structure Channel where
  n : Nat
  ping : Word
  pong : Word
  size : Nat
  sdies : BitVec 6
  rdie : Nat
  cmds : Nat
  radd : Bool
  xfers : BitVec 32
  bufs : Vector BelayBuf 2
  deriving DecidableEq, Repr

/-- A loaded program segment (23 R364); `code` is what its tags stand for, the bytes that were loaded (log 9). -/
structure Seg where
  /-- Its entry of the segment table. -/
  ix : Nat
  id : Nat
  signed : Bool
  base : Nat
  len : Nat
  spb : Nat
  spl : Nat
  load : Nat
  sv : Nat
  code : Tbl Byte
  /-- The draw of the key source that gave its GMAC key, and the tag of each block (23 R364). -/
  gkey : Nat
  tags : List (BitVec 128)
  deriving DecidableEq, Repr

/-- A live context: its descriptor as every die holds it (20 R347) and what the units keep for it. -/
structure Ctx where
  id : Nat
  addr : Nat
  fctx : Nat
  keyslot : Nat
  prot : Bool
  dbgx : Bool
  /-- DBGUNL at its creation (23 R369). -/
  dbgunl : Bool
  etch : Nat
  ptroot : Nat
  exptab : Nat
  stagemap : Vector (BitVec 6) 16
  etchcb : Word
  bqring : Word
  bqcap : Nat
  qmap : Nat
  fring : Word
  frk : Nat
  imgbase : Nat
  imgn : Nat
  imgsz : Nat
  tvec : Word
  wdint : Nat
  segtab : Nat
  channels : List Channel
  /-- The multicast groups, read at creation (03 R70). -/
  mcg : Vector Word 16
  segs : List Seg
  /-- The next task set id (15 R290). -/
  nextSet : Nat
  /-- UNCORRECTABLE pending: the values for c.EVAL, oldest first (20 R341). -/
  ue : List Word
  /-- The acceptance and decision counters (19 R328). -/
  accSeq : BitVec 32
  decSeq : BitVec 32
  /-- Reductions issued on each group (03 R71). -/
  redK : Vector Nat 16
  /-- TAIL of its etch ring as last seen: a write of another value clears LOWN (19 R331). -/
  etchTail : Nat
  deriving DecidableEq, Repr

/-- A key slot (23 R360): ASSIGNED, owner, version, and the number of the draw from the controller's random source that its
three keys are, 0 for keys that are zero (log 9). -/
structure KeySlot where
  assigned : Bool
  owner : Nat
  ver : BitVec 16
  key : Nat
  deriving DecidableEq, Repr

/-- A slot that no command has touched. -/
def KeySlot.init : KeySlot := ⟨false, 0, 0, 0⟩

/-- An entry of the log that measurement 5 covers (23 R369). -/
structure CreationLog where
  seq : Nat
  ctx : Nat
  prot : Bool
  unlocked : Bool
  codeHash : List Byte
  deriving DecidableEq, Repr

/-- A command in the security controller's queue: a block in memory, or the bytes the management port brought. -/
inductive ScEntry where
  | block (pa : Nat)
  | port (bytes : List Byte)
  deriving DecidableEq, Repr

/-- The security controller (23 R358 to R369). -/
structure Sec where
  queue : List ScEntry
  seq : Nat
  loadNo : Nat
  nonce : Option Word
  unlocked : Bool
  /-- The contexts the unlock token admits; all ones for every unprotected one (23 R366). -/
  admits : BitVec 256
  ownerKeys : Vector (List Byte) 4
  fuses : List (Bool × Bool)
  log : List CreationLog
  keys : Tbl KeySlot
  /-- The fuse pair of which ARB_RAISE has blown the first bit (23 R367). -/
  blowing : Option Nat
  deriving DecidableEq, Repr

/-! ### Tasks and watches -/

/-- A creation by a watch entry (16 R308 to R314): the entry by key, id and die, COUNT, the depth, the value of the latest folded
trigger and the task of the watch's context that wrote it, 0 for none, and the sequence number it will have where its entry
has gone. -/
structure Creation where
  key : Nat
  wid : Nat
  die : Nat
  count : Nat
  depth : Nat
  value : Word
  task : Nat
  seq : BitVec 32
  deriving DecidableEq, Repr

/-- Where a launch record came from (15 R289). -/
inductive LaunchFrom where
  | spawn (task op : Nat)
  | mailbox (wid slot : Nat)
  /-- A creation by a watch (16 R308, R309, R314). -/
  | trigger (x : Creation)
  deriving DecidableEq, Repr

/-- A launch submission that waits for the dispatcher. -/
structure Submission where
  ctx : Nat
  va : Word
  src : LaunchFrom
  deriving DecidableEq, Repr

/-- A live task set (15 R289 to R302) with its counts in the counter tree: the ends that each cluster (by slice) and each
die has not passed up, and the tasks that the module still counts. -/
structure TaskSet where
  id : Nat
  ctx : Nat
  launch : Word
  compl : Word
  tag : Word
  seg : Nat
  partition : Nat
  ext : Vector Nat 3
  nstep : Nat
  steps : Vector (BitVec 32) 3
  loctab : Word
  mailbox : Bool
  /-- The watch that created it, by id and by key. -/
  wid : Nat
  wkey : Nat
  /-- A watch created it: COUNT, the value of the latest folded trigger, the creation's sequence number, the slot of
  its record in the etch ring, and the die of its watch unit (16 R309, R314). -/
  count : Nat
  value : Word
  seq : BitVec 32
  slot : Option Nat
  die : Nat
  cl : Tbl Nat
  di : Tbl Nat
  left : Nat
  aborted : Bool
  tileFaults : Nat
  deriving DecidableEq, Repr

/-- The state of a watch entry (16 R308). -/
inductive WatchSt where
  | armed | storm | failed
  deriving DecidableEq, Repr

/-- A watch entry (16 R304 to R311). -/
structure Watch where
  id : Nat
  ctx : Nat
  base : Word
  len : Nat
  cond : Nat
  mode : Nat
  scope : Nat
  depth : Nat
  budget : Nat
  value : Word
  loop : Word
  /-- Physical base of each 64 KiB page of the range (16 R305). -/
  frames : List Nat
  live : Nat
  /-- The triggers that PENDING counts, oldest first: depth, value, and the task that wrote it. -/
  held : List (Nat × Word × Nat)
  st : WatchSt
  seq : BitVec 32
  /-- The model's number of the entry: an id may be used again while tasks of an old entry live. -/
  key : Nat
  deriving DecidableEq, Repr

/-- A trigger on its way to a watch unit (16 R305): the entry, the new value, the depth and agent of the write. -/
structure Trigger where
  key : Nat
  value : Word
  ctx : Nat
  depth : Nat
  task : Nat
  deriving DecidableEq, Repr

/-! ### Engines -/

/-- Where a haul command stands (04 R95 to R101). -/
inductive HaulSt where
  | held      -- its HGO waits for earlier memory operations of its task
  | queued    -- behind another command of its queue, or waiting for a permit
  | pending   -- in the pending list of its cluster
  | running
  | waiting (token : Nat)   -- stopped at a row segment for the supervisor's answer (20 R346)
  | posted    -- its stores at other modules await their acknowledgment
  | sent      -- its contribution or store awaits the fabric, or its transfer is not yet held
  deriving DecidableEq, Repr

/-- A haul command (04 R95 to R101): its number, its fields as captured by HGO, and how far it is. -/
structure Haul where
  id : Nat
  task : Nat
  ctx : Nat
  loc : Nat
  q : Nat
  fields : Vector Word 11
  ticket : Nat
  depth : Nat
  rnd : BitVec 2
  srkey : Word
  srctr : Word
  mcstat : Word
  st : HaulSt
  /-- The row segment at which it waits, and the failing address. -/
  row : Nat
  fault : Option Fail
  /-- The task whose declared tile it loads (15 R295). -/
  tile : Option Nat
  /-- The number of the reduction it contributes to (03 R71). -/
  k : Nat
  /-- When it became pending, as the model's step count, and the slice of the engine that runs it. -/
  order : Nat
  eng : Option Nat
  /-- Issued in supervisor mode. -/
  sv : Bool
  /-- Source bytes that came through the fabric, by address, and whether they are poisoned. -/
  got : List (Word × List Byte × Bool)
  /-- A conversion of it handled an overflow (05 R112). -/
  convx : Bool
  deriving DecidableEq, Repr

/-- An entry of a queue (10 R247): its value, whether it is poisoned, the queue number it was pushed to, and the slot of that
number's ring that holds it, while it is spilled. -/
structure QEntry where
  v : Word
  bad : Bool
  n : Nat
  slot : Option Nat
  deriving DecidableEq, Repr

/-- An on-chip queue of a die with its spilled entries behind it (10 R246, R247), for a context that maps it (log 63). -/
structure Queue where
  ctx : Nat
  die : Nat
  chip : Nat
  entries : List QEntry
  /-- Operations of waiting QPOPs: task and operation. -/
  waiters : List (Nat × Nat)
  seq : BitVec 32
  deriving DecidableEq, Repr

/-! ### The cairn store -/

/-- A frame identity in use (02 R38, R39). -/
structure Frame where
  refcnt : Nat
  cls : Nat
  pin : Bool
  tier : Nat
  fmt : Nat
  lentIn : Bool
  lentOut : Bool
  peer : Nat
  use : Nat
  slot : Nat
  written : Nat
  lost : Bool
  readers : Nat
  hold : Bool
  mig : Bool
  /-- The bytes of all layers that a borrower sent; 0 for any other frame (02 R52). -/
  size : Nat
  /-- How many of them each layer has. -/
  layer : Nat
  deriving DecidableEq, Repr

/-- The mirrors in a block table entry (02 R36). -/
structure Mirror where
  tier : Nat
  fmt : Nat
  mig : Bool
  peer : Nat
  deriving DecidableEq, Repr

/-- A block table entry as the controller holds it (02 R36). -/
structure BlockEnt where
  v : Bool
  frame : Nat
  fill : Nat
  mir : Mirror
  deriving DecidableEq, Repr

/-- A sequence (02 R35): its table entry, its blocks, its reserved frames (identity and slot, 11 R266). -/
structure Seqn where
  btbase : Word
  len : Nat
  cap : Nat
  st : Nat
  dclass : Nat
  ops : Nat
  blocks : List BlockEnt
  rsv : List (Nat × Nat)
  deriving DecidableEq, Repr

/-- A sequence that was never opened. -/
def Seqn.init : Seqn := ⟨0, 0, 0, 0, 0, 0, [], []⟩

/-- What asked for a move (02 R48 to R53). -/
inductive MoveWhy where
  | auto | kv (n : Nat) | recall
  deriving DecidableEq, Repr

/-- A move of a frame (02 R49). -/
structure Move where
  ident : Nat
  tier : Nat
  slot : Nat
  why : MoveWhy
  /-- The copy is complete and HOLD is set. -/
  held : Bool
  /-- LEND_PUT has been sent and its answer has come. -/
  put : Bool
  lenderIdent : Option Nat
  /-- Bytes read so far from a lender, each with its poison, and whether a lending read is out. -/
  bytes : List (Byte × Bool)
  asked : Bool
  /-- It waits for the supervisor's answer: the token and the address that is not mapped (20 R346). -/
  stuck : Option (Nat × Word)
  /-- The slot of the etch ring that its record took (19 R331). -/
  etch : Option Nat
  deriving DecidableEq, Repr

/-- A 64-byte line of a structure that a controller owns (02 R37): of the frame descriptor table, the frame placement table, the
sequence table, or the block table of a sequence, by number. -/
inductive KvLine where
  | fd (k : Nat)
  | fp (k : Nat)
  | st (k : Nat)
  | bt (seq k : Nat)
  deriving DecidableEq, Repr

/-- A KV space (02 R31 to R54). -/
structure Space where
  id : Nat
  ctx : Nat
  srem : Bool
  lend : Bool
  tcode : Nat
  layers : Nat
  heads : Nat
  dblk : Nat
  nat : Nat
  policy : Nat
  home : Nat
  nf : Nat
  stbase : Word
  ns : Nat
  fdtbase : Word
  fpebase : Word
  pool : Vector (Word × Nat) 3
  wmlow : Nat
  wmhigh : Nat
  peer : Nat
  peersp : Nat
  credit : Nat
  stamp : BitVec 32
  /-- DEMOTE_BLOCKED is pending (02 R45). -/
  demoteBlocked : Bool
  /-- Demotion runs until so many tier T0 slots are free (02 R44, R48). -/
  goal : Option Nat
  seqs : Tbl Seqn
  frames : List (Nat × Frame)
  moves : List Move
  /-- Identities of borrowed frames whose recall waits (02 R53). -/
  recalls : List Nat
  /-- Lines written in this step though nothing in them changed: empty between two steps (02 R37). -/
  dirty : List KvLine
  /-- Identities of draining frames are those with REFCNT 0 in `frames`. -/
  seq : BitVec 32
  /-- Where its descriptor lies, and in which context, for the write-back of STAMP. -/
  addr : Word
  addrCtx : Nat
  deriving DecidableEq, Repr

/-- Which KV instruction a command is (11 R264). -/
inductive KvKind where
  | kopen | kfork | krsv | kwr | ktrim | kfree | kclass | kpin | kdemote | kpromote | klend | kquery | kspace
  deriving DecidableEq, Repr

/-- A KV command on its way or at its controller (11 R263): its argument block as read at issue, and, for the
commands that act on a range, the result so far. -/
structure KvCmd where
  n : Nat
  task : Nat
  ctx : Nat
  loc : Nat
  kind : KvKind
  /-- The handle; for KVSPACE the number of the space in the handle's place. -/
  handle : Nat
  args : List Byte
  argVa : Word
  sv : Bool
  depth : Nat
  ticket : Nat
  op : Nat
  /-- Performed at its serialisation point. -/
  performed : Bool
  /-- It waits for a frame that a move out of tier T0 will free (02 R42). -/
  waits : Bool
  status : Nat
  value : Nat
  fail : Option Fail
  /-- What KVQUERY writes into its argument block. -/
  ans : Option (List Byte)
  /-- Frames of a range that are still to be acted on, and the one whose move it has started; `none` in the list is an
  absent entry. -/
  left : List (Option Nat)
  cur : Option Nat
  /-- Bytes of a borrowed frame that a split reads, each with its poison, of which frame, and whether a lending read is
  out. -/
  bytes : List (Byte × Bool)
  gotFor : Option Nat
  asked : Bool
  /-- Every earlier access of its task has been performed, and it has left the core (11 R263). -/
  sent : Bool
  /-- Poison was delivered to it (02 R42, R54). -/
  poisoned : Bool
  /-- It waits for the supervisor's answer: the token and the address that is not mapped (20 R346). -/
  stuck : Option (Nat × Word)
  /-- The space counter of its event, taken at its serialisation point (19 R326, R328). -/
  serial : Option (BitVec 32)
  deriving DecidableEq, Repr

/-- One row of the attention state: m, l and o as FP32 bits (11 R259). -/
structure AttnRow where
  m : Nat
  l : Nat
  o : List Nat
  poison : Bool
  deriving DecidableEq, Repr

/-- A page in the staging ring (02 R56). -/
structure Landed where
  slot : Nat
  block : Nat
  fill : Nat
  fmt : Nat
  head : Nat
  isV : Bool
  deriving DecidableEq, Repr

/-- A frame that a stream has open (02 R49): identity and what the open returned. -/
structure Opened where
  ident : Nat
  tier : Nat
  fmt : Nat
  slot : Nat
  fill : Nat
  peer : Nat
  /-- The bytes of the heads to be read, each with its poison, as they stood at the open; none of a borrowed frame (02 R58). -/
  pages : List (Byte × Bool)
  deriving DecidableEq, Repr

/-- An ATTN command and its stream (02 R55 to R58, 11 R256 to R262). -/
structure Stream where
  id : Nat
  task : Nat
  ctx : Nat
  loc : Nat
  handle : Nat
  recVa : Word
  args : List Byte
  parents : List Byte
  causal : Bool
  tree : Bool
  resume : Bool
  prefetch : Bool
  ticket : Nat
  op : Nat
  /-- It holds a stream of a traverse unit. -/
  assigned : Bool
  /-- LEN when it opened the sequence, its start block and its end block. -/
  len : Nat
  first : Nat
  last : Nat
  /-- The block being streamed, the next page of it to land, and the slot that takes it. -/
  block : Nat
  nextPage : Nat
  slotNo : Nat
  frame : Option Opened
  /-- Frames that it has streamed. -/
  opened : List Nat
  landed : List Landed
  /-- Bytes of a borrowed page read so far, each with its poison, and whether a lending read is out. -/
  got : List (Byte × Bool)
  asked : Bool
  /-- It waits for the supervisor's answer: the token and the address that is not mapped (20 R346). -/
  stuck : Option (Nat × Word)
  /-- The supervisor has answered that it fails (20 R346). -/
  fault : Option Fail
  /-- The K page that waits for its V page, and whether it was poisoned. -/
  key : List Byte × Bool
  /-- The running state, and the state before the block being folded. -/
  rows : List AttnRow
  saved : List AttnRow
  folding : Option Nat
  /-- Why it stopped: 0 while it runs, 1 ABSENT, 2 LOST, 3 SHORT, 4 its sequence was not open, 5 the supervisor's answer. -/
  stop : Nat
  stopBlock : Nat
  /-- The physical ranges of its record, query, parent array and ring, and whether they were written while it ran
  (02 R57, 11 R262). -/
  foot : List (Nat × Nat)
  spoiled : Bool
  deriving DecidableEq, Repr

/-! ### The fabric -/

/-- What the module sends into the fabric (03 R63 to R73). -/
inductive Packet where
  | request (target : Nat) (q : Request)
  | reply (target : Nat) (r : Reply)
  | ack (target id : Nat) (status : FabStatus) (seq : Nat)
  | stale (target id srcInc tgtInc : Nat)
  | incarnation (target inc : Nat)
  | lendPut (target space ident peerSpace fmt : Nat) (bytes : LendFrame)
  | lendAck (target space ident : Nat) (lender : Option Nat)
  | lendFree (target space ident : Nat)
  | lendRecall (target ident : Nat)
  | lendGone (target : Nat) (space : Option Nat)
  | lendingRead (target id space ident off len : Nat)
  | lendingReply (target space ident off : Nat) (status : FabStatus) (bytes : LendReply) (poison : List Nat)
  | multicast (target haul : Nat) (q : Request)
  | contribution (target : Nat) (c : Contribution)
  deriving DecidableEq, Repr

/-- A record that waits for room in the journal (24 R372): journal tag, launch record address, set id, completion word; a DONE
record, or the ACCEPT record of a submission that a tear-down refused. -/
structure DoneWait where
  tag : Word
  launch : Word
  setId : Nat
  word : Word
  accept : Bool
  deriving DecidableEq, Repr

/-- A remote request of this module that has not been answered (03 R67). -/
structure OutReq where
  id : Nat
  target : Nat
  task : Nat
  op : Nat
  addr : Word
  /-- The bit of the destination from which its data fills it (03 R69). -/
  bit : Nat
  len : Nat
  store : Bool
  /-- The haul that sent it. -/
  haul : Option Nat
  /-- Where it is not 0, the bits that a scalar load sign-extends. -/
  sext : Nat
  /-- Its module and window offset as one address, whose 256-byte lines order it, and whether a port of its route has gone down
  since it was sent (03 R64). -/
  base : Nat
  old : Bool
  /-- The object of its event, and in proof mode the count of the object's series that its turn awaits (19 R328, R333). -/
  obj : Word
  turn : Option Nat
  /-- The DONE record that follows it, where it writes a completion word (24 R373). -/
  done : Option DoneWait
  deriving DecidableEq, Repr

/-- A request that its core holds back until the earlier ones to its line are acknowledged (03 R64). -/
structure HeldReq where
  ctx : Nat
  o : OutReq
  off : Nat
  kind : ReqKind
  poison : Bool
  /-- A multicast's store to one of its members (03 R70). -/
  many : Bool
  deriving DecidableEq, Repr

/-- A member that a multicast was sent to (03 R70): the haul, its index and module, the number of its store, whether it is
known not to have performed it, the ranges of its rows at the member, and whether a port of its route has gone down since
(03 R64). -/
structure Member where
  haul : Nat
  ix : Nat
  target : Nat
  id : Nat
  failed : Bool
  rows : List (Nat × Nat)
  old : Bool
  deriving DecidableEq, Repr

/-- Who asked for a lending read (03 R381): a stream, a move of a space, or a split of a KV command. -/
inductive Borrower where
  | stream (x : Nat)
  | move (space ident : Nat)
  | split (n : Nat)
  deriving DecidableEq, Repr

/-- A lending read that has not been answered (03 R381): its number, the lender, who asked, the borrower's frame, the lender's
space and frame, and the offset. -/
structure LendReq where
  id : Nat
  target : Nat
  by_ : Borrower
  space : Nat
  ident : Nat
  rspace : Nat
  rident : Nat
  off : Nat
  deriving DecidableEq, Repr

/-- A reduction at this node of its tree (03 R71, R72, R355): the haul of this module with its contribution, those of
the children that have come, and whether the wait has ended. -/
structure Reduction where
  ctx : Nat
  group : Nat
  k : Nat
  own : Option (Nat × List Byte × Bool)
  got : List Contribution
  closed : Bool
  deriving DecidableEq, Repr

/-- The fabric units (03): requests outstanding and those of them held back; packets sent, each with its envelope (R66);
reductions; members of multicasts; lending reads outstanding; the FCTX numbers of contexts that were torn down (R68); the
incarnations that notices brought (R66), by module; the incarnation last announced with LEND_GONE (02 R52); and requests that
wait at this module for their turn (19 R333). -/
structure Fabric where
  out : List OutReq
  held : List HeldReq
  sent : List (Envelope × Packet)
  reds : List Reduction
  mc : List Member
  lends : List LendReq
  gone : List Nat
  log : List (Nat × Nat)
  told : Option Nat
  waits : List Request
  /-- Requests of ACQs that wait at objects of this module, each with its number among the operations (10 R232). -/
  acqs : List (Nat × Request)
  deriving DecidableEq, Repr

/-! ### The module -/

/-- Records for the outside: what the management port and the host received (23 R369, 24 R373, R376). -/
inductive OutMsg where
  | notPowered
  | version
  | capabilities
  | algorithms
  | digests (d : List (List Byte))
  | certificate (bytes : List Byte)
  | challenge (nonce sig : List Byte)
  | measurements (d : List (Nat × List Byte)) (sig : List Byte)
  | health (mainRail stopped : Bool) (temps : Word) (svcreq : List Bool) (arb : Nat) (unlocked : Bool)
  | errlog (records : List (List Byte)) (counters : List (Nat × Word)) (criticals : Nat)
  | journal (records : List (List Byte))
  | scDone (status : Nat) (result : Word)
  | done (ok : Bool)
  | hostRead (bytes : List Byte) (poison : Bool)
  | hostWritten
  /-- A notification record at an address of host memory. -/
  | notification (addr : Nat) (bytes : List Byte)
  | msix (vec : Nat)
  /-- What a debugger has read, and whether any of it is poisoned. -/
  | debug (bytes : List Byte) (poison : Bool)
  | ready
  deriving DecidableEq, Repr

/-- Bring-up, firmware, power and the host (24). -/
structure Board where
  mainRail : Bool
  svcStop : Bool
  hostUp : Bool
  poolUp : Bool
  powerLimit : Nat
  /-- The core clock of each die in steps of 2.5 % (24 R379). -/
  clock : Vector Nat 6
  /-- A staged firmware image: its security version and its bytes, and whether the next reset is to activate it. -/
  fwStaged : Option (Nat × List Byte)
  fwArmed : Bool
  fwRunning : Nat
  fwImage : List Byte
  ntfSince : Nat
  /-- Error records, each with its die, and counters kept across resets (01 R30). -/
  records : List (Nat × List Byte)
  counters : List (Nat × Word)
  criticals : Nat
  sent : List OutMsg
  /-- A reset is past, and bring-up has not run yet (24 R375, R377). -/
  bringing : Bool
  /-- The failed cores that the board management controller's repair map names, in the order in which it named them (24 R378). -/
  repair : List Nat
  /-- In-package links that a failed proof holds down (23 R368). -/
  linksDown : List Nat
  /-- The MSI-X table of the host port: 64 vectors (24 R370). -/
  msix : Vector (BitVec 128) 64
  deriving DecidableEq, Repr

/-- A placed T2 range (01 R16), and whether the fabric manager has withdrawn it. -/
structure T2Range where
  base : Nat
  size : Nat
  withdrawn : Bool
  deriving DecidableEq, Repr

/-- A channel of a stack that retires or is retired (01 R26, R27): its frontier is in the registers. -/
structure Retire where
  die : Nat
  stack : Nat
  chan : Nat
  deriving DecidableEq, Repr

/-- The whole machine. -/
structure State where
  /-- The task in the focus: the one that issues next. -/
  cur : Task
  /-- Every other task. -/
  others : List Task
  /-- What happens before the focused task issues again: the choices of other agents and of the outside (log 1). -/
  agenda : List Instr
  /-- Which task takes the focus next (log 1). -/
  turn : List Nat
  cores : Tbl Core
  l1 : List L1Line
  icache : List IBlock
  tlb : List TlbEntry
  /-- Bytes by physical address: nodes 0 to 7, scratchpads, extensions and weight stores. -/
  mem : List Host.Cell
  /-- Scratchpad words that are empty, by physical address, rising (04 R91). -/
  feEmpty : List Nat
  /-- Poisoned 32-byte granules outside nodes 0 to 7, by physical address / 32, rising (04 R91, R94). -/
  poison : List Nat
  /-- Metadata of the 64-byte sectors of nodes 0 to 7 in memory, by physical address / 64 (01 R18). -/
  sectors : Tbl Sector
  /-- The lines that the home slices hold (04 R79); the bytes of a valid sector are those of `mem`. -/
  l2 : List L2Line
  /-- Memory control registers by physical address (01 R28). -/
  mcr : Tbl Word
  /-- The position of each weight store in its refresh period (04 R94). -/
  wsPhase : Vector Nat 4
  logSeq : Vector Nat 6
  retiring : List Retire
  /-- HBM4E channels whose rebuild is done, in the order of their retirements (01 R26). -/
  retired : List Retire
  /-- How often the link of each stack, numbered 4 × die + stack, has been trained since the module was made: its session
  key is the one of that training (01 R19). -/
  linkKey : Tbl Nat
  t2 : List T2Range
  /-- Errors met and not yet charged: empty between two steps. -/
  found : List Found
  /-- Granules of memory and the weight stores whose poison has been charged to a context, by physical address / 32, rising
  (01 R21, 04 R94). -/
  charged : List Nat
  ctxs : List Ctx
  sec : Sec
  subs : List Submission
  sets : List TaskSet
  doneWait : List DoneWait
  watches : List Watch
  triggers : List Trigger
  queues : List Queue
  hauls : List Haul
  /-- Tokens of engine commands that wait for the supervisor: haul by token; the next token (20 R346). -/
  nextToken : Nat
  spaces : List Space
  kvcmds : List KvCmd
  streams : List Stream
  fabric : Fabric
  board : Board
  /-- The next number for an operation, a task, a haul, a stream or a request: the model's own. -/
  nextId : Nat
  /-- Free values taken so far (log 5) and steps taken (log 4): the model's own. -/
  free : Nat
  tick : Nat
  scr : Scratch
  deriving DecidableEq, Repr

/-! ### Reset -/

/-- The register files at task start (06 R121), without the values that come from records. -/
def Regs.start : Regs where
  s := Vector.replicate 64 (Reg.ofVal 0)
  v := Vector.replicate 32 (Reg.ofVal 0)
  em := Reg.ofVal 0xFFFFFFFF
  p := 1
  cm := 0
  fmt := 0
  sp := 0
  lk := 0
  mp := Vector.replicate 8 0

/-- The control registers at task start (06 R136), without the values that come from records. -/
def Ctl.start : Ctl where
  sv := false
  scopex := false
  convx := false
  intrap := false
  cause := 0
  epc := 0
  eval := 0
  tvec := 0
  slim := 0
  spb := 0
  spl := 0
  iter := 0
  trip := 0
  taskid := 0
  coord := 0
  part := 0
  stage := 0
  srkey := 0
  srctr := 0
  wdint := 0
  trigcnt := 0
  mcstat := 0
  kvstat := 0
  xinfo := 0
  psv := false
  sscr := Vector.replicate 4 0
  wdcnt := 0

/-- A timeline no ticket has been drawn on (04 R100). -/
def Tl.start : Tl := ⟨0, 0, [], []⟩

/-- No loop record. -/
def LoopRec.none : LoopRec := ⟨0, 0, 0, 0, 0, 0, 0, 0, 0, 0⟩

/-- A task with every register at its value at task start and nothing else set. -/
def Task.blank : Task where
  id := 0
  ctx := 0
  loc := 0
  status := .saved
  regs := Regs.start
  pend := []
  held := []
  ops := []
  tls := Vector.replicate 6 Tl.start
  posted := []
  pc := 0
  ctl := Ctl.start
  shadow := Vector.replicate 11 0
  binds := []
  biv := []
  etchCursor := 0
  etchEnd := 0
  etchEvents := 0
  causes := []
  part := .prologue
  loop := LoopRec.none
  capS := 64
  capV := 32
  prio := 0
  partition := 0
  stage := 0
  setId := 0
  ordinal := 0
  wid := 0
  depth := 0
  claims := []
  parkedLong := false
  preempt := false
  preemptFor := none
  aged := false
  crossOk := false
  readyAt := 0
  startedAt := 0
  parkedAt := 0
  awaits := []
  target := 0
  elig := []
  off := (0, 0, 0)
  tiles := []
  counted := false
  tilesLeft := []
  latched := false
  aborted := false
  savedWays := 0
  image := none
  stalled := none

/-- The supervisor's own context (20 R347: CTXID 0), live from bring-up (24 R377). -/
def Ctx.supervisor : Ctx where
  id := 0
  addr := 0
  fctx := 0
  keyslot := 0
  prot := false
  dbgx := false
  dbgunl := false
  etch := 0
  ptroot := 0
  exptab := 0
  stagemap := Vector.replicate 16 0
  etchcb := 0
  bqring := 0
  bqcap := 0
  qmap := 0
  fring := 0
  frk := 0
  imgbase := 0
  imgn := 0
  imgsz := 0
  tvec := 0
  wdint := 0
  segtab := 0
  channels := []
  mcg := Vector.replicate 16 0
  segs := []
  nextSet := 1
  ue := []
  accSeq := 0
  decSeq := 0
  redK := Vector.replicate 16 0
  etchTail := 0

/-- The security controller after bring-up: slot 0 assigned to context 0 (23 R360). -/
def Sec.reset : Sec where
  queue := []
  seq := 0
  loadNo := 0
  nonce := none
  unlocked := false
  admits := 0
  ownerKeys := Vector.ofFn fun (i : Fin 4) => (List.range 32).map fun k => (Config.ownerKeyHash i.val).extractLsb' (8 * k) 8
  fuses := List.replicate 64 (false, false)
  log := []
  keys := [(0, ⟨true, 0, 0, 1⟩)]
  blowing := none

/-- The board after bring-up (24 R376, R377, R379). -/
def Board.reset : Board where
  mainRail := true
  svcStop := false
  hostUp := true
  poolUp := true
  powerLimit := 3800
  clock := Vector.replicate 6 40
  fwStaged := none
  fwArmed := false
  fwRunning := 0
  fwImage := []
  ntfSince := 0
  records := []
  counters := []
  criticals := 0
  sent := []
  bringing := false
  repair := []
  linksDown := []
  msix := Vector.replicate 64 0

/-- The stack registers as bring-up leaves them (24 R377): every HBM4E stack has its link up. -/
def linksUp : Tbl Word :=
  [(0, 0), (0, 1), (0, 2), (0, 3), (1, 0), (1, 1), (1, 2), (1, 3), (2, 0), (3, 0), (4, 0), (5, 0)].map fun p =>
    (0x0F0000000000 + p.1 * 0x1000000 + p.2 * 0x10000, 0x20)

/-- The machine right after reset and bring-up (24 R375, R377): no task, one context, memory with nothing listed. -/
def State.reset : State where
  cur := Task.blank
  others := []
  agenda := []
  turn := []
  cores := []
  l1 := []
  icache := []
  tlb := []
  mem := []
  feEmpty := []
  poison := []
  sectors := []
  l2 := []
  mcr := linksUp
  wsPhase := Vector.replicate 4 0
  logSeq := Vector.replicate 6 0
  retiring := []
  retired := []
  linkKey := []
  t2 := []
  found := []
  charged := []
  ctxs := [Ctx.supervisor]
  sec := Sec.reset
  subs := []
  sets := []
  doneWait := []
  watches := []
  triggers := []
  queues := []
  hauls := []
  nextToken := 1
  spaces := []
  kvcmds := []
  streams := []
  fabric := ⟨[], [], [], [], [], [], [], [], none, [], []⟩
  board := Board.reset
  nextId := 1
  free := 0
  tick := 0
  scr := Scratch.clean

end Sys2Proof.Machine
end

