-- ==== Sys2Proof/Machine/Mem.lean ====
section
/-! DEFINITION. Memory: locations, the physical map, bytes and words; agents, contexts, cores and tasks. -/

namespace Sys2Proof.Machine

/-! ### Locations -/

/-- The first location index of each die (04 R90). -/
def dieBase : Nat → Nat
  | 0 => 0
  | 1 => 128
  | 2 => 256
  | 3 => 448
  | 4 => 640
  | _ => 832

/-- The die of a location index: 0 A0, 1 A1, 2 to 5 F0 to F3 (00 R3). -/
def dieOf (loc : Nat) : Nat :=
  if loc < 128 then 0 else if loc < 256 then 1 else if loc < 448 then 2 else if loc < 640 then 3
  else if loc < 832 then 4 else 5

/-- The cluster of a location on its die. -/
def clusterOf (loc : Nat) : Nat := (loc - dieBase (dieOf loc)) / 16

/-- The core of a location in its cluster. -/
def coreOf (loc : Nat) : Nat := (loc - dieBase (dieOf loc)) % 16

/-- The slice of cluster 0 of a die (04 R80). -/
def sliceBase : Nat → Nat
  | 0 => 0
  | 1 => 8
  | 2 => 16
  | 3 => 28
  | 4 => 40
  | _ => 52

/-- The slice of a location's cluster. -/
def sliceOf (loc : Nat) : Nat := sliceBase (dieOf loc) + clusterOf loc

/-- The die of a slice. -/
def sliceDie (n : Nat) : Nat :=
  if n < 8 then 0 else if n < 16 then 1 else if n < 28 then 2 else if n < 40 then 3 else if n < 52 then 4 else 5

/-- The location of core 0 of a slice's cluster. -/
def sliceLoc (n : Nat) : Nat := dieBase (sliceDie n) + 16 * (n - sliceBase (sliceDie n))

/-- The home slice of a physical address in nodes 0 to 7 (04 R80). -/
def home (pa : Nat) : Nat :=
  let l := pa / 256
  (l ^^^ (l >>> 6) ^^^ (l >>> 12) ^^^ (l >>> 18) ^^^ (l >>> 24) ^^^ (l >>> 30) ^^^ (l >>> 36)) % 64

/-! ### The physical map -/

/-- Where a physical address leads (01 R12, R13). -/
inductive Place where
  | node (n : Nat)
  /-- A scratchpad byte of a core, by location and offset. -/
  | pad (loc off : Nat)
  | weights (k off : Nat)
  | control (die off : Nat)
  /-- Reserved or unpopulated. -/
  | none
  deriving DecidableEq, Repr

/-- The base of a core's slot of the package scratchpad aperture (04 R90). -/
def padBase (loc : Nat) : Nat := 0x0C0000000000 + loc * 0x400000

/-- The base of die d's memory control space (01 R28). -/
def ctlBase (die : Nat) : Nat := 0x0F0000000000 + die * 0x1000000

/-- Bytes of a scratchpad (04 R89). -/
def padSize : Nat := 0x300000

/-- Whether a die has the block of a stack, or block 4 for its LPDDR controller (00 R2, 01 R28). -/
def hasBlock (die k : Nat) : Bool := if die < 2 then k ≤ 4 else k == 0

/-- The reset value of a memory control register (01 R28, 03 R77, 04 R94, 15 R297, 24 R373). -/
def mcrReset (pa : Nat) : Word :=
  let die := (pa - 0x0F0000000000) / 0x1000000
  let off := (pa - 0x0F0000000000) % 0x1000000
  if off < 0x50000 then
    if !hasBlock die (off / 0x10000) then 0 else
    (match off % 0x10000 with
     | 0x200 => 0x4018
     | 0x208 => 0x100000
     | 0x300 => 0x100
     | _ => 0)
  else if off = 0x90000 then (if 2 ≤ die then 1 else 0)
  else if die ≠ 0 then 0
  else match off with
    | 0x80010 => 1221
    | 0xA0000 => 0xFFFFFFFFFFFFFFFF
    | 0xA0008 => 8
    | 0xA0028 => 1
    | 0xA0048 => 2
    | 0xA0068 => 3
    | 0xD0060 => 1
    | _ => 0

/-- The value of a memory control register. -/
def State.mcrGet (s : State) (pa : Nat) : Word := Tbl.get (mcrReset pa) s.mcr pa

/-- The populated bytes of node 6: 1,536 GiB, or 1,472 GiB once a T1 channel is retired (01 R15). -/
def State.t1Size (s : State) : Nat :=
  let retired (die : Nat) : Bool := (List.range 24).any fun n =>
    (s.mcrGet (ctlBase die + 0x40100 + 8 * n)).extractLsb' 0 2 == 3#2
  if retired 0 || retired 1 then 1472 * 2 ^ 30 else 1536 * 2 ^ 30

/-- Where a physical address leads (01 R12, R13, R16). -/
def State.place (s : State) (pa : Nat) : Place :=
  let at_ (base size n : Nat) : Place := if pa - base < size then .node n else .none
  if pa < 0x004000000000 then at_ 0 (224 * 2 ^ 30) 0
  else if pa < 0x008000000000 then at_ 0x004000000000 (224 * 2 ^ 30) 1
  else if pa < 0x00C000000000 then
    let n := (pa - 0x008000000000) / 0x001000000000
    at_ (0x008000000000 + n * 0x001000000000) (56 * 2 ^ 30) (2 + n)
  else if pa < 0x010000000000 then .none
  else if pa < 0x030000000000 then at_ 0x010000000000 s.t1Size 6
  else if pa < 0x040000000000 then .none
  else if pa < 0x080000000000 then
    if s.t2.any fun r => r.base ≤ pa && pa < r.base + r.size / 8 * 7 then .node 7 else .none
  else if pa < 0x0C0000000000 then .none
  else if pa < 0x0C0100000000 then
    let off := pa - 0x0C0000000000
    if off % 0x400000 < padSize then .pad (off / 0x400000) (off % 0x400000) else .none
  else if pa < 0x0D0000000000 then .none
  else if pa < 0x0D0200000000 then
    .weights ((pa - 0x0D0000000000) / 0x80000000) ((pa - 0x0D0000000000) % 0x80000000)
  else if pa < 0x0F0000000000 then .none
  else if pa < 0x0F0006000000 then
    .control ((pa - 0x0F0000000000) / 0x1000000) ((pa - 0x0F0000000000) % 0x1000000)
  else .none

/-- Whether a place is one of nodes 0 to 7. -/
def Place.isNode : Place → Bool
  | .node _ => true
  | _ => false

/-! ### Bytes -/

/-- The canonical form of memory: addresses strictly rising, no byte listed that equals what an unlisted address
reads as, which is 0 (log 2). -/
def Memory.wf (m : List Host.Cell) : Bool := Tbl.ok (0 : Byte) m

/-- One byte at a physical address. -/
def State.byte (s : State) (pa : Nat) : Byte := Tbl.get 0 s.mem pa

/-- Memory with one byte written. -/
def State.putByte (s : State) (pa : Nat) (b : Byte) : State := { s with mem := Tbl.put 0 s.mem pa b }

/-- The `n` bytes from a physical address. -/
def State.bytes (s : State) (pa : Nat) : Nat → List Byte
  | 0 => []
  | n + 1 => s.byte pa :: s.bytes (pa + 1) n

/-- Memory with bytes written from an address; `none` leaves a byte as it is. -/
def State.putBytes (s : State) (pa : Nat) : List (Option Byte) → State
  | [] => s
  | b :: bs => (match b with
      | some b => s.putByte pa b
      | none => s).putBytes (pa + 1) bs

/-- The number that little-endian bytes stand for. -/
def leNat : List Byte → Nat
  | [] => 0
  | b :: bs => b.toNat + 256 * leNat bs

/-- The `n` little-endian bytes of a number. -/
def natLe : Nat → Nat → List Byte
  | 0, _ => []
  | n + 1, x => BitVec.ofNat 8 x :: natLe n (x / 256)

/-- A little-endian number of `n` bytes in memory. -/
def State.word (s : State) (pa n : Nat) : Nat := leNat (s.bytes pa n)

/-- Bytes `off` to `off + n − 1` of a list as a little-endian number. -/
def field (bs : List Byte) (off n : Nat) : Nat := leNat ((bs.drop off).take n)

/-! ### Rising lists of numbers as sets -/

/-- The set with a number added. -/
def insertNat (k : Nat) : List Nat → List Nat
  | [] => [k]
  | a :: t => if k < a then k :: a :: t else if k = a then a :: t else a :: insertNat k t

/-- The set without a number. -/
def eraseNat (k : Nat) (l : List Nat) : List Nat := l.filter fun a => a != k

/-! ### Agents, contexts, cores -/

/-- Who accesses memory (14 R275): its context, the chain depth of its writes (16 R310), its task (0 for none), its
location, and whether it acts as supervisor. -/
structure Agent where
  ctx : Nat
  depth : Nat
  task : Nat
  loc : Nat
  deriving DecidableEq, Repr

/-- The focused task as an agent. -/
def State.me (s : State) : Agent := ⟨s.cur.ctx, s.cur.depth, s.cur.id, s.cur.loc⟩

/-- An agent outside every context: the host, the pool port (16 R310: depth 0). -/
def Agent.outside : Agent := ⟨0, 0, 0, 0⟩

/-- The live context of an id. -/
def State.ctxOf (s : State) (id : Nat) : Option Ctx := s.ctxs.find? fun c => c.id == id

/-- The live contexts with one changed. -/
def State.updCtx (s : State) (id : Nat) (f : Ctx → Ctx) : State :=
  { s with ctxs := s.ctxs.map fun c => if c.id = id then f c else c }

/-- A core. -/
def State.core (s : State) (loc : Nat) : Core := Tbl.get Core.init s.cores loc

/-- The machine with one core changed. -/
def State.updCore (s : State) (loc : Nat) (f : Core → Core) : State :=
  { s with cores := Tbl.put Core.init s.cores loc (f (s.core loc)) }

/-- A key slot. -/
def State.key (s : State) (k : Nat) : KeySlot := Tbl.get KeySlot.init s.sec.keys k

/-- Every task. -/
def State.tasks (s : State) : List Task := s.cur :: s.others

/-- The machine with every task of one number changed. -/
def State.updTask (s : State) (id : Nat) (f : Task → Task) : State :=
  { s with
    cur := if s.cur.id = id then f s.cur else s.cur
    others := s.others.map fun t => if t.id = id then f t else t }

/-- The task of a number. -/
def State.task (s : State) (id : Nat) : Option Task := s.tasks.find? fun t => t.id == id

end Sys2Proof.Machine
end

