-- ==== Sys2Proof/Machine/Home.lean ====
section
/-! DEFINITION. Memory at its home (01 R16 to R21; 04 R79 to R83, R91; 16 R305 to R307): the lines of the L2 slices, sectors
read from memory and written back, writes with the watches they trigger, evictions; and poison in the other memories. -/

namespace Sys2Proof.Machine

/-! ### Sectors of the slices and of memory -/

/-- The line of its home slice that holds an address (04 R79), if it is held. -/
def State.l2At (s : State) (pa : Nat) : Option L2Line := s.l2.find? fun l => l.line == pa / 256

/-- Sector `i` of a line. -/
def L2Line.sec (l : L2Line) (i : Nat) : L2Sector := l.secs.toList.getD i L2Sector.init

/-- The sector of an address as its home slice holds it. -/
def State.l2Sector (s : State) (pa : Nat) : L2Sector := ((s.l2At pa).map fun l => l.sec (pa / 64 % 4)).getD L2Sector.init

/-- The sector of an address of a line that its home slice holds, changed. -/
def State.putL2 (s : State) (pa : Nat) (x : L2Sector) : State :=
  { s with l2 := s.l2.map fun l => if l.line = pa / 256 then { l with secs := l.secs.set (pa / 64 % 4) x } else l }

/-- The owner context of a sector that its home slice holds dirty (04 R79). -/
def State.dirtyOwner (s : State) (pa : Nat) : Option Nat :=
  if (s.l2Sector pa).dirty then some (s.l2Sector pa).owner else none

/-- The metadata of the sector of an address in memory. -/
def State.sector (s : State) (pa : Nat) : Sector := Tbl.get Sector.init s.sectors (pa / 64)

/-- The metadata of a sector written. -/
def State.putSector (s : State) (pa : Nat) (m : Sector) : State :=
  { s with sectors := Tbl.put Sector.init s.sectors (pa / 64) m }

/-- The key slot under which a context writes (01 R17). -/
def State.keyslotOf (s : State) (ctx : Nat) : Nat := ((s.ctxOf ctx).map Ctx.keyslot).getD 0

/-- The key slot under which the sector of an address stands or will be written back (01 R17, 04 R82). -/
def State.slotOf (s : State) (pa : Nat) : Nat :=
  match s.dirtyOwner pa with
  | some c => s.keyslotOf c
  | none => (s.sector pa).slot

/-- Whether a memory sector fails its tag because its slot no longer holds the key it was written under (01 R20, R24;
24 R375). -/
def State.stale (s : State) (pa : Nat) : Bool :=
  let m := s.sector pa
  m.key != 0 && m.slot != 255 && (s.key m.slot).key + 1 != m.key

/-- Whether an address of node 7 is beyond reach: its range is withdrawn or the pool link has failed (01 R16). -/
def State.t2Out (s : State) (pa : Nat) : Bool :=
  0x040000000000 ≤ pa && pa < 0x080000000000 &&
    (!s.board.poolUp || s.t2.any fun r => r.withdrawn && r.base ≤ pa && pa < r.base + r.size)

/-- Whether an access must go to memory that is beyond reach: the home slice does not hold the sector (01 R16). -/
def State.t2Lost (s : State) (pa : Nat) : Bool := s.t2Out pa && !(s.l2Sector pa).valid

/-- Whether a read of a byte delivers poison (01 R20, 04 R91): for nodes 0 to 7 that of the home slice where it holds the
sector, else that of memory. -/
def State.poisoned (s : State) (pa : Nat) : Bool :=
  match s.place pa with
  | .node _ => if (s.l2Sector pa).valid then (s.l2Sector pa).poison else (s.sector pa).slot == 255 || s.stale pa || s.t2Out pa
  | _ => s.poison.contains (pa / 32)

/-- Whether any of `n` bytes is poisoned. -/
def State.anyPoison (s : State) (pa n : Nat) : Bool :=
  (List.range ((pa % 32 + n + 31) / 32)).any fun i => s.poisoned (pa / 32 * 32 + 32 * i)

/-- Whether the context that owns a sector is protected and is not the accessing one (23 R363). -/
def State.refused (s : State) (ctx pa : Nat) : Bool :=
  (s.place pa).isNode &&
    (let owner := (s.key (s.slotOf pa)).owner
     owner != ctx && ((s.ctxOf owner).map Ctx.prot).getD false)

/-- The lowest of `n` bytes that another context's protection refuses, if it refuses any. -/
def State.firstRefused (s : State) (ctx pa n : Nat) : Option Nat :=
  ((List.range ((pa % 64 + n + 63) / 64)).find? fun i => s.refused ctx (pa / 64 * 64 + 64 * i)).map fun i =>
    max pa (pa / 64 * 64 + 64 * i)

/-- Whether any of `n` bytes is refused. -/
def State.anyRefused (s : State) (ctx pa n : Nat) : Bool := (s.firstRefused ctx pa n).isSome

/-! ### Errors (01 R16, R20, R21) -/

/-- An error noted, to be recorded and charged when the step ends. -/
def State.note (s : State) (pa : Nat) (owner : Option Nat) (type slot : Nat) : State :=
  { s with found := s.found ++ [⟨pa / 64 * 64, owner, type, slot⟩] }

/-- A granule whose poison has been charged. -/
def State.markCharged (s : State) (pa : Nat) : State := { s with charged := insertNat (pa / 32) s.charged }

/-- Poison charged to a context where it has not been charged before (01 R21). -/
def State.chargeOnce (s : State) (ctx pa : Nat) : State :=
  if s.charged.contains (pa / 32) then s else (s.markCharged pa).note pa (some ctx) 0 0

/-- An access to memory beyond reach, charged to the context that owns the sector's slot (01 R16). -/
def State.t2Miss (s : State) (pa : Nat) : State := s.note pa (some (s.key (s.sector pa).slot).owner) 0 (s.sector pa).slot

/-- A memory sector beyond repair (01 R20): it is written back with SLOT 0xFF, recorded, and charged to a context, if to any. -/
def State.sectorLostTo (s : State) (owner : Option Nat) (pa type : Nat) : State :=
  let m := s.sector pa
  ((s.putSector pa { m with slot := 255 }).markCharged (pa / 64 * 64)).note pa owner type m.slot

/-- A memory sector beyond repair is charged to the context that owns its slot (01 R21). Where the home slice holds the sector
dirty no data is lost, and nobody is charged (01 R22). -/
def State.sectorLost (s : State) (pa type : Nat) : State :=
  s.sectorLostTo (if (s.l2Sector pa).dirty then none else some (s.key (s.sector pa).slot).owner) pa type

/-- A sector of a line that its home slice holds, read from memory (01 R20, 04 R82): one whose key has changed fails its
tag. -/
def State.fetchSector (s : State) (pa : Nat) : State :=
  if (s.l2Sector pa).valid then s
  else if s.t2Out pa then s.t2Miss pa
  else
    let s1 := if s.stale pa then s.sectorLost pa 3 else s
    s1.putL2 pa ⟨true, false, 0, (s1.sector pa).slot == 255⟩

/-! ### Watches (16 R305 to R307, R313) -/

/-- The new bytes of the aligned doubleword of an address. -/
def State.dword (s : State) (pa : Nat) : Word := BitVec.ofNat 64 (s.word (pa / 8 * 8) 8)

/-- Whether a physical byte lies in the range of a watch entry (16 R305). -/
def Watch.covers (w : Watch) (pa : Nat) : Bool :=
  w.frames.zipIdx.any fun p =>
    p.1 ≤ pa && pa < p.1 + 0x10000 &&
      (let off := p.2 * 0x10000 + (pa - p.1)
       w.base.toNat % 0x10000 ≤ off && off < w.base.toNat % 0x10000 + 256 * w.len)

/-- Whether the new value of a doubleword meets a watch condition (16 R307). -/
def Watch.meets (w : Watch) (x : Word) : Bool :=
  match w.cond with
  | 0 => true
  | 1 => x == w.value
  | 2 => !x.ult w.value
  | _ => x &&& w.value != 0

/-- The doublewords of a written range, by address, that a write of `bs` touches. -/
def touched (pa : Nat) (bs : List (Option Byte)) : List Nat :=
  ((bs.zipIdx.filter fun p => p.1.isSome).map fun p => (pa + p.2) / 8 * 8).eraseDups

/-- The triggers of a write that has been performed (16 R306, R307, R313). -/
def State.watched (s : State) (a : Agent) (pa : Nat) (bs : List (Option Byte)) : State :=
  let new := s.watches.filterMap fun w =>
    if w.st == .failed || w.st == .storm then none
    else
      let hit := (touched pa bs).filter fun d =>
        (List.range 8).any fun i => w.covers (d + i) && (bs.getD (d + i - pa) none).isSome && pa ≤ d + i
      if w.mode == 2 then
        -- a mailbox slot is submitted when its first doubleword is left non-zero
        match hit.filter fun d => s.dword (d / 64 * 64) != 0 with
        | d :: _ => some ⟨w.key, BitVec.ofNat 64 (d / 64 * 64), a.ctx, 0, 0⟩
        | [] => none
      else
        match (hit.filter fun d => w.meets (s.dword d)).getLast? with
        | some d => some ⟨w.key, s.dword d, a.ctx, a.depth, a.task⟩
        | none => none
  { s with triggers := s.triggers ++ new }

/-- Whether every byte of a write is present, and it covers a whole sector. -/
def wholeSector (pa : Nat) (bs : List (Option Byte)) : Bool := pa % 64 == 0 && bs.length == 64 && bs.all Option.isSome

/-- Whether the bytes of a write equal those at its address (04 R81). -/
def State.silent (s : State) (pa : Nat) (bs : List (Option Byte)) : Bool :=
  bs.zipIdx.all fun p =>
    match p.1 with
    | some b => s.byte (pa + p.2) == b
    | none => true

/-- Cuts a write at the boundaries of `unit`-byte granules; `fuel` bounds the number of pieces. -/
def pieces (unit : Nat) : Nat → Nat → List (Option Byte) → List (Nat × List (Option Byte))
  | 0, _, _ => []
  | fuel + 1, pa, bs =>
    match bs with
    | [] => []
    | bs =>
      let n := unit - pa % unit
      (pa, bs.take n) :: pieces unit fuel (pa + n) (bs.drop n)

/-! ### Writes at the home (04 R81, R82) -/

/-- A write merged into one sector of a line that its home slice holds (04 R81, R82): a partial one first fills the sector; a
silent one changes nothing. Watches see it in units of `unit` bytes (16 R306). Where the sector is beyond reach the write is
dropped and charged (01 R16). -/
def State.mergeSector (s : State) (unit : Nat) (a : Agent) (pa : Nat) (bs : List (Option Byte)) : State :=
  if s.t2Lost pa then s.t2Miss pa
  else
    let whole := wholeSector pa bs
    let s1 := if whole then s else s.fetchSector pa
    if s1.silent pa bs && !s1.poisoned pa then s1
    else
      let s2 := { s1.putBytes pa bs with charged := if whole then eraseNat (pa / 32) s1.charged else s1.charged }.putL2 pa
        ⟨true, true, a.ctx, s1.poisoned pa && !whole⟩
      ((pieces unit (bs.length + 1) pa bs).filter fun p => !s1.silent p.1 p.2).foldl (fun s p => s.watched a p.1 p.2) s2

/-- A dirty sector that leaves its slice written to memory as a whole, under the key slot of its owner (04 R82): one with an
error is poisoned and charged to that owner; in memory beyond reach it is dropped, and its owner is charged (01 R16). -/
def State.writeSector (s : State) (pa owner : Nat) (poison bad : Bool) : State :=
  if s.t2Out pa then s.note pa (some owner) 0 0
  else
    let slot := s.keyslotOf owner
    let s1 := s.putSector pa ⟨if poison || bad then 255 else slot, (s.key slot).key + 1⟩
    if bad then s1.note pa (some owner) 0 slot else s1

/-- The dirty bytes of a line as a write. -/
def L1Line.write (l : L1Line) : List (Option Byte) :=
  (List.range 64).map fun i => if l.dirty.getLsbD i then some (l.data.extractLsb' (8 * i) 8) else none

/-- A line's dirty bytes merged into its home's line: the write of its context, at its depth (16 R310). -/
def State.mergeLine (s : State) (l : L1Line) : State :=
  if l.dirty = 0 then s else s.mergeSector 64 ⟨l.ctx, l.depth, l.task, l.loc⟩ (l.line * 64) l.write

/-- A line's dirty bytes written back with an uncorrectable error: the sector is poisoned, and the context tagged on the line is
charged (20 R352). -/
def State.mergeLost (s : State) (l : L1Line) : State :=
  let pa := l.line * 64
  if l.dirty = 0 then s
  else if s.t2Lost pa then s.mergeLine l
  else
    let s1 := s.mergeLine l
    ((s1.putL2 pa { s1.l2Sector pa with valid := true, dirty := true, owner := l.ctx, poison := true }).markCharged pa).note pa
      (some l.ctx) 0 0

/-- The sectors of a line that are dirty, by number, with their owners and their poison. -/
def L2Line.dirtyOnes (l : L2Line) : List (Nat × Nat × Bool) :=
  (List.range 4).filterMap fun i => if (l.sec i).dirty then some (i, (l.sec i).owner, (l.sec i).poison) else none

/-- A line evicted (04 R82, R83): the L1s of the clusters whose presence bits are set write their dirty bytes back and drop it,
then its dirty sectors go to memory, and it is dropped. `bad` are the uncorrectable errors: the number of a dirty sector, or 4
more than the number of a sector for the dirty bytes that an L1 writes back (20 R352). -/
def State.evictLine (s : State) (line : Nat) (bad : List Nat) : State :=
  let marks := ((s.l2At (256 * line)).map L2Line.presence).getD 0
  let mine (l : L1Line) : Bool := l.line / 4 == line && marks.getLsbD (sliceOf l.loc)
  let s1 := (s.l1.filter mine).foldl (fun s l => if bad.contains (4 + l.line % 4) then s.mergeLost l else s.mergeLine l) s
  let out := ((s1.l2At (256 * line)).map L2Line.dirtyOnes).getD []
  let s2 : State := { s1 with l1 := s1.l1.filter fun l => !mine l, l2 := s1.l2.filter fun l => l.line != line }
  out.foldl (fun s e => s.writeSector (256 * line + 64 * e.1) e.2.1 e.2.2 (bad.contains e.1)) s2

/-- The set of a slice that a line belongs to: its home and its index of 2,048 (04 R79, log 95). -/
def l2Set (line : Nat) : Nat × Nat := (home (256 * line), line / 64 % 2048)

/-- Its home slice holds a line (04 R79): a full set of 16 ways first loses one, freely chosen, of those without presence bits
if there are any (log 11). -/
def State.holdLine (s : State) (line : Nat) : State :=
  if (s.l2At (256 * line)).isSome then s
  else
    let set := s.l2.filter fun l => l2Set l.line == l2Set line
    let free := set.filter fun l => l.presence == 0
    let from_ := if free.isEmpty then set else free
    let s1 := if set.length < 16 then s
      else match from_[Config.freeNat s.free % from_.length]? with
        | some v => ({ s with free := s.free + 1 }).evictLine v.line []
        | none => s
    { s1 with l2 := ⟨line, Vector.replicate 4 L2Sector.init, 0⟩ :: s1.l2 }

/-- The presence bit of a core's cluster set in the line of an address (04 R83). -/
def State.markPresent (s : State) (loc line : Nat) : State :=
  let s1 := s.holdLine line
  { s1 with l2 := s1.l2.map fun l =>
      if l.line = line then { l with presence := l.presence ||| (1 : BitVec 64) <<< sliceOf loc } else l }

/-- A write in nodes 0 to 7, sector by sector, with the unit in which watches see it. -/
def State.homeWriteBy (s : State) (unit : Nat) (a : Agent) (pa : Nat) (bs : List (Option Byte)) : State :=
  (pieces 64 (bs.length + 1) pa bs).foldl (fun s p => (s.holdLine (p.1 / 256)).mergeSector unit a p.1 p.2) s

/-- A write in nodes 0 to 7 by a core, the host, the pool port or a remote agent (04 R81). -/
def State.homeWrite (s : State) (a : Agent) (pa : Nat) (bs : List (Option Byte)) : State := s.homeWriteBy 64 a pa bs

/-- A write in nodes 0 to 7 by an engine: its unit is an aligned granule of 8 bytes (14 R276, 16 R306). -/
def State.engineWrite (s : State) (a : Agent) (pa : Nat) (bs : List (Option Byte)) : State := s.homeWriteBy 8 a pa bs

/-! ### Reads at the home -/

/-- A sector about to be read by a context: one of nodes 0 to 7 within reach is held by its home slice (04 R82). -/
def State.readSector (s : State) (pa : Nat) : State :=
  if (s.place pa).isNode then
    if (s.l2Sector pa).valid then s
    else if s.t2Out pa then s.t2Miss pa
    else (s.holdLine (pa / 256)).fetchSector pa
  else s

/-- A granule about to be read by a context: a bad one of a weight store is charged to the context (04 R94). -/
def State.readGranule (s : State) (ctx pa : Nat) : State :=
  match s.place pa with
  | .weights .. => if s.poisoned pa then s.chargeOnce ctx pa else s
  | _ => s

/-- The sectors of `n` bytes, and the granules of a weight store, read at their homes by a context. -/
def State.touch (s : State) (ctx pa n : Nat) : State :=
  let s1 := (List.range ((pa % 64 + n + 63) / 64)).foldl (fun s i => s.readSector (pa / 64 * 64 + 64 * i)) s
  (List.range ((pa % 32 + n + 31) / 32)).foldl (fun s i => s.readGranule ctx (pa / 32 * 32 + 32 * i)) s1

/-- `n` bytes read at their home by a context: the machine, the bytes, and whether any is poisoned. -/
def State.homeRead (s : State) (ctx pa n : Nat) : State × List Byte × Bool :=
  (s.touch ctx pa n, (s.touch ctx pa n).bytes pa n, (s.touch ctx pa n).anyPoison pa n)

/-! ### The units that act for the supervisor and the host (23 R363) -/

/-- A write of an agent by physical addresses: a sector of another context's protected memory is left as it is (23 R363). -/
def State.unitWrite (s : State) (a : Agent) (pa : Nat) (bs : List (Option Byte)) : State :=
  (pieces 64 (bs.length + 1) pa bs).foldl (fun s p => if s.refused a.ctx p.1 then s else s.homeWrite a p.1 p.2) s

/-- The sectors of `n` bytes that agents of a context may read, read at their homes (01 R20). -/
def State.unitTouch (s : State) (ctx pa n : Nat) : State :=
  (List.range ((pa % 64 + n + 63) / 64)).foldl (fun s i =>
    let at_ := pa / 64 * 64 + 64 * i
    if s.refused ctx at_ then s else s.readSector at_) s

/-- `n` bytes as agents of a context have them, all-ones where a sector is refused. -/
def State.unitBytes (s : State) (ctx pa n : Nat) : List Byte :=
  (List.range n).map fun i => if s.refused ctx (pa + i) then 0xFF else s.byte (pa + i)

/-- A write by the host or by a unit of the module. -/
def State.outsideWrite (s : State) (pa : Nat) (bs : List (Option Byte)) : State := s.unitWrite Agent.outside pa bs

/-- The sectors of `n` bytes that such a reader may read, read at their homes (01 R20). -/
def State.outsideTouch (s : State) (pa n : Nat) : State := s.unitTouch 0 pa n

/-- `n` bytes as such a reader has them: none where a sector is refused or poisoned. -/
def State.outsideBytes (s : State) (pa n : Nat) : Option (List Byte) :=
  if s.anyRefused 0 pa n || s.anyPoison pa n then none else some (s.bytes pa n)

/-! ### Poison (04 R91) -/

/-- A granule outside nodes 0 to 7 made poisoned. -/
def State.padPoison (s : State) (pa : Nat) : State := { s with poison := insertNat (pa / 32) s.poison }

/-- A granule made poisoned by a write: its sector in the home slice, or its poison bit elsewhere. -/
def State.setPoison (s : State) (ctx pa : Nat) : State :=
  if (s.place pa).isNode then
    if s.t2Lost pa then s
    else ((s.holdLine (pa / 256)).fetchSector pa).putL2 pa ⟨true, true, ctx, true⟩
  else s.padPoison pa

/-- Poison delivered by a context to every granule that a write of `n` bytes touches. -/
def State.spreadPoison (s : State) (ctx pa n : Nat) : State :=
  (List.range ((pa % 32 + n + 31) / 32)).foldl (fun s i => s.setPoison ctx (pa / 32 * 32 + 32 * i)) s

/-- A granule outside nodes 0 to 7 written as a whole with good data: it holds no poison, and a later error in it is a new one. -/
def State.clearPoison (s : State) (pa : Nat) : State :=
  { s with poison := eraseNat (pa / 32) s.poison, charged := eraseNat (pa / 32) s.charged }

/-! ### Writes elsewhere -/

/-- A write in a scratchpad, an extension or a weight store: a whole granule clears its poison (04 R91). -/
def State.padPut (s : State) (pa : Nat) (bs : List (Option Byte)) : State :=
  (pieces 32 (bs.length + 1) pa bs).foldl (fun s p =>
    let s1 := s.putBytes p.1 p.2
    if p.1 % 32 == 0 && p.2.length == 32 && p.2.all Option.isSome then s1.clearPoison p.1 else s1) s

/-- Whether `n` bytes from an address touch one of some ranges. -/
def overlaps (foot : List (Nat × Nat)) (pa n : Nat) : Bool := foot.any fun r => pa < r.1 + r.2 && r.1 < pa + n

/-- An operation whose operands a write touches: an MMA's are spoiled (11 R255). -/
def Op.spoil (o : Op) (pa n : Nat) : Op :=
  match o.kind with
  | .mma c => if overlaps c.foot pa n then { o with kind := .mma { c with spoiled := true } } else o
  | _ => o

/-- A write of `n` bytes seen by the MMA and ATTN commands that are outstanding, but for those that its writer `op` of
`task` precedes (02 R57, 11 R255, R262). -/
def State.spoil (s : State) (pa n task op : Nat) : State :=
  let one (t : Task) : Task := { t with ops := t.ops.map fun o => if op ≠ 0 ∧ t.id = task ∧ op ≤ o.id then o else o.spoil pa n }
  { s with
    cur := one s.cur
    others := s.others.map one
    streams := s.streams.map fun x =>
      if overlaps x.foot pa n && !(op != 0 && x.task == task && op ≤ x.op) then { x with spoiled := true } else x }

/-- A write in a scratchpad, an extension or a weight store by an agent that no outstanding command waits for. -/
def State.padWrite (s : State) (pa : Nat) (bs : List (Option Byte)) : State :=
  (s.padPut pa bs).spoil pa bs.length 0 0

/-- A write at a physical address by an engine or a remote agent, past the L1. -/
def State.physWrite (s : State) (a : Agent) (pa : Nat) (bs : List (Option Byte)) : State :=
  match s.place pa with
  | .node _ => s.homeWrite a pa bs
  | .none => s
  | _ => s.padWrite pa bs

end Sys2Proof.Machine
end

