-- ==== Sys2Proof/Machine/L1.lean ====
section
/-! DEFINITION. The L1 data cache of a core (04 R83 to R86): lines, fills, loads and stores, write-backs, generations. -/

namespace Sys2Proof.Machine

/-- Byte `i` of a line. -/
def L1Line.byte (l : L1Line) (i : Nat) : Byte := l.data.extractLsb' (8 * i) 8

/-- A 512-bit line from its bytes. -/
def lineOf (bs : List Byte) : BitVec 512 := BitVec.ofNat 512 (leNat bs)

/-- A line's dirty bytes written back at its home (04 R86). -/
def State.writeBack (s : State) (l : L1Line) : State := if l.dirty = 0 then s else (s.holdLine (l.line / 4)).mergeLine l

/-- Whether a line is the one of a core for a physical line, whatever its context. -/
def L1Line.is (l : L1Line) (loc line : Nat) : Bool := l.loc == loc && l.line == line

/-- Lines that a choice must leave, written back and dropped. -/
def State.dropLines (s : State) (p : L1Line → Bool) : State :=
  let s1 := (s.l1.filter p).foldl State.writeBack s
  { s1 with l1 := s1.l1.filter fun l => !p l }

/-- How many ways of a core's L1 hold lines (04 R87). -/
def State.waysOf (s : State) (loc : Nat) : Nat := 8 - (s.core loc).extWays - (s.core loc).converting

/-- Room for one more line in a set of a core's L1: a full set loses one line, freely chosen (log 11). -/
def State.makeRoom (s : State) (loc line : Nat) : State :=
  let set := s.l1.filter fun l => l.loc == loc && l.line % 512 == line % 512
  if set.length < s.waysOf loc then s
  else
    match set[Config.freeNat s.free % set.length]? with
    | some v => ({ s with free := s.free + 1 }).dropLines fun l => l.is loc v.line
    | none => s

/-- The line of a core and context for a physical line, if the L1 holds it. -/
def State.lineAt (s : State) (loc ctx line : Nat) : Option L1Line :=
  s.l1.find? fun l => l.is loc line && l.ctx == ctx

/-- The L1 with a line in it, in place of the one it had for that physical line. -/
def State.putLine (s : State) (l : L1Line) : State :=
  { s with l1 := l :: s.l1.filter fun x => !x.is l.loc l.line }

/-- The line of a core and context made ready to be used: another context's copy is written back and dropped, and a
line that misses is allocated empty, held by its home slice with the presence bit of the core's cluster (04 R83, R84); lines of
a weight store have no home slice (04 R78). -/
def State.openLine (s : State) (a : Agent) (line : Nat) : State × L1Line :=
  match s.lineAt a.loc a.ctx line with
  | some l => (s, l)
  | none =>
    let s1 := (s.dropLines fun l => l.is a.loc line).makeRoom a.loc line
    let s2 := if (s1.place (64 * line)).isNode then s1.markPresent a.loc (line / 4) else s1
    (s2, ⟨a.loc, a.ctx, line, 0, 0, 0, some (s2.core a.loc).gen, 0, 0, 0⟩)

/-- Whether byte `i` of a line must be fetched before it is read (04 R85). -/
def L1Line.needs (l : L1Line) (gen : BitVec 6) (i : Nat) : Bool :=
  !l.dirty.getLsbD i && (l.gen != some gen || !l.valid.getLsbD i)

/-- A line filled from its home or its weight store: only bytes that are not dirty change (04 R84, R85). From memory beyond
reach nothing comes (01 R16). -/
def State.fill (s : State) (l : L1Line) : State × Option L1Line :=
  let (s1, bs, _) := s.homeRead l.ctx (l.line * 64) 64
  let keep : BitVec 512 := BitVec.ofNat 512 ((List.range 64).foldl
    (fun m i => if l.dirty.getLsbD i then m + 255 * 256 ^ i else m) 0)
  let psn (h : Nat) : Nat := if s1.poisoned (l.line * 64 + 32 * h) then 2 ^ h else 0
  (s1, if s1.t2Lost (l.line * 64) then none else some { l with
    data := (l.data &&& keep) ||| (lineOf bs &&& ~~~keep)
    valid := BitVec.allOnes 64
    gen := some (s.core l.loc).gen
    poison := BitVec.ofNat 2 (psn 0 + psn 1) })

/-- Whether byte `i` of a line delivers poison. -/
def L1Line.bad (l : L1Line) (i : Nat) : Bool := !l.dirty.getLsbD i && l.poison.getLsbD (i / 32)

/-- A load through the L1 within one line (04 R84, R85) of the bytes under a mask: the machine, the bytes, and whether poison
was delivered. -/
def State.l1Load (s : State) (a : Agent) (pa : Nat) (mask : List Bool) : State × List Byte × Bool :=
  let (s1, l) := s.openLine a (pa / 64)
  let all := (List.range mask.length).map fun i => pa % 64 + i
  let idx := all.filter fun i => mask.getD (i - pa % 64) false
  let (s2, r) := if idx.any fun i => l.needs (s1.core a.loc).gen i then s1.fill l else (s1, some l)
  match r with
  | some l2 => (s2.putLine l2, all.map l2.byte, idx.any l2.bad)
  | none => (s2, mask.map fun _ => 0, true)

/-- A store into the L1 within one line (04 R84). -/
def State.l1Store (s : State) (a : Agent) (pa : Nat) (bs : List (Option Byte)) : State :=
  let (s1, l) := s.openLine a (pa / 64)
  let mask : Nat := bs.zipIdx.foldl (fun m p => if p.1.isSome then m + 2 ^ (pa % 64 + p.2) else m) 0
  let bytes := (List.range 64).map fun i =>
    if pa % 64 ≤ i then (bs.getD (i - pa % 64) none).getD (l.byte i) else l.byte i
  if mask = 0 then s
  else s1.putLine { l with
    data := lineOf bytes
    dirty := l.dirty ||| BitVec.ofNat 64 mask
    depth := max l.depth a.depth
    task := a.task }

/-- A line whose dirty bytes have been written back stays valid (04 R86); one that was dirty as a whole holds no poison. -/
def L1Line.clean (l : L1Line) : L1Line :=
  { l with
    dirty := 0, depth := 0, task := 0
    valid := l.valid ||| l.dirty
    poison := if l.dirty = BitVec.allOnes 64 then 0 else l.poison }

/-- Every dirty byte of a context in a core's L1 written back; the lines stay, clean (04 R86). -/
def State.flushCtx (s : State) (loc ctx : Nat) : State :=
  let mine (l : L1Line) : Bool := l.loc == loc && l.ctx == ctx
  let s1 := (s.l1.filter mine).foldl State.writeBack s
  { s1 with l1 := s1.l1.map fun l => if mine l then l.clean else l }

/-- The generation register of a core advances (04 R85); at the wrap clean lines go and dirty ones are marked for
refetch. -/
def State.advanceGen (s : State) (loc : Nat) : State :=
  let g := (s.core loc).gen
  let s1 := s.updCore loc fun c => { c with gen := g + 1 }
  if g = 63 then
    { s1 with l1 := (s1.l1.filter fun l => l.loc != loc || l.dirty != 0).map fun l =>
        if l.loc = loc then { l with gen := none } else l }
  else s1

end Sys2Proof.Machine
end

