-- ==== Sys2Proof/Machine/Translate.lean ====
section
/-! DEFINITION. Translation: trap causes, table entries, walks, TLB entries and permissions (20 R340, R342 to R344). -/

namespace Sys2Proof.Machine

/-! ### Translation -/

/-- What an access does (20 R340: c.XINFO.KIND). -/
inductive Acc where
  | load | store | atomic | fetch
  deriving DecidableEq, Repr

/-- The code of KIND. -/
def Acc.code : Acc → Nat
  | .load => 0
  | .store => 1
  | .atomic => 2
  | .fetch => 3

/-- Where a translated address leads. -/
inductive Target where
  | phys (pa : Nat)
  /-- A fabric page: module and window offset. -/
  | fabric (m off : Nat)
  deriving DecidableEq, Repr

/-- c.XINFO (20 R340). -/
def xinfo (level : Nat) (k : Acc) (fab malf psn : Bool) : Word :=
  BitVec.ofNat 64 (level + 4 * k.code + (if fab then 16 else 0) + (if malf then 32 else 0) +
    (if psn then 64 else 0))

/-- A trap with a cause and a value, raised at its bundle. -/
def Trap.now (cause : Nat) (eval : Word) : Trap := ⟨cause, eval, 0, false, none, none, [], none, false, none, none⟩

/-- A trap of translation, with c.XINFO. -/
def Trap.xl (cause : Nat) (eval : Word) (x : Word) : Trap := ⟨cause, eval, 0, false, some x, none, [], none, false, none, none⟩

/-- Cause codes (20 R340). -/
def cIllegal : Nat := 0x01
/-- REG_EMPTY. -/
def cRegEmpty : Nat := 0x02
/-- POISON. -/
def cPoison : Nat := 0x03
/-- MISALIGN. -/
def cMisalign : Nat := 0x04
/-- XLATE. -/
def cXlate : Nat := 0x05
/-- PROT. -/
def cProt : Nat := 0x06
/-- STACK_LIMIT. -/
def cStackLimit : Nat := 0x07
/-- SP_BOUND. -/
def cSpBound : Nat := 0x08
/-- KV_ABSENT. -/
def cKvAbsent : Nat := 0x09
/-- KV_HANDLE. -/
def cKvHandle : Nat := 0x0A
/-- KV_QUOTA. -/
def cKvQuota : Nat := 0x0B
/-- RUNAWAY_TRIGGER. -/
def cRunaway : Nat := 0x0C
/-- REPLAY_DIVERGE. -/
def cDiverge : Nat := 0x0D
/-- FP_TRAP. -/
def cFpTrap : Nat := 0x0E
/-- FABRIC. -/
def cFabric : Nat := 0x0F
/-- SEGMENT_AUTH. -/
def cSegAuth : Nat := 0x10
/-- WATCHDOG. -/
def cWatchdog : Nat := 0x11
/-- BREAK. -/
def cBreak : Nat := 0x12
/-- SVC. -/
def cSvc : Nat := 0x13
/-- TRAP. -/
def cTrap : Nat := 0x14
/-- UNCORRECTABLE. -/
def cUncorrectable : Nat := 0x15
/-- MACHINE. -/
def cMachine : Nat := 0x16

/-- The fields of a table entry (20 R343). -/
def pteType (e : Word) : Nat := (e.extractLsb' 0 2).toNat

/-- Whether an entry at a level is malformed (20 R343). -/
def pteMalformed (level : Nat) (e : Word) : Bool :=
  let ty := pteType e
  e.extractLsb' 7 9 != 0#9 ||
  (match ty with
   | 1 => level == 3 || e.extractLsb' 48 4 != 0#4 || e.extractLsb' 52 12 != 0#12
   | 2 =>
     level == 1 || e.extractLsb' 48 4 != 0#4 || e.extractLsb' 52 12 != 0#12 ||
       (level == 2 && e.extractLsb' 16 13 != 0#13)
   | _ => level != 3)

/-- The physical address of the table an entry names. -/
def pteTable (e : Word) : Nat := (e.extractLsb' 16 32).toNat * 0x10000

/-- How a walk ends: a leaf and whether it maps a block; or why there is none: at a level, a malformed entry, a poisoned one by
its physical address; or an entry address where there is no memory. -/
inductive Walk where
  | leaf (e : Word) (block : Bool)
  | fail (level : Nat) (malf : Bool) (psn : Option Nat)
  | hole (level pa : Nat)
  deriving DecidableEq, Repr

/-- The leaf at `a3`, entry `i` of its 32, where the contiguous hint lets one of the others stand for it (20 R343,
log 19). -/
def State.contiguous (s : State) (a3 i : Nat) (e : Word) : Word :=
  let j := Config.contLeaf s.tick % 32
  let a := a3 - 8 * i + 8 * j
  let x := BitVec.ofNat 64 (s.word a 8)
  if !e.getLsbD 5 || s.poisoned a || pteMalformed 3 x || pteType x != 2 then e
  else x + BitVec.ofInt 64 (((i : Int) - (j : Int)) * 2 ^ 16)

/-- The entry of a table at a level, or how the walk ends there (01 R13, 20 R342, R343). -/
def State.entryAt (s : State) (level pa : Nat) : Except Walk Word :=
  let e := BitVec.ofNat 64 (s.word pa 8)
  if !(s.place pa).isNode then .error (.hole level pa)
  else if s.poisoned pa then .error (.fail level false (some pa))
  else if pteType e = 0 then .error (.fail level false none)
  else if pteMalformed level e then .error (.fail level true none)
  else .ok e

/-- The walk of a context virtual address below 2^48, level by level (20 R342, R343). -/
def State.walk (s : State) (root va : Nat) : Walk :=
  match s.entryAt 1 (root + 8 * (va / 2 ^ 42 % 64)) with
  | .error w => w
  | .ok e1 =>
    match s.entryAt 2 (pteTable e1 + 8 * (va / 2 ^ 29 % 8192)) with
    | .error w => w
    | .ok e2 =>
      if pteType e2 = 2 then .leaf e2 true
      else
        let a3 := pteTable e2 + 8 * (va / 2 ^ 16 % 8192)
        match s.entryAt 3 a3 with
        | .error w => w
        | .ok e3 => .leaf (s.contiguous a3 (va / 2 ^ 16 % 32) e3) false

/-- The size of what a span maps, as a power of two. -/
def Span.bits : Span → Nat
  | .page => 16
  | .run => 21
  | .block => 29

/-- Whether a TLB entry maps an address. -/
def TlbEntry.maps (e : TlbEntry) (va : Nat) : Bool := e.page * 2 ^ 16 / 2 ^ e.span.bits == va / 2 ^ e.span.bits

/-- The leaf that a TLB entry gives for an address that it maps: the entry of a run lies in line with its own page. -/
def TlbEntry.leafFor (e : TlbEntry) (va : Nat) : Walk :=
  match e.span with
  | .block => .leaf e.leaf true
  | .page => .leaf e.leaf false
  | .run => .leaf (e.leaf + BitVec.ofInt 64 ((((va / 2 ^ 16 : Nat) : Int) - (e.page : Int)) * 2 ^ 16)) false

/-- Where the leaf for an access is looked for (20 R344): the TLBs of a core and its cluster, the TLB of a cluster, by the number of
its slice, alone for its engines, or by a walk alone. -/
inductive Via where
  | core (loc : Nat)
  | engine (slice : Nat)
  | walker
  deriving DecidableEq, Repr

/-- The TLBs that an access looks in, in order. -/
def Via.tlbs : Via → List Tlb
  | .core loc => [.core loc, .cluster (sliceOf loc)]
  | .engine slice => [.cluster slice]
  | .walker => []

/-- The entry of the first of some TLBs that maps an address of a context. -/
def State.tlbHit (s : State) (ctx va : Nat) : List Tlb → Option TlbEntry
  | [] => none
  | t :: ts => (s.tlb.find? fun e => e.tlb == t && e.ctx == ctx && e.maps va).or (s.tlbHit ctx va ts)

/-- The leaf for an address: from a TLB entry of the context if there is one, else by a walk (20 R344). -/
def State.leafOf (s : State) (via : Via) (c : Ctx) (va : Nat) : Walk :=
  match s.tlbHit c.id va via.tlbs with
  | some e => e.leafFor va
  | none => s.walk c.ptroot va

/-- Whether a leaf's permissions refuse an access (20 R343). -/
def permFails (e : Word) (sv : Bool) (k : Acc) : Bool :=
  let r := e.getLsbD 2
  let w := e.getLsbD 3
  let x := e.getLsbD 4
  (e.getLsbD 6 && !sv) ||
  (match k with
   | .load => !r
   | .store => !w
   | .atomic => !(r && w)
   | .fetch => !x)

/-- The target of an address under a leaf. -/
def leafTarget (e : Word) (block : Bool) (va : Nat) : Target :=
  if block then .phys ((e.extractLsb' 29 19).toNat * 2 ^ 29 + va % 2 ^ 29)
  else if pteType e = 3 then
    .fabric (e.extractLsb' 52 12).toNat ((e.extractLsb' 16 36).toNat * 0x10000 + va % 0x10000)
  else .phys (pteTable e + va % 0x10000)

/-- A context virtual address translated and its permission checked (20 R342, R343). A walk that leaves memory raises MACHINE
with the physical address (01 R13). -/
def State.translate (s : State) (via : Via) (ctx : Nat) (sv : Bool) (k : Acc) (va : Word) : Except Trap Target :=
  if va.extractLsb' 48 16 != 0#16 then .error (.xl cXlate va (xinfo 1 k false false false))
  else
    match s.ctxOf ctx with
    | none => .error (.xl cXlate va (xinfo 1 k false false false))
    | some c =>
      match s.leafOf via c va.toNat with
      | .hole l pa => .error (.xl cMachine (BitVec.ofNat 64 pa) (xinfo l k false false false))
      | .fail l _ (some pa) => .error { Trap.xl cMachine va (xinfo l k false false true) with walk := some pa }
      | .fail l malf none => .error (.xl cXlate va (xinfo l k false malf false))
      | .leaf e block =>
        if permFails e sv k then
          .error (.xl cProt va (xinfo 0 k (pteType e == 3) false false))
        else .ok (leafTarget e block va.toNat)

/-- A trap of translation that reports a virtual address, with the lowest address accessed in its place. -/
def Trap.reportAt (t : Trap) (va : Word) : Trap := if t.cause = cMachine ∧ t.walk = none then t else { t with eval := va }

/-- Poison read by a walk charged to the walked context, once for the error (01 R21, 20 R343): a table's sector that fails its
tag is written back as poisoned and recorded (01 R20). -/
def State.walkLost (s : State) (ctx pa : Nat) : State :=
  if s.stale pa && !(s.l2Sector pa).valid then s.sectorLostTo (some ctx) pa 3 else s.chargeOnce ctx (pa / 64 * 64)

/-- The charge of a poisoned walk to the walked context. -/
def State.walkCharge (s : State) (ctx : Nat) (t : Trap) : State :=
  match t.walk with
  | some pa => s.walkLost ctx pa
  | none => s

/-- A poisoned walk of an address by one of the module's own units, charged where the walk fails (01 R21, 20 R343). -/
def State.walkTouch (s : State) (ctx : Nat) (k : Acc) (va : Word) : State :=
  match s.translate .walker ctx false k va with
  | .error t => s.walkCharge ctx t
  | .ok _ => s

end Sys2Proof.Machine
end

