-- ==== Sys2Proof/Machine/Ops.lean ====
section
/-! DEFINITION. The operations that the meanings share: reading and writing registers and control registers, results
that land later, timelines, error records, taking a trap and returning from it, issuing a bundle and committing it. -/

namespace Sys2Proof.Machine

/-- The answer of an instruction. -/
abbrev Res := Host.Outcome State Fault Refusal

/-- Why a bundle does not commit: a trap, or a wait at issue that parks its task or only stalls it (06 R125). -/
inductive Stop where
  | trap (t : Trap)
  | wait (parks : Bool)
  deriving DecidableEq, Repr

/-- The machine with the focused task changed. -/
def State.setCur (s : State) (f : Task → Task) : State := { s with cur := f s.cur }

/-- The focused task with its register files changed. -/
def State.setRegs (s : State) (f : Regs → Regs) : State := s.setCur fun t => { t with regs := f t.regs }

/-- The focused task with its control registers changed. -/
def State.setCtl (s : State) (f : Ctl → Ctl) : State := s.setCur fun t => { t with ctl := f t.ctl }

/-- The context of the focused task. -/
def State.myCtx (s : State) : Ctx := (s.ctxOf s.cur.ctx).getD Ctx.supervisor

/-! ### Reading registers -/

/-- A scalar register; s0 reads 0 (06 R121). -/
def Task.readS (t : Task) (r : SReg) : Word := if r = 0 then 0 else t.regs.s[r].val

/-- A scalar register of the focused task. -/
def State.readS (s : State) (r : SReg) : Word := s.cur.readS r

/-- A vector register of the focused task. -/
def State.readV (s : State) (r : VReg) : VWord := s.cur.regs.v[r].val

/-- A predicate; p0 is true (06 R121). -/
def State.readP (s : State) (r : PReg) : Bool := r == 0 || s.cur.regs.p.getLsbD r.val

/-- The fmt that governs the bundle (06 R129). -/
def State.fmt (s : State) : BitVec 32 := s.cur.regs.fmt

/-- fmt.RND as a rounding mode (06 R127). -/
def State.rm (s : State) : Rm := Rm.ofRnd (s.fmt.extractLsb' 0 2)

/-- fmt.F8 (06 R127). -/
def State.f8 (s : State) : Nat := (s.fmt.extractLsb' 2 2).toNat

/-- em (06 R121). -/
def State.em (s : State) : BitVec 32 := s.cur.regs.em.val

/-- A free value of `w` bits (log 5). -/
def State.freeVal (s : State) (w : Nat) : BitVec w := Config.freeBits s.free w

/-- The next free value will be another one. -/
def State.tookFree (s : State) : State := { s with free := s.free + 1 }

/-! ### Control registers -/

/-- c.STATUS as a word (06 R136). -/
def Ctl.status (c : Ctl) : Word :=
  BitVec.ofNat 64 (c.sv.toNat + 2 * c.scopex.toNat + 4 * c.convx.toNat + 8 * c.intrap.toNat)

/-- c.LOC of a location and stage (06 R136). -/
def locWord (loc stage : Nat) : Word :=
  BitVec.ofNat 64 (loc + dieOf loc * 2 ^ 10 + clusterOf loc * 2 ^ 13 + coreOf loc * 2 ^ 17 + stage * 2 ^ 21)

/-- c.WSREF: the refresh phase of the own die's weight store, 0 on an A-die (04 R94). The position within a partition
is a free value (log 4). -/
def State.wsref (s : State) : Word :=
  let d := dieOf s.cur.loc
  if d < 2 then 0
  else
    let part := s.wsPhase.toList.getD (d - 2) 0 / 2048 % 8
    BitVec.ofNat 64 (part * 2048 + Config.freeNat s.free % 2048 + part * 2 ^ 14)

/-- Control register `k` as the focused task reads it (06 R136, 20 R340). -/
def State.readCtl (s : State) (k : Nat) : Word :=
  let c := s.cur.ctl
  match k with
  | 0x000 => c.status
  | 0x001 => c.cause
  | 0x002 => c.epc
  | 0x003 => c.eval
  | 0x004 => c.tvec
  | 0x005 => c.slim
  | 0x006 => c.spb
  | 0x007 => c.spl
  | 0x008 => c.iter
  | 0x009 => c.trip
  | 0x00A => c.taskid
  | 0x00B => c.coord
  | 0x00C => c.part
  | 0x00D => c.stage
  | 0x00E => locWord s.cur.loc s.cur.stage
  | 0x00F => (s.core s.cur.loc).cycles
  | 0x010 => c.srkey
  | 0x011 => c.srctr
  | 0x012 => c.wdint
  | 0x013 => s.wsref
  | 0x014 => BitVec.ofNat 64 s.myCtx.etch
  | 0x015 => c.trigcnt
  | 0x016 => c.mcstat
  | 0x017 => c.kvstat
  | 0x018 => s.cur.regs.sp
  | 0x019 => s.cur.regs.lk
  | 0x01A => s.fmt.setWidth 64
  | 0x100 => c.xinfo
  | 0x101 => BitVec.ofNat 64 c.psv.toNat
  | 0x102 => BitVec.ofNat 64 s.cur.ctx
  | 0x103 => c.sscr[0]
  | 0x104 => c.sscr[1]
  | 0x105 => c.sscr[2]
  | 0x106 => c.sscr[3]
  | 0x107 => c.wdcnt
  | _ => 0

/-- Registers that software does not write (06 R136, 20 R340). -/
def ctlReadOnly (k : Nat) : Bool :=
  [0x001, 0x002, 0x003, 0x006, 0x007, 0x008, 0x009, 0x00A, 0x00B, 0x00C, 0x00D, 0x00E, 0x00F, 0x013, 0x014, 0x015,
   0x017, 0x01A, 0x100, 0x101, 0x102, 0x107].contains k

/-- Registers that need supervisor mode for any access (06 R136). -/
def ctlSupervisor (k : Nat) : Bool := k == 0x004 || 0x100 ≤ k

/-- The bits of c.MCSTAT that hold anything (06 R136). -/
def mcstatMask : Word := 0x0000FFFFFFFFFFE1#64

/-- A task with control register `k` written by software (06 R136, 08 R169): W1C bits clear, RO and reserved bits
stay. -/
def Task.writeCtl (t : Task) (k : Nat) (v : Word) : Task :=
  let c := t.ctl
  match k with
  | 0x000 =>
    { t with ctl := { c with scopex := c.scopex && !v.getLsbD 1, convx := c.convx && !v.getLsbD 2 } }
  | 0x004 => { t with ctl := { c with tvec := v } }
  | 0x005 => { t with ctl := { c with slim := v } }
  | 0x010 => { t with ctl := { c with srkey := v } }
  | 0x011 => { t with ctl := { c with srctr := v } }
  | 0x012 => { t with ctl := { c with wdint := v } }
  | 0x016 => { t with ctl := { c with mcstat := v &&& mcstatMask } }
  | 0x103 => { t with ctl := { c with sscr := c.sscr.set 0 v } }
  | 0x104 => { t with ctl := { c with sscr := c.sscr.set 1 v } }
  | 0x105 => { t with ctl := { c with sscr := c.sscr.set 2 v } }
  | 0x106 => { t with ctl := { c with sscr := c.sscr.set 3 v } }
  | _ => t

/-! ### Results -/

/-- The low `w` bits of a 1,024-bit word. -/
def lowMask (w : Nat) : BitVec 1024 := BitVec.ofNat 1024 (2 ^ w - 1)

/-- A value for all of a scalar register. -/
def outS (r : SReg) (x : Word) : Out := ⟨.s r, lowMask 64, x.setWidth 1024⟩

/-- A predicate. -/
def outP (r : PReg) (b : Bool) : Out := ⟨.p r, 1, if b then 1 else 0⟩

/-- A value for a register outside the files. -/
def outOf (d : Dst) {w : Nat} (x : BitVec w) : Out := ⟨d, lowMask w, x.setWidth 1024⟩

/-- The bits of `old` under `mask` replaced (06 R126). -/
def merge {w : Nat} (old : BitVec w) (o : Out) : BitVec w :=
  (old &&& ~~~(o.mask.setWidth w)) ||| (o.data.setWidth w &&& o.mask.setWidth w)

/-- A register with a fixed-latency result landed: an EMPTY register keeps what it has, a POISONED one becomes FULL
(06 R124, R132). -/
def Reg.land {w : Nat} (x : Reg w) (o : Out) : Reg w :=
  match x.st with
  | .empty .. => x
  | .failed .. => { x with val := merge x.val o }
  | _ => ⟨merge x.val o, .full⟩

/-- A task with a fixed-latency result landed. -/
def Task.land (t : Task) (o : Out) : Task :=
  let r := t.regs
  match o.dst with
  | .s i => if i = 0 then t else { t with regs := { r with s := r.s.set i (r.s[i].land o) } }
  | .v i => { t with regs := { r with v := r.v.set i (r.v[i].land o) } }
  | .p i =>
    if i = 0 then t
    else { t with regs := { r with p := if o.data.getLsbD 0 then r.p ||| ((1 : BitVec 8) <<< i.val) else r.p &&& ~~~((1 : BitVec 8) <<< i.val) } }
  | .em => { t with regs := { r with em := r.em.land o } }
  | .cm => { t with regs := { r with cm := merge r.cm o } }
  | .fmt => { t with regs := { r with fmt := merge r.fmt o } }
  | .sp => { t with regs := { r with sp := merge r.sp o } }
  | .lk => { t with regs := { r with lk := merge r.lk o } }
  | .mp k => { t with regs := { r with mp := r.mp.set k (merge r.mp[k] o) } }
  | .convx => { t with ctl := { t.ctl with convx := true } }
  | .cr k => t.writeCtl k (o.data.setWidth 64)
  | .shadow k => if h : k < 11 then { t with shadow := t.shadow.set k (o.data.setWidth 64) } else t

/-- A result of the bundle that will land after `n` bundle boundaries (06 R131). -/
def State.later (s : State) (n : Nat) (o : Out) : State :=
  s.setCur fun t => { t with pend := t.pend ++ [⟨n, o⟩] }

/-- Several results with one latency. -/
def State.laterAll (s : State) (n : Nat) (os : List Out) : State :=
  s.setCur fun t => { t with pend := t.pend ++ os.map fun o => ⟨n, o⟩ }

/-- One bundle boundary of a task: results whose count ends land in issue order (06 R131, R132). -/
def Task.advance (t : Task) : Task :=
  let ps := t.pend.map fun p => { p with rem := p.rem - 1 }
  let due := ps.filter fun p => p.rem == 0
  due.foldl (fun t p => t.land p.out) { t with pend := ps.filter fun p => p.rem != 0 }

/-- A register that a long-latency producer marks EMPTY (06 R124). -/
def Reg.mark {w : Nat} (x : Reg w) : Reg w :=
  match x.st with
  | .empty n b f p => { x with st := .empty (n + 1) b f p }
  | _ => { x with st := .empty 1 x.val none false }

/-- A task with a destination marked EMPTY; its pending fixed-latency results are discarded (06 R132). -/
def Task.mark (t : Task) (d : Dst) : Task :=
  let r := t.regs
  let t1 := { t with pend := t.pend.filter fun p => p.out.dst != d }
  match d with
  | .s i => if i = 0 then t else { t1 with regs := { r with s := r.s.set i r.s[i].mark } }
  | .v i => { t1 with regs := { r with v := r.v.set i r.v[i].mark } }
  | .em => { t1 with regs := { r with em := r.em.mark } }
  | _ => t

/-- How a producer ends at a register (06 R124): with data, with poison, or failed. -/
inductive Ending where
  | data
  | poison
  | fail (f : Fail) (op : Nat)
  deriving DecidableEq, Repr

/-- A register after one of its outstanding producers completes (06 R124). After the last it is FAILED if any of them
failed, else it holds the last one's result. A failed register holds the ticket afterwards for ATTN and the KV
instructions, and for every other producer what it held before. -/
def Reg.fill {w : Nat} (x : Reg w) (o : Out) (e : Ending) : Reg w :=
  match x.st with
  | .empty n before bad psn =>
    let val := match e with
      | .fail .. => x.val
      | _ => merge x.val o
    let bad' := match bad, e with
      | some b, _ => some b
      | none, .fail f op => some (f, op, match f.link with
        | some k => BitVec.ofNat w k.2
        | none => before)
      | none, _ => none
    let psn' := match e with
      | .data => false
      | .poison => true
      | .fail .. => psn
    if 1 < n then ⟨val, .empty (n - 1) before bad' psn'⟩
    else match bad' with
      | some (f, op, after) => ⟨val, .failed f op after⟩
      | none => ⟨val, if psn' then .poisoned else .full⟩
  | _ => x

/-- A task with a destination of a completed producer filled; a result for s0 is discarded, and em takes no poison (06 R121). -/
def Task.fill (t : Task) (o : Out) (e : Ending) : Task :=
  let r := t.regs
  match o.dst with
  | .s i => if i = 0 then t else { t with regs := { r with s := r.s.set i (r.s[i].fill o e) } }
  | .v i => { t with regs := { r with v := r.v.set i (r.v[i].fill o e) } }
  | .em => { t with regs := { r with em := r.em.fill o (if e = .poison then .data else e) } }
  | _ => t

/-- A register of a producer whose cause has been raised (06 R124): one that was FAILED becomes FULL, and one that waits for another
producer forgets the failure, which is raised once for all. -/
def Reg.raised {w : Nat} (x : Reg w) (op : Nat) : Reg w :=
  match x.st with
  | .failed _ op' after => if op' = op then ⟨after, .full⟩ else x
  | .empty n _ (some (_, op', after)) psn => if op' = op then { x with st := .empty n after none psn } else x
  | _ => x

/-- A task whose producer `op` has had its cause raised, at each of its destinations. -/
def Task.raised (t : Task) (op : Nat) : Task :=
  { t with regs := { t.regs with
      s := t.regs.s.map fun x => x.raised op
      v := t.regs.v.map fun x => x.raised op
      em := t.regs.em.raised op } }

/-! ### Timelines -/

/-- The place of a timeline in the table (07 R141). -/
def Timeline.ix : Timeline → Fin 6
  | .haul => 0
  | .mma => 1
  | .attn => 2
  | .fabric => 3
  | .kv => 4
  | .sw => 5

/-- The counter moved past tickets that completed ahead of it (04 R100). -/
def absorb : Nat → Nat → List Nat → Nat × List Nat
  | 0, c, e => (c, e)
  | fuel + 1, c, e => if e.contains (c + 1) then absorb fuel (c + 1) (e.erase (c + 1)) else (c, e)

/-- A timeline with ticket `n` completed, failed or not (04 R100, R101). -/
def Tl.complete (t : Tl) (n : Nat) (f : Option Fail) (op : Option Nat) : Tl :=
  let r := absorb (t.early.length + 1) t.count (n :: t.early)
  { t with
    count := r.1
    early := r.2
    failed := match f with
      | some x => t.failed ++ [⟨n, x, op, false⟩]
      | none => t.failed }

/-- A task with one timeline changed. -/
def Task.updTl (t : Task) (i : Fin 6) (f : Tl → Tl) : Task := { t with tls := t.tls.set i (f t.tls[i]) }

/-- The ticket that the next command of a timeline will draw (04 R100). -/
def Task.nextTicket (t : Task) (i : Fin 6) : Nat := t.tls[i].issued + 1

/-- A task with one more ticket drawn. -/
def Task.draw (t : Task) (i : Fin 6) : Task := t.updTl i fun x => { x with issued := x.issued + 1 }

/-- A task with a failed ticket reported (10 R237). -/
def Task.reported (t : Task) (i n : Nat) : Task :=
  if h : i < 6 then
    t.updTl ⟨i, h⟩ fun x => { x with failed := x.failed.map fun f => if f.ticket = n then { f with reported := true } else f }
  else t

/-- The lowest failed ticket up to `n` that has not been reported. -/
def Tl.unreported (t : Tl) (n : Nat) : Option FailedTicket :=
  (t.failed.filter fun f => f.ticket ≤ n && !f.reported).foldl (fun best f =>
    match best with
    | none => some f
    | some b => if f.ticket < b.ticket then some f else some b) none

/-! ### Error records -/

/-- Offsets of a die's log block registers (01 R29). -/
def logReg (die off : Nat) : Nat := ctlBase die + 0xF0000 + off

/-- A 32-bit count that saturates. -/
def satAdd32 (x : Nat) : Nat := if x < 2 ^ 32 - 1 then x + 1 else x

/-- Register `pa` of memory control space written by hardware. -/
def State.mcrPut (s : State) (pa : Nat) (v : Word) : State := { s with mcr := Tbl.put (mcrReset pa) s.mcr pa v }

/-- The ring of a die's error log (01 R29): its base and how many records it holds. -/
def State.logRing (s : State) (die : Nat) : Nat × Nat :=
  ((s.mcrGet (logReg die 0x00)).toNat / 4096 * 4096 % 2 ^ 48, 2 ^ (min 9 ((s.mcrGet (logReg die 0x08)).toNat % 16) + 7))

/-- The bytes of an error record (01 R29). -/
def logBytes (type stack chan slot sym count : Nat) (pa : Word) (cyc seq : Nat) : List Byte :=
  natLe 2 type ++ natLe 1 stack ++ natLe 1 chan ++ natLe 1 slot ++ natLe 1 sym ++ natLe 2 count ++
    natLe 8 pa.toNat ++ natLe 8 cyc ++ natLe 4 seq ++ natLe 4 0

/-- Whether error records at an address are in tier T0 or tier T1 (01 R29). -/
def State.logPlace (s : State) (pa : Nat) : Bool :=
  match s.place pa with
  | .node n => n < 7
  | _ => false

/-- The unread record of a die's log that an event folds into (01 R30): a CE or FRING_FAIL record identical but for its count,
cycle count and number. -/
def State.foldInto (s : State) (die type stack chan slot sym : Nat) (pa : Word) : Option Nat :=
  if type = 1 ∨ type = 11 then
    let (base, size) := s.logRing die
    let head := (s.mcrGet (logReg die 0x10)).toNat % 2 ^ 32
    let tail := (s.mcrGet (logReg die 0x18)).toNat % 2 ^ 32
    let want := leNat (natLe 2 type ++ natLe 1 stack ++ natLe 1 chan ++ natLe 1 slot ++ natLe 1 sym)
    ((List.range (min size ((head + 2 ^ 32 - tail) % 2 ^ 32))).map fun i => base + 32 * ((tail + i) % 2 ^ 32 % size)).find? fun a =>
      s.word a 6 == want && s.word (a + 8) 8 == pa.toNat
  else none

/-- A record of a die's log counted as dropped (01 R30). -/
def State.logDrop (s : State) (die : Nat) : State :=
  s.mcrPut (logReg die 0x20) (BitVec.ofNat 64 (satAdd32 (s.mcrGet (logReg die 0x20)).toNat))

/-- An error record in a die's log (01 R29, R30, log 96): an identical unread CE or FRING_FAIL record takes the event into its
count, and a full ring, or one that is not in tier T0 or T1, drops it. The controller's cycle count is free (log 4). -/
def State.errLog (s : State) (die type stack chan slot sym : Nat) (pa : Word) : State :=
  let (base, size) := s.logRing die
  let head := (s.mcrGet (logReg die 0x10)).toNat % 2 ^ 32
  let tail := (s.mcrGet (logReg die 0x18)).toNat % 2 ^ 32
  let at_ := base + 32 * (head % size)
  match s.foldInto die type stack chan slot sym pa with
  | some a =>
    let n := natLe 2 (min 65535 (s.word (a + 6) 2 + 1))
    let seq := s.word (a + 24) 4
    { s.homeWrite Agent.outside (a + 6) (n.map some) with
      board := { s.board with records := s.board.records.map fun r =>
        if r.1 == die && field r.2 24 4 == seq then (r.1, r.2.take 6 ++ n ++ r.2.drop 8) else r } }
  | none =>
    if (head + 2 ^ 32 - tail) % 2 ^ 32 = size ∨ s.logPlace at_ = false then
      s.logDrop die
    else
      let seq := s.logSeq.toList.getD die 0 + 1
      let rec_ := logBytes type stack chan slot sym 1 pa (s.freeVal 64).toNat (seq % 2 ^ 32)
      let s1 := (s.tookFree.homeWrite Agent.outside at_ (rec_.map some)).mcrPut (logReg die 0x10) (BitVec.ofNat 64 ((head + 1) % 2 ^ 32))
      { s1 with
        logSeq := if h : die < 6 then s1.logSeq.set die seq else s1.logSeq
        board := { s1.board with records := s1.board.records ++ [(die, rec_)] } }

/-- The physical ranges behind `n` bytes at a virtual address of a context as the module's own units reach them, page by page:
memory nodes and scratchpads, none of them refused. -/
def State.ctxPieces (s : State) (ctx : Nat) (k : Acc) : Nat → Word → Nat → Except (Option Trap) (List (Nat × Nat))
  | 0, _, _ => .error none
  | fuel + 1, va, n =>
    let m := min n (0x10000 - va.toNat % 0x10000)
    match s.translate .walker ctx true k va with
    | .error t => .error (some t)
    | .ok (.fabric ..) => .error none
    | .ok (.phys pa) =>
      let ok := match s.place pa with
        | .node _ => !s.anyRefused ctx pa m
        | .pad .. => true
        | _ => false
      if !ok then .error none
      else if n ≤ m then .ok [(pa, m)]
      else match s.ctxPieces ctx k fuel (va + BitVec.ofNat 64 m) (n - m) with
        | .ok ps => .ok ((pa, m) :: ps)
        | .error e => .error e

/-- Bytes written over pieces of memory nodes and scratchpads. -/
def State.writeOver (s : State) (a : Agent) : List (Nat × Nat) → List (Option Byte) → State
  | [], _ => s
  | p :: ps, bs =>
    let b := bs.take p.2
    (if (s.place p.1).isNode then s.homeWrite a p.1 b else s.padWrite p.1 b).writeOver a ps (bs.drop p.2)

/-- A write by hardware at a virtual address of a context; `none` when it does not translate to memory nodes or
scratchpads, or is refused. -/
def State.ctxWrite (s : State) (ctx : Nat) (depth : Nat) (va : Word) (bs : List (Option Byte)) : Option State :=
  match s.ctxPieces ctx .store (bs.length / 0x10000 + 2) va bs.length with
  | .ok ps => some (s.writeOver ⟨ctx, depth, 0, 0⟩ ps bs)
  | .error _ => none

/-- The bytes at a virtual address of a context as hardware reads them at their home, and whether any is poisoned. -/
def State.ctxRead (s : State) (ctx : Nat) (va : Word) (n : Nat) : Option (List Byte × Bool) :=
  match s.ctxPieces ctx .load (n / 0x10000 + 2) va n with
  | .ok ps => some (ps.flatMap fun p => s.bytes p.1 p.2, ps.any fun p => s.anyPoison p.1 p.2)
  | .error _ => none

/-- The sectors of such a read held by their homes, and a poisoned walk charged (01 R20, 20 R343). -/
def State.ctxTouch (s : State) (ctx : Nat) (va : Word) (n : Nat) : State :=
  match s.ctxPieces ctx .load (n / 0x10000 + 2) va n with
  | .ok ps => ps.foldl (fun s p => s.touch ctx p.1 p.2) s
  | .error t => (t.map (s.walkCharge ctx)).getD s

/-- A write by hardware that cannot be made: a poisoned walk of it is charged (20 R343). -/
def State.ctxMiss (s : State) (ctx : Nat) (va : Word) (n : Nat) : State :=
  match s.ctxPieces ctx .store (n / 0x10000 + 2) va n with
  | .ok _ => s
  | .error t => (t.map (s.walkCharge ctx)).getD s

/-- A write by hardware at a virtual address of a context, dropped where it cannot be made. -/
def State.ctxPut (s : State) (ctx : Nat) (va : Word) (bs : List Byte) : State :=
  (s.ctxWrite ctx 0 va (bs.map some)).getD (s.ctxMiss ctx va bs.length)

/-- A record in a context's fault ring, and the sequence number it has or would have had (20 R348, R353). -/
def State.faultRing (s0 : State) (c : Ctx) (die type cause task : Nat) (value aux : Word) : State × Word :=
  let s := s0.ctxTouch c.id c.fring 64
  match s.ctxRead c.id c.fring 64 with
  | none => (s.errLog die 11 0xFF (c.id % 256) cause 0 c.fring, 0xFFFFFFFF)
  | some (blk, _) =>
    let head := field blk 0 4
    let tail := field blk 4 4
    let lost := field blk 8 4
    let size := 2 ^ (c.frk + 5)
    let lose : State × Word :=
      match s.ctxWrite c.id 0 (c.fring + 8) ((natLe 4 (satAdd32 lost)).map some) with
      | some s1 => (s1, BitVec.ofNat 64 (head + satAdd32 lost))
      | none => ((s.ctxMiss c.id (c.fring + 8) 4).errLog die 11 0xFF (c.id % 256) cause 0 c.fring, 0xFFFFFFFF)
    if (head + 2 ^ 32 - tail) % 2 ^ 32 = size then lose
    else
      let rec_ : List Byte := natLe 2 type ++ natLe 1 cause ++ natLe 1 die ++ natLe 4 task ++ natLe 8 value.toNat ++
        natLe 8 aux.toNat ++ natLe 4 (head + 1) ++ natLe 4 0
      match s.ctxWrite c.id 0 (c.fring + 64 + BitVec.ofNat 64 (32 * (head % size))) (rec_.map some) with
      | none => lose
      | some s1 =>
        match s1.ctxWrite c.id 0 c.fring ((natLe 4 (head + 1)).map some) with
        | some s2 => (s2, BitVec.ofNat 64 ((head + 1) % 2 ^ 32))
        | none => ((s.ctxMiss c.id c.fring 4).errLog die 11 0xFF (c.id % 256) cause 0 c.fring, 0xFFFFFFFF)

/-- The record without its number. -/
def State.record (s : State) (ctx die type cause task : Nat) (value aux : Word) : State :=
  match s.ctxOf ctx with
  | some c => (s.faultRing c die type cause task value aux).1
  | none => s

/-- Registers whose maps give no reset value, which a module reset keeps (24 R375, log 16): the error log's, the
journal's and the notification ring's. -/
def isKeptReg (pa : Nat) : Bool :=
  let off := (pa - 0x0F0000000000) % 0x1000000
  (0xF0000 ≤ off && off < 0xF0028) || (0xD0000 ≤ off && off < 0xD0060)

/-- Whether a register counts errors (01 R28, R30): HMCH of a channel, or HMLOGD. -/
def isCountReg (pa : Nat) : Bool :=
  let off := (pa - 0x0F0000000000) % 0x1000000
  (off < 0x50000 && 0x100 ≤ off % 0x10000 && off % 0x10000 < 0x200) || off == 0xF0020

/-- FXID (03 R77). -/
def fxid : Nat := ctlBase 0 + 0x80000

/-- The module's own incarnation, FXID.INC (03 R66). -/
def State.incarnation (s : State) : Nat := ((s.mcrGet fxid).extractLsb' 24 16).toNat

/-- Fuse pairs with both bits blown (23 R367). -/
def Sec.arb (x : Sec) : Nat := (x.fuses.filter fun p => p.1 && p.2).length

/-- Fuse pairs left half blown (23 R367). -/
def Sec.wasted (x : Sec) : Nat := (x.fuses.filter fun p => p.1 != p.2).length

/-- The boot ROM's choice at bring-up (23 R367): an image that is to be activated runs if its signature and its security
version pass, else the previous one stays. -/
def Board.booted (b : Board) (arb : Nat) : Board :=
  match b.fwStaged with
  | some (v, image) =>
    if b.fwArmed && Config.firmwareOk image && arb ≤ v && v ≤ 64 then
      { b with fwStaged := none, fwArmed := false, fwRunning := v, fwImage := image }
    else { b with fwArmed := false }
  | none => { b with fwArmed := false }

/-- The HBM4E stacks, numbered 4 × die + stack (01 R9). -/
def linkNos : List Nat := [0, 1, 2, 3, 4, 5, 6, 7, 8, 12, 16, 20]

/-- The mailbox submissions that meet a reset: their completion words receive CONTEXT_GONE (24 R375, 15 R301). -/
def State.goneMailboxes (s : State) : State :=
  s.subs.foldl (fun s x => match x.src with
    | .mailbox _ pa =>
      let va := BitVec.ofNat 64 (s.word (pa + 16) 8)
      if va = 0 then s
      else match s.translate .walker x.ctx false .store va with
        | .ok (.phys a) =>
          if (s.place a).isNode && !s.refused x.ctx a && a % 8 == 0 then s.homeWrite ⟨x.ctx, 0, 0, 0⟩ a ((natLe 8 2).map some)
          else s
        | .ok (.fabric ..) => s
        | .error t => s.walkCharge x.ctx t
    | _ => s) s

/-- A module reset (24 R375), up to the bring-up that follows it: the incarnation rises, the registers return to their reset values
(log 16), contexts, tasks, queues, watches and KV spaces go, and key slots but 0 are cleared. Memory, the fuses and what the board
keeps stay, and what the slices hold dirty goes to memory (log 16); the board copies the error counters (01 R30). -/
def State.moduleReset (s : State) : State :=
  let s := (s.goneMailboxes).l2.foldl (fun s l => l.dirtyOnes.foldl (fun s e =>
    s.writeSector (256 * l.line + 64 * e.1) e.2.1 e.2.2 false) s) s.goneMailboxes
  let inc := (s.incarnation + 1) % 2 ^ 16
  { State.reset with
    agenda := s.agenda
    cores := s.cores.filterMap fun e => if e.2.failed then some (e.1, { Core.init with failed := true }) else none
    mem := s.mem.filter fun c => (s.place c.1).isNode
    sectors := s.sectors
    charged := s.charged.filter fun g => (s.place (32 * g)).isNode
    linkKey := s.linkKey
    fabric := { State.reset.fabric with told := some s.incarnation }
    mcr := Tbl.put 0 (s.mcr.filter fun e => isKeptReg e.1) fxid (BitVec.ofNat 64 (inc * 2 ^ 24))
    logSeq := s.logSeq
    t2 := s.t2
    ctxs := []
    sec := { Sec.reset with
      loadNo := s.sec.loadNo, ownerKeys := s.sec.ownerKeys, fuses := s.sec.fuses
      keys := (0, ⟨true, 0, (s.key 0).ver, (s.key 0).key⟩) :: (s.sec.keys.filter fun e => e.1 != 0).map fun e =>
        (e.1, { e.2 with assigned := false, owner := 0, key := 0 }) }
    board := { s.board with
      hostUp := false, poolUp := false, svcStop := false, bringing := true, linksDown := [], ntfSince := 0
      counters := s.board.counters ++ s.mcr.filter fun e => isCountReg e.1 }
    nextId := s.nextId
    free := s.free
    tick := s.tick
    scr := s.scr }

/-- An uncorrectable error charged to a context (20 R352): a UE record, and UNCORRECTABLE pending. An error that no
context owns resets the module (24 R375). -/
def State.chargeUe (s : State) (ctx die : Nat) (pa : Nat) : State :=
  match s.ctxOf ctx with
  | some c =>
    let (s1, n) := s.faultRing c die 3 cUncorrectable 0 (BitVec.ofNat 64 pa) 0
    s1.updCtx ctx fun c => { c with ue := c.ue ++ [n] }
  | none => s.moduleReset

/-! ### Ending a task -/

/-- A task that has ended: its pending results are discarded, and it waits for its tickets (08 R183, 15 R302). -/
def Task.ended (t : Task) (aborted : Bool) : Task :=
  { t with
    status := .ending
    pend := []
    held := []
    aborted := t.aborted || aborted }

/-! ### The etch control block and divergence reports (19 R327, R330, R335) -/

/-- The etch control block of a context (19 R330). -/
structure EtchCb where
  rbase : Word
  rk : Nat
  jbits : Nat
  stat : Nat
  low : Nat
  head : Nat
  tail : Nat
  seqtab : Word
  pbase : Word
  pcount : Nat
  pidxn : Nat
  pidx : Word
  psys : Word
  psysn : Nat
  divrep : Word
  deriving DecidableEq, Repr

/-- The 64-bit number at an offset of some bytes. -/
def fieldW (bs : List Byte) (off : Nat) : Word := BitVec.ofNat 64 (field bs off 8)

/-- The control block of a context as it stands in memory. -/
def State.etchCb (s : State) (c : Ctx) : Option EtchCb :=
  (s.ctxRead c.id c.etchcb 96).map fun p =>
    let b := p.1
    ⟨fieldW b 0, field b 8 1, field b 9 1, field b 10 1, field b 12 4, field b 16 4, field b 20 4, fieldW b 24,
      fieldW b 32, field b 40 4, field b 44 4, fieldW b 48, fieldW b 56, field b 64 4, fieldW b 72⟩

/-- The bytes of a record (19 R327). -/
def etchBytes (type flags task : Nat) (obj value : Word) (seq event : Nat) : List Byte :=
  natLe 2 type ++ natLe 2 flags ++ natLe 4 task ++ natLe 8 obj.toNat ++ natLe 8 value.toNat ++ natLe 4 seq ++
    natLe 4 event

/-- The control block of a context read by a unit of the log: its sectors are held by their homes (01 R20, 20 R343). -/
def State.etchTouch (s : State) (c : Ctx) : State := s.ctxTouch c.id c.etchcb 96

/-- The divergence report, written while DIV is clear, which then is set (19 R335). -/
def State.divReport (s : State) (c : Ctx) (want : Option (List Byte)) (got : List Byte) : State :=
  match s.etchCb c with
  | none => s.etchTouch c
  | some cb =>
    if cb.stat / 4 % 2 = 1 then s
    else ((s.etchTouch c).ctxPut c.id cb.divrep ((want.getD (List.replicate 32 0)) ++ got)).ctxPut c.id (c.etchcb + 10)
      [BitVec.ofNat 8 (cb.stat ||| 4)]

/-- The notice of a divergence to the supervisor. -/
def State.divNotice (s : State) (c : Ctx) (die : Nat) (event : Word) : State := s.record c.id die 8 cDiverge 0 event 0

/-- The first divergence of a run reported, and the supervisor told of it (19 R335). -/
def State.diverged (s : State) (c : Ctx) (die : Nat) (want : Option (List Byte)) (got : List Byte) (event : Word) : State :=
  if ((s.etchCb c).map fun cb => cb.stat / 4 % 2) = some 0 then (s.divReport c want got).divNotice c die event else s

/-! ### Traps -/

/-- c.CAUSE (06 R136). -/
def Trap.causeWord (t : Trap) (slot : Nat) : Word :=
  BitVec.ofNat 64 (t.cause + t.status * 2 ^ 8 + slot * 2 ^ 16 + t.deferred.toNat * 2 ^ 19)

/-- What counts as reported once a trap is raised (06 R124, 10 R237, 20 R341), and the charge of a poisoned walk
(20 R343). -/
def State.settle (s : State) (t : Trap) : State :=
  let s1 := s.setCur fun k =>
    let k := match t.op with
      | some op => k.raised op
      | none => k
    let k := t.tickets.foldl (fun k p => k.reported p.1 p.2) k
    match t.pending with
    | some p => { k with causes := k.causes.erase p }
    | none => k
  let s2 := if t.ue then s1.updCtx s1.cur.ctx fun c => { c with ue := c.ue.tail } else s1
  let s3 := match t.report with
    | some r => s2.diverged s2.myCtx (dieOf s2.cur.loc) r.1 r.2 t.eval
    | none => s2
  s3.walkCharge s3.cur.ctx t

/-- A cause raised while a handler runs, or in a context without a handler: the task ends, and a TASK_ABORT record
carries the cause and the first c.EPC (20 R339). -/
def State.doubleFault (s : State) (cause : Nat) : State :=
  let epc := if s.cur.ctl.intrap then s.cur.ctl.epc else s.cur.pc
  (s.record s.cur.ctx (dieOf s.cur.loc) 1 cause (s.cur.ctl.taskid.toNat % 2 ^ 32) 0 epc).setCur fun t => t.ended true

/-- Whether a trap ends the task: INTRAP is set, or the context's descriptor has no handler (20 R339). -/
def State.noHandler (s : State) : Bool := s.cur.ctl.intrap || s.myCtx.tvec == 0

/-- The focused task enters its handler (20 R337). -/
def Task.enter (t : Task) (cause eval epc : Word) (x : Option Word) (held : List Pend) : Task :=
  { t with
    ctl := { t.ctl with
      epc := epc, cause := cause, eval := eval, psv := t.ctl.sv, sv := true, intrap := true
      xinfo := x.getD t.ctl.xinfo }
    pc := t.ctl.tvec
    held := held
    pend := [] }

/-- A trap taken at the bundle at pc, of which nothing has been committed (20 R337). -/
def State.takeTrap (s : State) (t : Trap) (slot : Nat) : State :=
  let s1 := (s.settle t).tookFree
  if s1.noHandler then s1.doubleFault t.cause
  else s1.setCur fun k =>
    { k.enter (t.causeWord slot) t.eval k.pc t.xinfo k.pend with status := .running }

/-- TRAP, SVC and BRK after their bundle has committed (08 R178): the next bundle is c.EPC. -/
def State.trapAfter (s : State) (cause slot : Nat) (eval next : Word) : State :=
  if s.noHandler then s.doubleFault cause
  else s.setCur fun k =>
    k.enter ((Trap.now cause eval).causeWord slot) eval next none
      (k.pend.map fun p => { p with rem := p.rem - 1 })

/-- An element put before the first that `le` places after it. -/
def insertBy {α : Type} (le : α → α → Bool) (x : α) : List α → List α
  | [] => [x]
  | y :: ys => if le x y then x :: y :: ys else y :: insertBy le x ys

/-- A list in order; equal elements keep their order. -/
def sortBy {α : Type} (le : α → α → Bool) : List α → List α
  | [] => []
  | x :: xs => insertBy le x (sortBy le xs)

/-- Results in the order of their completion points. -/
def dueOrder (ps : List Pend) : List Pend := sortBy (fun a b => decide (a.rem ≤ b.rem)) ps

/-- RTE (08 R179, 20 R339): the handler's results all land, the program's held ones resume their counts, and control
returns to c.EPC in the saved mode. -/
def Task.rte (t : Task) : Task :=
  let t1 := (dueOrder t.pend).foldl (fun t p => t.land p.out) { t with pend := [] }
  let t2 := (t1.held.filter fun p => p.rem == 0).foldl (fun t p => t.land p.out) t1
  { t2 with
    pend := t1.held.filter fun p => p.rem != 0
    held := []
    pc := t1.ctl.epc
    ctl := { t2.ctl with intrap := false, sv := t1.ctl.psv } }

/-! ### KNEXT -/

/-- Whether KNEXT would end the task (08 R182). -/
def Task.knextEnds (t : Task) : Bool :=
  match t.part with
  | .prologue => t.ctl.trip == 0 && t.loop.epilogue == 0
  | .kernel => t.ctl.iter + 1 == t.ctl.trip && t.loop.epilogue == 0
  | .epilogue => true

/-- KNEXT (08 R182): the next part or iteration, or the end; the watchdog count restarts (20 R351), and a requested
pre-emption stops the task here unless it is in its handler (20 R353). -/
def Task.knext (t : Task) : Task :=
  let stop (t : Task) : Task :=
    if t.preempt && !t.ctl.intrap then { t with status := .stopped } else t
  let kernel (iter : Word) : Task :=
    stop { t with part := .kernel, pc := t.loop.kernel, ctl := { t.ctl with iter := iter, wdcnt := 0 } }
  let epilogue (iter : Word) : Task :=
    if t.loop.epilogue = 0 then { t with ctl := { t.ctl with iter := iter } }.ended false
    else stop { t with part := .epilogue, pc := t.loop.epilogue, ctl := { t.ctl with iter := iter, wdcnt := 0 } }
  match t.part with
  | .prologue => if t.ctl.trip = 0 then epilogue t.ctl.iter else kernel t.ctl.iter
  | .kernel => if t.ctl.iter + 1 = t.ctl.trip then epilogue t.ctl.trip else kernel (t.ctl.iter + 1)
  | .epilogue => t.ended false

/-! ### Issuing a bundle -/

/-- The number of a register in c.EVAL (20 R340). -/
def Dst.evalNo : Dst → Nat
  | .s r => r.val
  | .v r => 64 + r.val
  | _ => 96

/-- The number of a register in an image and for a debugger (log 23): those of R340, then the registers outside the files; control
registers from 0x1000, the haul shadow set from 0x2000. -/
def Dst.num : Dst → Nat
  | .s r => r.val
  | .v r => 64 + r.val
  | .em => 96
  | .p r => 97 + r.val
  | .cm => 105
  | .fmt => 106
  | .sp => 107
  | .lk => 108
  | .mp k => 109 + k.val
  | .convx => 117
  | .cr k => 0x1000 + k
  | .shadow k => 0x2000 + k

/-- The register of a number. -/
def Dst.ofNum (n : Nat) : Option Dst :=
  if h : n < 64 then some (.s ⟨n, h⟩)
  else if h : n - 64 < 32 then some (.v ⟨n - 64, h⟩)
  else if n = 96 then some .em
  else if h : n - 97 < 8 then some (.p ⟨n - 97, h⟩)
  else if n = 105 then some .cm
  else if n = 106 then some .fmt
  else if n = 107 then some .sp
  else if n = 108 then some .lk
  else if h : n - 109 < 8 then some (.mp ⟨n - 109, h⟩)
  else if n = 117 then some .convx
  else if 0x1000 ≤ n ∧ n < 0x1400 then some (.cr (n - 0x1000))
  else if 0x2000 ≤ n ∧ n < 0x200B then some (.shadow (n - 0x2000))
  else none

/-- Whether an operation is a KV instruction. -/
def OpKind.isKv : OpKind → Bool
  | .kv _ => true
  | _ => false

/-- Whether a bundle that waits for a register parks (06 R125); in a handler one that waits for a KV instruction does
(20 R349). -/
def Task.parksFor (t : Task) (d : Dst) : Bool :=
  t.ops.any fun o => (o.parks || (t.ctl.intrap && o.kind.isKv)) && o.outs.any fun x => x.dst == d

/-- The state of a register, without its value: waiting, failed, poisoned. -/
inductive Cond where
  | ok
  | empty
  | poisoned
  | failed (f : Fail) (op : Nat)
  deriving DecidableEq, Repr

/-- The condition of a register. -/
def Reg.cond {w : Nat} (x : Reg w) : Cond :=
  match x.st with
  | .full => .ok
  | .poisoned => .poisoned
  | .failed f op _ => .failed f op
  | .empty .. => .empty

/-- The condition of a destination or source; s0 and the registers without state are always ready. -/
def Task.cond (t : Task) : Dst → Cond
  | .s r => if r = 0 then .ok else t.regs.s[r].cond
  | .v r => t.regs.v[r].cond
  | .em => t.regs.em.cond
  | _ => .ok

/-- The trap that raises a register's recorded cause (06 R124, R134). -/
def failTrap (f : Fail) (op : Nat) : Trap := ⟨f.cause, f.eval, f.status, true, none, some op, f.link.toList, none, false, none, none⟩

/-- Whether a use makes the bundle wait at issue, and whether its task then parks (06 R124, R125). -/
def Task.waits (t : Task) : Use → Option Bool
  | .srcS r w => if w && t.cond (.s r) == .empty then some (t.parksFor (.s r)) else none
  | .srcV r w => if w && t.cond (.v r) == .empty then some (t.parksFor (.v r)) else none
  | .srcEm => if t.cond .em == .empty then some false else none
  | .write d => if t.cond d == .empty then some (t.parksFor d) else none
  | _ => none

/-- What reading a source raises (06 R124). -/
def Task.sourceTrap (t : Task) (d : Dst) (wait : Bool) : Option Trap :=
  match t.cond d with
  | .empty => if wait then none else some (.now cRegEmpty (BitVec.ofNat 64 d.evalNo))
  | .poisoned => some (.now cPoison (BitVec.ofNat 64 d.evalNo))
  | .failed f op => some (failTrap f op)
  | .ok => none

/-- What a use raises at step 2 of R134: a source by its state, a destination only its recorded cause. -/
def Task.raises (t : Task) : Use → Option Trap
  | .srcS r w => t.sourceTrap (.s r) w
  | .srcV r w => t.sourceTrap (.v r) w
  | .srcEm => t.sourceTrap .em true
  | .write d | .mark d =>
    match t.cond d with
    | .failed f op => some (failTrap f op)
    | _ => none
  | _ => none

/-- Whether a use names a register beyond the caps, or is ILLEGAL for the state (06 R122, R127, R129, R136). -/
def Task.illegal (t : Task) : Use → Bool
  | .srcS r _ => t.capS ≤ r.val
  | .srcV r _ => t.capV ≤ r.val
  | .write (.s r) | .mark (.s r) => t.capS ≤ r.val
  | .write (.v r) | .mark (.v r) => t.capV ≤ r.val
  | .f8 => 2 ≤ (t.regs.fmt.extractLsb' 2 2).toNat
  | .fmtset _ => t.ctl.intrap
  | .illegalIf c => c
  | _ => false

/-- Whether an FMTSET's value has reserved bits set (06 R129). -/
def Task.badFmt (t : Task) : Use → Bool
  | .fmtset a => t.cond (.s a) == .ok && (t.readS a).extractLsb' 14 18 != 0#18
  | _ => false

/-- The registers a slot writes, counted once; s0 and p0 do not count (06 R130). -/
def writers (us : List Use) : List Dst :=
  (us.filterMap fun u => match u with
    | .write d | .mark d => if d = .s 0 ∨ d = .p 0 then none else some d
    | _ => none).eraseDups

/-- Whether a list holds something twice. -/
def hasDup : List Dst → Bool
  | [] => false
  | d :: ds => ds.contains d || hasDup ds

/-- Lane bits a slot draws (06 R130). -/
def lanesOf (us : List Use) : Nat :=
  us.foldl (fun n u => match u with
    | .lanes k => n + k
    | _ => n) 0

/-- Whether the slots of a bundle together break a limit of 06 R130 or 08 R172. -/
def breaksLimits (us : List (List Use)) : Bool :=
  let ws := us.flatMap writers
  hasDup ws ||
  (us.any fun u => u.contains .sto) && ws.contains (.cr 0x011) ||
  2048 < (us.map lanesOf).sum ||
  1 < (us.filter fun u => u.contains .ctl).length

/-- The deferred cause pending at a synchronisation, in the order of R341. -/
def State.deferred (s : State) : Option Trap :=
  match s.myCtx.ue with
  | n :: _ => some { Trap.now cUncorrectable n with deferred := true, ue := true }
  | [] =>
    let pick (p : PendCause → Bool) : Option PendCause := s.cur.causes.find? p
    let runaway := pick fun c => match c with
      | .runaway _ => true
      | _ => false
    let diverge := pick fun c => match c with
      | .diverge _ => true
      | _ => false
    match runaway.orElse fun _ => diverge.orElse fun _ => s.cur.causes.head? with
    | some (.runaway w) =>
      some { Trap.now cRunaway (BitVec.ofNat 64 w) with deferred := true, pending := some (.runaway w) }
    | some (.diverge e) => some { Trap.now cDiverge e with deferred := true, pending := some (.diverge e) }
    | some (.fabric f) =>
      some { Trap.now f.cause f.eval with status := f.status, deferred := true, pending := some (.fabric f) }
    | none => none

/-- The first slot for which `f` answers. -/
def firstSlot {α β : Type} (f : α → Option β) : List α → Nat → Option (β × Nat)
  | [], _ => none
  | x :: xs, k => match f x with
    | some b => some (b, k)
    | none => firstSlot f xs (k + 1)

/-- The encoding of a slot of the bundle (07 R145). -/
def State.enc (s : State) (k : Nat) : Word := s.scr.encs.getD k 0

/-- Steps 1 and 2 of R134, the wait at issue of R125, and the deferred causes of R341, for the slots of a bundle. -/
def State.issue (s : State) (us : List (List Use)) : Option (Stop × Nat) :=
  let t := s.cur
  let bad (p : Use → Bool) : Option (Unit × Nat) := firstSlot (fun u => if u.any p then some () else none) us 0
  match bad t.illegal with
  | some (_, k) => some (.trap (.now cIllegal (s.enc k)), k)
  | none =>
    if breaksLimits us then some (.trap (.now cIllegal (s.enc 0)), 0)
    else
      match (us.flatten.filterMap t.waits) with
      | p :: ps => some (.wait (p || ps.any id), 0)
      | [] =>
        match bad t.badFmt with
        | some (_, k) => some (.trap (.now cIllegal (s.enc k)), k)
        | none =>
          match firstSlot (fun u => u.findSome? t.raises) us 0 with
          | some (x, k) => some (.trap x, k)
          | none =>
            match bad fun u => u == .sync with
            | some (_, k) => s.deferred.map fun x => (.trap x, k)
            | none => none

/-- The destination that a use waits for so that its task parks, if it does. -/
def Task.parkDst (t : Task) (u : Use) : Option Dst :=
  if t.waits u = some true then
    match u with
    | .srcS r _ => some (.s r)
    | .srcV r _ => some (.v r)
    | .write d => some d
    | _ => none
  else none

/-- The bundle waits at issue: its task parks until a result that its uses await arrives, or it stalls, and nothing of it
issues. -/
def State.waitAt (s : State) (us : List (List Use)) (parks : Bool) : State :=
  { s with
    cur :=
      if parks then
        { s.cur with
          status := .parked, parkedAt := s.tick, parkedLong := false, awaits := us.flatten.filterMap s.cur.parkDst }
      else s.cur
    scr := { s.scr with waiting := some parks } }

/-- The bundle commits (06 R134): c.SRCTR rises by the stochastic words drawn (05 R114), CONVX is set where a slot asks for it
(08 R168), its results are scheduled, time moves on by one bundle, and control goes to the next bundle, to a target, to a handler, out of one, to the next
part, or nowhere. -/
def State.commit (s0 : State) : State :=
  let s := s0.setCtl fun c => { c with
    srctr := c.srctr + BitVec.ofNat 64 s0.scr.sto, convx := c.convx || s0.scr.convx }
  let next := s.cur.pc + BitVec.ofNat 64 (4 * s.scr.slots)
  let clean (s : State) : State := { s with scr := { s.scr with target := none, after := none, sto := 0, convx := false } }
  match s.scr.after with
  | some (.trap cause slot eval) => clean (s.trapAfter cause slot eval next)
  | some .rte => clean (s.setCur fun t => t.rte)
  | some .halt => clean (s.setCur fun t => { t.advance with pc := next, status := .halted })
  | some .knext => clean (s.setCur fun t => { t.advance with pc := next }.knext)
  | some .texit => clean (s.setCur fun t => t.ended t.ctl.intrap)
  | none => clean (s.setCur fun t => { t.advance with pc := s.scr.target.getD next })

/-- An instruction executed as far as the phase asks (log 6): alone in its bundle, it is checked, has its effect and
commits. `uses` is what it reads and writes, `body` its own execution checks and its effect. -/
def State.slot (s : State) (uses : List Use) (body : State → Except Stop State) : Res :=
  match s.scr.ph with
  | .collect => .next { s with scr := { s.scr with uses := s.scr.uses ++ [uses] } }
  | .run =>
    match body s with
    | .ok t => .next t
    | .error (.trap x) => .next { s with scr := { s.scr with trapped := s.scr.trapped.or (some (x, s.scr.slot)) } }
    | .error (.wait p) => .next { s with scr := { s.scr with waiting := some p } }
  | .whole =>
    match s.issue [uses] with
    | some (.trap x, k) => .next (s.takeTrap x k)
    | some (.wait p, _) => .next (s.waitAt [uses] p)
    | none =>
      match body s with
      | .ok t => .next t.commit
      | .error (.trap x) => .next (s.takeTrap x 0)
      | .error (.wait p) => .next (s.waitAt [uses] p)

/-! ### Long-latency operations -/

/-- An operation of the focused task begun: its destinations are marked EMPTY (06 R124). -/
def State.beginOp (s : State) (kind : OpKind) (outs : List Out) (parks : Bool) : State :=
  let op : Op := ⟨s.nextId, kind, outs, none, false, parks, false, false, 0, false, none, 0⟩
  let s1 := s.setCur fun t => { outs.foldl (fun t o => t.mark o.dst) t with ops := t.ops ++ [op] }
  { s1 with nextId := s.nextId + 1 }

/-- An operation begun that may have failed, may deliver poison, or sets CONVX when it lands (09 R206). -/
def State.beginOpWith (s : State) (kind : OpKind) (outs : List Out) (parks : Bool) (fail : Option Fail)
    (poison convx : Bool) : State :=
  (s.beginOp kind outs parks).setCur fun t => { t with ops := t.ops.map fun o =>
    if o.id = s.nextId then { o with fail := fail, poison := poison, convx := convx } else o }

/-- Whether later memory operations of its task are performed only after an operation: it acquires, unless its scope does not cover
its object (14 R282), or it is a fence (10 R230, R232, R235, R246). -/
def Op.holds (o : Op) : Bool :=
  match o.kind with
  | .acq .. => !o.scopex
  | .fence _ false | .qpop .. => true
  | .remote a => a
  | .atomic c => c.acq
  | _ => false

/-- Whether an operation was begun before the bundle that is being executed. -/
def State.earlier (s : State) (o : Op) : Bool :=
  match s.scr.first with
  | some n => o.id < n
  | none => true

/-- Whether an operation is a write that is not performed yet: a release comes after it (10 R230, 14 R280). -/
def Op.writes (o : Op) : Bool :=
  match o.kind with
  | .heldWrite .. | .atomic _ | .rel .. | .feWrite .. | .feSet .. | .feRead _ true | .cmd (.flush _) | .cmd (.inval _) => true
  | _ => false

/-- A task woken once a result that it awaits has arrived (06 R125, 15 R298, R299); a saved one is ready from then on. -/
def Task.wake (t : Task) (tick : Nat) : Task :=
  if !t.awaits.isEmpty && t.awaits.all fun d => t.cond d == .empty then t
  else
    match t.status with
    | .parked => { t with status := .running, parkedLong := false, awaits := [] }
    | .saved => if t.latched then t else { t with latched := true, readyAt := tick, awaits := [] }
    | _ => t

/-- A task in which an operation has ended: its destinations are filled, its CONVX set, and it wakes. -/
def Task.endOp (t : Task) (op : Op) (tick : Nat) : Task :=
  let e : Ending := match op.fail with
    | some f => .fail f op.id
    | none => if op.poison then .poison else .data
  let t1 := op.outs.foldl (fun t o => t.fill o e) { t with ops := t.ops.filter fun o => o.id != op.id }
  { t1 with ctl := { t1.ctl with
      convx := t1.ctl.convx || (op.convx && op.fail.isNone)
      scopex := t1.ctl.scopex || op.scopex } }.wake tick

/-- The task that holds an operation, and the operation. -/
def State.findOp (s : State) (id : Nat) : Option (Task × Op) :=
  s.tasks.findSome? fun t => (t.ops.find? fun o => o.id == id).map fun o => (t, o)

/-- An operation of a task ended with its results as they stand in it. -/
def State.finishOp (s : State) (task : Nat) (op : Op) : State :=
  s.updTask task fun t => t.endOp op s.tick

/-- An operation of a task replaced by a changed one. -/
def State.updOp (s : State) (task : Nat) (op : Op) : State :=
  s.updTask task fun t => { t with ops := t.ops.map fun o => if o.id = op.id then op else o }

/-- The operation begun last performed as far as it can be. -/
def State.lastGo (s : State) (go : State → Task → Op → State) : State :=
  match s.cur.ops.getLast? with
  | some op => go s s.cur op
  | none => s

/-- A ticket of a task completed. -/
def State.completeTicket (s : State) (task : Nat) (i : Fin 6) (n : Nat) (f : Option Fail) (op : Option Nat) : State :=
  s.updTask task fun t => t.updTl i fun x => x.complete n f op

/-! ### Accesses held behind full/empty operations (10 R221, R227) -/

/-- The location of the scratchpad that holds a physical address, if one does. -/
def padLoc (pa : Nat) : Option Nat :=
  if padBase 0 ≤ pa ∧ pa < padBase 1024 then some ((pa - padBase 0) / 0x400000) else none

/-- Whether two ranges share a byte. -/
def meet (a n b m : Nat) : Bool := a < b + m && b < a + n

/-- The physical address of a target. -/
def Dest.pa : Dest → Option Nat
  | .pad pa | .ext pa | .node pa | .weights pa | .control pa => some pa
  | .fabric _ => none

/-- Whether a piece shares a byte with `n` bytes at a physical address. -/
def Piece.meets (p : Piece) (pa n : Nat) : Bool := (p.dst.pa.map fun q => meet q p.n pa n).getD false

/-- Whether an operation of the same context that is not performed yet precedes an access of `n` bytes, which are performed in
order (10 R221, R227, R228, 14 R277): a full/empty read or FESET of that scratchpad, an access to the same bytes, a FLUSH or
INVAL of their line (10 R244). -/
def Op.before (o : Op) (pa n : Nat) : Bool :=
  match o.kind with
  | .feRead q _ => (padLoc q).isSome && padLoc q == padLoc pa
  | .feSet runs _ => runs.any fun r => (padLoc r.1).isSome && padLoc r.1 == padLoc pa
  | .feWrite q _ _ => meet q 4 pa n
  | .heldRead ps _ | .heldWrite ps _ _ => ps.any fun p => p.meets pa n
  | .atomic c => (c.dst.pa.map fun q => meet q 8 pa n).getD false
  | .rel d .. => (d.pa.map fun q => meet q 8 pa n).getD false
  | .cmd (.flush q) | .cmd (.inval q) => meet (q / 64 * 64) 64 pa n
  | _ => false

/-- Whether `n` bytes at a place and `m` at a fabric address share an aligned 256-byte line of a target. -/
def Dest.onLine (d : Dest) (n : Nat) (fa : Word) (m : Nat) : Bool :=
  match d with
  | .fabric x => x.toNat / 256 ≤ (fa.toNat + m - 1) / 256 && fa.toNat / 256 ≤ (x.toNat + n - 1) / 256
  | _ => false

/-- Whether an operation that has not sent its requests yet precedes one of `n` bytes through a fabric page (03 R64, 14 R287); a FLUSH
or INVAL that waits precedes all of them, since a page of the module's own window may name its line (14 R286, log 15). -/
def Op.beforeFar (o : Op) (fa : Word) (n : Nat) : Bool :=
  match o.kind with
  | .heldRead ps _ | .heldWrite ps _ _ => ps.any fun p => p.dst.onLine p.n fa n
  | .atomic c => c.dst.onLine 8 fa n
  | .acq d _ false | .rel d _ _ _ false => d.onLine 8 fa n
  | .cmd (.flush _) | .cmd (.inval _) => true
  | _ => false

/-- Whether a place is in the scratchpad or the L1 of a core (10 R235). -/
def Dest.ofCore (d : Dest) (loc : Nat) : Bool :=
  match d with
  | .pad pa | .ext pa => padLoc pa == some loc
  | .node _ | .weights _ => true
  | _ => false

/-- Whether an operation accesses the scratchpad or the L1 of a core. -/
def Op.ofCore (o : Op) (loc : Nat) : Bool :=
  match o.kind with
  | .heldRead ps _ | .heldWrite ps _ _ => ps.any fun p => p.dst.ofCore loc
  | .atomic c => c.dst.ofCore loc
  | .acq d .. | .rel d .. => d.ofCore loc
  | .feRead q _ | .feWrite q _ _ | .feGet q => padLoc q == some loc
  | .feSet runs _ => runs.any fun r => padLoc r.1 == some loc
  | .cmd (.flush _) | .cmd (.inval _) => true
  | _ => false

/-- The ways that an outstanding WAYCONV converts (04 R87, 10 R245). -/
def Op.converts (o : Op) : Nat :=
  match o.kind with
  | .wayconv n => n
  | _ => 0

/-- Whether an earlier operation of a task on a core holds back an access to `n` bytes at a place (10 R221): an acquire or a
fence, a FENCE .co for the core's scratchpad and L1, a WAYCONV for the extension (10 R245), or an access that is performed before
it. -/
def Op.precedes (o : Op) (loc : Nat) (d : Dest) (n : Nat) : Bool :=
  o.holds || (o.kind == .fence 0 true && d.ofCore loc) ||
    (match d with
     | .fabric fa => o.beforeFar fa n
     | .ext pa => o.converts != 0 || o.before pa n
     | .pad pa | .node pa | .weights pa | .control pa => o.before pa n)

/-- Whether an access of the focused task to `n` bytes at a place must wait for an operation of its context. -/
def State.blocked (s : State) (d : Dest) (n : Nat) : Bool := s.cur.ops.any fun o => o.precedes s.cur.loc d n

/-- Whether an access whose data a check needs at issue must wait there: for an operation of an earlier bundle (log 15). -/
def State.mustStall (s : State) (d : Dest) (n : Nat) : Bool := s.cur.ops.any fun o => s.earlier o && o.precedes s.cur.loc d n

/-- The bytes that a piece stores from a register's bits. -/
def Piece.bytes (p : Piece) (x : VWord) : List (Option Byte) :=
  p.mask.zipIdx.map fun b => if b.1 then some (x.extractLsb' (p.bit + 8 * b.2) 8) else none

/-- What a store of a scratchpad that is held will write: the addresses and the bytes. -/
def Op.coming (o : Op) : List (Nat × Byte) :=
  match o.kind with
  | .heldWrite ps x _ => ps.flatMap fun p => match p.dst with
    | .pad pa => (p.bytes x).zipIdx.filterMap fun b => b.1.map fun y => (pa + b.2, y)
    | _ => []
  | _ => []

/-- `n` bytes of a scratchpad as a slot of the bundle finds them: as the stores of its lower slots will leave them, where those are
held (10 R221). -/
def State.bytesSeen (s : State) (pa n : Nat) : List Byte :=
  let held := ((s.cur.ops.filter fun o => !s.earlier o).flatMap Op.coming).reverse
  (s.bytes pa n).zipIdx.map fun b => ((held.find? fun h => h.1 == pa + b.2).map Prod.snd).getD b.1

/-- Whether an operation is a memory operation that is not performed yet. -/
def Op.unperformed (o : Op) : Bool :=
  match o.kind with
  | .heldRead .. | .heldWrite .. | .atomic _ | .acq .. | .rel .. | .fence .. | .remote _ | .feRead .. | .feWrite .. |
    .feSet .. | .feGet _ | .qpop _ | .cmd _ => true
  | _ => false

/-- Whether a task has a memory operation that is not performed yet, begun before the operation of a number. -/
def Task.unperformedBefore (t : Task) (id : Nat) : Bool := t.ops.any fun o => o.id < id && o.unperformed

/-- Whether a memory operation of an earlier bundle is not performed yet. -/
def State.unperformedEarlier (s : State) : Bool := s.cur.ops.any fun o => s.earlier o && o.unperformed

/-- Whether an earlier operation of a task holds an operation of it back: an acquire or a fence, or a FENCE .co an access to
its core's scratchpad or L1. -/
def Task.heldBy (t : Task) (op : Op) : Bool :=
  t.ops.any fun o => o.id < op.id && (o.holds || (o.kind == .fence 0 true && op.ofCore t.loc))

/-- Whether an operation of a task stands behind an earlier one of it. -/
def Task.mustWait (t : Task) (op : Op) : Bool :=
  let behind (d : Dest) (n : Nat) : Bool := t.ops.any fun o => o.id < op.id && o.precedes t.loc d n
  t.heldBy op ||
  (match op.kind with
   | .heldRead ps _ | .heldWrite ps _ _ => ps.any fun p => behind p.dst p.n
   | .atomic c => behind c.dst 8
   | .acq d .. | .rel d .. => behind d 8
   | _ => false)

end Sys2Proof.Machine
end

