-- ==== Sys2Proof/Machine/Etch.lean ====
section
/-! DEFINITION. The etch log and proof replay (19): the records of events, their sequence numbers, and what proof mode
checks. -/

namespace Sys2Proof.Machine

/-- The limits of a control block (19 R330): ring and sequence table sizes, alignments, zero fields. -/
def State.etchCbOk (s : State) (ctx : Nat) (va : Word) : Bool :=
  va.toNat % 64 == 0 &&
  (match s.ctxRead ctx va 96 with
   | none => false
   | some (b, _) =>
     field b 0 8 % 4096 == 0 && field b 8 1 ≤ 20 && 10 ≤ field b 9 1 && field b 9 1 ≤ 24 && field b 10 1 < 8 &&
       field b 11 1 == 0 && field b 24 8 % 64 == 0 && field b 32 8 % 32 == 0 && field b 48 8 % 16 == 0 &&
       field b 56 8 % 32 == 0 && field b 68 4 == 0 && field b 80 16 == 0)

/-- The series that numbers an event (19 R328): the word counter of an object, a counter kept by a unit, or none. -/
inductive Series where
  | word (obj : Word)
  | unit (n : BitVec 32)
  | none
  deriving DecidableEq, Repr

/-- The virtual address of an object's word counter (19 R328). -/
def EtchCb.ctr (cb : EtchCb) (x : Word) : Word :=
  let h := (x ^^^ (x >>> 17) ^^^ (x >>> 31) ^^^ (x >>> 47)).toNat % 2 ^ cb.jbits
  cb.seqtab + BitVec.ofNat 64 (4 * h)

/-- The value of a series before the event. -/
def State.serBefore (s : State) (c : Ctx) (cb : EtchCb) : Series → Option Nat
  | .word x => (s.ctxRead c.id (cb.ctr x) 4).map fun p => leNat p.1
  | .unit n => some n.toNat
  | .none => some 0

/-- A failed access of the log: ERR is set, the mode becomes 0 and the supervisor is told (19 R331). -/
def State.etchFail (s : State) (c : Ctx) (die : Nat) : State :=
  let stat := ((s.etchCb c).map EtchCb.stat).getD 0 ||| 1
  ((s.ctxPut c.id (c.etchcb + 10) [BitVec.ofNat 8 stat]).updCtx c.id fun c => { c with etch := 0 }).record c.id die 7 0 0 (BitVec.ofNat 64 stat) 0

/-- The free slots of a ring. -/
def EtchCb.room (cb : EtchCb) : Nat := 2 ^ (cb.rk + 7) - (cb.head + 2 ^ 32 - cb.tail) % 2 ^ 32

/-- LAP of the slot of a HEAD value (19 R331), in FLAGS. -/
def EtchCb.lap (cb : EtchCb) (slot : Nat) : Nat := slot / 2 ^ (cb.rk + 7) % 2 * 2 ^ 15

/-- Whether the ring of a recording context lacks room for `n` events, which wait for it (19 R331). -/
def State.etchShort (s : State) (c : Ctx) (n : Nat) : Bool :=
  c.etch != 0 && ((s.etchCb c).map fun cb => decide (cb.room < n)).getD false

/-- Whether the ring of a recording context is full, so that an event waits for room (19 R331). -/
def State.etchFull (s : State) (c : Ctx) : Bool := s.etchShort c 1

/-- Whether the ring of a context by its number is full. -/
def State.ringFull (s : State) (ctx : Nat) : Bool := ((s.ctxOf ctx).map fun c => s.etchFull c).getD false

/-- The record that an event of a task in proof mode is checked against; `none` when its stream is exhausted
(19 R333). -/
def State.expected (s : State) (c : Ctx) (t : Task) (cursor : Nat) : Option (List Byte) :=
  if cursor < t.etchEnd then
    match s.etchCb c with
    | some cb => (s.ctxRead c.id (cb.pbase + BitVec.ofNat 64 (32 * cursor)) 32).map Prod.fst
    | none => none
  else none

/-- The record at a cursor of the proof streams read at its home (01 R20). -/
def State.streamTouch (s : State) (c : Ctx) (cursor : Nat) : State :=
  match s.etchCb c with
  | some cb => s.ctxTouch c.id (cb.pbase + BitVec.ofNat 64 (32 * cursor)) 32
  | none => s

/-- How an event of a task in proof mode differs from the record at a cursor before it is performed, if it does: in TYPE, in
OBJECT, or for MARK in VALUE, or the stream is exhausted (19 R333). -/
def State.etchDiffers (s : State) (c : Ctx) (t : Task) (cursor type : Nat) (obj : Word) (mark : Option Word) :
    Option (Option (List Byte)) :=
  match s.expected c t cursor with
  | none => some none
  | some r => if field r 0 2 != type || fieldW r 8 != obj || mark.any (fun v => v != fieldW r 16) then some (some r) else none

/-- The record that an event of a task would write, which has not been performed (19 R335): where its value is not known before, it
is free (log 5), and so is the count of a series that is kept elsewhere. -/
def State.wouldRecord (s : State) (c : Ctx) (t : Task) (type flags : Nat) (obj : Word) (ser : Series) (value : Option Word) : List Byte :=
  let cb := s.etchCb c
  let seq := match ser with
    | .none => if type = 0x0F then 0 else (s.freeVal 32).toNat
    | ser => ((cb.bind fun cb => s.serBefore c cb ser).getD 0 + 1) % 2 ^ 32
  etchBytes type (flags + (cb.map fun cb => cb.lap cb.head).getD 0) (t.ctl.taskid.toNat % 2 ^ 32) obj (value.getD (s.freeVal 64)) seq
    (t.etchEvents + 1)

/-- EVENT of a record, 0 for none. -/
def eventOf (r : Option (List Byte)) : Word := BitVec.ofNat 64 ((r.map fun r => field r 28 4).getD 0)

/-- What a recorded event of the focused task must pass before its bundle commits: room in the ring, and in proof mode
the record at its cursor (19 R331, R333). `value` is the value that it will record, where it is known before. -/
def State.etchReady (s : State) (type flags : Nat) (obj : Word) (ser : Series) (mark : Option Word) (value : Option Word := mark) :
    Except Stop Unit :=
  let c := s.myCtx
  if c.etch = 0 then .ok ()
  else if s.etchFull c then .error (.wait false)
  else if c.etch = 2 then
    match s.etchDiffers c s.cur s.cur.etchCursor type obj mark with
    | some r => .error (.trap { Trap.now cDiverge (eventOf r) with report := some (r, s.wouldRecord c s.cur type flags obj ser value) })
    | none => .ok ()
  else .ok ()

/-- The count of the event's series that its turn awaits, in proof mode (19 R333). -/
def State.turnOf (s : State) (t : Task) (slot : Option EtchSlot) : Option Nat :=
  match s.ctxOf t.ctx, slot with
  | some c, some k =>
    if c.etch = 2 then (s.expected c t k.cursor).map fun r => (field r 24 4 + 2 ^ 32 - 1) % 2 ^ 32 else none
  | _, _ => none

/-- Whether an event's turn in its series has come (19 R333). -/
def State.myTurn (s : State) (t : Task) (slot : Option EtchSlot) (ser : Series) : Bool :=
  match s.turnOf t slot, ser with
  | none, _ | some _, .none => true
  | some n, ser =>
    match (s.ctxOf t.ctx).bind fun c => (s.etchCb c).bind fun cb => s.serBefore c cb ser with
    | some m => m == n
    | none => true

/-- A slot of the ring reserved (19 R331): its HEAD value, and the notice when free slots fall below LOW. -/
def State.etchReserve (s0 : State) (ctx die : Nat) : State × Option Nat :=
  match s0.ctxOf ctx with
  | none => (s0, none)
  | some c =>
    if c.etch = 0 then (s0, none)
    else
      let s := s0.etchTouch c
      match s.etchCb c with
      | none => (s.etchFail c die, none)
      | some cb =>
        match s.ctxWrite c.id 0 (c.etchcb + 16) ((natLe 4 (cb.head + 1)).map some) with
        | none => ((s.ctxMiss c.id (c.etchcb + 16) 4).etchFail c die, none)
        | some s1 =>
          let free := 2 ^ (cb.rk + 7) - (cb.head + 1 + 2 ^ 32 - cb.tail) % 2 ^ 32
          if free < cb.low ∧ cb.stat / 2 % 2 = 0 then
            ((s1.ctxPut c.id (c.etchcb + 10) [BitVec.ofNat 8 (cb.stat ||| 2)]).record c.id die 7 0 0 (BitVec.ofNat 64 (cb.stat ||| 2)) 0,
              some cb.head)
          else (s1, some cb.head)

/-- The word counter of a series read at its home. -/
def State.serTouch (s : State) (c : Ctx) (cb : EtchCb) : Series → State
  | .word x => s.ctxTouch c.id (cb.ctr x) 4
  | _ => s

/-- The word counter of a series set to a number; none where it cannot be written. -/
def State.serPut (s : State) (c : Ctx) (cb : EtchCb) (seq : Nat) : Series → Option State
  | .word x => s.ctxWrite c.id 0 (cb.ctr x) ((natLe 4 seq).map some)
  | _ => some s

/-- An event recorded at its serialisation point in the slot `slot` (19 R326, R327): its series rises and its record is
written, which is the other answer. -/
def State.etchRecord (s0 : State) (ctx die taskWord type flags : Nat) (obj value : Word) (ser : Series)
    (event slot : Nat) : State × List Byte :=
  match s0.ctxOf ctx with
  | none => (s0, [])
  | some c =>
    if c.etch = 0 then (s0, [])
    else
      match s0.etchCb c with
      | none => ((s0.etchTouch c).etchFail c die, [])
      | some cb =>
        let s := (s0.etchTouch c).serTouch c cb ser
        match s.serBefore c cb ser with
        | none => (s.etchFail c die, [])
        | some before =>
          let seq := match ser with
            | .none => 0
            | _ => (before + 1) % 2 ^ 32
          let rec_ := etchBytes type (flags + cb.lap slot) taskWord obj value seq event
          let at_ := cb.rbase + BitVec.ofNat 64 (32 * (slot % 2 ^ (cb.rk + 7)))
          let put := (s.serPut c cb seq ser).bind fun s1 => s1.ctxWrite c.id 0 at_ (rec_.map some)
          (put.getD ((s.ctxMiss c.id at_ 32).etchFail c die), rec_)

/-- The proof SYS array of a context in proof mode read at its home (19 R332, R334). -/
def State.sysTouch (s : State) (ctx : Nat) : State :=
  match (s.ctxOf ctx).bind fun c => if c.etch = 2 then (s.etchCb c).map fun cb => (c, cb) else none with
  | some (c, cb) => s.ctxTouch c.id cb.psys (32 * cb.psysn)
  | none => s

/-- A SYS event of a context performed (19 R326), in a slot reserved before or reserved now. -/
def State.etchSys (s : State) (ctx die taskWord type : Nat) (obj value : Word) (ser : Series) (event : Nat)
    (slot : Option Nat) : State :=
  let (s1, k) := match slot with
    | some k => (s.sysTouch ctx, some k)
    | none => (s.sysTouch ctx).etchReserve ctx die
  match k with
  | some k => (s1.etchRecord ctx die taskWord type 0x10 obj value ser event k).1
  | none => s1

/-- The TRIGGER record of a set, with COUNT as it stands when its task starts or ends without a start (16 R312, R314). -/
def State.etchTrigger (s : State) (x : TaskSet) : State :=
  if x.wid = 0 then s
  else s.etchSys x.ctx x.die x.count 0x11 (BitVec.ofNat 64 x.wid) x.value (.unit x.seq) x.id x.slot

/-- A place in the log taken for an event of a task, in issue order (19 R331, R333; log 20). -/
def State.etchTake (s : State) (task : Nat) : State × Option EtchSlot :=
  match s.task task with
  | none => (s, none)
  | some t =>
    match s.etchReserve t.ctx (dieOf t.loc) with
    | (s1, none) => (s1, none)
    | (s1, some k) =>
      (s1.updTask task fun t => { t with etchEvents := t.etchEvents + 1, etchCursor := t.etchCursor + 1 },
        some ⟨k, t.etchEvents + 1, t.etchCursor⟩)

/-- A place taken for the operation begun last, whose event will be performed later (19 R331). -/
def State.reserveOp (s : State) : State :=
  let (s1, k) := s.etchTake s.cur.id
  s1.setCur fun t => { t with ops := t.ops.map fun o => if o.id + 1 = s.nextId then { o with etch := k } else o }

/-- The operation begun last with the object of its event. -/
def State.withObj (s : State) (obj : Word) : State :=
  s.setCur fun t => { t with ops := t.ops.map fun o => if o.id + 1 = s.nextId then { o with obj := obj } else o }

/-- A recorded event of a task performed (19 R326, R333): the record, and in proof mode the comparison of the observed
value. The answer is the divergence, if there is one. -/
def State.etchDone (s : State) (task : Nat) (type flags : Nat) (obj value : Word) (ser : Series)
    (slot : Option EtchSlot) : State × Option Word :=
  let (s0, k) := match slot with
    | some k => (s, some k)
    | none => s.etchTake task
  match s0.task task, k with
  | some t, some k =>
    match s0.ctxOf t.ctx with
    | none => (s0, none)
    | some c =>
      let die := dieOf t.loc
      let who := t.ctl.taskid.toNat % 2 ^ 32
      let (s1, got) := s0.etchRecord c.id die who type flags obj value ser k.event k.slot
      if c.etch ≠ 2 then (s1, none)
      else
        match s0.expected c t k.cursor with
        | some r =>
          let s1 := s1.streamTouch c k.cursor
          if fieldW r 16 = value then (s1, none)
          else (s1.diverged c die (some r) got (eventOf (some r)), some (eventOf (some r)))
        | none => (s1, none)
  | _, _ => (s0, none)

/-- The failure that a divergence makes of a destination (19 R333). -/
def divFail (ev : Word) : Fail := ⟨cDiverge, 0, ev, none⟩

/-- A divergence of an event without a destination: pending on its task (19 R333, 20 R341). -/
def State.pendDiverge (s : State) (task : Nat) (ev : Option Word) : State :=
  match ev with
  | some e => s.updTask task fun t => { t with causes := t.causes ++ [.diverge e] }
  | none => s

/-- An event of a task that no bundle makes, checked as it is performed: one that differs from the record at the task's cursor
diverges (19 R333). -/
def State.etchLate (s : State) (task type flags : Nat) (obj value : Word) (ser : Series) : State × Option Word :=
  match s.task task with
  | none => (s, none)
  | some t =>
    match s.ctxOf t.ctx with
    | none => (s, none)
    | some c =>
      match if c.etch = 2 then s.etchDiffers c t t.etchCursor type obj none else none with
      | some r =>
        let got := s.wouldRecord c t type flags obj ser (some value)
        (((s.etchDone task type flags obj value ser none).1).diverged c (dieOf t.loc) r got (eventOf r), some (eventOf r))
      | none => s.etchDone task type flags obj value ser none

/-- A place taken for an event of a task that no bundle makes and that is performed elsewhere; one that differs from the record at
the task's cursor diverges (19 R331, R333). -/
def State.takeLate (s : State) (task type flags : Nat) (obj : Word) : State × Option EtchSlot :=
  match s.task task with
  | none => (s, none)
  | some t =>
    match s.ctxOf t.ctx with
    | none => (s, none)
    | some c =>
      match if c.etch = 2 then s.etchDiffers c t t.etchCursor type obj none else none with
      | some r => (s.diverged c (dieOf t.loc) r (s.wouldRecord c t type flags obj .none none) (eventOf r)).etchTake task
      | none => s.etchTake task

/-- Whether the turn of a task's next event in a series has come (19 R333). -/
def State.nextTurn (s : State) (t : Task) (ser : Series) : Bool := s.myTurn t (some ⟨0, 0, t.etchCursor⟩) ser

/-- A task that ends with records left in its stream in proof mode: the supervisor is told (19 R333); the report has no event of
its own to show (log 99). -/
def State.etchLeft (s : State) (t : Task) : State :=
  match s.ctxOf t.ctx with
  | none => s
  | some c =>
    if c.etch ≠ 2 ∨ t.etchEnd ≤ t.etchCursor then s
    else
      let r := s.expected c t t.etchCursor
      (s.divReport c r (List.replicate 32 0)).divNotice c (dieOf t.loc) (eventOf r)

/-- LOWN is cleared where software has written TAIL (19 R331): seen by its value (log 99). -/
def State.seeTails (s : State) : State :=
  s.ctxs.foldl (fun s c =>
    if c.etch = 0 then s
    else
      match s.etchCb c with
      | none => s
      | some cb =>
        if cb.tail = c.etchTail then s
        else
          let s1 := if cb.stat / 2 % 2 = 1 then s.ctxPut c.id (c.etchcb + 10) [BitVec.ofNat 8 (cb.stat - 2)] else s
          (s1.etchTouch c).updCtx c.id fun c => { c with etchTail := cb.tail }) s

/-- Whether a task holds an issue context. -/
def Task.resident (t : Task) : Bool :=
  match t.status with
  | .bound | .running | .parked | .stopped | .halted | .ending => true
  | _ => false

/-- The resident task whose window holds an offset of a core's scratchpad. -/
def State.padTask (s : State) (loc off : Nat) : Option Task :=
  s.tasks.find? fun t => t.resident && t.loc == loc && t.ctl.spb.toNat ≤ off && off < t.ctl.spl.toNat

/-- The object id of a scratchpad word (19 R329): the task whose window holds it, if one is resident there. -/
def State.padObject (s : State) (loc off : Nat) : Word :=
  match s.padTask loc off with
  | some t => BitVec.ofNat 64 ((t.ctl.taskid.toNat % 2 ^ 32) * 2 ^ 32 + (off - t.ctl.spb.toNat))
  | none => BitVec.ofNat 64 (0xFFFFFFFF00000000 + loc * 2 ^ 22 + off)

/-- The object of an event at a place that an address reaches (19 R329). -/
def State.objectOf (s : State) (va : Word) : Dest → Word
  | .pad pa | .ext pa => s.padObject ((pa - padBase 0) / 0x400000) ((pa - padBase 0) % 0x400000)
  | _ => va

/-- REMOTE and SPAD of an event at a place (19 R327). -/
def placeFlags : Dest → Nat
  | .pad _ | .ext _ => 8
  | .fabric _ => 4
  | _ => 0

/-- The series of an event at a place: that of a remote object is kept at its target (19 R328). -/
def syncSeries (obj : Word) : Dest → Series
  | .fabric _ => .none
  | _ => .word obj

end Sys2Proof.Machine
end

