-- ==== Sys2Proof/Machine/Operands.lean ====
section
/-! DEFINITION. The operand forms of the scalar class (07 R139, R142): what each form reads and writes, and how its
value is scheduled. -/

namespace Sys2Proof

/-- The sources and destination of the form D, A, B (07 R139 SR). -/
def RRR.uses (o : RRR) : List Machine.Use := [.srcS o.a o.wa, .srcS o.b o.wb, .write (.s o.d)]

/-- The sources and destination of the form D, A. -/
def RR.uses (o : RR) : List Machine.Use := [.srcS o.a o.wa, .write (.s o.d)]

/-- The source and destination of the form D, A, IMM9 (07 R139 SI). -/
def RI.uses (o : RI) : List Machine.Use := [.srcS o.a o.wa, .write (.s o.d)]

/-- The sources and destination of the form D, A, B, F. -/
def FRRR.uses (o : FRRR) : List Machine.Use := [.srcS o.a o.wa, .srcS o.b o.wb, .write (.s o.d)]

/-- IMM9 as a signed value (07 R139). -/
def RI.sext (o : RI) : Word := o.imm.signExtend 64

/-- The use of an address field A in which code 0 names sp (06 R123): sp is always ready. -/
def baseUse (a : SReg) (wa : Bool) : List Machine.Use := if a = 0 then [] else [.srcS a wa]

namespace Machine

/-- The base that an address field names: sp for code 0 (06 R123). -/
def State.base (s : State) (a : SReg) : Word := if a = 0 then s.cur.regs.sp else s.readS a

/-- A three-register integer instruction of a latency (08 R157). -/
def alu (n : Nat) (f : Word → Word → Word) (o : RRR) (s : State) : Res :=
  s.slot o.uses fun s => .ok (s.later n (outS o.d (f (s.readS o.a) (s.readS o.b))))

/-- A two-register integer instruction of latency 1 (08 R160). -/
def alu1 (f : Word → Word) (o : RR) (s : State) : Res :=
  s.slot o.uses fun s => .ok (s.later 1 (outS o.d (f (s.readS o.a))))

/-- An immediate integer instruction of latency 1 (08 R158). -/
def aluI (f : Word → Word) (o : RI) (s : State) : Res :=
  s.slot o.uses fun s => .ok (s.later 1 (outS o.d (f (s.readS o.a))))

/-- A floating-point result in a scalar register: the bits above it are zero (08 R165). -/
def fpOut (r : SReg) (bits : Nat) : Out := outS r (BitVec.ofNat 64 bits)

/-- A scalar floating-point instruction of latency 4 (08 R165): `f` has the format, the mode and the operands. -/
def falu (f : Fmt → Rm → Nat → Nat → Nat) (o : FRRR) (s : State) : Res :=
  s.slot o.uses fun s =>
    .ok (s.later 4 (fpOut o.d (f o.f.fmt s.rm (s.readS o.a).toNat (s.readS o.b).toNat)))

/-- The shift distance of a register operand (08 R157). -/
def shamt (b : Word) : Nat := b.toNat % 64

end Machine

end Sys2Proof
end

