-- ==== Sys2Proof/Machine/Scalar.lean ====
section
/-! DEFINITION. Scalar integer, floating-point, compare, predicate and mask instructions (08 R156 to R171, R181,
R186). -/

namespace Sys2Proof.Machine

/-! ### Integer arithmetic and logic -/

/-- NOP (08 R181). -/
def execNop (s : State) : Res := s.slot [] .ok

/-- ADD (08 R157). -/
def execAdd (o : RRR) (s : State) : Res := alu 1 (· + ·) o s
/-- SUB (08 R157). -/
def execSub (o : RRR) (s : State) : Res := alu 1 (· - ·) o s
/-- MUL (08 R157). -/
def execMul (o : RRR) (s : State) : Res := alu 3 (· * ·) o s
/-- MULH: the high half of the signed product (08 R157). -/
def execMulh (o : RRR) (s : State) : Res :=
  alu 3 (fun a b => ((a.signExtend 128 * b.signExtend 128).extractLsb' 64 64)) o s
/-- AND (08 R157). -/
def execAnd (o : RRR) (s : State) : Res := alu 1 (· &&& ·) o s
/-- OR (08 R157). -/
def execOr (o : RRR) (s : State) : Res := alu 1 (· ||| ·) o s
/-- XOR (08 R157). -/
def execXor (o : RRR) (s : State) : Res := alu 1 (· ^^^ ·) o s
/-- SHL (08 R157). -/
def execShl (o : RRR) (s : State) : Res := alu 1 (fun a b => a <<< shamt b) o s
/-- SHR (08 R157). -/
def execShr (o : RRR) (s : State) : Res := alu 1 (fun a b => a >>> shamt b) o s
/-- SAR (08 R157). -/
def execSar (o : RRR) (s : State) : Res := alu 1 (fun a b => a.sshiftRight (shamt b)) o s
/-- ROTL (08 R157). -/
def execRotl (o : RRR) (s : State) : Res := alu 1 (fun a b => (a <<< shamt b) ||| (a >>> (64 - shamt b))) o s
/-- MIN, signed (08 R157). -/
def execMin (o : RRR) (s : State) : Res := alu 1 (fun a b => if b.slt a then b else a) o s
/-- MAX, signed (08 R157). -/
def execMax (o : RRR) (s : State) : Res := alu 1 (fun a b => if a.slt b then b else a) o s

/-- ADDI (08 R158). -/
def execAddi (o : RI) (s : State) : Res := aluI (· + o.sext) o s
/-- ANDI (08 R158). -/
def execAndi (o : RI) (s : State) : Res := aluI (· &&& o.sext) o s
/-- ORI (08 R158). -/
def execOri (o : RI) (s : State) : Res := aluI (· ||| o.sext) o s
/-- XORI (08 R158). -/
def execXori (o : RI) (s : State) : Res := aluI (· ^^^ o.sext) o s
/-- SHLI (08 R158). -/
def execShli (o : RI) (s : State) : Res := aluI (· <<< o.imm.toNat) o s
/-- SHRI (08 R158). -/
def execShri (o : RI) (s : State) : Res := aluI (· >>> o.imm.toNat) o s
/-- SARI (08 R158). -/
def execSari (o : RI) (s : State) : Res := aluI (·.sshiftRight o.imm.toNat) o s

/-- Quotient and remainder of two operands (08 R159). -/
def divide (signed : Bool) (a b : Word) : Word × Word :=
  if b = 0 then (BitVec.allOnes 64, a)
  else if signed then
    if a = BitVec.intMin 64 ∧ b = BitVec.allOnes 64 then (a, 0)
    else (BitVec.ofInt 64 (a.toInt.tdiv b.toInt), BitVec.ofInt 64 (a.toInt.tmod b.toInt))
  else (a / b, a % b)

/-- The division of DIV's opcode: D is EMPTY until it completes (08 R159). -/
def division (signed quotient : Bool) (o : DivOps) (s : State) : Res :=
  s.slot [.srcS o.a o.wa, .srcS o.b o.wb, .mark (.s o.d)] fun s =>
    let r := divide signed (s.readS o.a) (s.readS o.b)
    .ok (s.beginOp .div [outS o.d (if quotient then r.1 else r.2)] false)

/-- DIV (08 R159). -/
def execDiv (o : DivOps) (s : State) : Res := division true true o s
/-- DIVU (08 R159). -/
def execDivu (o : DivOps) (s : State) : Res := division false true o s
/-- REM (08 R159). -/
def execRem (o : DivOps) (s : State) : Res := division true false o s
/-- REMU (08 R159). -/
def execRemu (o : DivOps) (s : State) : Res := division false false o s

/-- How many of the `n` bits of `f`, taken in order, come before the first that is set. -/
def leading (f : Nat → Bool) : Nat → Nat → Nat
  | 0, _ => 0
  | n + 1, i => if f i then 0 else 1 + leading f n (i + 1)

/-- How many of the first `n` bits of `f` are set. -/
def countBits (f : Nat → Bool) : Nat → Nat
  | 0 => 0
  | n + 1 => countBits f n + (f n).toNat

/-- CLZ (08 R160). -/
def execClz (o : RR) (s : State) : Res :=
  alu1 (fun a => BitVec.ofNat 64 (leading (fun i => a.getLsbD (63 - i)) 64 0)) o s
/-- CTZ (08 R160). -/
def execCtz (o : RR) (s : State) : Res := alu1 (fun a => BitVec.ofNat 64 (leading a.getLsbD 64 0)) o s
/-- POPC (08 R160). -/
def execPopc (o : RR) (s : State) : Res := alu1 (fun a => BitVec.ofNat 64 (countBits a.getLsbD 64)) o s

/-- SEL (08 R161). -/
def execSel (o : SelOps) (s : State) : Res :=
  s.slot [.srcS o.a true, .srcS o.b true, .write (.s o.d)] fun s =>
    .ok (s.later 1 (outS o.d (if s.readP o.p ^^ o.n then s.readS o.a else s.readS o.b)))

/-- LI (08 R161). -/
def execLi (o : LiOps) (s : State) : Res :=
  s.slot [.write (.s o.d)] fun s => .ok (s.later 1 (outS o.d (o.imm.signExtend 64)))

/-- LSI: D is a blocking source (08 R161). -/
def execLsi (o : LiOps) (s : State) : Res :=
  s.slot [.srcS o.d true, .write (.s o.d)] fun s =>
    .ok (s.later 1 (outS o.d ((s.readS o.d <<< 16) ||| o.imm.setWidth 64)))

/-! ### Compares and predicates -/

/-- CMP (08 R162). -/
def execCmp (o : CmpOps) (s : State) : Res :=
  s.slot [.srcS o.a o.wa, .srcS o.b o.wb, .write (.p o.pd)] fun s =>
    let ext (x : Word) : Word :=
      if o.w32 then (if o.cc.signed then (x.setWidth 32).signExtend 64 else (x.setWidth 32).setWidth 64) else x
    .ok (s.later 1 (outP o.pd (o.cc.holds (ext (s.readS o.a)) (ext (s.readS o.b)))))

/-- CMPI (08 R162). -/
def execCmpi (o : CmpiOps) (s : State) : Res :=
  s.slot [.srcS o.a o.wa, .write (.p o.pd)] fun s =>
    .ok (s.later 1 (outP o.pd (o.cc.holds (s.readS o.a) (o.imm.signExtend 64))))

/-- PLOG (08 R163). -/
def plog (f : Bool → Bool → Bool) (o : PlogOps) (s : State) : Res :=
  s.slot [.write (.p o.pd)] fun s => .ok (s.later 1 (outP o.pd (f (s.readP o.pa) (s.readP o.pb))))

/-- PAND (08 R163). -/
def execPand (o : PlogOps) (s : State) : Res := plog (fun x y => x && y) o s
/-- POR (08 R163). -/
def execPor (o : PlogOps) (s : State) : Res := plog (fun x y => x || y) o s
/-- PXOR (08 R163). -/
def execPxor (o : PlogOps) (s : State) : Res := plog (fun x y => x ^^ y) o s
/-- PANDC (08 R163). -/
def execPandc (o : PlogOps) (s : State) : Res := plog (fun x y => x && !y) o s
/-- PORC (08 R163). -/
def execPorc (o : PlogOps) (s : State) : Res := plog (fun x y => x || !y) o s
/-- PNAND (08 R163). -/
def execPnand (o : PlogOps) (s : State) : Res := plog (fun x y => !(x && y)) o s
/-- PNOR (08 R163). -/
def execPnor (o : PlogOps) (s : State) : Res := plog (fun x y => !(x || y)) o s
/-- PXNOR (08 R163). -/
def execPxnor (o : PlogOps) (s : State) : Res := plog (fun x y => !(x ^^ y)) o s

/-- PPACK (08 R164). -/
def execPpack (o : DOnly) (s : State) : Res :=
  s.slot [.write (.s o.d)] fun s => .ok (s.later 1 (outS o.d ((s.cur.regs.p ||| 1).setWidth 64)))

/-- The predicates p1 to p7. -/
def p1to7 : List PReg := [1, 2, 3, 4, 5, 6, 7]

/-- PUNPACK: the writer of each of p1 to p7 (08 R164). -/
def execPunpack (o : AOnly) (s : State) : Res :=
  s.slot (.srcS o.a o.wa :: p1to7.map fun p => .write (.p p)) fun s =>
    .ok (s.laterAll 1 (p1to7.map fun p => outP p ((s.readS o.a).getLsbD p.val)))

/-! ### Scalar floating point -/

/-- FADD (08 R165). -/
def execFadd (o : FRRR) (s : State) : Res := falu Fmt.addBits o s
/-- FSUB (08 R165). -/
def execFsub (o : FRRR) (s : State) : Res := falu Fmt.subBits o s
/-- FMUL (08 R165). -/
def execFmul (o : FRRR) (s : State) : Res := falu Fmt.mulBits o s
/-- FMIN (08 R165). -/
def execFmin (o : FRRR) (s : State) : Res := falu (fun f _ => f.minBits) o s
/-- FMAX (08 R165). -/
def execFmax (o : FRRR) (s : State) : Res := falu (fun f _ => f.maxBits) o s

/-- FFMA: D is a blocking source (08 R165). -/
def execFfma (o : FRRR) (s : State) : Res :=
  s.slot (.srcS o.d true :: o.uses) fun s =>
    .ok (s.later 4 (fpOut o.d
      (o.f.fmt.fmaBits s.rm (s.readS o.a).toNat (s.readS o.b).toNat (s.readS o.d).toNat)))

/-- FCMP (08 R166). -/
def execFcmp (o : FcmpOps) (s : State) : Res :=
  s.slot [.srcS o.a o.wa, .srcS o.b o.wb, .write (.p o.pd)] fun s =>
    .ok (s.later 4 (outP o.pd
      (o.cc.holds (o.f.fmt.decode (s.readS o.a).toNat) (o.f.fmt.decode (s.readS o.b).toNat))))

/-- FDIV: D is EMPTY until it completes (08 R167). -/
def execFdiv (o : FRRR) (s : State) : Res :=
  s.slot [.srcS o.a o.wa, .srcS o.b o.wb, .mark (.s o.d)] fun s =>
    .ok (s.beginOp .div [fpOut o.d (o.f.fmt.divBits s.rm (s.readS o.a).toNat (s.readS o.b).toNat)] false)

/-- FSQRT (08 R167). -/
def execFsqrt (o : FRR) (s : State) : Res :=
  s.slot [.srcS o.a o.wa, .mark (.s o.d)] fun s =>
    .ok (s.beginOp .div [fpOut o.d (o.f.fmt.sqrtBits s.rm (s.readS o.a).toNat)] false)

/-- FCVT (08 R168): under policy 11 an overflow or a NaN to an integer is a trap of the bundle. -/
def execFcvt (o : FcvtOps) (s : State) : Res :=
  s.slot [.srcS o.a o.wa, .write (.s o.d)] fun s =>
    let c := cvtScalar o.src o.dst s.rm o.ovf (s.readS o.a).toNat
    if c.ovf then
      if o.ovf = .trap then .error (.trap (.now cFpTrap 0))
      else .ok { s.later 4 (fpOut o.d c.bits) with scr := { s.scr with convx := true } }
    else .ok (s.later 4 (fpOut o.d c.bits))

/-! ### Control registers, fmt and masks -/

/-- A trap whose value for c.EVAL no rule names: a free value (log 12). -/
def State.protFree (s : State) : Stop := .trap (.now cProt (s.freeVal 64))

/-- CRD (08 R169, 06 R136). -/
def execCrd (o : DK) (s : State) : Res :=
  let k := o.k.toNat
  s.slot [.illegalIf (s.cur.ctl.sv && 0x108 ≤ k), .write (.s o.d)] fun s =>
    if ctlSupervisor k && !s.cur.ctl.sv then .error s.protFree
    else
      let t := s.later 1 (outS o.d (s.readCtl k))
      .ok (if k = 0x013 then t.tookFree else t)

/-- What CWR writes: sp and lk are written through their aliases (08 R169). -/
def cwrDst (k : Nat) : Dst :=
  match k with
  | 0x018 => .sp
  | 0x019 => .lk
  | _ => .cr k

/-- CWR (08 R169, 06 R136). -/
def execCwr (o : AK) (s : State) : Res :=
  let k := o.k.toNat
  s.slot [.illegalIf (s.cur.ctl.sv && 0x108 ≤ k), .srcS o.a true, .write (cwrDst k)] fun s =>
    if ctlReadOnly k || ((ctlSupervisor k || k == 0x012) && !s.cur.ctl.sv) then .error s.protFree
    else .ok (s.later 1 (outOf (cwrDst k) (s.readS o.a)))

/-- FMTSET: the new fmt governs from five bundles on (08 R170, 06 R129). -/
def execFmtset (o : AX) (s : State) : Res :=
  s.slot [.fmtset o.a, .srcS o.a true, .write .fmt] fun s =>
    .ok (s.later 5 (outOf .fmt ((s.readS o.a).setWidth 32)))

/-- EMSAVE: em is read with a blocking read (08 R171). -/
def execEmsave (o : DOnly) (s : State) : Res :=
  s.slot [.srcEm, .write (.s o.d)] fun s => .ok (s.later 1 (outS o.d (s.em.setWidth 64)))

/-- EMLOAD (08 R171). -/
def execEmload (o : AOnly) (s : State) : Res :=
  s.slot [.srcS o.a o.wa, .write .em] fun s => .ok (s.later 1 (outOf .em ((s.readS o.a).setWidth 32)))

/-- EMCOMB (08 R171). -/
def execEmcomb (o : RR) (s : State) : Res :=
  s.slot [.srcEm, .srcS o.a o.wa, .write (.s o.d), .write .em] fun s =>
    .ok ((s.later 1 (outS o.d (s.em.setWidth 64))).later 1
      (outOf .em (s.em &&& s.cur.regs.cm &&& (s.readS o.a).setWidth 32)))

/-- CMSAVE (08 R171). -/
def execCmsave (o : DOnly) (s : State) : Res :=
  s.slot [.write (.s o.d)] fun s => .ok (s.later 1 (outS o.d (s.cur.regs.cm.setWidth 64)))

/-- CMLOAD (08 R171). -/
def execCmload (o : AOnly) (s : State) : Res :=
  s.slot [.srcS o.a o.wa, .write .cm] fun s => .ok (s.later 1 (outOf .cm ((s.readS o.a).setWidth 32)))

/-- RDCYC (08 R186). -/
def execRdcyc (o : DOnly) (s : State) : Res :=
  s.slot [.write (.s o.d)] fun s => .ok (s.later 1 (outS o.d (s.readCtl 0x00F)))

end Sys2Proof.Machine
end

