-- ==== Sys2Proof/Machine/Control.lean ====
section
/-! DEFINITION. Transfer of control, stack frames, traps, and the scalar instructions of tasks (08 R172 to R185). -/

namespace Sys2Proof.Machine

/-- The next bundle address of the bundle being executed (08 R172). -/
def State.nextPc (s : State) : Word := s.cur.pc + BitVec.ofNat 64 (4 * s.scr.slots)

/-- Control will go to a target when the bundle has committed (08 R172). -/
def State.goto (s : State) (a : Word) : State := { s with scr := { s.scr with target := some a } }

/-- What the bundle does once it has committed. -/
def State.thenDo (s : State) (a : After) : State := { s with scr := { s.scr with after := some a } }

/-- The target of a branch: an offset in words from the bundle (08 R173). -/
def State.branchTarget (s : State) {w : Nat} (off : BitVec w) : Word := s.cur.pc + 4 * off.signExtend 64

/-- BR (08 R173). -/
def execBr (o : BrOps) (s : State) : Res :=
  s.slot [.ctl] fun s => .ok (if s.readP o.p ^^ o.n then s.goto (s.branchTarget o.off) else s)

/-- CALL: lk is written only when the transfer is taken (08 R173). -/
def execCall (o : BrOps) (s : State) : Res :=
  s.slot [.ctl, .write .lk] fun s =>
    .ok (if s.readP o.p ^^ o.n then (s.goto (s.branchTarget o.off)).later 1 (outOf .lk s.nextPc) else s)

/-- A register target: misaligned, it traps at the transfer's own bundle (08 R174). -/
def State.jumpTo (s : State) (a : Word) : Except Stop State :=
  if a.extractLsb' 0 2 ≠ 0#2 then .error (.trap (.now cMisalign a)) else .ok (s.goto a)

/-- JMP (08 R174). -/
def execJmp (o : AOnly) (s : State) : Res :=
  s.slot [.ctl, .srcS o.a o.wa] fun s => s.jumpTo (s.readS o.a)

/-- CALLR (08 R174). -/
def execCallr (o : AOnly) (s : State) : Res :=
  s.slot [.ctl, .srcS o.a o.wa, .write .lk] fun s =>
    (s.later 1 (outOf .lk s.nextPc)).jumpTo (s.readS o.a)

/-- RET (08 R174). -/
def execRet (s : State) : Res := s.slot [.ctl] fun s => s.jumpTo s.cur.regs.lk

/-- DBNZ: D is a blocking source (08 R175). -/
def execDbnz (o : DbnzOps) (s : State) : Res :=
  s.slot [.ctl, .srcS o.d true, .write (.s o.d)] fun s =>
    let d := s.readS o.d - 1
    let t := s.later 1 (outS o.d d)
    .ok (if d ≠ 0 then t.goto (s.branchTarget o.off) else t)

/-- Whether the `n` bytes from an address lie in the task window (04 R89). -/
def Task.inWindow (t : Task) (a : Word) (n : Nat) : Bool :=
  t.ctl.spb.toNat ≤ a.toNat && a.toNat + n ≤ t.ctl.spl.toNat

/-- ENTER (08 R176): the frame's link is stored at its own slot position, the new sp is visible to the next bundle. -/
def execEnter (o : FrameOps) (s : State) : Res :=
  s.slot [.write .sp] fun s =>
    let sp := s.cur.regs.sp
    let size := o.imm.toNat * 16
    let new := sp - BitVec.ofNat 64 size
    if sp.extractLsb' 0 4 ≠ 0#4 then .error (.trap (.now cMisalign sp))
    else if sp.toNat < size ∨ new.toNat < s.cur.ctl.slim.toNat then .error (.trap (.now cStackLimit new))
    else if !s.cur.inWindow new 8 then .error (.trap (.now cSpBound new))
    else
      let pa := padBase s.cur.loc + new.toNat
      let link := s.cur.regs.lk
      .ok ((if s.blocked (.pad pa) 8 then s.beginOp (.heldWrite [⟨.pad pa, 8, 0, List.replicate 8 true⟩] (link.setWidth 1024) 0) [] false
        else s.padWrite pa ((natLe 8 link.toNat).map some)).later 1 (outOf .sp new))

/-- LEAVE (08 R177). Its MISALIGN and SP_BOUND report sp; POISON reports no register, so its value is free (log 12). -/
def execLeave (o : FrameOps) (s : State) : Res :=
  s.slot [.write .lk, .write .sp] fun s =>
    let sp := s.cur.regs.sp
    let size := o.imm.toNat * 16
    if sp.extractLsb' 0 4 ≠ 0#4 then .error (.trap (.now cMisalign sp))
    else if !s.cur.inWindow sp 8 ∨ s.cur.ctl.spl.toNat < sp.toNat + size then .error (.trap (.now cSpBound sp))
    else
      let pa := padBase s.cur.loc + sp.toNat
      if s.mustStall (.pad pa) 8 then .error (.wait false)
      else if s.poisoned pa then .error (.trap (.now cPoison (s.freeVal 64)))
      else .ok ((s.later 1 (outOf .lk (BitVec.ofNat 64 (leNat (s.bytesSeen pa 8))))).later 1
        (outOf .sp (sp + BitVec.ofNat 64 size)))

/-- TRAP (08 R178). -/
def execTrap (o : KOnly) (s : State) : Res :=
  s.slot [.ctl] fun s => .ok (s.thenDo (.trap cTrap s.scr.slot (o.k.setWidth 64)))

/-- SVC (08 R178). -/
def execSvc (o : KOnly) (s : State) : Res :=
  s.slot [.ctl] fun s => .ok (s.thenDo (.trap cSvc s.scr.slot (o.k.setWidth 64)))

/-- BRK (08 R178). -/
def execBrk (o : KOnly) (s : State) : Res :=
  s.slot [.ctl] fun s => .ok (s.thenDo (.trap cBreak s.scr.slot (o.k.setWidth 64)))

/-- RTE (08 R179). -/
def execRte (s : State) : Res :=
  s.slot [.ctl, .illegalIf (s.cur.ctl.sv && !s.cur.ctl.intrap)] fun s =>
    if s.cur.ctl.sv then .ok (s.thenDo .rte) else .error s.protFree

/-- HALT (08 R180). -/
def execHalt (s : State) : Res :=
  s.slot [.ctl] fun s => if s.cur.ctl.sv then .ok (s.thenDo .halt) else .error s.protFree

/-- TEXIT: a synchronisation, since it ends its task (08 R183, 20 R341). -/
def execTexit (s : State) : Res := s.slot [.ctl, .sync] fun s => .ok (s.thenDo .texit)

/-- KNEXT: a synchronisation when it ends its task (08 R182, 20 R341). -/
def execKnext (s : State) : Res :=
  s.slot (if s.cur.knextEnds then [.ctl, .sync] else [.ctl]) fun s => .ok (s.thenDo .knext)

/-- A TSPAWN of a task performed (08 R184): a release at package scope (14 R278), behind every earlier write of its context; then
the launch record waits for the dispatcher. -/
def State.spawnGo (s : State) (t : Task) (op : Op) : State :=
  match op.kind with
  | .spawn va false =>
    if t.ops.any fun o => o.id < op.id && (o.holds || o.writes) then s
    else
      let s1 := (s.flushCtx t.loc t.ctx).updOp t.id { op with kind := .spawn va true }
      { s1 with subs := s1.subs ++ [⟨t.ctx, va, .spawn t.id op.id⟩] }
  | _ => s

/-- TSPAWN (08 R184). The object of its etch record is the record's address (19 R326). -/
def execTspawn (o : RR) (s : State) : Res :=
  s.slot [.srcS o.a o.wa, .mark (.s o.d), .sync] fun s =>
    let a := s.readS o.a
    if a.extractLsb' 0 6 ≠ 0#6 then .error (.trap (.now cMisalign a))
    else
      match s.etchReady 0x0E 0 a .none none with
      | .error e => .error e
      | .ok _ => .ok (((s.beginOp (.spawn a false) [outS o.d 0] false).reserveOp).lastGo State.spawnGo)

/-- ETCHMARK (08 R185). -/
def execEtchmark (o : AK) (s : State) : Res :=
  s.slot [.srcS o.a true] fun s =>
    let a := s.readS o.a
    let k := o.k.setWidth 64
    match s.etchReady 0x0F 0 k .none (some a) with
    | .error e => .error e
    | .ok _ => .ok (s.etchDone s.cur.id 0x0F 0 k a .none none).1

end Sys2Proof.Machine
end

