-- ==== Sys2Proof/Machine/Journal.lean ====
section
/-! DEFINITION. The journal of accepted launches and the completion notification (24 R372, R373). -/

namespace Sys2Proof.Machine

/-- A journal or notification register (24 R372). -/
def jreg (off : Nat) : Nat := ctlBase 0 + 0xD0000 + off

/-- `n` bits from bit `lo` of a journal or notification register. -/
def State.jget (s : State) (off lo n : Nat) : Nat := (s.mcrGet (jreg off)).toNat / 2 ^ lo % 2 ^ n

/-- Whether there is a journal: with JBASE 0 nothing is journalled. -/
def State.journalOn (s : State) : Bool := s.jget 0x00 12 36 != 0

/-- Records that the journal holds. -/
def State.journalSize (s : State) : Nat := 2 ^ (min 12 (s.jget 0x08 0 4) + 7)

/-- Whether a record must wait for room. -/
def State.journalFull (s : State) : Bool :=
  s.journalOn && (s.jget 0x10 0 32 + 2 ^ 32 - s.jget 0x18 0 32) % 2 ^ 32 == s.journalSize

/-- A journal record written, JHEAD last. -/
def State.journalPut (s : State) (tag launch : Word) (setId status kind : Nat) : State :=
  if !s.journalOn then s
  else
    let head := s.jget 0x10 0 32
    let n := (head + 1) % 2 ^ 32
    let rec_ : List Byte := natLe 8 tag.toNat ++ natLe 8 launch.toNat ++ natLe 4 setId ++ natLe 1 status ++ natLe 1 kind ++
      natLe 2 s.incarnation ++ natLe 4 n ++ natLe 4 0
    let at_ := s.jget 0x00 12 36 * 4096 + 32 * (head % s.journalSize)
    let s1 := if (s.place at_).isNode then s.outsideWrite at_ (rec_.map some) else s
    s1.mcrPut (jreg 0x10) (BitVec.ofNat 64 n)

/-- The interrupt of the notification ring, once the records written since the last one number THRESH or more (24 R373); while the
host link is down it cannot be sent. -/
def State.interrupt (s : State) : State :=
  if s.board.hostUp && s.board.ntfSince != 0 && max 1 (s.jget 0x60 0 16) ≤ s.board.ntfSince then
    { s with board := { s.board with ntfSince := 0, sent := s.board.sent ++ [.msix (s.jget 0x60 32 6)] } }
  else s

/-- The notification that follows a DONE record (24 R373): dropped with LOST when the host ring is full or the host link
is down (24 R374); an interrupt when enough records were written since the last one. -/
def State.notify (s : State) (tag word : Word) : State :=
  let c := s.mcrGet (jreg 0x60)
  if !c.getLsbD 48 then s
  else
    let head := s.jget 0x50 0 32
    let size := 2 ^ (s.jget 0x48 0 4 + 6)
    if !s.board.hostUp || (head + 2 ^ 32 - s.jget 0x58 0 32) % 2 ^ 32 == size then
      s.mcrPut (jreg 0x60) (c ||| BitVec.ofNat 64 (2 ^ 49))
    else
      let msg := OutMsg.notification (s.jget 0x40 4 48 * 16 + 16 * (head % size)) (natLe 8 tag.toNat ++ natLe 8 word.toNat)
      let s1 := s.mcrPut (jreg 0x50) (BitVec.ofNat 64 ((head + 1) % 2 ^ 32))
      { s1 with board := { s1.board with ntfSince := s1.board.ntfSince + 1, sent := s1.board.sent ++ [msg] } }.interrupt

/-- The DONE record of a set that came from a mailbox (24 R372). -/
def TaskSet.doneWait (x : TaskSet) (w : Word) : Option DoneWait := if x.mailbox then some ⟨x.tag, x.launch, x.id, w, false⟩ else none

/-- A DONE record and its notification, or an ACCEPT record. -/
def State.donePut (s : State) (d : DoneWait) : State :=
  if !s.journalOn then s
  else if d.accept then s.journalPut d.tag d.launch d.setId (d.word.toNat % 256) 1
  else (s.journalPut d.tag d.launch d.setId (d.word.toNat % 256) 2).notify d.tag d.word

/-- The records that wait, written as far as there is room. -/
def State.drainDone (s : State) : State :=
  s.doneWait.foldl (fun s _ =>
    match s.doneWait with
    | d :: ds => if s.journalFull then s else { s with doneWait := ds }.donePut d
    | [] => s) s

/-- A record written at once, or behind the others that wait: the DONE record of a set whose completion word has been written, or
the ACCEPT record of a submission that a tear-down refused. -/
def State.journalDone (s : State) (d : DoneWait) : State :=
  { s with doneWait := s.doneWait ++ [d] }.drainDone

/-- NTF_DELAY_EXPIRE (24 R373): the oldest record since the last interrupt has waited for DELAY; while the host link is down nothing
is sent. -/
def execNtfDelayExpire (s : State) : Res :=
  .next (if s.board.hostUp && s.board.ntfSince != 0 && s.jget 0x60 16 16 != 0 then
    { s with board := { s.board with ntfSince := 0, sent := s.board.sent ++ [.msix (s.jget 0x60 32 6)] } }
  else s)

end Sys2Proof.Machine
end

