-- ==== Sys2Proof/Machine/Functions.lean ====
section
/-! DEFINITION. The special functions of 09 R205 on FP32: values to some 200 bits in fixed point, rounded correctly or
to one of the two numbers around them; the softmax merge of 03 R72. -/

namespace Sys2Proof.Machine

/-- Fraction bits of the fixed-point values. -/
def fixBits : Nat := 256

/-- 1 in fixed point. -/
def fixOne : Nat := 2 ^ fixBits

/-- The sum of t^(2k+1) / (2k+1), from the term whose power is `pow`, where `sq` is t². -/
def atanhSum : Nat → Nat → Nat → Nat → Nat
  | 0, _, _, _ => 0
  | n + 1, k, pow, sq => pow / (2 * k + 1) + atanhSum n (k + 1) (pow * sq / fixOne) sq

/-- ln z for z from 1 to 2. -/
def lnFix (z : Nat) : Nat :=
  let t := (z - fixOne) * fixOne / (z + fixOne)
  2 * atanhSum 90 0 t (t * t / fixOne)

/-- ln 2. -/
def ln2Fix : Nat := lnFix (2 * fixOne)

/-- The sum of y^k / k!, from the term `term`. -/
def expSum : Nat → Nat → Nat → Nat → Nat
  | 0, _, _, _ => 0
  | n + 1, k, term, y => term + expSum n (k + 1) (term * y / fixOne / (k + 1)) y

/-- 2^f for f from 0 to 1. -/
def exp2Fix (f : Nat) : Nat := expSum 70 0 fixOne (f * ln2Fix / fixOne)

/-- The alternating sum of (1/n)^(2k+1) / (2k+1). -/
def atanInv (n : Nat) : Nat → Nat → Nat → Int
  | 0, _, _ => 0
  | fuel + 1, k, pow => (pow / (2 * k + 1) : Nat) - atanInv n fuel (k + 1) (pow / (n * n))

/-- π, by Machin's formula. -/
def piFix : Nat := (16 * atanInv 5 120 0 (fixOne / 5) - 4 * atanInv 239 40 0 (fixOne / 239)).toNat

/-- The sine or cosine series from its term for y^j / j!, `sq` being y². -/
def trigSum : Nat → Nat → Int → Int → Int
  | 0, _, _, _ => 0
  | n + 1, j, term, sq => term - trigSum n (j + 2) (term * sq / fixOne / ((j + 1) * (j + 2))) sq

/-- The sum of (−1)^k x^(2k+1) / (k! (2k+1)), from the term x^(2k+1) / k!. -/
def erfSum : Nat → Nat → Nat → Nat → Int
  | 0, _, _, _ => 0
  | n + 1, k, term, sq => (term / (2 * k + 1) : Nat) - erfSum n (k + 1) (term * sq / fixOne / (k + 1)) sq

/-- A fixed-point number as a value. -/
def ofFix (x : Int) : FVal := .fin (decide (x < 0)) x.natAbs (-fixBits)

/-- A finite FP32 value in fixed point; its magnitude is cut at 2^9, past which every function here is at its limit or
at a whole number of turns. -/
def toFix (neg : Bool) (m : Nat) (e : Int) : Int :=
  let x := m * 2 ^ (e + fixBits).toNat
  if neg then -(x : Int) else x

/-- A number next to 1 from below, nearer than any FP32 number. -/
def belowOne : FVal := .fin false (2 ^ 60 - 1) (-60)

/-- 2^t as a value, for t in fixed point. -/
def exp2Val (t : Int) : FVal := .fin false (exp2Fix (t % (fixOne : Int)).toNat) (t / (fixOne : Int) - fixBits)

/-- e^x as 2^(x / ln 2), x in fixed point. -/
def expArg (x : Int) : Int := x * fixOne / ln2Fix

/-- e^|x| in fixed point, for |x| below 200. -/
def expBig (x : Nat) : Nat :=
  let t := expArg x
  exp2Fix (t % (fixOne : Int)).toNat * 2 ^ (t / (fixOne : Int)).toNat

/-- Whether |x| is below 2^−40. -/
def tiny (m : Nat) (e : Int) : Bool := (Nat.log2 m : Int) + e < -40

/-- Whether |x| is at least `n`, an integer. -/
def atLeast (n : Nat) (m : Nat) (e : Int) : Bool := decide (n * fixOne ≤ m * 2 ^ (e + fixBits).toNat)

/-- 2^x (09 R205). -/
def fExp2 : FVal → FVal
  | .nan => .nan
  | .inf s => if s then .fin false 0 0 else .inf false
  | .fin s m e =>
    if m = 0 then .fin false 1 0
    else if atLeast 200 m e then .fin false 1 (if s then -200 else 200)
    else exp2Val (toFix s m e)

/-- log2 x (09 R205). -/
def fLog2 : FVal → FVal
  | .nan => .nan
  | .inf s => if s then .nan else .inf false
  | .fin s m e =>
    if m = 0 then .inf true
    else if s then .nan
    else
      let l := Nat.log2 m
      ofFix ((lnFix (m * 2 ^ (fixBits - l)) * fixOne / ln2Fix : Nat) + (e + l) * fixOne)

/-- 1/√x, to the same side of every rounding boundary as the exact root (09 R205). -/
def fRsqrt : FVal → FVal
  | .nan => .nan
  | .inf s => if s then .nan else .fin false 0 0
  | .fin s m e =>
    if m = 0 then .inf s
    else if s then .nan
    else
      let odd := e % 2 == 1
      let m' := if odd then 2 * m else m
      let e' := if odd then e - 1 else e
      let n := 2 ^ 400 / m'
      let r := isqrt (n.log2 / 2 + 1) n
      .fin false (2 * r + (if r * r * m' = 2 ^ 400 then 0 else 1)) (-201 - e' / 2)

/-- tanh x (09 R205). -/
def fTanh : FVal → FVal
  | .nan => .nan
  | .inf s => .fin s 1 0
  | .fin s m e =>
    if m = 0 then .fin s 0 0
    else
      let v := if tiny m e then .fin false (m * (2 ^ 60 - 1)) (e - 60)
        else if atLeast 20 m e then belowOne
        else
          let x := expBig (2 * (toFix false m e).toNat)
          .fin false ((x - fixOne) * 2 ^ 300 / (x + fixOne)) (-300)
      if s then v.neg else v

/-- 1/(1 + e^−x) (09 R205). -/
def fSigm : FVal → FVal
  | .nan => .nan
  | .inf s => if s then .fin false 0 0 else .fin false 1 0
  | .fin s m e =>
    if m = 0 then .fin false 1 (-1)
    else
      let x := if atLeast 199 m e then 199 * fixOne else (toFix false m e).toNat
      let ex := expBig x
      .fin false ((if s then fixOne else ex) * 2 ^ 600 / (fixOne + ex)) (-600)

/-- The part of x after its whole turns, in fixed point. -/
def turns (s : Bool) (m : Nat) (e : Int) : Nat := (toFix s m e % (fixOne : Int)).toNat

/-- 2πr, for r in turns from 0 to 1, taken between −π and π. -/
def turnAngle (r : Nat) : Int :=
  ((if 2 * r < fixOne then (r : Int) else (r : Int) - fixOne) * (2 * piFix)) / fixOne

/-- sin 2πx (09 R205). -/
def fSint : FVal → FVal
  | .nan => .nan
  | .inf _ => .nan
  | .fin s m e =>
    if m = 0 then .fin s 0 0
    else if tiny m e then .fin s (m * (2 * piFix)) (e - fixBits)
    else
      let r := turns s m e
      if 2 * r % fixOne = 0 then .fin s 0 0
      else if 4 * r = fixOne then .fin false 1 0
      else if 4 * r = 3 * fixOne then .fin true 1 0
      else
        let y := turnAngle r
        ofFix (trigSum 80 1 y (y * y / fixOne))

/-- cos 2πx (09 R205). -/
def fCost : FVal → FVal
  | .nan => .nan
  | .inf _ => .nan
  | .fin s m e =>
    if m = 0 then .fin false 1 0
    else if tiny m e then belowOne
    else
      let r := turns s m e
      if r = 0 then .fin false 1 0
      else if 2 * r = fixOne then .fin true 1 0
      else if 4 * r = fixOne ∨ 4 * r = 3 * fixOne then .fin false 0 0
      else
        let y := turnAngle r
        ofFix (trigSum 80 0 fixOne (y * y / fixOne))

/-- e^x (09 R205). -/
def fExp : FVal → FVal
  | .nan => .nan
  | .inf s => if s then .fin false 0 0 else .inf false
  | .fin s m e =>
    if m = 0 then .fin false 1 0
    else if atLeast 200 m e then .fin false 1 (if s then -200 else 200)
    else exp2Val (expArg (toFix s m e))

/-- 2/√π. -/
def twoOverRootPi : Nat := 2 * fixOne * fixOne / isqrt (fixBits + 2) (piFix * fixOne)

/-- erf x (09 R205). -/
def fErf : FVal → FVal
  | .nan => .nan
  | .inf s => .fin s 1 0
  | .fin s m e =>
    if m = 0 then .fin s 0 0
    else
      let v := if tiny m e then .fin false (m * twoOverRootPi) (e - fixBits)
        else if atLeast 6 m e then belowOne
        else
          let x := (toFix false m e).toNat
          ofFix (erfSum 260 0 x (x * x / fixOne) * twoOverRootPi / fixOne)
      if s then v.neg else v

/-- A correctly rounded FP32 result (09 R205). -/
def correct (f : FVal → FVal) (x : Nat) : Nat := fp32.round .rne (f (fp32.decode x))

/-- A faithfully rounded FP32 result: one of the two numbers around the exact value, the exact value where it is one,
chosen freely for each function and operand (log 7). -/
def faithful (op : Nat) (f : FVal → FVal) (x : Nat) : Nat :=
  fp32.round (if Config.faithfulUp op x then .up else .down) (f (fp32.decode x))

/-- A faithfully rounded odd function: the choice is made for |x| (09 R205). -/
def faithfulOdd (op : Nat) (f : FVal → FVal) (x : Nat) : Nat :=
  let v := fp32.decode x
  let r := faithful op f (x % 2 ^ 31)
  if v.isNan then fp32.qnan else if v.sign then 2 ^ 31 + r % 2 ^ 31 else r

/-- The softmax merge of two triples (m, l, o) in FP32 (03 R72). -/
def softmaxMerge (m1 l1 : Nat) (o1 : List Nat) (m2 l2 : Nat) (o2 : List Nat) : Nat × Nat × List Nat :=
  let f := fp32
  let m := f.maxBits m1 m2
  let factor (mi : Nat) : Nat :=
    if f.decode mi = .inf true then 0 else correct fExp2 (f.subBits .rne mi m)
  let a1 := factor m1
  let a2 := factor m2
  let both (x y : Nat) : Nat := f.addBits .rne (f.mulBits .rne x a1) (f.mulBits .rne y a2)
  (m, both l1 l2, (o1.zip o2).map fun p => both p.1 p.2)

end Sys2Proof.Machine
end

