-- ==== Sys2Proof/Machine/Fabric.lean ====
section
/-! DEFINITION. The fabric units: requests this module sends, the answers to them, and the requests it serves for
others (03 R60 to R69, 17 R316); the computations of atomics (10 R229). -/

namespace Sys2Proof.Machine

/-! ### Atomics -/

/-- The value an atomic writes, from the old value, b and the expected value, on `n` bytes; none for an ATCAS that
fails (10 R229). -/
def atNew (op : AtOp) (n : Nat) (old b e : Nat) : Option Nat :=
  let z := 8 * n
  let signed (f : Int → Int → Int) : Nat := intBits z (f (toSigned z old) (toSigned z b))
  let b := b % 2 ^ z
  match op with
  | .add => some ((old + b) % 2 ^ z)
  | .min => some (signed min)
  | .max => some (signed max)
  | .minu => some (min old b)
  | .maxu => some (max old b)
  | .and => some (old &&& b)
  | .or => some (old ||| b)
  | .xor => some (old ^^^ b)
  | .xch => some b
  | .cas => if old = e % 2 ^ z then some b else none
  | .fadd r => some ((if n = 4 then fp32 else fp64).addBits (Rm.ofRnd r) old b)

/-- A write at a physical address by the operation `op` of a task, past the L1; the commands that wait for it are not
spoiled (11 R255). -/
def State.opWrite (s : State) (a : Agent) (op pa : Nat) (bs : List (Option Byte)) : State :=
  match s.place pa with
  | .node _ => s.homeWrite a pa bs
  | _ => (s.padPut pa bs).spoil pa bs.length a.task op

/-- An atomic performed at a physical address (10 R229) by an operation, 0 for none: the machine, the old value, and
whether it was poisoned. -/
def State.atomicAt (s : State) (a : Agent) (id pa : Nat) (op : AtOp) (n : Nat) (b e : Word) : State × Nat × Bool :=
  let s1 := s.touch a.ctx pa n
  let old := s1.word pa n
  let bad := s1.anyPoison pa n
  match atNew op n old b.toNat e.toNat with
  | some x => (s1.opWrite a id pa ((natLe n x).map some), old, bad)
  | none => (s1, old, bad)

/-! ### The module in its torus -/

/-- The module's own id (03 R60). -/
def State.mid (s : State) : Nat := (s.mcrGet fxid).toNat % 4096

/-- FXID.EN (03 R60). -/
def State.fabricOn (s : State) : Bool := (s.mcrGet fxid).getLsbD 40

/-- Whether a module id lies inside the configured extents (03 R60). -/
def State.inTorus (s : State) (m : Nat) : Bool :=
  let r := (s.mcrGet fxid).toNat
  m % 16 ≤ r / 2 ^ 12 % 16 && m / 16 % 16 ≤ r / 2 ^ 16 % 16 && m / 256 ≤ r / 2 ^ 20 % 16

/-- The incarnation expected of a module (03 R66). -/
def State.peerInc (s : State) (m : Nat) : Nat :=
  s.word ((s.mcrGet (fxid + 8)).toNat / 2 ^ 13 % 2 ^ 35 * 2 ^ 13 + 2 * m) 2

/-- The machine with the fabric units changed. -/
def State.updFabric (s : State) (f : Fabric → Fabric) : State := { s with fabric := f s.fabric }

/-- The module that a packet is for. -/
def Packet.target : Packet → Nat
  | .request m _ | .reply m _ | .ack m .. | .stale m .. | .incarnation m _ | .lendPut m .. | .lendAck m .. | .lendFree m ..
  | .lendRecall m _ | .lendGone m _ | .lendingRead m .. | .lendingReply m .. | .multicast m .. | .contribution m _ => m

/-- The envelope of a packet (03 R66): this module, its incarnation, and the one it expects of the target; a STALE notice
carries that of the packet it answers. -/
def State.envelope (s : State) (p : Packet) : Envelope :=
  ⟨s.mid, s.incarnation, match p with
    | .stale _ _ srcInc _ => srcInc
    | p => s.peerInc p.target⟩

/-- A packet handed to the fabric. -/
def State.send (s : State) (p : Packet) : State := s.updFabric fun f => { f with sent := f.sent ++ [(s.envelope p, p)] }

/-- FXPORT[n] of a die (03 R77). -/
def fxport (die port : Nat) : Nat := ctlBase die + 0x81000 + 8 * port

/-- Whether a die has a live port (03 R77). -/
def State.portUp (s : State) (die : Nat) : Bool :=
  (List.range 6).any fun n => 2 ≤ ((s.mcrGet (fxport die n)).extractLsb' 0 2).toNat

/-- Whether the dimension of the torus that a die faces, two dies to each, has more than one module (00 R2, 03 R60). -/
def State.facesUsed (s : State) (die : Nat) : Bool := ((s.mcrGet fxid).extractLsb' (12 + 4 * (die / 2)) 4).toNat != 0

/-- Whether a packet can leave for a module: the fabric is on, the module lies in the torus, and it is this one or some port
that leads into the torus is live, since a detour may begin at any of them (03 R60, R64, R68, log 97). -/
def State.reachable (s : State) (m : Nat) : Bool :=
  s.fabricOn && s.inTorus m && (m == s.mid || (List.range 6).any fun d => s.facesUsed d && s.portUp d)

/-- Whether the dimension-ordered route to a module leaves through the ports of a die (03 R64, log 97): the first dimension
whose coordinate differs, the shorter way round, X+, X−, Y+, Y−, Z+, Z− being the dies 0 to 5 (00 R2). -/
def State.routeVia (s : State) (m die : Nat) : Bool :=
  let size (i : Nat) : Nat := ((s.mcrGet fxid).extractLsb' (12 + 4 * i) 4).toNat + 1
  match (List.range 3).find? fun i => s.mid / 16 ^ i % 16 != m / 16 ^ i % 16 with
  | none => false
  | some i =>
    let up := (m / 16 ^ i % 16 + size i - s.mid / 16 ^ i % 16) % size i
    die / 2 == i && (if die % 2 = 0 then 2 * up ≤ size i else size i ≤ 2 * up)

end Sys2Proof.Machine

namespace Sys2Proof

/-- The code of a fabric status (03 R68). -/
def FabStatus.code : FabStatus → Nat
  | .ok => 0
  | .stale => 1
  | .unreachable => 2
  | .access => 3
  | .aborted => 4

end Sys2Proof

namespace Sys2Proof.Machine

/-- The failure a fabric status makes (03 R68). -/
def fabFail (st : FabStatus) (eval : Word) : Fail := ⟨cFabric, st.code, eval, none⟩

/-! ### Answers to this module's requests -/

/-- A posted store answered: its ticket completes when no half of it is outstanding, failed if one failed
(03 R65, R68, R69). -/
def State.storeDone (s : State) (o : OutReq) (st : FabStatus) : State :=
  match s.task o.task with
  | none => s
  | some t =>
    match t.posted.find? fun p => p.id == o.id with
    | none => s
    | some p =>
      let bad := p.bad.or (if st = .ok then none else some (fabFail st o.addr))
      let rest := t.posted.filter fun q => q.id != o.id
      if rest.any fun q => q.ticket == p.ticket then
        s.updTask t.id fun t => { t with posted := rest.map fun q =>
          if q.ticket = p.ticket then { q with bad := bad } else q }
      else
        (s.updTask t.id fun t => { t with posted := rest }).completeTicket t.id 3 p.ticket bad none

/-- The value of the bytes of a reply as a scalar load delivers them. -/
def replyValue (o : OutReq) (bytes : List Byte) : Nat :=
  if o.sext = 0 then leNat bytes else intBits 64 (toSigned o.sext (leNat bytes))

/-- The event that an operation's remote object makes in the etch log (19 R326), if any: its type. -/
def OpKind.etchType : OpKind → Option Nat
  | .remote _ | .endCount => some 0x01
  | .acq .. => some 0x02
  | .rel .. => some 0x03
  | _ => none

/-- The record of a remote event, in the slot its bundle reserved (19 R326, R328); in proof mode a value that differs
fails the destination. -/
def State.etchRemote (s : State) (task : Nat) (op : Op) (st : FabStatus) (value : Word) (seq : Nat) : State × Option Word :=
  match OpKind.etchType op.kind, op.etch with
  | some ty, some k =>
    let ser : Series := if seq = 0 then .none else .unit (BitVec.ofNat 32 (seq + 2 ^ 32 - 1))
    s.etchDone task ty ((if st = .ok then 0 else 1) + (if op.scopex then 2 else 0) + 4) op.obj
      (if st = .ok then value else BitVec.ofNat 64 st.code) ser (some k)
  | _, _ => (s, none)

/-- An operation whose last request has been answered: its registers are filled, an acquire advances the generation of
the core its task is on (10 R230, R232). A REL that failed leaves FABRIC pending on its task (20 R341). -/
def State.remoteDone (s : State) (t : Task) (op : Op) (acq : Bool) : State :=
  let s0 := s.finishOp t.id op
  let s1 := match op.kind, op.fail with
    | .rel .., some f => s0.updTask t.id fun t => { t with causes := t.causes ++ [.fabric f] }
    | .endCount, some _ => s0.updTask t.id fun t => { t with aborted := true }
    | _, _ => s0
  if acq && op.fail.isNone then s1.advanceGen t.loc else s1

/-- The destination of an operation with the bits of one answer in it: every lane from the request's first to its last has arrived,
inactive ones between them too (log 108). -/
def Op.received (op : Op) (o : OutReq) (bytes : List Byte) (poison : Bool) : Op :=
  let x := BitVec.ofNat 1024 (replyValue o bytes) <<< o.bit
  let arrived : Nat := (List.range ((o.len + 3) / 4)).foldl (fun m i => m + 2 ^ (o.bit / 32 + i)) 0
  { op with
    outs := op.outs.map fun out => { out with data := out.data ||| x }
    poison := op.poison || poison
    lanes := op.lanes ||| BitVec.ofNat 32 arrived }

/-- An operation with a failed answer (03 R68, R69): one request fails with its address, several with the lanes that
arrive. -/
def Op.failed (op : Op) (o : OutReq) (st : FabStatus) : Op :=
  { op with fail := op.fail.or (some (fabFail st o.addr)) }

/-- An operation whose requests are all answered: a split one that failed names the lanes that arrived (03 R69). -/
def Op.settled (op : Op) : Op :=
  { op with fail := op.fail.map fun f => if op.split then { f with eval := (op.lanes).setWidth 64 } else f }

/-- An ACQ whose request has to be sent again; none for every other operation. -/
def OpKind.again : OpKind → Option OpKind
  | .acq d adv _ => some (.acq d adv false)
  | _ => none

/-- A load or atomic of a task answered (03 R67 to R69). An ACQ that finds zero is not done: it will be sent again
(10 R232). -/
def State.loadDone (s : State) (o : OutReq) (st : FabStatus) (bytes : List Byte) (poison : Bool) (seq : Nat) : State :=
  match s.findOp o.op with
  | none => s
  | some (t, op) =>
    let op1 := if st = .ok then op.received o bytes poison else op.failed o st
    if op.kind.again.isSome && st == .ok && leNat bytes == 0 && !poison then
      s.updOp t.id { op with kind := op.kind.again.getD op.kind }
    else if s.fabric.out.any fun q => q.op == o.op && q.task == o.task && q.haul.isNone then s.updOp t.id op1
    else
      let op2 := op1.settled
      let acq := match op.kind with
        | .remote a => a
        | .acq _ adv _ => adv
        | _ => false
      let value := match op.kind with
        | .rel _ v .. => v
        | _ => BitVec.ofNat 64 (leNat bytes)
      let (s1, div) := s.etchRemote t.id op2 st value seq
      let op3 := match div with
        | some ev => { op2 with fail := some (divFail ev) }
        | none => op2
      s1.remoteDone t op3 acq

/-- A haul's request answered: bytes it reads are kept for it, a failure is remembered. -/
def State.haulAnswered (s : State) (h : Nat) (o : OutReq) (st : FabStatus) (bytes : List Byte) (poison : Bool) : State :=
  { s with hauls := s.hauls.map fun x =>
      if x.id = h then
        if st = .ok then (if o.store then x else { x with got := x.got ++ [(o.addr, bytes, poison)] })
        else { x with fault := x.fault.or (some (fabFail st o.addr)) }
      else x }

/-- A request of this module answered or given up; that of a completion word is followed by its DONE record (24 R373). -/
def State.reqDone (s : State) (id : Nat) (st : FabStatus) (bytes : List Byte) (poison : Bool) (seq : Nat) : State :=
  match s.fabric.out.find? fun o => o.id == id with
  | none => s
  | some o =>
    let s1 := s.updFabric fun f => { f with out := f.out.filter fun q => q.id != id }
    match o.haul, o.done with
    | some h, _ => s1.haulAnswered h o st bytes poison
    | none, some d => s1.journalDone d
    | none, none => if o.store then s1.storeDone o st else s1.loadDone o st bytes poison seq

/-- A request of this module noted as outstanding: its number is the state's next number, `off` the window offset at the
target. -/
def State.enlist (s : State) (o : OutReq) (off : Nat) : State :=
  { s.updFabric fun f => { f with out := f.out ++ [{ o with base := o.target * 2 ^ 52 + off }] } with nextId := s.nextId + 1 }

/-- The core that a haul was issued on. -/
def State.haulCore (s : State) (h : Nat) : Nat := ((s.hauls.find? fun x => x.id == h).map Haul.loc).getD 0

/-- The core that a request of this module comes from. -/
def State.issuer (s : State) (o : OutReq) : Nat :=
  match o.haul with
  | some h => s.haulCore h
  | none => ((s.task o.task).map Task.loc).getD 0

/-- Whether two ranges, each with its length, share an aligned 256-byte line. -/
def shareLine (a n b m : Nat) : Bool := a / 256 ≤ (b + m - 1) / 256 && b / 256 ≤ (a + n - 1) / 256

/-- Whether a request of a core must wait for an earlier one of the core to a line of it, of which the route has lost a port: a
request, or a store of a multicast (03 R64, R70). -/
def State.rerouted (s : State) (core id base len : Nat) : Bool :=
  (s.fabric.out.any fun q => q.old && q.id < id && shareLine q.base q.len base len && s.issuer q == core) ||
    s.fabric.mc.any fun m => m.old && m.id < id && (m.rows.any fun r => shareLine r.1 r.2 base len) && s.haulCore m.haul == core

/-- The packet of a request: one to its target, or one of a multicast's to its members (03 R64, R70). -/
def State.reqPacket (s : State) (ctx : Nat) (o : OutReq) (off : Nat) (kind : ReqKind) (poison many : Bool) : Packet :=
  let q : Request := ⟨o.id, s.mid, s.incarnation, s.peerInc o.target, ((s.ctxOf ctx).map Ctx.fctx).getD 0, off, kind, poison, o.obj, o.turn,
    s.issuer o⟩
  if many then .multicast o.target (o.haul.getD 0) q else .request o.target q

/-- A request sent into the fabric, or held back behind a change of its route (03 R64). -/
def State.sendOrHold (s : State) (ctx : Nat) (o : OutReq) (off : Nat) (kind : ReqKind) (poison many : Bool) : State :=
  if s.rerouted (s.issuer o) o.id (o.target * 2 ^ 52 + off) o.len then
    s.updFabric fun f => { f with held := f.held ++ [⟨ctx, o, off, kind, poison, many⟩] }
  else s.send (s.reqPacket ctx o off kind poison many)

/-- An outstanding request sent into the fabric, held back behind a change of its route (03 R64), or answered at once
UNREACHABLE where nothing leads to its target (03 R60, R68). -/
def State.dispatch (s : State) (ctx : Nat) (o : OutReq) (off : Nat) (kind : ReqKind) (poison : Bool) : State :=
  if !s.reachable o.target then s.reqDone o.id .unreachable [] false 0
  else s.sendOrHold ctx o off kind poison false

/-- A request noted and sent. -/
def State.request (s : State) (ctx : Nat) (o : OutReq) (off : Nat) (kind : ReqKind) (poison : Bool) : State :=
  (s.enlist o off).dispatch ctx o off kind poison

/-- Whether a request that was held back is still wanted. -/
def State.stillOut (s : State) (h : HeldReq) : Bool :=
  if h.many then s.fabric.mc.any fun m => m.id == h.o.id else s.fabric.out.any fun o => o.id == h.o.id

/-- A request that was held back goes on: a store of a multicast that nothing leads to has failed. -/
def State.goOn (s : State) (h : HeldReq) : State :=
  if !h.many then s.dispatch h.ctx h.o h.off h.kind h.poison
  else if s.reachable h.o.target then s.sendOrHold h.ctx h.o h.off h.kind h.poison true
  else s.updFabric fun f => { f with mc := f.mc.map fun m => if m.id = h.o.id then { m with failed := true } else m }

/-- The requests held back that nothing holds any longer sent, in order; those that have been answered meanwhile are
forgotten (03 R64). -/
def State.sendHeld (s : State) : State :=
  s.fabric.held.foldl (fun s h =>
    if s.rerouted (s.issuer h.o) h.o.id (h.o.target * 2 ^ 52 + h.off) h.o.len then s
    else
      let s1 := s.updFabric fun f => { f with held := f.held.erase h }
      if s.stillOut h then s1.goOn h else s1) s

/-- The ports of a die have changed: the requests in flight whose route leads through them are old (03 R64). -/
def State.routeLost (s : State) (die : Nat) : State :=
  s.updFabric fun f => { f with
    out := f.out.map fun o => if s.routeVia o.target die then { o with old := true } else o
    mc := f.mc.map fun m => if s.routeVia m.target die then { m with old := true } else m }

/-- How many remote loads or atomics, and how many posted stores, an operation has still to send. -/
def Op.unsent (o : Op) : Nat × Nat :=
  let far (ps : List Piece) : Nat := (ps.filter fun p => p.dst.pa.isNone).length
  match o.kind with
  | .atomic c => (if c.dst.pa.isNone then 1 else 0, 0)
  | .acq d _ sent => (if d.pa.isNone && !sent then 1 else 0, 0)
  | .heldRead ps _ => (far ps, 0)
  | .heldWrite ps _ _ => (0, far ps)
  | _ => (0, 0)

/-- The operations of the tasks on a core. -/
def State.opsAt (s : State) (loc : Nat) : List Op := (s.tasks.filter fun t => t.loc == loc).flatMap Task.ops

/-- Remote loads and atomics of a core that are outstanding (03 R67). -/
def State.remoteLoads (s : State) (loc : Nat) : Nat :=
  (s.fabric.out.filter fun o => !o.store && o.haul.isNone &&
    ((s.task o.task).map fun t => t.loc == loc).getD false).length + ((s.opsAt loc).map fun o => o.unsent.1).sum

/-- Posted stores of a core that are not acknowledged (03 R67). -/
def State.remoteStores (s : State) (loc : Nat) : Nat :=
  (s.fabric.out.filter fun o => o.store && o.haul.isNone &&
    ((s.task o.task).map fun t => t.loc == loc).getD false).length + ((s.opsAt loc).map fun o => o.unsent.2).sum

/-! ### Requests this module serves -/

/-- An entry of an export table (03 R61). -/
structure ExportEntry where
  wbase : Nat
  len : Nat
  vbase : Nat
  perm : Nat
  deriving DecidableEq, Repr

/-- The export table of a context; a poisoned entry exports nothing (log 116). -/
def State.exports (s : State) (c : Ctx) : List ExportEntry :=
  (List.range 16).map fun i =>
    let pa := c.exptab + 32 * i
    let b := s.bytes pa 32
    if s.anyPoison pa 32 then ⟨0, 0, 0, 0⟩ else ⟨field b 0 8, field b 8 8, field b 16 8, field b 24 1⟩

/-- Where the bytes of a request lie, cut at page boundaries: physical pieces; or the request fails with ACCESS (03 R61), with
the trap of a walk. -/
def State.exportPieces (s : State) (c : Ctx) (k : Acc) : Nat → Nat → Nat → Except (Option Trap) (List (Nat × Nat))
  | 0, _, _ => .error none
  | fuel + 1, va, n =>
    if n = 0 then .ok []
    else if va < 0x400000 then .error none
    else
      let m := min n (0x10000 - va % 0x10000)
      match s.translate .walker c.id false k (BitVec.ofNat 64 va) with
      | .error t => .error (some t)
      | .ok (.fabric ..) => .error none
      | .ok (.phys pa) =>
        let ok := match s.place pa with
          | .node _ => !s.anyRefused c.id pa m
          | .pad .. => true
          | _ => false
        if ok then (s.exportPieces c k fuel (va + m) (n - m)).map fun ps => (pa, m) :: ps else .error none

/-- The local context of a request and the physical pieces that its `n` bytes at a window offset reach, with the permission bit
it needs (03 R61). -/
def State.exportOf (s : State) (c : Ctx) (off n : Nat) (perm : Nat) (k : Acc) : Except (Option Trap) (List (Nat × Nat)) :=
  match (s.exports c).find? fun e => e.len != 0 && e.wbase ≤ off && off < e.wbase + e.len with
  | none => .error none
  | some e =>
    if e.perm / 2 ^ perm % 2 = 1 ∧ off + n ≤ e.wbase + e.len then
      s.exportPieces c k (n / 0x10000 + 3) (e.vbase + (off - e.wbase)) n
    else .error none

/-- The local context that carries an FCTX (03 R61). -/
def State.sharedCtx (s : State) (fctx : Nat) : Option Ctx := s.ctxs.find? fun c => c.id != 0 && c.fctx == fctx

/-- The local context and the pieces of a request that this module grants. -/
def State.exported (s : State) (fctx off n : Nat) (perm : Nat) (k : Acc) : Option (Ctx × List (Nat × Nat)) :=
  (s.sharedCtx fctx).bind fun c => (s.exportOf c off n perm k).toOption.map fun ps => (c, ps)

/-- A request that this module does not grant: a poisoned export table or walk is charged (01 R20, R21; 20 R343). -/
def State.exportCharge (s : State) (fctx off n : Nat) (perm : Nat) (k : Acc) : State :=
  match s.sharedCtx fctx with
  | none => s
  | some c =>
    let s1 := s.touch c.id c.exptab 512
    match s.exportOf c off n perm k with
    | .error (some t) => s1.walkCharge c.id t
    | _ => s1

/-- The status of a request that this module does not grant (03 R61, R68): ABORTED where the shared context was torn down and
none has taken its place. -/
def State.refusal (s : State) (fctx : Nat) : FabStatus :=
  if (s.sharedCtx fctx).isNone && s.fabric.gone.contains fctx then .aborted else .access

/-- Physical pieces read at their homes by a context: the machine, the bytes, and whether any is poisoned. -/
def State.readPieces (s : State) (ctx : Nat) (ps : List (Nat × Nat)) : State × List Byte × Bool :=
  let s1 := ps.foldl (fun s p => s.touch ctx p.1 p.2) s
  (s1, ps.flatMap fun p => s1.bytes p.1 p.2, ps.any fun p => s1.anyPoison p.1 p.2)

/-- Bytes written to physical pieces. -/
def State.writePieces (s : State) (a : Agent) : List (Nat × Nat) → List (Option Byte) → State
  | [], _ => s
  | p :: ps, bs => (s.physWrite a p.1 (bs.take p.2)).writePieces a ps (bs.drop p.2)

/-- Poison delivered by a context to physical pieces. -/
def State.poisonPieces (s : State) (ctx : Nat) (ps : List (Nat × Nat)) (bad : Bool) : State :=
  if bad then ps.foldl (fun s p => s.spreadPoison ctx p.1 p.2) s else s

/-- The word counter of an object of a local context raised for a remote event; its value, or 0 where the context
records nothing (19 R328). -/
def State.raiseRemote (s : State) (c : Ctx) (obj : Word) : State × Nat :=
  if c.etch = 0 then (s, 0)
  else
    match (s.etchCb c).bind fun cb => (s.serBefore c cb (.word obj)).map fun n => (cb, (n + 1) % 2 ^ 32) with
    | none => ((s.etchTouch c).etchFail c 0, 0)
    | some (cb, n) =>
      let s := (s.etchTouch c).serTouch c cb (.word obj)
      match s.ctxWrite c.id 0 (cb.ctr obj) ((natLe 4 n).map some) with
      | some s1 => (s1, n)
      | none => ((s.ctxMiss c.id (cb.ctr obj) 4).etchFail c 0, 0)

/-- How many bytes a request touches, the permission it needs and its kind of access (03 R61). -/
def reqShape : ReqKind → Nat × Nat × Acc
  | .load n => (n, 0, .load)
  | .store bs => (bs.length, 1, .store)
  | .atomic _ wide .. => (if wide then 8 else 4, 2, .atomic)
  | .acq => (8, 0, .load)
  | .rel _ => (8, 1, .store)

/-- The task of this module that a request came from, 0 for one of another module's (03 R62, 16 R311). -/
def State.asker (s : State) (q : Request) : Nat :=
  if q.src ≠ s.mid then 0
  else match s.fabric.out.find? fun o => o.id == q.id with
    | some o => o.task
    | none => ((s.fabric.mc.find? fun m => m.id == q.id).bind fun m => (s.hauls.find? fun h => h.id == m.haul).map Haul.task).getD 0

/-- The agent that performs a request for a local context, at depth 0 (17 R316). -/
def State.reqAgent (s : State) (c : Ctx) (q : Request) : Agent := ⟨c.id, 0, s.asker q, 0⟩

/-- A request performed at this module (03 R61, R62): status, bytes, poison, sequence number. Its agent is the local
context at depth 0 (17 R316). -/
def State.serve (s : State) (q : Request) : State × FabStatus × List Byte × Bool × Nat :=
  let (n, perm, k) := reqShape q.kind
  match s.exported q.fctx q.off n perm k with
  | none => (s.exportCharge q.fctx q.off n perm k, s.refusal q.fctx, [], false, 0)
  | some (c, ps) =>
    let a := s.reqAgent c q
    let obj := q.obj
    match q.kind with
    | .load _ =>
      let (s1, bs, bad) := s.readPieces c.id ps
      (s1, .ok, bs, bad, 0)
    | .acq =>
      let (s1, bs, bad) := s.readPieces c.id ps
      if leNat bs = 0 ∧ !bad then (s1, .ok, bs, bad, 0)
      else
        let (s2, m) := s1.raiseRemote c obj
        (s2, .ok, bs, bad, m)
    | .store bs => ((s.writePieces a ps bs).poisonPieces c.id ps q.poison, .ok, [], false, 0)
    | .rel v =>
      let (s1, m) := s.raiseRemote c obj
      (s1.writePieces a ps ((natLe 8 v.toNat).map some), .ok, [], false, m)
    | .atomic op wide b e _ _ =>
      match ps with
      | (pa, _) :: _ =>
        let (s1, m) := s.raiseRemote c obj
        let (s2, old, bad) := s1.atomicAt a 0 pa op (if wide then 8 else 4) b e
        (s2, .ok, natLe (if wide then 8 else 4) old, bad, m)
      | [] => (s, .access, [], false, 0)

/-- Whether a request for an event of a context in proof mode must wait at this module for its turn in the object's series
(19 R328, R333). -/
def State.earlyTurn (s : State) (q : Request) : Bool :=
  match q.turn, s.sharedCtx q.fctx with
  | some n, some c =>
    c.etch != 0 && (match (s.etchCb c).bind fun cb => s.serBefore c cb (.word q.obj) with
      | some m => m != n
      | none => false)
  | _, _ => false

/-- FXDROP with one more dropped packet, or one more refused loop-back (03 R77); each count saturates. -/
def State.countDrop (s : State) (loop : Bool) : State :=
  let v := (s.mcrGet (fxid + 0x18)).toNat
  let d := v % 2 ^ 32
  let l := v / 2 ^ 32 % 2 ^ 16
  let v' := if loop then d + 2 ^ 32 * min 65535 (l + 1) else satAdd32 d + 2 ^ 32 * l
  s.mcrPut (fxid + 0x18) (BitVec.ofNat 64 v')

/-- A request refused with ACCESS counted: at LOOPERR where this module sent it, else at EXPERR of the port it came
in by, which routing chooses (03 R61, R64). -/
def State.countAccess (s : State) (src : Nat) : State :=
  if src = s.mid then s.countDrop true
  else
    let p := Config.freeNat s.free % 36
    let pa := fxport (p / 6) (p % 6)
    let v := s.mcrGet pa
    let n := (v.extractLsb' 20 16).toNat
    let s1 := s.tookFree
    if n = 65535 then s1 else s1.mcrPut pa (v + BitVec.ofNat 64 (2 ^ 20))

/-- Whether an incoming packet passes the incarnation checks (03 R66). -/
def State.envOk (s : State) (src inc expect : Nat) : Bool := expect == s.incarnation && inc == s.peerInc src

end Sys2Proof.Machine
end

