-- ==== Sys2Proof/Machine/Bivouac.lean ====
section
/-! DEFINITION. The spill engine (09 R199, R200, R204; 10 R247): rings of 64-byte entries in context memory, and the entries of
bivouac queues on their way out and back. -/

namespace Sys2Proof.Machine

/-! ### Rings of 64-byte entries -/

/-- The address of a slot of a ring. -/
def ringSlot (base : Word) (k : Nat) : Word := base + BitVec.ofNat 64 (64 * k)

/-- Bytes written by an engine for an agent over pieces of memory nodes and scratchpads. -/
def State.engineOver (s : State) (a : Agent) : List (Nat × Nat) → List Byte → State
  | [], _ => s
  | p :: ps, bs =>
    let b := (bs.take p.2).map some
    (if (s.place p.1).isNode then s.engineWrite a p.1 b else s.padWrite p.1 b).engineOver a ps (bs.drop p.2)

/-- An entry written into a slot of a ring in an agent's context; none where the slot cannot be written. -/
def State.ringPut (s : State) (a : Agent) (base : Word) (k : Nat) (bs : List Byte) : Option State :=
  match s.ctxPieces a.ctx .store 3 (ringSlot base k) bs.length with
  | .ok ps => some (s.engineOver a ps bs)
  | .error _ => none

/-- An entry read back from a slot of a ring: the machine, its bytes, and whether they are poisoned; one that cannot be read is
poisoned (log 100). -/
def State.ringGet (s : State) (ctx : Nat) (base : Word) (k : Nat) : State × List Byte × Bool :=
  let s1 := s.ctxTouch ctx (ringSlot base k) 64
  match s1.ctxRead ctx (ringSlot base k) 64 with
  | some (bs, bad) => (s1, bs, bad)
  | none => (s1, List.replicate 64 0, true)

/-- The lowest number that a list of taken slots does not hold. -/
def freeSlotOf (used : List Nat) : Nat := ((List.range (used.length + 1)).find? fun k => !used.contains k).getD 0

/-! ### The bivouac queue (09 R199, R200) -/

/-- On-chip entries of a core. -/
def bivOnChip : Nat := 1024

/-- The 64 bytes of an entry in the ring (09 R200). -/
def BivEntry.bytes (e : BivEntry) (taskWord : Nat) : List Byte :=
  natLe 4 taskWord ++ natLe 1 e.tag ++ natLe 1 e.words.length ++ natLe 2 0 ++ natLe 4 e.ix ++ natLe 4 0 ++
    ((List.range 8).flatMap fun j => natLe 4 (e.words.getD j 0).toNat) ++ natLe 16 0

/-- An entry as its slot gives it back. -/
def BivEntry.back (e : BivEntry) (b : List Byte) (bad : Bool) : BivEntry :=
  { e with
    ix := field b 8 4, words := (List.range (min 8 (field b 5 1))).map fun j => BitVec.ofNat 32 (field b (16 + 4 * j) 4)
    poison := bad, slot := none }

/-- The slots of a context's ring that entries hold. -/
def State.bivSlots (s : State) (ctx : Nat) : List Nat :=
  (s.tasks.filter fun t => t.ctx == ctx).flatMap fun t => t.biv.filterMap BivEntry.slot

/-- An entry of a task, by its place in the order of appends, written to the ring; where the ring cannot be written it stays on
chip (log 100). -/
def State.spillBiv (s : State) (task n : Nat) : State :=
  match s.task task with
  | none => s
  | some t =>
    match s.ctxOf t.ctx, t.biv.find? fun e => e.n == n && e.slot.isNone with
    | some c, some e =>
      let k := freeSlotOf (s.bivSlots t.ctx)
      match s.ringPut ⟨t.ctx, t.depth, t.id, t.loc⟩ c.bqring k (e.bytes (t.ctl.taskid.toNat % 2 ^ 32)) with
      | some s1 => s1.updTask task fun t => { t with biv := t.biv.map fun x => if x.n = n then { x with words := [], slot := some k } else x }
      | none => s.ctxMiss t.ctx (ringSlot c.bqring k) 64
    | _, _ => s

/-- Every on-chip entry of a task written to the ring (09 R204). -/
def State.spillTask (s : State) (t : Task) : State :=
  (t.biv.filter fun e => e.slot.isNone).foldl (fun s e => s.spillBiv t.id e.n) s

/-- The on-chip entries of the tasks of a core, each with its task, oldest first. -/
def State.bivAt (s : State) (loc : Nat) : List (Nat × Nat) :=
  sortBy (fun a b => decide (a.2 ≤ b.2)) ((s.tasks.filter fun t => t.loc == loc).flatMap fun t =>
    (t.biv.filter fun e => e.slot.isNone).map fun e => (t.id, e.n))

/-- The oldest entries of a core beyond its on-chip space spilled (09 R199). -/
def State.spillExcess (s : State) (loc : Nat) : State :=
  let xs := s.bivAt loc
  (xs.take (xs.length - bivOnChip)).foldl (fun s x => s.spillBiv x.1 x.2) s

/-- Entries fetched back where they were spilled (09 R202). -/
def State.fetchBiv (s : State) (c : Ctx) (es : List BivEntry) : State × List BivEntry :=
  es.foldl (fun acc e => match e.slot with
    | none => (acc.1, acc.2 ++ [e])
    | some k =>
      let r := acc.1.ringGet c.id c.bqring k
      (r.1, acc.2 ++ [e.back r.2.1 r.2.2])) (s, [])

end Sys2Proof.Machine
end

