-- ==== Sys2Proof/Machine/Vector.lean ====
section
/-! DEFINITION. The V class: element-wise arithmetic, compares, moves, permutes, and the bivouac queue (09 R188 to
R204). -/

namespace Sys2Proof

/-- Bits of a vector width (07 R141). -/
def Width.bits : Width → Nat
  | .w256 => 256
  | .w512 => 512
  | .w1024 => 1024

namespace Machine

/-! ### Elements -/

/-- Element `i` of `z` bits (09 R188). -/
def elemAt (x : VWord) (z i : Nat) : Nat := (x.extractLsb' (z * i) z).toNat

/-- Elements of `z` bits glued from index 0 upward. -/
def packElems (z : Nat) : List Nat → Nat
  | [] => 0
  | x :: xs => x % 2 ^ z + 2 ^ z * packElems z xs

/-- Whether element `i` of `z` bits is enabled: elements of up to 32 bits by their lane, a 64-bit one by its even
lane (06 R126). -/
def active (em : BitVec 32) (z i : Nat) : Bool := em.getLsbD (i * z / 32)

/-- The elements for which `act` holds, written with `f`, of a vector register of `n` elements. -/
def vecOut (r : VReg) (z n : Nat) (act : Nat → Bool) (f : Nat → Nat) : Out :=
  ⟨.v r, BitVec.ofNat 1024 (packElems z ((List.range n).map fun i => if act i then 2 ^ z - 1 else 0)),
    BitVec.ofNat 1024 (packElems z ((List.range n).map f))⟩

/-- A whole width of a vector register. -/
def vecAll (r : VReg) (z n : Nat) (f : Nat → Nat) : Out := vecOut r z n (fun _ => true) f

/-- The lanes a V slot draws, and the check of an f8 element type. -/
def vecUses (w : Width) (dt : ElemType) : List Use := .lanes w.bits :: (if dt = .f8 then [.f8] else [])

/-- How many elements of a type a width has. -/
def elems (w : Width) (dt : ElemType) : Nat := w.bits / dt.bits

/-- Latency of V-class arithmetic on a type (09 R190). -/
def arithLat (dt : ElemType) : Nat := if dt.isFp then 4 else 2

/-- A V slot with one vector destination, masked: `f` has the machine at issue and the element's index. -/
def vmasked (uses : List Use) (lat : Nat) (vd : VReg) (w : Width) (dt : ElemType) (f : State → Nat → Nat)
    (s : State) : Res :=
  s.slot (.srcEm :: .write (.v vd) :: (vecUses w dt ++ uses)) fun s =>
    .ok (s.later lat (vecOut vd dt.bits (elems w dt) (active s.em dt.bits) (f s)))

/-- The sources of the form VD, VA, VB. -/
def vrrSrc (o : VRR) : List Use := [.srcV o.va o.wa, .srcV o.vb o.wb]

/-- A masked instruction of two vector operands. -/
def vbin (lat : ElemType → Nat) (f : State → Nat → Nat → Nat) (o : VRR) (s : State) : Res :=
  vmasked (vrrSrc o) (lat o.dt) o.vd o.w o.dt
    (fun s i => f s (elemAt (s.readV o.va) o.dt.bits i) (elemAt (s.readV o.vb) o.dt.bits i)) s

/-- A computation on elements of a type: integers exactly and then modulo 2^z, floating-point numbers by `fp`
(09 R190). -/
def onElems (dt : ElemType) (rm : Rm) (fp : Fmt → Rm → Nat → Nat → Nat) (int : Int → Int → Int) (a b : Nat) : Nat :=
  match dt.fmt 0 with
  | some f => fp f rm a b
  | none => intBits dt.bits (int (toSigned dt.bits a) (toSigned dt.bits b))

/-- An arithmetic instruction of two vector operands. -/
def varith (fp : Fmt → Rm → Nat → Nat → Nat) (int : Int → Int → Int) (o : VRR) (s : State) : Res :=
  vbin arithLat (fun s => onElems o.dt s.rm fp int) o s

/-! ### Element-wise arithmetic (R191) -/

/-- VADD (09 R191). -/
def execVadd (o : VRR) (s : State) : Res := varith Fmt.addBits (· + ·) o s
/-- VSUB (09 R191). -/
def execVsub (o : VRR) (s : State) : Res := varith Fmt.subBits (· - ·) o s
/-- VMUL (09 R191). -/
def execVmul (o : VRR) (s : State) : Res := varith Fmt.mulBits (· * ·) o s
/-- VMIN (09 R191). -/
def execVmin (o : VRR) (s : State) : Res := varith (fun f _ => f.minBits) min o s
/-- VMAX (09 R191). -/
def execVmax (o : VRR) (s : State) : Res := varith (fun f _ => f.maxBits) max o s

/-- A multiply-add into VD, which is a blocking source (09 R191): `b` is the second factor of an element. -/
def vmuladd (uses : List Use) (neg : Bool) (vd va : VReg) (w : Width) (dt : ElemType) (b : State → Nat → Nat)
    (s : State) : Res :=
  vmasked (.srcV vd true :: uses) (arithLat dt) vd w dt (fun s i =>
    let z := dt.bits
    let x := elemAt (s.readV va) z i
    let y := b s i
    let d := elemAt (s.readV vd) z i
    match dt.fmt 0 with
    | some f => if neg then f.fnmaBits s.rm x y d else f.fmaBits s.rm x y d
    | none =>
      let p := toSigned z x * toSigned z y
      intBits z (toSigned z d + if neg then -p else p)) s

/-- VFMA (09 R191). -/
def execVfma (o : VRR) (s : State) : Res :=
  vmuladd (vrrSrc o) false o.vd o.va o.w o.dt (fun s i => elemAt (s.readV o.vb) o.dt.bits i) s

/-- VFNMA (09 R191). -/
def execVfnma (o : VRR) (s : State) : Res :=
  vmuladd (vrrSrc o) true o.vd o.va o.w o.dt (fun s i => elemAt (s.readV o.vb) o.dt.bits i) s

/-- A masked instruction of one vector operand. -/
def vun (lat : Nat) (f : Nat → Nat) (o : VR1) (s : State) : Res :=
  vmasked [.srcV o.va o.wa] lat o.vd o.w o.dt (fun s i => f (elemAt (s.readV o.va) o.dt.bits i)) s

/-- A sign operation on an element: integers by `int`, floating-point numbers by `fp` on their value; a NaN gives the
canonical NaN (09 R191). -/
def signOp (dt : ElemType) (int : Int → Int) (fp : FVal → FVal) (a : Nat) : Nat :=
  match dt.fmt 0 with
  | some f => f.round .rne (fp (f.decode a))
  | none => intBits dt.bits (int (toSigned dt.bits a))

/-- VABS (09 R191). -/
def execVabs (o : VR1) (s : State) : Res :=
  vun (arithLat o.dt) (signOp o.dt (fun x => (x.natAbs : Int)) FVal.abs) o s
/-- VNEG (09 R191). -/
def execVneg (o : VR1) (s : State) : Res := vun (arithLat o.dt) (signOp o.dt (fun x => -x) FVal.neg) o s

/-- A logic or integer instruction of two vector operands, on the bits of its elements (09 R191). -/
def vlogic (f : Nat → Nat → Nat → Nat) (o : VRR) (s : State) : Res := vbin (fun _ => 2) (fun _ => f o.dt.bits) o s

/-- VAND (09 R191). -/
def execVand (o : VRR) (s : State) : Res := vlogic (fun _ a b => a &&& b) o s
/-- VOR (09 R191). -/
def execVor (o : VRR) (s : State) : Res := vlogic (fun _ a b => a ||| b) o s
/-- VXOR (09 R191). -/
def execVxor (o : VRR) (s : State) : Res := vlogic (fun _ a b => a ^^^ b) o s
/-- VNOT (09 R191). -/
def execVnot (o : VR1) (s : State) : Res := vun 2 (fun a => 2 ^ o.dt.bits - 1 - a) o s
/-- VSHL (09 R191). -/
def execVshl (o : VRR) (s : State) : Res := vlogic (fun z a b => a * 2 ^ (b % z)) o s
/-- VSHR (09 R191). -/
def execVshr (o : VRR) (s : State) : Res := vlogic (fun z a b => a / 2 ^ (b % z)) o s
/-- VSAR (09 R191). -/
def execVsar (o : VRR) (s : State) : Res :=
  vlogic (fun z a b => intBits z (toSigned z a / 2 ^ (b % z))) o s
/-- VMINU (09 R191). -/
def execVminu (o : VRR) (s : State) : Res := vlogic (fun _ a b => min a b) o s
/-- VMAXU (09 R191). -/
def execVmaxu (o : VRR) (s : State) : Res := vlogic (fun _ a b => max a b) o s

/-- An integer clamped to the signed range of `z` bits. -/
def saturate (z : Nat) (x : Int) : Int := clampInt (-2 ^ (z - 1)) (2 ^ (z - 1) - 1) x

/-- VADDS (09 R191). -/
def execVadds (o : VRR) (s : State) : Res :=
  vlogic (fun z a b => intBits z (saturate z (toSigned z a + toSigned z b))) o s
/-- VSUBS (09 R191). -/
def execVsubs (o : VRR) (s : State) : Res :=
  vlogic (fun z a b => intBits z (saturate z (toSigned z a - toSigned z b))) o s
/-- VMULH (09 R191). -/
def execVmulh (o : VRR) (s : State) : Res :=
  vlogic (fun z a b => intBits (2 * z) (toSigned z a * toSigned z b) / 2 ^ z) o s

/-! ### Scalar operands and immediates (R192, R193) -/

/-- The scalar operand of a VS slot: the low z bits (09 R192). -/
def scalarElem (s : State) (r : SReg) (dt : ElemType) : Nat := (s.readS r).toNat % 2 ^ dt.bits

/-- The sources of a VS slot: VA always blocks, WA governs S (09 R188). -/
def vssSrc (o : VSS) : List Use := [.srcV o.va true, .srcS o.s o.wa]

/-- An arithmetic instruction with a scalar operand. -/
def vscalar (fp : Fmt → Rm → Nat → Nat → Nat) (int : Int → Int → Int) (o : VSS) (s : State) : Res :=
  vmasked (vssSrc o) (arithLat o.dt) o.vd o.w o.dt (fun s i =>
    onElems o.dt s.rm fp int (elemAt (s.readV o.va) o.dt.bits i) (scalarElem s o.s o.dt)) s

/-- VADDSC (09 R192). -/
def execVaddsc (o : VSS) (s : State) : Res := vscalar Fmt.addBits (· + ·) o s
/-- VMULSC (09 R192). -/
def execVmulsc (o : VSS) (s : State) : Res := vscalar Fmt.mulBits (· * ·) o s
/-- VFMASC (09 R192). -/
def execVfmasc (o : VSS) (s : State) : Res :=
  vmuladd (vssSrc o) false o.vd o.va o.w o.dt (fun s _ => scalarElem s o.s o.dt) s

/-- An immediate instruction of the Vector integer class; its source blocks (09 R193). -/
def vimm (f : Nat → Nat → Nat) (o : VII) (s : State) : Res :=
  vmasked [.srcV o.va true] 2 o.vd o.w o.dt (fun s i => f o.dt.bits (elemAt (s.readV o.va) o.dt.bits i)) s

/-- VADDI (09 R193). -/
def execVaddi (o : VII) (s : State) : Res := vimm (fun z a => intBits z (a + o.imm.toInt)) o s
/-- VSHLI (09 R193). -/
def execVshli (o : VII) (s : State) : Res := vimm (fun _ a => a * 2 ^ o.imm.toNat) o s
/-- VSHRI (09 R193). -/
def execVshri (o : VII) (s : State) : Res := vimm (fun _ a => a / 2 ^ o.imm.toNat) o s
/-- VSARI (09 R193). -/
def execVsari (o : VII) (s : State) : Res := vimm (fun z a => intBits z (toSigned z a / 2 ^ o.imm.toNat)) o s

/-- An integer as an element of a type, exact in every INT and FP type. -/
def intElem (dt : ElemType) (x : Int) : Nat := (dt.conv 0 .rne .sat (FVal.ofInt x)).bits

/-- VLI (09 R193). -/
def execVli (o : VLiOps) (s : State) : Res :=
  vmasked [] (arithLat o.dt) o.vd o.w o.dt (fun _ _ => intElem o.dt o.imm.toInt) s

/-! ### Compares, selects, moves (R194, R195) -/

/-- A condition of VCMP on two elements (09 R194). -/
def vcond (cc : CcV) (dt : ElemType) (a b : Nat) : Bool :=
  match dt.fmt 0 with
  | some f =>
    let x := f.decode a
    let y := f.decode b
    match cc with
    | .eq => x.eqv y
    | .ne => !x.eqv y
    | .lt => x.lt y
    | .le => x.lt y || x.eqv y
    | .un => x.isNan || y.isNan
    | .ord => !(x.isNan || y.isNan)
    | .ltu | .leu => false
  | none =>
    let x := toSigned dt.bits a
    let y := toSigned dt.bits b
    match cc with
    | .eq => x == y
    | .ne => x != y
    | .lt => decide (x < y)
    | .le => decide (x ≤ y)
    | .ltu => decide (a < b)
    | .leu => decide (a ≤ b)
    | .un | .ord => false

/-- Whether the condition holds for every element of a 32-bit lane; an f64 element sets both its lanes. -/
def laneHolds (cc : CcV) (dt : ElemType) (a b : VWord) (lane : Nat) : Bool :=
  let z := dt.bits
  (List.range (max 1 (32 / z))).all fun j =>
    let i := lane * 32 / z + j
    vcond cc dt (elemAt a z i) (elemAt b z i)

/-- A 32-bit mask from its bits. -/
def laneMask (f : Nat → Bool) : BitVec 32 :=
  BitVec.ofNat 32 (packElems 1 ((List.range 32).map fun i => (f i).toNat))

/-- VCMP: an inactive lane gets 0, or with ACC keeps its bit (09 R194). -/
def execVcmp (o : VcmpOps) (s : State) : Res :=
  s.slot ([.srcEm, .srcV o.va o.wa, .srcV o.vb o.wb, .write .cm] ++ vecUses o.w o.dt) fun s =>
    let n := o.w.bits / 32
    let r := laneMask fun l => s.em.getLsbD l && laneHolds o.cc o.dt (s.readV o.va) (s.readV o.vb) l
    let all := laneMask fun l => decide (l < n)
    let out : Out := if o.acc then ⟨.cm, (all &&& s.em).setWidth 1024, (s.cur.regs.cm &&& r).setWidth 1024⟩
      else ⟨.cm, all.setWidth 1024, r.setWidth 1024⟩
    .ok (s.later 2 out)

/-- VSEL: cm chooses as em does (09 R195). -/
def execVsel (o : VRR) (s : State) : Res :=
  vmasked (vrrSrc o) 2 o.vd o.w o.dt (fun s i =>
    elemAt (s.readV (if active s.cur.regs.cm o.dt.bits i then o.va else o.vb)) o.dt.bits i) s

/-- VMOV (09 R195). -/
def execVmov (o : VR1) (s : State) : Res := vun 2 id o s

/-- VMOVU: unmasked (09 R195). -/
def execVmovu (o : VR1) (s : State) : Res :=
  s.slot ([.srcV o.va o.wa, .write (.v o.vd)] ++ vecUses o.w o.dt) fun s =>
    .ok (s.later 2 (vecAll o.vd o.dt.bits (elems o.w o.dt) (elemAt (s.readV o.va) o.dt.bits)))

/-! ### Element access and permutes (R196 to R198) -/

/-- VBCAST (09 R196). -/
def execVbcast (o : VBc) (s : State) : Res :=
  vmasked [.srcS o.s o.wa] 3 o.vd o.w o.dt (fun s _ => scalarElem s o.s o.dt) s

/-- An element as a scalar register receives it (09 R196, 08 R165). -/
def elemWord (dt : ElemType) (a : Nat) : Word :=
  if dt.isInt then BitVec.ofInt 64 (toSigned dt.bits a) else BitVec.ofNat 64 a

/-- VEXT (09 R196). -/
def execVext (o : VextOps) (s : State) : Res :=
  s.slot ([.srcV o.va true, .srcS o.sb true, .write (.s o.sd)] ++ vecUses o.w o.dt) fun s =>
    .ok (s.later 3 (outS o.sd
      (elemWord o.dt (elemAt (s.readV o.va) o.dt.bits ((s.readS o.sb).toNat % elems o.w o.dt)))))

/-- The scalar register that the VA field of VINS names (09 R196). -/
def vinsIndex (o : VSS) : SReg := ⟨o.va.val, by omega⟩

/-- VINS: one element written whatever em holds; VD is a blocking source (09 R196). -/
def execVins (o : VSS) (s : State) : Res :=
  s.slot ([.srcS (vinsIndex o) true, .srcS o.s o.wa, .srcV o.vd true, .write (.v o.vd)] ++ vecUses o.w o.dt) fun s =>
    let n := elems o.w o.dt
    .ok (s.later 3 (vecOut o.vd o.dt.bits n (fun i => i == (s.readS (vinsIndex o)).toNat % n)
      fun _ => scalarElem s o.s o.dt))

/-- VPERM (09 R197). -/
def execVperm (o : VRR) (s : State) : Res :=
  vmasked (vrrSrc o) 3 o.vd o.w o.dt (fun s i =>
    elemAt (s.readV o.va) o.dt.bits (elemAt (s.readV o.vb) o.dt.bits i % elems o.w o.dt)) s

/-- VSLIDE (09 R197). -/
def execVslide (o : VSS) (s : State) : Res :=
  vmasked (vssSrc o) 3 o.vd o.w o.dt (fun s i =>
    let j := (i : Int) + (s.readS o.s).toInt
    if 0 ≤ j ∧ j < elems o.w o.dt then elemAt (s.readV o.va) o.dt.bits j.toNat else 0) s

/-- VIOTA (09 R197). -/
def execViota (o : VIota) (s : State) : Res :=
  vmasked [] 3 o.vd o.w o.dt (fun _ i => if o.dt.isInt then i else intElem o.dt i) s

/-- The lanes below W that cm and em both select. -/
def selectedLanes (s : State) (w : Width) : List Nat :=
  (List.range (w.bits / 32)).filter fun l => s.em.getLsbD l && s.cur.regs.cm.getLsbD l

/-- VPOPC (09 R198). -/
def execVpopc (o : VcntOps) (s : State) : Res :=
  s.slot [.srcEm, .write (.s o.sd), .lanes o.w.bits] fun s =>
    .ok (s.later 2 (outS o.sd (BitVec.ofNat 64 (selectedLanes s o.w).length)))

/-- VFIRST (09 R198). -/
def execVfirst (o : VcntOps) (s : State) : Res :=
  s.slot [.srcEm, .write (.s o.sd), .lanes o.w.bits] fun s =>
    .ok (s.later 2 (outS o.sd (match selectedLanes s o.w with
      | l :: _ => BitVec.ofNat 64 l
      | [] => BitVec.allOnes 64)))

/-! ### The bivouac queue (R199 to R204) -/

/-- `n` vector registers from one on (07 R140). -/
def vrun (v : VReg) (n : Nat) : List VReg := (List.range n).map fun k => ⟨(v.val + k) % 32, by omega⟩

/-- The entries a context holds in all its tasks (09 R199). -/
def State.bivCount (s : State) (ctx : Nat) : Nat :=
  ((s.tasks.filter fun t => t.ctx == ctx).map fun t => t.biv.length).sum

/-- VDEFER (09 R201): the selected lanes are appended under the tag at commit, and leave em. -/
def execVdefer (o : VdfOps) (s : State) : Res :=
  let run := vrun o.va (o.n.toNat + 1)
  s.slot (.srcEm :: .srcS o.s true :: .write .em :: .lanes 1024 :: run.map fun v => .srcV v true) fun s =>
    let sel := s.em &&& s.cur.regs.cm
    let new : List BivEntry := ((List.range 32).filter fun l => sel.getLsbD l).map fun l =>
      ⟨o.path.toNat, ((s.readS o.s).toNat + l) % 2 ^ 32,
        run.map fun v => BitVec.ofNat 32 (elemAt (s.readV v) 32 l), false, s.nextId + l, none⟩
    let held := s.bivCount s.cur.ctx
    if s.myCtx.bqcap < held + new.length then .error (.trap (.now cProt (BitVec.ofNat 64 held)))
    else
      let s1 := { s.setCur fun t => { t with biv := t.biv ++ new } with nextId := s.nextId + 32 }
      .ok ((s1.spillExcess s1.cur.loc).later 2 (outOf .em (s.em &&& ~~~sel)))

/-- The first `k` entries of a tag, and the queue without them (09 R199). -/
def takeTag (tag : Nat) : Nat → List BivEntry → List BivEntry × List BivEntry
  | _, [] => ([], [])
  | k, e :: es =>
    if e.tag = tag ∧ 0 < k then
      let r := takeTag tag (k - 1) es
      (e :: r.1, r.2)
    else
      let r := takeTag tag k es
      (r.1, e :: r.2)

/-- VDRAIN (09 R202): the entries are taken at commit, those that were spilled fetched back, the destinations filled at
completion; poison read back is delivered to every one (09 R200). -/
def execVdrain (o : VdfOps) (s : State) : Res :=
  let n := o.n.toNat + 1
  let run := vrun o.va (n + 1)
  s.slot (.mark .em :: .mark (.s o.s) :: .lanes 1024 :: run.map fun v => .mark (.v v)) fun s =>
    let (mine, rest) := takeTag o.path.toNat 32 s.cur.biv
    let (s, got) := s.fetchBiv s.myCtx mine
    let k := got.length
    let word (i j : Nat) : Nat := match got[i]? with
      | some e => if j = n then e.ix else (e.words.getD j 0).toNat
      | none => 0
    let outs := run.zipIdx.map fun p => vecOut p.1 32 32 (fun i => decide (i < k)) fun i => word i p.2
    let all := outs ++ [outS o.s (BitVec.ofNat 64 k), outOf .em (laneMask fun i => decide (i < k))]
    .ok ((s.beginOpWith .drain all false none (got.any BivEntry.poison) false).setCur fun t => { t with biv := rest })

/-- VDSTAT (09 R203): it counts the entries as they stood before its bundle. -/
def execVdstat (o : VdstatOps) (s : State) : Res :=
  s.slot [.srcS o.sb true, .write (.s o.sd)] fun s =>
    let tag := (s.readS o.sb).toNat % 256
    let biv := s.scr.biv.getD s.cur.biv
    let n := (biv.filter fun e => e.tag == tag).length
    .ok (s.later 2 (outS o.sd (BitVec.ofNat 64 (n % 2 ^ 32 + biv.length * 2 ^ 32))))

end Machine

end Sys2Proof
end

