-- ==== Sys2Proof/Machine/Special.lean ====
section
/-! DEFINITION. The X class but for the matrix, attention and KV instructions: special functions, conversions, block
quantisation, random words, reductions, scans, sorting and the softmax merge (09 R205 to R217). -/

namespace Sys2Proof.Machine

/-- An X slot: its destinations are EMPTY until it completes (09 R206). `trap` is the lowest element that overflowed
under policy 11: every destination then fails with it. -/
def State.beginX (s : State) (outs : List Out) (trap : Option Nat) (convx : Bool) : State :=
  s.beginOpWith .x outs false (trap.map fun k => ⟨cFpTrap, 0, BitVec.ofNat 64 k, none⟩) false convx

/-! ### Special functions (R205) -/

/-- A special function of the FP32 elements that em enables. -/
def special (f : Nat → Nat) (o : VR1) (s : State) : Res :=
  s.slot [.srcEm, .srcV o.va o.wa, .mark (.v o.vd)] fun s =>
    .ok (s.beginX [vecOut o.vd 32 (o.w.bits / 32) (active s.em 32) fun i => f (elemAt (s.readV o.va) 32 i)] none false)

/-- VEXP2 (09 R205). -/
def execVexp2 (o : VR1) (s : State) : Res := special (correct fExp2) o s
/-- VLOG2 (09 R205). -/
def execVlog2 (o : VR1) (s : State) : Res := special (correct fLog2) o s
/-- VRCP (09 R205). -/
def execVrcp (o : VR1) (s : State) : Res := special (fp32.divBits .rne 0x3F800000) o s
/-- VRSQRT (09 R205). -/
def execVrsqrt (o : VR1) (s : State) : Res := special (correct fRsqrt) o s
/-- VSQRT (09 R205). -/
def execVsqrt (o : VR1) (s : State) : Res := special (fp32.sqrtBits .rne) o s
/-- VTANH (09 R205). -/
def execVtanh (o : VR1) (s : State) : Res := special (faithfulOdd 5 fTanh) o s
/-- VSIGM (09 R205). -/
def execVsigm (o : VR1) (s : State) : Res := special (faithful 6 fSigm) o s
/-- VSINT (09 R205). -/
def execVsint (o : VR1) (s : State) : Res := special (faithful 7 fSint) o s
/-- VCOST (09 R205). -/
def execVcost (o : VR1) (s : State) : Res := special (faithful 8 fCost) o s
/-- VEXP (09 R205). -/
def execVexp (o : VR1) (s : State) : Res := special (faithful 9 fExp) o s
/-- VERF (09 R205). -/
def execVerf (o : VR1) (s : State) : Res := special (faithfulOdd 10 fErf) o s

/-! ### Conversions and quantisation (R207 to R210) -/

/-- The counter from which a stochastic slot takes its words (05 R114). -/
def State.stoCtr (s : State) : Word := s.cur.ctl.srctr + BitVec.ofNat 64 s.scr.sto

/-- One more word counter taken by the bundle. -/
def State.tookSto (s : State) (n : Nat) : State := { s with scr := { s.scr with sto := s.scr.sto + n } }

/-- The mode of element `j` of a stochastic slot. -/
def State.stoMode (s : State) (j : Nat) : Rm := .sto (stoWord s.cur.ctl.srkey s.stoCtr j)

/-- The mode that a rounding field gives element `j` (05 R111). -/
def State.rndMode (s : State) (r : Rnd) (j : Nat) : Rm :=
  match r with
  | .rfm => s.rm
  | .rne => .rne
  | .rtz => .rtz
  | .rsto => s.stoMode j

/-- How a conversion that met the overflows `ovf` ends: under policy 11 it fails with the lowest, else CONVX is set
(05 R112, 09 R206). -/
def State.convResult (s : State) (pol : Ovf) (ovf : List Nat) (outs : List Out) : State :=
  if pol = .trap then s.beginX outs ovf.head? false else s.beginX outs none (!ovf.isEmpty)

/-- VCVT (09 R207). -/
def execVcvt (o : VcvtOps) (s : State) : Res :=
  let sto : Bool := o.rnd == .rsto
  s.slot ([.srcEm, .srcV o.va true, .mark (.v o.vd)] ++ (if o.dtf = .f8 ∨ o.dtt = .f8 then [.f8] else []) ++
      (if sto then [.sto] else [])) fun s =>
    let zf := o.dtf.bits
    let zt := o.dtt.bits
    let z := max zf zt
    let n := o.w.bits / z
    let one (i : Nat) : Conv :=
      o.dtt.conv s.f8 (s.rndMode o.rnd i) o.ovf (o.dtf.value s.f8 (elemAt (s.readV o.va) zf i))
    let on := active s.em z
    let ovf := (List.range n).filter fun i => on i && (one i).ovf
    let t := s.convResult o.ovf ovf [vecOut o.vd zt n on fun i => (one i).bits]
    .ok (if sto then t.tookSto 1 else t)

/-- What the code of a VQUANT or VDEQUANT names: a block format, or FP8 elements under a given scale (09 R208). -/
def QFmt.block : QFmt → Option BlockFmt
  | .kd8 => some .kd8
  | .kd4 => some .kd4
  | .mxe4m3 => some .mxe4m3
  | .mxe5m2 => some .mxe5m2
  | .mxfp4 => some .mxfp4
  | .e4m3 | .e5m2 => none

/-- The FP8 kind of the codes 101 and 110. -/
def QFmt.fp8 (q : QFmt) : Fmt := if q = .e4m3 then e4m3 else e5m2

/-- The 32 FP32 values of a vector register. -/
def f32Values (x : VWord) : List FVal := (List.range 32).map fun i => fp32.decode (elemAt x 32 i)

/-- VQUANT (09 R208). -/
def execVquant (o : VqOps) (s : State) : Res :=
  let sd : List Use := match QFmt.block o.qf with
    | some _ => [.mark (.s o.sd)]
    | none => [.srcS o.sd true]
  s.slot ([.srcV o.va true, .mark (.v o.vd)] ++ sd ++ (if o.sr then [.sto] else [])) fun s =>
    let xs := f32Values (s.readV o.va)
    let rm (j : Nat) : Rm := if o.sr then s.stoMode j else .rne
    let t := match QFmt.block o.qf with
      | some b =>
        let k := b.encode rm o.ovf xs
        let scale := if b.isKd then k.x0 + 256 * k.x1 else k.x0
        s.convResult o.ovf k.ovf
          [vecAll o.vd b.elemBits 32 fun i => k.elems.getD i 0, outS o.sd (BitVec.ofNat 64 scale)]
      | none =>
        let f := QFmt.fp8 o.qf
        let v := (s.readS o.sd).toNat % 256
        let cs := xs.zipIdx.map fun p =>
          if v = 0xFF then (⟨f.qnan, false⟩ : Conv) else f.conv (rm p.2) o.ovf (p.1.scale (127 - (v : Int)))
        let ovf := (cs.zipIdx.filter fun p => p.1.ovf).map Prod.snd
        s.convResult o.ovf ovf [vecAll o.vd 8 32 fun i => (cs.map Conv.bits).getD i 0]
    .ok (if o.sr then t.tookSto 1 else t)

/-- VDEQUANT (09 R209). -/
def execVdequant (o : VdqOps) (s : State) : Res :=
  s.slot [.srcV o.va true, .srcS o.sd true, .mark (.v o.vd)] fun s =>
    let x := (s.readS o.sd).toNat
    let value (i : Nat) : FVal := match QFmt.block o.qf with
      | some b => b.value (x % 256) (x / 256 % 256) (elemAt (s.readV o.va) b.elemBits i)
      | none =>
        if x % 256 = 0xFF then .nan
        else ((QFmt.fp8 o.qf).decode (elemAt (s.readV o.va) 8 i)).scale ((x % 256 : Nat) - (127 : Int))
    let one (i : Nat) : Conv := fp32.conv .rne o.ovf (value i)
    .ok (s.convResult o.ovf ((List.range 32).filter fun i => (one i).ovf) [vecAll o.vd 32 32 fun i => (one i).bits])

/-- VRNG (09 R210). -/
def execVrng (o : VSS) (s : State) : Res :=
  s.slot [.srcEm, .srcV o.va true, .srcS o.s o.wa, .mark (.v o.vd)] fun s =>
    let key := (s.readV o.va).setWidth 64
    .ok (s.beginX [vecOut o.vd 32 (o.w.bits / 32) (active s.em 32) fun j =>
      (kcg key (s.readS o.s + BitVec.ofNat 64 j)).toNat] none false)

/-! ### Reductions and scans (R211 to R213) -/

/-- One level of the tree of 05 R117. -/
def pairUp {α : Type} (f : α → α → α) : List α → List α
  | a :: b :: rest => f a b :: pairUp f rest
  | xs => xs

/-- The tree of 05 R117, for at most 2^`fuel` elements. -/
def tree {α : Type} (f : α → α → α) (d : α) : Nat → List α → α
  | _, [] => d
  | _, [x] => x
  | 0, x :: _ => x
  | fuel + 1, xs => tree f d fuel (pairUp f xs)

/-- A reduction in a type: `fid`, `iid` are the identities, `fp` and `int` the combination (05 R117, 09 R211). -/
def reduce (fid : Fmt → Nat) (iid : Nat → Int) (fp : Fmt → Rm → Nat → Nat → Nat) (int : Int → Int → Int)
    (o : VredOps) (s : State) : Res :=
  s.slot [.srcEm, .srcV o.va true, .mark (.s o.sd)] fun s =>
    let z := o.dt.bits
    let idx := List.range (elems o.w o.dt)
    let x (i : Nat) : Nat := elemAt (s.readV o.va) z i
    let r : Word := match o.dt.fmt 0 with
      | some f => BitVec.ofNat 64
          (tree (fp f s.rm) 0 8 (idx.map fun i => if active s.em z i then x i else fid f))
      | none => BitVec.ofInt 64
          (tree int 0 8 (idx.map fun i => if active s.em z i then toSigned z (x i) else iid z))
    .ok (s.beginX [outS o.sd r] none false)

/-- VREDSUM (09 R211). -/
def execVredsum (o : VredOps) (s : State) : Res :=
  reduce (fun f => f.signed true 0) (fun _ => 0) Fmt.addBits (· + ·) o s
/-- VREDMAX (09 R211). -/
def execVredmax (o : VredOps) (s : State) : Res :=
  reduce (fun f => f.signed true f.infMag) (fun z => -2 ^ (z - 1)) (fun f _ => f.maxBits) max o s
/-- VREDMIN (09 R211). -/
def execVredmin (o : VredOps) (s : State) : Res :=
  reduce (fun f => f.infMag) (fun z => 2 ^ (z - 1) - 1) (fun f _ => f.minBits) min o s

/-- A key for the orders of 09 R212 and R214: a number by value with −0 below +0, every NaN below −∞. -/
def floatKey (f : Fmt) (x : Nat) : Int :=
  if (f.decode x).isNan then -2 ^ 64
  else
    let mag : Int := (x % 2 ^ (f.eb + f.mb) : Nat)
    if x / 2 ^ (f.eb + f.mb) % 2 = 1 then -mag - 1 else mag

/-- The key of an element of a type. -/
def elemKey (dt : ElemType) (x : Nat) : Int :=
  match dt.fmt 0 with
  | some f => floatKey f x
  | none => toSigned dt.bits x

/-- What an element enters VARGMAX's tree as (05 R117, 09 R212): its index and its key, an inactive one's that of the identity of
VREDMAX; an active NaN loses to every number. -/
def argEntry (dt : ElemType) (on : Bool) (i x : Nat) : Option (Nat × Int) :=
  match dt.fmt 0 with
  | some f =>
    if !on then some (i, floatKey f (f.signed true f.infMag))
    else if (f.decode x).isNan then none
    else some (i, floatKey f x)
  | none => some (i, if on then toSigned dt.bits x else -2 ^ (dt.bits - 1))

/-- A node of VARGMAX's tree: the entry with the larger key, the left one on equality. -/
def argNode (a b : Option (Nat × Int)) : Option (Nat × Int) :=
  match a, b with
  | some x, some y => if x.2 < y.2 then some y else some x
  | some x, none => some x
  | none, b => b

/-- VARGMAX (09 R212): an inactive element enters as the identity under its own index (05 R117), and no active number gives all
ones. -/
def execVargmax (o : VredOps) (s : State) : Res :=
  s.slot [.srcEm, .srcV o.va true, .mark (.s o.sd)] fun s =>
    let z := o.dt.bits
    let on := active s.em z
    let xs := (List.range (elems o.w o.dt)).map fun i => (on i, argEntry o.dt (on i) i (elemAt (s.readV o.va) z i))
    let best := if xs.any fun x => x.1 && x.2.isSome then tree argNode none 8 (xs.map Prod.snd) else none
    .ok (s.beginX [outS o.sd (match best with
      | some p => BitVec.ofNat 64 p.1
      | none => BitVec.allOnes 64)] none false)

/-- The running sums of a scan (05 R118). -/
def scanSums {α : Type} (f : α → α → α) : α → List α → List α
  | _, [] => []
  | acc, x :: xs => f acc x :: scanSums f (f acc x) xs

/-- VSCAN (09 R213). -/
def execVscan (o : VR1) (s : State) : Res :=
  s.slot [.srcEm, .srcV o.va o.wa, .mark (.v o.vd)] fun s =>
    let z := o.dt.bits
    let n := elems o.w o.dt
    let on := active s.em z
    let x (i : Nat) : Nat := elemAt (s.readV o.va) z i
    let sums : List Nat := match o.dt.fmt 0 with
      | some f =>
        let id := f.signed true 0
        scanSums (f.addBits s.rm) id ((List.range n).map fun i => if on i then x i else id)
      | none => scanSums (fun a b => (a + b) % 2 ^ z) 0 ((List.range n).map fun i => if on i then x i else 0)
    .ok (s.beginX [vecOut o.vd z n on fun i => sums.getD i 0] none false)

/-! ### Sorting and merging (R214 to R216) -/

/-- A key and its payload as they are written: a NaN key as the canonical NaN (09 R214). -/
def sortedOut (dt : ElemType) (x : Nat) : Nat :=
  match dt.fmt 0 with
  | some f => if (f.decode x).isNan then f.qnan else x
  | none => x

/-- The register after another in its run (07 R140). -/
def nextV (v : VReg) : VReg := ⟨(v.val + 1) % 32, by omega⟩

/-- VSORT (09 R215). -/
def execVsort (o : VRR) (s : State) : Res :=
  s.slot [.srcEm, .srcV o.va o.wa, .srcV o.vb o.wb, .mark (.v o.vd), .mark (.v (nextV o.vd))] fun s =>
    let n := elems o.w o.dt
    let all := (List.range n).map fun i => (i, elemAt (s.readV o.va) 32 i, elemAt (s.readV o.vb) 32 i)
    let on := all.filter fun p => active s.em 32 p.1
    let sorted := sortBy (fun a b => decide (elemKey o.dt b.2.1 ≤ elemKey o.dt a.2.1)) on
    let out := (sorted.map fun p => (sortedOut o.dt p.2.1, p.2.2)) ++
      (all.filter fun p => !active s.em 32 p.1).map Prod.snd
    .ok (s.beginX [vecAll o.vd 32 n fun i => (out.getD i (0, 0)).1,
      vecAll (nextV o.vd) 32 n fun i => (out.getD i (0, 0)).2] none false)

/-- The sequential merge of 09 R216: the larger of the two front keys, the first list's on equality. -/
def mergeKeys (key : Nat → Int) : Nat → List (Nat × Nat) → List (Nat × Nat) → List (Nat × Nat)
  | 0, _, _ => []
  | _ + 1, [], bs => bs
  | _ + 1, as, [] => as
  | fuel + 1, a :: as, b :: bs =>
    if key a.1 < key b.1 then b :: mergeKeys key fuel (a :: as) bs else a :: mergeKeys key fuel as (b :: bs)

/-- VMRG (09 R216). -/
def execVmrg (o : VRR) (s : State) : Res :=
  s.slot [.srcV o.va o.wa, .srcV (nextV o.va) o.wa, .srcV o.vb o.wb, .srcV (nextV o.vb) o.wb,
      .mark (.v o.vd), .mark (.v (nextV o.vd)), .mark (.v o.vb), .mark (.v (nextV o.vb)),
      .illegalIf (o.vd == o.vb || o.vd == nextV o.vb || nextV o.vd == o.vb)] fun s =>
    let n := elems o.w o.dt
    let list (k p : VReg) : List (Nat × Nat) :=
      (List.range n).map fun i => (elemAt (s.readV k) 32 i, elemAt (s.readV p) 32 i)
    let out := (mergeKeys (elemKey o.dt) (2 * n) (list o.va (nextV o.va)) (list o.vb (nextV o.vb))).map
      fun p => (sortedOut o.dt p.1, p.2)
    let get (i : Nat) : Nat × Nat := out.getD i (0, 0)
    .ok (s.beginX [vecAll o.vd 32 n fun i => (get i).1, vecAll (nextV o.vd) 32 n fun i => (get i).2,
      vecAll o.vb 32 n fun i => (get (n + i)).1, vecAll (nextV o.vb) 32 n fun i => (get (n + i)).2] none false)

/-! ### The softmax merge (R217) -/

/-- SMERGE (09 R217). -/
def execSmerge (o : XmOps) (s : State) : Res :=
  s.slot [.srcV o.vd true, .srcV o.va true, .srcS o.sd true, .srcS o.sa true, .mark (.v o.vd), .mark (.s o.sd)] fun s =>
    let a := (s.readS o.sd).toNat
    let b := (s.readS o.sa).toNat
    let lanes (v : VReg) : List Nat := (List.range 32).map fun i => elemAt (s.readV v) 32 i
    let (m, l, x) := softmaxMerge (a % 2 ^ 32) (a / 2 ^ 32) (lanes o.vd) (b % 2 ^ 32) (b / 2 ^ 32) (lanes o.va)
    .ok (s.beginX [vecAll o.vd 32 32 fun i => x.getD i 0, outS o.sd (BitVec.ofNat 64 (m + l * 2 ^ 32))] none false)

end Sys2Proof.Machine
end

