-- ==== Sys2Proof/Machine/Haul.lean ====
section
/-! DEFINITION. Haul commands: the shadow set and its validation, the engines, reading, converting and writing row
segments, belay transfers, multicast and in-network reductions (04 R95 to R101, 03 R70 to R72, 18, 20 R346). -/

namespace Sys2Proof.Machine

/-! ### The fields of a command (R96) -/

/-- The eleven fields of a shadow set. -/
abbrev Shadow := Vector Word 11

/-- Elements per row. -/
def Shadow.elems (f : Shadow) : Nat := f[2].toNat % 2 ^ 16
/-- Rows. -/
def Shadow.rows (f : Shadow) : Nat := f[2].toNat / 2 ^ 16 % 2 ^ 16
/-- D of a softmax-merge. -/
def Shadow.d (f : Shadow) : Nat := 32 * (f[2].toNat / 2 ^ 32 % 2 ^ 8)
/-- OP. -/
def Shadow.op (f : Shadow) : Nat := f[5].toNat
/-- The source format code. -/
def Shadow.srcCode (f : Shadow) : Nat := f[6].toNat % 16
/-- The destination format code. -/
def Shadow.dstCode (f : Shadow) : Nat := f[6].toNat / 16 % 16
/-- The rounding field. -/
def Shadow.rnd (f : Shadow) : Nat := f[6].toNat / 2 ^ 10 % 4
/-- The overflow policy. -/
def Shadow.pol (f : Shadow) : Ovf :=
  match f[6].toNat / 2 ^ 8 % 4 with
  | 0 => .sat
  | 1 => .inf
  | 2 => .nan
  | _ => .trap
/-- The multicast group. -/
def Shadow.group (f : Shadow) : Nat := f[8].toNat % 16
/-- Whether the issuing module is included. -/
def Shadow.self (f : Shadow) : Bool := f[8].getLsbD 4
/-- BELAY[7]. -/
def Shadow.belay (f : Shadow) : Bool := f[9].getLsbD 7
/-- The belay channel. -/
def Shadow.channel (f : Shadow) : Nat := f[9].toNat % 64
/-- The belay buffer: true for pong. -/
def Shadow.pong (f : Shadow) : Bool := f[9].getLsbD 6
/-- Set-full. -/
def Shadow.setFull (f : Shadow) : Bool := f[10].getLsbD 3
/-- SFAB. -/
def Shadow.sfab (f : Shadow) : Bool := f[10].getLsbD 4
/-- DFAB. -/
def Shadow.dfab (f : Shadow) : Bool := f[10].getLsbD 5
/-- Whether the tile goes to a multicast group or a reduction over one. -/
def Shadow.net (f : Shadow) : Bool := 2 ≤ f.op && !f.belay
/-- A source row's address. -/
def Shadow.srcRow (f : Shadow) (r : Nat) : Word := f[0] + BitVec.ofNat 64 r * f[3]
/-- A destination row's offset or address. -/
def Shadow.dstRow (f : Shadow) (r : Nat) : Word := f[1] + BitVec.ofNat 64 r * f[4]

/-- An element format of a haul (04 R97). -/
inductive HFmt where
  | flt (f : Fmt)
  | int (z : Nat)
  | blk (b : BlockFmt)
  deriving DecidableEq, Repr

/-- The format of a code (04 R97, 06 R128). -/
def HFmt.ofCode : Nat → Option HFmt
  | 0 => some (.flt bf16)
  | 1 => some (.flt fp16)
  | 2 => some (.flt fp32)
  | 3 => some (.flt fp64)
  | 4 => some (.flt e4m3)
  | 5 => some (.flt e5m2)
  | 6 => some (.blk .kd8)
  | 7 => some (.blk .kd4)
  | 8 => some (.blk .mxe4m3)
  | 9 => some (.blk .mxe5m2)
  | 10 => some (.blk .mxfp4)
  | 11 => some (.int 8)
  | 12 => some (.int 32)
  | _ => none

/-- Elements that the format packs together. -/
def HFmt.per : HFmt → Nat
  | .blk _ => 32
  | _ => 1

/-- Bytes of an element, or of a block. -/
def HFmt.size : HFmt → Nat
  | .flt f => f.bits / 8
  | .int z => z / 8
  | .blk b => b.bytes

/-- The alignment of its rows (04 R97). -/
def HFmt.align : HFmt → Nat
  | .blk _ => 32
  | f => f.size

/-- The values of the bytes of one element or block. -/
def HFmt.values (f : HFmt) (bs : List Byte) : List FVal :=
  match f with
  | .flt f => [f.decode (leNat bs)]
  | .int z => [.ofInt (toSigned z (leNat bs))]
  | .blk b => b.unpack (bs.map BitVec.toNat)

/-- Values converted to the format, with the modes of the elements: bytes, and the elements that overflowed
(05 R112). -/
def HFmt.encode (f : HFmt) (rms : Nat → Rm) (pol : Ovf) (xs : List FVal) : List Byte × List Nat :=
  let each (z : Nat) (g : Rm → FVal → Conv) : List Byte × List Nat :=
    let cs := xs.zipIdx.map fun p => g (rms p.2) p.1
    (cs.flatMap fun c => natLe z c.bits, (cs.zipIdx.filter fun p => p.1.ovf).map Prod.snd)
  match f with
  | .flt g => each (g.bits / 8) fun rm => g.conv rm pol
  | .int z => each (z / 8) fun rm => convInt z (-2 ^ (z - 1)) (2 ^ (z - 1) - 1) rm pol
  | .blk b =>
    let k := b.encode rms pol xs
    ((b.pack k).map (BitVec.ofNat 8), k.ovf)

/-- A value of a `List` cut into pieces of `n`. -/
def chunks {α : Type} (n : Nat) : Nat → List α → List (List α)
  | 0, _ => []
  | fuel + 1, xs => if xs.isEmpty then [] else xs.take n :: chunks n fuel (xs.drop n)

/-- Source and destination formats. -/
def Shadow.fmts (f : Shadow) : HFmt × HFmt :=
  ((HFmt.ofCode f.srcCode).getD (.int 8), (HFmt.ofCode f.dstCode).getD (.int 8))

/-- Elements of a unit, the smallest part of a row that is converted by itself, and its bytes in the source and in the
destination; a softmax-merge record is one unit (03 R72). -/
def Shadow.unit (f : Shadow) : Nat × Nat × Nat :=
  if f.op = 4 then (1, 8 + 4 * f.d, 8 + 4 * f.d)
  else
    let (a, b) := f.fmts
    let u := max a.per b.per
    (u, u / a.per * a.size, u / b.per * b.size)

/-- Units of a row. -/
def Shadow.units (f : Shadow) : Nat := f.elems / f.unit.1

/-- Whether the residual buffer is used (05 R120). -/
def Shadow.usesResid (f : Shadow) : Bool := f.op == 2 && f.srcCode == 2 && f.dstCode == 0 && f[7] != 0

/-! ### Multicast groups (03 R70) -/

/-- The box of a group. -/
structure Box where
  x0 : Nat
  x1 : Nat
  y0 : Nat
  y1 : Nat
  z0 : Nat
  z1 : Nat
  deriving DecidableEq, Repr

/-- The box of an entry of the group table, if it is valid. -/
def Box.ofWord (w : Word) : Option Box :=
  let n := w.toNat
  if w.getLsbD 24 then
    some ⟨n % 16, n / 2 ^ 4 % 16, n / 2 ^ 8 % 16, n / 2 ^ 12 % 16, n / 2 ^ 16 % 16, n / 2 ^ 20 % 16⟩
  else none

/-- The group that a command names. -/
def Ctx.box (c : Ctx) (g : Nat) : Option Box := Box.ofWord (c.mcg.toList.getD g 0)

/-- How many members a group has. -/
def Box.count (b : Box) : Nat := (b.x1 - b.x0 + 1) * (b.y1 - b.y0 + 1) * (b.z1 - b.z0 + 1)

/-- The module id of a member. -/
def Box.member (b : Box) (i : Nat) : Nat :=
  let nx := b.x1 - b.x0 + 1
  let ny := b.y1 - b.y0 + 1
  (b.x0 + i % nx) + 16 * (b.y0 + i / nx % ny) + 256 * (b.z0 + i / (nx * ny))

/-- The index of a module in a group. -/
def Box.index (b : Box) (m : Nat) : Option Nat :=
  let x := m % 16
  let y := m / 16 % 16
  let z := m / 256 % 16
  if b.x0 ≤ x && x ≤ b.x1 && b.y0 ≤ y && y ≤ b.y1 && b.z0 ≤ z && z ≤ b.z1 then
    some (((z - b.z0) * (b.y1 - b.y0 + 1) + (y - b.y0)) * (b.x1 - b.x0 + 1) + (x - b.x0))
  else none

/-- The parent of a node of the reduction tree; none for the root (03 R71). -/
def Box.parent (b : Box) (m : Nat) : Option Nat :=
  if b.x0 < m % 16 then some (m - 1)
  else if b.y0 < m / 16 % 16 then some (m - 16)
  else if b.z0 < m / 256 % 16 then some (m - 256)
  else none

/-- The children of a node, in the order in which they are combined (03 R71). -/
def Box.kids (b : Box) (m : Nat) : List Nat :=
  let x := m % 16
  let y := m / 16 % 16
  let z := m / 256 % 16
  (if x < b.x1 then [m + 1] else []) ++ (if x = b.x0 ∧ y < b.y1 then [m + 16] else []) ++
    (if x = b.x0 ∧ y = b.y0 ∧ z < b.z1 then [m + 256] else [])

/-! ### Belay channels (18 R318, R319) -/

/-- The channel of a context, if it owns it. -/
def Ctx.channel (c : Ctx) (n : Nat) : Option Channel := c.channels.find? fun ch => ch.n == n

/-- A buffer's place in the channel. -/
def bufIx (pong : Bool) : Fin 2 := if pong then 1 else 0

/-- The virtual base of a buffer. -/
def Channel.base (c : Channel) (pong : Bool) : Word := if pong then c.pong else c.ping

/-- One buffer of a channel of a context changed. -/
def State.updBuf (s : State) (ctx ch : Nat) (pong : Bool) (f : BelayBuf → BelayBuf) : State :=
  s.updCtx ctx fun c => { c with channels := c.channels.map fun x =>
    if x.n = ch then { x with bufs := x.bufs.set (bufIx pong) (f x.bufs[bufIx pong]) } else x }

/-- The numbers of the sending dies, rising. -/
def Channel.senders (c : Channel) : List Nat := (List.range 6).filter fun d => c.sdies.getLsbD d

/-- A count of a buffer for a die. -/
def dieCount (v : Vector Nat 6) (d : Nat) : Nat := v.toList.getD d 0

/-- A count of a buffer changed for a die. -/
def setDie (v : Vector Nat 6) (d : Nat) (n : Nat) : Vector Nat 6 := if h : d < 6 then v.set d n else v

/-- The bit of a die. -/
def dieBit (d : Nat) : BitVec 6 := (1 : BitVec 6) <<< d

/-! ### Validation at HGO (R96, R97, R320) -/

/-- Whether the formats suit OP (04 R97, 03 R72). -/
def Shadow.fmtOk (f : Shadow) : Bool :=
  let a := f.srcCode
  let b := f.dstCode
  match f.op with
  | 0 | 5 => a == b
  | 1 => true
  | 2 => (a == b && [2, 0, 12].contains a) || (a == 2 && b == 0)
  | 3 => a == b && [2, 0, 12].contains a
  | _ => a == 2 && b == 2

/-- Whether rows are aligned and hold whole blocks (04 R97). -/
def Shadow.rowsOk (f : Shadow) : Bool :=
  let (a, b) := f.fmts
  let al (w : Word) (n : Nat) : Bool := w.toNat % n == 0
  al f[0] a.align && al f[1] b.align && (f.rows ≤ 1 || (al f[3] a.align && al f[4] b.align)) &&
    (f.op == 4 || (f.elems % a.per == 0 && f.elems % b.per == 0))

/-- The fields that break a limit of R96 or R97, a group refused by R70 or R71 among them. -/
def Shadow.invalid (f : Shadow) (c : Ctx) (me : Nat) : List Nat :=
  let box := c.box f.group
  let groupBad : Bool := f.net && (match box with
    | none => true
    | some b => f.op != 5 && (b.index me).isNone)
  let bad : List (Nat × Bool) :=
    [(2, f.elems == 0 || f.rows == 0 || f[2].toNat / 2 ^ 40 != 0),
     (5, 5 < f.op || (f.op == 4 && (f.d == 0 || 256 < f.d))),
     (6, f[6].toNat / 2 ^ 12 != 0 || 12 < f.srcCode || 12 < f.dstCode || !f.fmtOk || !f.rowsOk),
     (8, f[8].toNat / 2 ^ 5 != 0 || groupBad),
     (9, f[9].toNat / 2 ^ 8 != 0),
     (10, f[10].toNat / 2 ^ 6 != 0 || 4 < f[10].toNat % 8)]
  (bad.filter Prod.snd).map Prod.fst

/-- The fields that break a rule of R320, for an owned channel. -/
def Shadow.belayInvalid (f : Shadow) (ch : Channel) : List Nat :=
  let (_, _, dsz) := f.unit
  let bad : List (Nat × Bool) :=
    [(9, 2 < f.op || (f.op == 2 && !ch.radd) || f[8] != 0 || f[4].getLsbD 63 ||
        ch.size < f[1].toNat + (f.rows - 1) * f[4].toNat + f.units * dsz),
     (10, f.dfab)]
  (bad.filter Prod.snd).map Prod.fst

/-- The trap of an invalid command: the first invalid field, a belay channel that is not owned or that this die does not
send on counting as field 9 (R96, R320). -/
def State.hgoTrap (s : State) (f : Shadow) : Option Trap :=
  let low (xs : List Nat) : Option Nat := (List.range 11).find? fun k => xs.contains k
  let ill (k : Nat) : Option Trap := some (.now cIllegal (BitVec.ofNat 64 k))
  let own := f.invalid s.myCtx s.mid
  match low (own.filter fun k => k < 9) with
  | some k => ill k
  | none =>
    if f.belay then
      match s.myCtx.channel f.channel with
      | none => some (.now cProt (BitVec.ofNat 64 f.channel))
      | some ch =>
        if !ch.sdies.getLsbD (dieOf s.cur.loc) then some (.now cProt (BitVec.ofNat 64 f.channel))
        else (low (own ++ f.belayInvalid ch)).bind ill
    else (low own).bind ill

/-- The end of the way-converted extension that a context owns at a core (04 R87). -/
def State.extEnd (s : State) (loc ctx : Nat) : Nat :=
  let c := s.core loc
  if c.extOwner = ctx then padSize + 0x8000 * c.extWays else padSize

/-- The lowest byte of a range that lies in the local window but outside the task's (04 R96). -/
def State.outsideWindow (s : State) (a : Word) (n : Nat) : Option Word :=
  let lo := s.cur.ctl.spb.toNat
  let hi := s.cur.ctl.spl.toNat
  let ext := s.extEnd s.cur.loc s.cur.ctx
  let e := min (a.toNat + n) 0x400000
  let skip (x : Nat) : Nat :=
    if lo ≤ x ∧ x < hi then hi else if padSize ≤ x ∧ x < ext then ext else x
  let x := skip (skip a.toNat)
  if x < e then some (BitVec.ofNat 64 x) else none

/-- The lowest failing address of a command's footprint in the local window (04 R96), its bitmap included: 03 R70 puts that into
the task's window, extension or not, and reports its address, which 04 R96 says otherwise; the rule of the bitmap itself is
followed (log 110). -/
def State.hgoBound (s : State) (f : Shadow) : Option Word :=
  let (_, ssz, dsz) := f.unit
  let rows (row : Nat → Word) (n : Nat) : List Word := (List.range f.rows).filterMap fun r => s.outsideWindow (row r) n
  let src := if f.sfab then [] else rows f.srcRow (f.units * ssz)
  let dst := if f.net || f.belay || f.dfab then [] else rows f.dstRow (f.units * dsz)
  let res := if f.usesResid then (s.outsideWindow f[7] (4 * f.elems * f.rows)).toList else []
  let map : List Word :=
    if f.net then
      match s.myCtx.box f.group with
      | some b =>
        let a := s.cur.ctl.mcstat &&& 0xFFFFFFFFFFE0
        let n := 8 * ((b.count + 63) / 64)
        if s.cur.ctl.spb.toNat ≤ a.toNat ∧ a.toNat + n ≤ s.cur.ctl.spl.toNat then [] else [a]
      | none => []
    else []
  (src ++ dst ++ res ++ map).foldl (fun m w => match m with
    | none => some w
    | some x => if w.toNat < x.toNat then some w else some x) none

/-! ### Where an engine's access leads -/

/-- Why an engine stops at a row segment: a page that the supervisor answers for (20 R346), or at once (04 R101), with
the trap of a walk. -/
inductive HErr where
  | page (cause : Nat) (va : Word)
  | stop (f : Fail) (walk : Option Trap)
  deriving DecidableEq, Repr

/-- A place that an engine reads or writes. -/
inductive Spot where
  | pad (pa : Nat)
  | node (pa : Nat)
  | fabric (fa : Word)
  deriving DecidableEq, Repr

/-- WSCTL of weight store `k` (04 R94). -/
def wsctl (k : Nat) : Nat := ctlBase (2 + k) + 0x90000

/-- Whether a weight store is open (04 R93). -/
def State.wsOpen (s : State) (k : Nat) : Bool := (s.mcrGet (wsctl k)).getLsbD 0

/-- The slice of the engine that runs a command: its cluster's TLB translates for it (20 R344). -/
def Haul.engine (h : Haul) : Nat := h.eng.getD (sliceOf h.loc)

/-- Where an engine's access of `n` bytes that cross no page leads (04 R93, R96, R101; 23 R363). -/
def State.haulSpot (s : State) (h : Haul) (write : Bool) (va : Word) (n : Nat) : Except HErr Spot :=
  if va.toNat < 0x400000 then .ok (.pad (padBase h.loc + va.toNat))
  else
    match s.translate (.engine h.engine) h.ctx h.sv (if write then .store else .load) va with
    | .error t => if t.cause = cMachine then .error (.stop ⟨cMachine, 0, t.eval, none⟩ (some t)) else .error (.page t.cause va)
    | .ok (.fabric m off) => .ok (.fabric (BitVec.ofNat 64 (m * 2 ^ 52 + off)))
    | .ok (.phys pa) =>
      let prot : Except HErr Spot := .error (.stop ⟨cProt, 0, va, none⟩ none)
      match s.place pa with
      | .node _ => match s.firstRefused h.ctx pa n with
        | some q => .error (.stop ⟨cProt, 0, va + BitVec.ofNat 64 (q - pa), none⟩ none)
        | none => .ok (.node pa)
      | .pad .. => .ok (.pad pa)
      | .weights k _ => if (if write then h.sv && s.wsOpen k else !s.wsOpen k) then .ok (.pad pa) else prot
      | .control .. => prot
      | .none => .error (.stop ⟨cMachine, 0, BitVec.ofNat 64 pa, none⟩ none)

/-- A range cut at 256-byte boundaries. -/
def cuts : Nat → Word → Nat → List (Word × Nat)
  | 0, _, _ => []
  | fuel + 1, a, n =>
    if n = 0 then []
    else
      let m := min n (256 - a.toNat % 256)
      (a, m) :: cuts fuel (a + BitVec.ofNat 64 m) (n - m)

/-- The pieces of an access, each with where it leads; `fab` says that the address is a fabric address. -/
def State.haulPieces (s : State) (h : Haul) (write fab : Bool) (va : Word) (n : Nat) : Except HErr (List (Spot × Nat)) :=
  (cuts (n / 256 + 2) va n).mapM fun p =>
    if fab then .ok (.fabric p.1, p.2) else (s.haulSpot h write p.1 p.2).map fun x => (x, p.2)

/-- The bytes of a haul that came through the fabric, from a fabric address on. -/
def Haul.gotBytes (h : Haul) (fa : Word) (n : Nat) : List Byte × Bool :=
  match h.got.find? fun g => g.1.toNat ≤ fa.toNat && fa.toNat < g.1.toNat + g.2.1.length with
  | some g => ((g.2.1.drop (fa.toNat - g.1.toNat)).take n, g.2.2)
  | none => (List.replicate n 0, false)

/-- The sectors of memory that an engine's read touches read at their homes (01 R20, 04 R81). -/
def State.haulTouch (s : State) (h : Haul) (va : Word) (n : Nat) : State :=
  match s.haulPieces h false false va n with
  | .ok ps => ps.foldl (fun s p => match p.1 with
      | .node pa | .pad pa => s.touch h.ctx pa p.2
      | .fabric _ => s) s
  | .error _ => s

/-- An engine's read (04 R81): bytes, and whether poison was delivered. -/
def State.haulRead (s : State) (h : Haul) (fab : Bool) (va : Word) (n : Nat) : Except HErr (List Byte × Bool) :=
  (s.haulPieces h false fab va n).map fun ps =>
    let one (p : Spot × Nat) : List Byte × Bool :=
      match p.1 with
      | .pad pa | .node pa => (s.bytes pa p.2, s.anyPoison pa p.2)
      | .fabric fa => h.gotBytes fa p.2
    (ps.flatMap fun p => (one p).1, ps.any fun p => (one p).2)

/-- Scratchpad words marked full (04 R91, R98). -/
def State.markFull (s : State) (pa n : Nat) : State :=
  { s with feEmpty := s.feEmpty.filter fun w => w + 4 ≤ pa || pa + n ≤ w }

/-- A request of a haul sent. -/
def State.haulRequest (s : State) (h : Haul) (fa : Word) (n : Nat) (write : Option (List Byte)) (poison : Bool) : State :=
  let o : OutReq := ⟨s.nextId, fa.toNat / 2 ^ 52, h.task, 0, fa, 0, n, write.isSome, some h.id, 0, 0, false, 0, none, none⟩
  s.request h.ctx o (fa.toNat % 2 ^ 52) (match write with
    | some bs => .store (bs.map some)
    | none => .load n) poison

/-- The agent of a haul. -/
def Haul.agent (h : Haul) : Agent := ⟨h.ctx, h.depth, h.task, h.loc⟩

/-- An engine's write of whole bytes (04 R81, R91, R98): set-full where the command asks for it; `bad` says that some
are poisoned, which a packet carries as a whole. -/
def State.haulWrite (s : State) (h : Haul) (fab : Bool) (va : Word) (bs : List Byte) (bad : Bool) : Except HErr State :=
  (s.haulPieces h true fab va bs.length).map fun ps =>
    (ps.foldl (fun (acc : State × List Byte) p =>
      let b := acc.2.take p.2
      let s := match p.1 with
        | .pad pa =>
          let s1 := acc.1.padWrite pa (b.map some)
          if Shadow.setFull h.fields then s1.markFull pa p.2 else s1
        | .node pa => acc.1.engineWrite h.agent pa (b.map some)
        | .fabric fa => acc.1.haulRequest h fa p.2 (some b) bad
      (s, acc.2.drop p.2)) (s, bs)).1

/-- Poison delivered to the destination of `n` bytes (04 R91). -/
def State.haulPoison (s : State) (h : Haul) (va : Word) (n : Nat) : State :=
  match s.haulPieces h true false va n with
  | .ok ps => ps.foldl (fun s p => match p.1 with
      | .pad pa | .node pa => s.spreadPoison h.ctx pa p.2
      | .fabric _ => s) s
  | .error _ => s

/-! ### Row segments (04 R92, R98, R101) -/

/-- A row segment: a row, its first byte and its bytes within the row, and the units that have bytes in it, the first and how
many. -/
structure HSeg where
  row : Nat
  lo : Nat
  len : Nat
  first : Nat
  n : Nat
  deriving DecidableEq, Repr

/-- The segments of a row of `left` bytes from byte `lo` on whose destination starts at `base`: its cuts at 1 KiB boundaries. -/
def rowSegs (row base dsz : Nat) : Nat → Nat → Nat → List HSeg
  | 0, _, _ => []
  | fuel + 1, lo, left =>
    if left = 0 then []
    else
      let len := min left (1024 - (base + lo) % 1024)
      ⟨row, lo, len, lo / dsz, (lo + len + dsz - 1) / dsz - lo / dsz⟩ :: rowSegs row base dsz fuel (lo + len) (left - len)

/-- Where a command's destination rows begin: its DST, or a place in the belay buffer. -/
def State.haulBase (s : State) (h : Haul) : Word :=
  if Shadow.belay h.fields then
    match ((s.ctxOf h.ctx).bind fun c => c.channel (Shadow.channel h.fields)) with
    | some ch => ch.base (Shadow.pong h.fields)
    | none => 0
  else 0

/-- Every row segment of a command, rows rising. -/
def State.haulSegs (s : State) (h : Haul) : List HSeg :=
  let f : Shadow := h.fields
  let (_, _, dsz) := f.unit
  let u := f.units
  (List.range f.rows).flatMap fun r => rowSegs r (s.haulBase h + f.dstRow r).toNat dsz (u * dsz / 1024 + 2) 0 (u * dsz)

/-- The mode in which element `e` of a haul is rounded (05 R111, R114). -/
def Haul.mode (h : Haul) (e : Nat) : Rm :=
  match Shadow.rnd h.fields with
  | 0 => Rm.ofRnd h.rnd
  | 1 => .rne
  | 2 => .rtz
  | _ => .sto (stoWord h.srkey (h.srctr + BitVec.ofNat 64 (e / 128)) (e % 128))

/-- The values of a unit of source bytes. -/
def Shadow.unitValues (f : Shadow) (bs : List Byte) : List FVal :=
  let a := f.fmts.1
  (chunks a.size bs.length bs).flatMap a.values

/-- A unit converted (04 R97, 05 R112): bytes and overflowing elements. -/
def Haul.convert (h : Haul) (e : Nat) (bs : List Byte) : List Byte × List Nat :=
  let f : Shadow := h.fields
  f.fmts.2.encode (fun j => h.mode (e + j)) f.pol (f.unitValues bs)

/-- A contribution narrowed from FP32 to BF16 with its residual (05 R120): what is sent, and the new residual. -/
def narrow (x r : Nat) : Nat × Nat :=
  let c := fp32.addBits .rne x r
  let q := bf16.round .rne (fp32.decode c)
  let v := bf16.decode q
  let w := fp32.decode c
  if v.isNan || v.isInf || w.isNan || w.isInf then (q, 0)
  else (q, fp32.round .rne (w.add .rne v.neg))

/-- combine of reduce-add and reduce-max on the bits of two elements (03 R72). -/
def combine (op : Nat) (f : HFmt) (a b : Nat) : Nat :=
  match f with
  | .flt g => if op = 2 then g.addBits .rne a b else g.maxBits a b
  | .int z => if op = 2 then (a + b) % 2 ^ z else intBits z (max (toSigned z a) (toSigned z b))
  | .blk _ => a

/-- What an element contributes to a reduction, and the residual it leaves, if one is kept: bytes, residual bits,
poison. -/
def State.contribution (s : State) (h : Haul) (e : Nat) (bs : List Byte) : Except HErr (List Byte × Option Nat × Bool) :=
  let f : Shadow := h.fields
  if f.srcCode = f.dstCode then .ok (bs, none, false)
  else if f.usesResid then
    match s.haulRead h false (f[7] + BitVec.ofNat 64 (4 * e)) 4 with
    | .ok (rb, bad) =>
      let (q, r) := narrow (leNat bs) (leNat rb)
      .ok (natLe 2 q, some r, bad)
    | .error x => .error x
  else .ok (natLe 2 (bf16.round .rne (fp32.decode (leNat bs))), none, false)

/-- The residual of element `e` written back. -/
def State.putResid (s : State) (h : Haul) (e : Nat) (r : Option Nat) (poison : Bool) : Except HErr State :=
  match r with
  | none => .ok s
  | some r =>
    let a : Word := (h.fields[7] : Word) + BitVec.ofNat 64 (4 * e)
    (s.haulWrite { h with fields := h.fields.set 10 0 } false a (natLe 4 r) poison).map fun s =>
      if poison then s.haulPoison h a 4 else s

/-- One unit of a belay reduce-add as it is to be written (18 R323): the first contribution to an element is written,
each later one is added. -/
def State.belayAdd (s : State) (h : Haul) (off : Nat) (va : Word) (new : List Byte) : Except HErr (List Byte × Bool) :=
  let f : Shadow := h.fields
  let written := (((s.ctxOf h.ctx).bind fun c => c.channel f.channel).map fun ch =>
    (ch.bufs[bufIx f.pong]).written.contains off).getD false
  if written then
    (s.haulRead h false va new.length).map fun p =>
      (natLe new.length (combine 2 f.fmts.2 (leNat p.1) (leNat new)), p.2)
  else .ok (new, false)

/-- A unit on its way: destination bytes, poison, overflowing elements, residual. -/
structure HUnit where
  bytes : List Byte
  poison : Bool
  ovf : List Nat
  resid : Option Nat
  deriving DecidableEq, Repr

/-- One unit read and computed. -/
def State.haulUnit (s : State) (h : Haul) (row k : Nat) : Except HErr HUnit :=
  let f : Shadow := h.fields
  let (u, ssz, dsz) := f.unit
  let e := row * f.elems + k * u
  match s.haulRead h f.sfab (f.srcRow row + BitVec.ofNat 64 (k * ssz)) ssz with
  | .error x => .error x
  | .ok (bs, bad) =>
    match f.op with
    | 1 =>
      let (out, ovf) := h.convert e bs
      .ok ⟨out, bad, if bad then [] else ovf.map (e + ·), none⟩
    | 2 =>
      match s.contribution h e bs with
      | .error x => .error x
      | .ok (c, r, bad2) =>
        if f.belay then
          let off := (f.dstRow row).toNat + k * dsz
          (s.belayAdd h off (s.haulBase h + BitVec.ofNat 64 off) c).map fun p =>
            ⟨p.1, bad || bad2 || p.2, [], r⟩
        else .ok ⟨c, bad || bad2, [], r⟩
    | 3 => .ok ⟨bs, bad, [], none⟩
    | _ => .ok ⟨bs, bad, [], none⟩

/-- Everything that units of a row read, read at its home: their source, their residuals, and the sums of a belay
reduce-add. -/
def State.unitsTouch (s : State) (h : Haul) (row first n : Nat) : State :=
  let f : Shadow := h.fields
  let (u, ssz, dsz) := f.unit
  let s1 := if f.sfab then s else s.haulTouch h (f.srcRow row + BitVec.ofNat 64 (first * ssz)) (n * ssz)
  let s2 := if f.usesResid then s1.haulTouch h (f[7] + BitVec.ofNat 64 (4 * (row * f.elems + first * u))) (4 * n * u) else s1
  if f.belay && f.op == 2 then s2.haulTouch h (s.haulBase h + f.dstRow row + BitVec.ofNat 64 (first * dsz)) (n * dsz) else s2

/-- A row segment performed (04 R92, R98, R101): a unit of a packed format that has bytes in two segments is written in two
parts, and an overflow in it belongs to both. -/
def State.haulSeg (s0 : State) (h : Haul) (g : HSeg) : Except HErr (State × Bool) :=
  let f : Shadow := h.fields
  let (u, _, dsz) := f.unit
  let s := s0.unitsTouch h g.row g.first g.n
  match (List.range g.n).mapM fun i => s.haulUnit h g.row (g.first + i) with
  | .error x => .error x
  | .ok us =>
    match f.op == 1 && f.pol == .trap, us.flatMap HUnit.ovf with
    | true, e :: _ => .error (.stop ⟨cFpTrap, 0, BitVec.ofNat 64 e, none⟩ none)
    | _, ovf =>
      let row := s.haulBase h + f.dstRow g.row
      let bytes := ((us.flatMap HUnit.bytes).drop (g.lo - g.first * dsz)).take g.len
      match s.haulWrite h f.dfab (row + BitVec.ofNat 64 g.lo) bytes (us.any HUnit.poison) with
      | .error x => .error x
      | .ok s1 =>
        let s2 := us.zipIdx.foldl (fun s p =>
          let a := max g.lo ((g.first + p.2) * dsz)
          let b := min (g.lo + g.len) ((g.first + p.2 + 1) * dsz)
          if p.1.poison then s.haulPoison h (row + BitVec.ofNat 64 a) (b - a) else s) s1
        let s3 := if f.belay && f.op == 2 then
            s2.updBuf h.ctx f.channel f.pong fun b => { b with written :=
              ((List.range g.n).map fun i => (f.dstRow g.row).toNat + (g.first + i) * dsz) ++ b.written }
          else s2
        let r := us.zipIdx.foldlM (fun s p =>
          s.putResid h (g.row * f.elems + (g.first + p.2) * u) p.1.resid p.1.poison) s3
        r.map fun s4 => (s4, !ovf.isEmpty)

/-! ### Ends of commands -/

/-- The commands with one changed. -/
def State.updHaul (s : State) (id : Nat) (f : Haul → Haul) : State :=
  { s with hauls := s.hauls.map fun h => if h.id = id then f h else h }

/-- A command forgotten. -/
def State.dropHaul (s : State) (id : Nat) : State := { s with hauls := s.hauls.filter fun h => h.id != id }

/-- Whether a belay command's own writes are done, so that its queue goes on (18 R320). -/
def Haul.belayDone (h : Haul) : Bool := Shadow.belay h.fields && h.st == .sent

/-- Whether no earlier command of its queue is incomplete (04 R95). -/
def State.headOfQueue (s : State) (h : Haul) : Bool :=
  !s.hauls.any fun x => x.task == h.task && x.q == h.q && x.tile.isNone && x.id < h.id && !x.belayDone

/-- Whether two belay commands are of one die and buffer. -/
def Haul.sameBuf (h x : Haul) : Bool :=
  Shadow.belay x.fields && x.ctx == h.ctx && Shadow.channel x.fields == Shadow.channel h.fields &&
    Shadow.pong x.fields == Shadow.pong h.fields && dieOf x.loc == dieOf h.loc

/-- Whether the consumption of a permit by a command can be performed (19 R331, R333): its ring has room, and its turn in the
permit's series has come. -/
def State.permitTurn (s : State) (h : Haul) (b : BelayBuf) : Bool :=
  match s.task h.task with
  | some t => !s.ringFull h.ctx && s.nextTurn t (.unit b.seq)
  | none => true

/-- Whether the belay unit lets a command become pending (18 R320). -/
def State.belayReady (s : State) (h : Haul) : Bool :=
  match ((s.ctxOf h.ctx).bind fun c => c.channel (Shadow.channel h.fields)) with
  | none => false
  | some ch =>
    let b := ch.bufs[bufIx (Shadow.pong h.fields)]
    let d := dieOf h.loc
    let p := dieCount b.started d + (s.hauls.filter fun x => h.sameBuf x && x.st == .pending).length
    !(s.hauls.any fun x => h.sameBuf x && x.id < h.id && (x.st == .queued || x.st == .held)) && p < ch.cmds &&
      (p != 0 || (b.permits.getLsbD d && s.permitTurn h b))

/-- Commands that have become pending put into the pending lists of their clusters (04 R95, 18 R320). -/
def State.promote (s : State) : State :=
  s.hauls.foldl (fun s h =>
    if h.st == .queued && s.headOfQueue h && (!Shadow.belay h.fields || s.belayReady h) then
      { s.updHaul h.id fun h => { h with st := .pending, order := s.nextId } with nextId := s.nextId + 1 }
    else s) s

/-- A task whose tile failed, the first of its tiles to fail: it is not started and counts as ended, and its creation by a
watch has its record (15 R296, 16 R314). -/
def State.tileFault (s : State) (task : Nat) : State :=
  match s.task task with
  | none => s
  | some t =>
    if t.status = .ending then s
    else
      let mine (x : TaskSet) : Bool := x.id == t.setId && x.ctx == t.ctx
      let s1 := { s.updTask task fun t => t.ended false with
        sets := s.sets.map fun x => if mine x then { x with tileFaults := x.tileFaults + 1 } else x }
      (s.sets.filter mine).foldl State.etchTrigger s1

/-- A tile haul ended (15 R295, R296). -/
def State.tileDone (s : State) (task haul : Nat) (ok : Bool) : State :=
  let s1 := s.updTask task fun t => { t with tilesLeft := t.tilesLeft.erase haul }
  if ok then s1 else s1.tileFault task

/-- A command ended: its ticket completes, failed or not (04 R100, R101). A belay command that succeeded counts toward
its transfer, and its ticket waits for the transfer; one that failed gives its die the permit again (18 R320, R324). -/
def State.endHaul (s : State) (h : Haul) (fail : Option Fail) : State :=
  let f : Shadow := h.fields
  let d := dieOf h.loc
  match h.tile with
  | some t => (s.dropHaul h.id).tileDone t h.id fail.isNone
  | none =>
    match f.belay, fail with
    | true, none =>
      let s1 := s.updBuf h.ctx f.channel f.pong fun b => { b with done := setDie b.done d (dieCount b.done d + 1) }
      (s1.updHaul h.id fun h => { h with st := .sent, eng := none }).promote
    | _, _ =>
      let s1 := if f.belay then
          s.updBuf h.ctx f.channel f.pong fun b =>
            { b with permits := b.permits ||| dieBit d, started := setDie b.started d (dieCount b.started d - 1) }
        else s
      let s2 := (s1.dropHaul h.id).completeTicket h.task 0 h.ticket fail none
      (s2.updTask h.task fun t => { t with ctl := { t.ctl with convx := t.ctl.convx || (h.convx && fail.isNone) } }).promote

/-- A command that meets a failure at segment `i` (04 R101, 20 R346). -/
def State.haulFails (s : State) (h : Haul) (i : Nat) (e : HErr) : State :=
  match e with
  | .stop f w => ((w.map (s.walkCharge h.ctx)).getD s).endHaul h (some f)
  | .page cause va =>
    if h.tile.isSome then s.endHaul h (some ⟨cause, 0, va, none⟩)
    else
      let tok := s.nextToken
      let s1 := s.updHaul h.id fun h => { h with st := .waiting tok, row := i, fault := some ⟨cause, 0, va, none⟩ }
      let who := ((s.task h.task).map fun t => t.ctl.taskid.toNat % 2 ^ 32).getD 0
      { s1.record h.ctx (sliceDie h.engine) 2 cause who va (BitVec.ofNat 64 tok) with
        nextToken := tok % (2 ^ 32 - 1) + 1 }

/-- The segments of a command from number `i` on performed in rising order (log 10) until one fails. -/
def State.haulRun (s : State) (h : Haul) : List HSeg → Nat → Except (State × Nat × HErr) State
  | [], _ => .ok s
  | g :: gs, i =>
    match s.haulSeg h g with
    | .error e => .error (s, i, e)
    | .ok (s1, cx) =>
      let s2 := if cx then s1.updHaul h.id fun h => { h with convx := true } else s1
      s2.haulRun h gs (i + 1)

/-! ### Multicast and reductions (03 R70 to R72, 21 R355) -/

/-- Where the image in a slot of a context's pool begins (20 R350). -/
def Ctx.imageAt (c : Ctx) (slot : Nat) : Nat := c.imgbase + slot * c.imgsz

/-- The agent of a command of a task that writes for it (14 R275, 16 R310). -/
def Task.windowAgent (t : Task) : Agent := ⟨t.ctx, t.depth, t.id, t.loc⟩

/-- Bytes written into a task's window, or, while it is swapped out, into the window bytes of its image (06 R133). -/
def State.windowPut (s : State) (t : Task) (va : Word) (bs : List Byte) : State :=
  match t.image, s.ctxOf t.ctx with
  | some k, some c => s.engineWrite t.windowAgent (c.imageAt k + 0x3000 + (va.toNat - t.ctl.spb.toNat)) (bs.map some)
  | _, _ => s.padWrite (padBase t.loc + va.toNat) (bs.map some)

/-- The bitmap of members written at the place of its task's window that c.MCSTAT named at HGO, and INCOMPLETE where a member that was
awaited is missing (03 R70). -/
def State.putBitmap (s : State) (h : Haul) (b : Box) (done awaited : List Nat) : State :=
  let n := 8 * ((b.count + 63) / 64)
  let map : Nat := (done.eraseDups.filter fun i => i < b.count).foldl (fun m i => m + 2 ^ i) 0
  let s1 := match s.task h.task with
    | some t => s.windowPut t (h.mcstat &&& 0xFFFFFFFFFFE0) (natLe n map)
    | none => s
  if awaited.all done.contains then s1
  else s1.updTask h.task fun t => { t with ctl := { t.ctl with mcstat := t.ctl.mcstat ||| 1 } }

/-- A row of a command's tile read whole, with its residuals written back: bytes and poison. -/
def State.haulTileRow (s : State) (h : Haul) (r : Nat) : List Nat → Except HErr (State × List Byte × Bool)
  | [] => .ok (s, [], false)
  | k :: ks =>
    match s.haulUnit h r k with
    | .error e => .error e
    | .ok x =>
      match s.putResid h (r * Shadow.elems h.fields + k * (Shadow.unit h.fields).1) x.resid x.poison with
      | .error e => .error e
      | .ok s1 => (s1.haulTileRow h r ks).map fun p => (p.1, x.bytes ++ p.2.1, x.poison || p.2.2)

/-- The rows of a command's tile from number `r` on: rows and poison; or the row that failed. -/
def State.haulTile (s : State) (h : Haul) : List Nat → Except (Nat × HErr) (State × List (List Byte) × Bool)
  | [] => .ok (s, [], false)
  | r :: rs =>
    match (s.unitsTouch h r 0 (Shadow.units h.fields)).haulTileRow h r (List.range (Shadow.units h.fields)) with
    | .error e => .error (r, e)
    | .ok (s1, bs, bad) => (s1.haulTile h rs).map fun p => (p.1, bs :: p.2.1, bad || p.2.2)

/-- Bytes written by an engine to physical pieces, granule by granule in memory (16 R306). -/
def State.enginePieces (s : State) (a : Agent) : List (Nat × Nat) → List (Option Byte) → State
  | [], _ => s
  | p :: ps, bs =>
    let s1 := if (s.place p.1).isNode then s.engineWrite a p.1 (bs.take p.2) else s.physWrite a p.1 (bs.take p.2)
    s1.enginePieces a ps (bs.drop p.2)

/-- One row stored at a window offset of this module itself, under permission bit 3 (03 R61, R62). -/
def State.storeHere (s : State) (h : Haul) (off : Nat) (bs : List Byte) (bad : Bool) : State × Bool :=
  match (s.ctxOf h.ctx).bind fun c => s.exported c.fctx off bs.length 3 .store with
  | some (c, ps) => ((s.enginePieces h.agent ps (bs.map some)).poisonPieces c.id ps bad, true)
  | none => (s.countDrop true, false)

/-- A tile stored row by row at this module's own window. -/
def State.storeTile (s : State) (h : Haul) (rows : List (List Byte)) (bad : Bool) : State × Bool :=
  let f : Shadow := h.fields
  rows.zipIdx.foldl (fun acc p =>
    let (s1, ok) := acc.1.storeHere h (f.dstRow p.2).toNat p.1 bad
    (s1, acc.2 && ok)) (s, true)

/-- A multicast ended (03 R70): the bitmap of the members that performed it, INCOMPLETE where one that was sent the store is
missing, and the end of the command. -/
def State.multicastEnd (s : State) (h : Haul) (b : Box) (done : List Nat) : State :=
  let mine := s.fabric.mc.filter fun e => e.haul == h.id
  let ok := (mine.filter fun e => !e.failed && (e.target == s.mid || done.contains e.ix)).map Member.ix
  let s1 := (s.putBitmap h b ok (mine.map Member.ix)).updFabric fun fb => { fb with mc := fb.mc.filter fun e => e.haul != h.id }
  s1.endHaul h none

/-- A multicast sent (03 R70): every member that can be reached is sent each row, this module through its own window, held back
behind a change of its route (03 R64), and the command waits for MULTICAST_COMPLETE; where none can be reached it ends at once
(03 R60). -/
def State.multicast (s : State) (h : Haul) (b : Box) (rows : List (List Byte)) (bad : Bool) : State :=
  let f : Shadow := h.fields
  let there := (List.range b.count).filter fun i => s.reachable (b.member i) && (f.self || b.member i != s.mid)
  let off (r : Nat) : Nat := (f.dstRow r).toNat
  let members := there.zipIdx.map fun p => (⟨h.id, p.1, b.member p.1, s.nextId + p.2, false,
    rows.zipIdx.map fun r => (b.member p.1 * 2 ^ 52 + off r.2, r.1.length), false⟩ : Member)
  let s1 : State := { s.updFabric fun fb => { fb with mc := fb.mc ++ members } with nextId := s.nextId + there.length }
  let s2 := members.foldl (fun s m => rows.zipIdx.foldl (fun s p =>
    s.sendOrHold h.ctx ⟨m.id, m.target, h.task, 0, 0, 0, p.1.length, true, some h.id, 0, 0, false, 0, none, none⟩ (off p.2)
      (.store (p.1.map some)) bad true) s) s1
  let s3 := s2.updHaul h.id fun h => { h with st := .sent }
  if there.isEmpty then s3.multicastEnd h b [] else s3

/-- Two tiles combined element by element (03 R72). -/
def combineTiles (op fmt d : Nat) (a b : List Byte) : List Byte :=
  if op = 4 then
    let z := 8 + 4 * d
    let num (t : List Byte) (i : Nat) : Nat := field t (4 * i) 4
    ((chunks z a.length a).zip (chunks z b.length b)).flatMap fun p =>
      let o (t : List Byte) : List Nat := (List.range d).map fun i => num t (2 + i)
      let (m, l, x) := softmaxMerge (num p.1 0) (num p.1 1) (o p.1) (num p.2 0) (num p.2 1) (o p.2)
      natLe 4 m ++ natLe 4 l ++ x.flatMap (natLe 4)
  else
    let f := (HFmt.ofCode fmt).getD (.int 32)
    ((chunks f.size a.length a).zip (chunks f.size b.length b)).flatMap fun p =>
      natLe f.size (combine op f (leNat p.1) (leNat p.2))

/-- The reductions with one changed, which is begun if there is none. -/
def State.updRed (s : State) (ctx group k : Nat) (f : Reduction → Reduction) : State :=
  let is (r : Reduction) : Bool := r.ctx == ctx && r.group == group && r.k == k
  s.updFabric fun fb =>
    if fb.reds.any is then { fb with reds := fb.reds.map fun r => if is r then f r else r }
    else { fb with reds := fb.reds ++ [f ⟨ctx, group, k, none, [], false⟩] }

/-- A reduction of this node. -/
def State.red (s : State) (ctx group k : Nat) : Option Reduction :=
  s.fabric.reds.find? fun r => r.ctx == ctx && r.group == group && r.k == k

/-- What this node combines, in the order of R71: members, tile, poison, and the operation. -/
def State.redParts (s : State) (r : Reduction) (b : Box) : List (List Nat × List Byte × Bool × Nat × Nat × Nat) :=
  let own := match r.own with
    | some (hid, tile, bad) =>
      match s.hauls.find? fun h => h.id == hid with
      | some h =>
        let f : Shadow := h.fields
        [((b.index s.mid).toList, tile, bad, f.op, f.dstCode, f.d)]
      | none => []
    | none => []
  own ++ (b.kids s.mid).filterMap fun m => (r.got.find? fun c => c.env.src == m).map fun c =>
    (c.members, c.tile, c.poison, c.op, c.fmt, c.d)

/-- The haul of this module's own part in a reduction: of the contribution that has come, or the one that HGO has issued for it. -/
def State.redHaul (s : State) (r : Reduction) : Option Haul :=
  match r.own with
  | some o => s.hauls.find? fun h => h.id == o.1
  | none => s.hauls.find? fun h => h.ctx == r.ctx && Shadow.net h.fields && Shadow.op h.fields != 5 && Shadow.group h.fields == r.group &&
      h.k == r.k

/-- The result of a reduction at its root (03 R71, 21 R355): it is written at the DST of the root's haul with the bitmap, and the
haul's ticket completes if its own part was there in time. -/
def State.redRoot (s : State) (r : Reduction) (b : Box) (h : Haul) (members : List Nat) (tile : List Byte) (bad : Bool) : State :=
  let f : Shadow := h.fields
  let n := f.units * f.unit.2.2
  let (s2, ok) := s.storeTile h (chunks n tile.length tile) bad
  let s3 := s2.putBitmap h b members (List.range b.count)
  if r.own.isNone then s3 else s3.endHaul h (if ok then none else some (fabFail .access f[1]))

/-- The wait of a node ends (03 R71, 21 R355): it combines what it has, under the operation, format and D of its first part
(log 111); the root, if it has issued its reduction, writes the result at its DST and reports, any other node sends it to its
parent. -/
def State.redClose (s : State) (r : Reduction) (b : Box) : State :=
  let s1 := s.updRed r.ctx r.group r.k fun r => { r with closed := true }
  match s.redParts r b with
  | [] => s1
  | (m0, t0, bad0, op, fmt, d) :: rest =>
    let members := m0 ++ rest.flatMap Prod.fst
    let bad := bad0 || rest.any fun p => p.2.2.1
    let tile := rest.foldl (fun t p => combineTiles op fmt d t p.2.1) t0
    match b.parent s.mid with
    | none =>
      match s.redHaul r with
      | none => s1
      | some h => s1.redRoot r b h members tile bad
    | some p =>
      let own := r.own.bind fun o => s.hauls.find? fun h => h.id == o.1
      let c := (s.ctxOf r.ctx).getD Ctx.supervisor
      let id := s1.nextId
      let o : OutReq := match own with
        | some h => ⟨id, p, h.task, 0, (h.fields[1] : Word), 0, 0, true, some h.id, 0, 0, false, 0, none, none⟩
        | none => ⟨id, p, 0, 0, 0, 0, 0, true, none, 0, 0, false, 0, none, none⟩
      let s2 := { s1.updFabric fun fb => { fb with out := fb.out ++ [o] } with nextId := id + 1 }
      if s.reachable p then
        s2.send (.contribution p ⟨⟨s.mid, s.incarnation, s.peerInc p⟩, c.fctx, r.group, r.k, id, op, fmt, d, members, tile, bad⟩)
      else s2.reqDone id .unreachable [] false 0

/-- Whether every part of a reduction has come to this node. -/
def State.redReady (s : State) (r : Reduction) (b : Box) : Bool :=
  r.own.isSome && (b.kids s.mid).all fun m => r.got.any fun c => c.env.src == m

/-- A reduction continued if all its parts are there. -/
def State.redStep (s : State) (ctx group k : Nat) : State :=
  match s.red ctx group k, ((s.ctxOf ctx).bind fun c => c.box group) with
  | some r, some b => if !r.closed && s.redReady r b then s.redClose r b else s
  | _, _ => s

/-- This module's own contribution arrives at its node; after the wait it is discarded (21 R355). -/
def State.redOwn (s : State) (h : Haul) (tile : List Byte) (bad : Bool) : State :=
  let f : Shadow := h.fields
  match s.red h.ctx f.group h.k with
  | some ⟨_, _, _, _, _, true⟩ => s.endHaul h (some (fabFail .unreachable f[1]))
  | _ =>
    let s1 := s.updHaul h.id fun h => { h with st := .sent }
    (s1.updRed h.ctx f.group h.k fun r => { r with own := some (h.id, tile, bad) }).redStep h.ctx f.group h.k

/-! ### Instructions -/

/-- HSET (10 R241). -/
def execHset (o : HsetOps) (s : State) : Res :=
  s.slot [.srcS o.a true, .write (.shadow o.fld.toNat)] fun s =>
    .ok (s.later 1 (outOf (.shadow o.fld.toNat) (s.readS o.a)))

/-- HGET (10 R241). -/
def execHget (o : HgetOps) (s : State) : Res :=
  s.slot [.write (.s o.d)] fun s => .ok (s.later 1 (outS o.d (s.cur.shadow.toList.getD o.fld.toNat 0)))

/-- One more reduction issued on a group (03 R71). -/
def Ctx.countRed (c : Ctx) (g : Nat) : Ctx :=
  if h : g < 16 then { c with redK := c.redK.set g (c.redK[g] + 1) } else c

/-- A command of a task committed to its queue (04 R86, 10 R221, 14 R283), behind every earlier memory operation of its context,
whose dirty bytes are written back first. -/
def State.hgoGo (s : State) (t : Task) (op : Op) : State :=
  match op.kind with
  | .cmd (.hgo id) =>
    if t.unperformedBefore op.id then s
    else (((s.flushCtx t.loc t.ctx).updHaul id fun h => { h with st := .queued }).finishOp t.id op).promote
  | _ => s

/-- HGO (10 R241, 04 R95, R96, R114): it captures the shadow set as it stood before its bundle. -/
def execHgo (o : HgoOps) (s : State) : Res :=
  let f0 : Shadow := s.cur.shadow
  let sto : Bool := f0.op == 1 && f0.rnd == 3
  s.slot ([.write (.s o.d)] ++ (if sto then [.sto] else [])) fun s =>
    let f : Shadow := s.cur.shadow
    let mine := s.hauls.filter fun h => h.task == s.cur.id && h.q == o.q.toNat && h.tile.isNone && !h.belayDone
    if 16 ≤ mine.length then .error (.wait false)
    else
      match s.hgoTrap f with
      | some t => .error (.trap t)
      | none =>
        match s.hgoBound f with
        | some a => .error (.trap (.now cSpBound a))
        | none =>
          let ticket := s.cur.nextTicket 0
          let red : Bool := f.net && f.op != 5
          let k := s.myCtx.redK.toList.getD f.group 0
          let h : Haul := ⟨s.nextId, s.cur.id, s.cur.ctx, s.cur.loc, o.q.toNat, f, ticket, s.cur.depth,
            s.fmt.extractLsb' 0 2, s.cur.ctl.srkey, s.stoCtr, s.cur.ctl.mcstat, .held, 0, none, none, k, 0, none,
            s.cur.ctl.sv, [], false⟩
          let s1 := s.setCur fun t => t.draw 0
          let s2 := (s1.later 1 (outS o.d (BitVec.ofNat 64 ticket))).tookSto
            (if sto then (f.elems * f.rows + 127) / 128 else 0)
          let s3 := if red then s2.updCtx s.cur.ctx fun c => c.countRed f.group else s2
          .ok (({ s3 with hauls := s3.hauls ++ [h], nextId := s.nextId + 1 }.beginOp (.cmd (.hgo h.id)) [] false).lastGo State.hgoGo)

/-- A transfer granted back (18 R322): HELD clears, and every sending die has the permit again. -/
def State.grant (s : State) (ctx : Nat) (ch : Channel) (pong : Bool) : State :=
  s.updBuf ctx ch.n pong fun b => { b with held := false, permits := ch.sdies, seq := b.seq + 1 }

/-- The object of the events of a buffer's permit (19 R326). -/
def permitObj (ch : Nat) (pong : Bool) : Word := BitVec.ofNat 64 (2 * ch + pong.toNat)

/-- A transfer granted back at the end of the task that claimed it (18 R322), and the event recorded (19 R326). -/
def State.autoGrant (s : State) (task ctx : Nat) (ch : Channel) (pong : Bool) : State :=
  let b := ch.bufs[bufIx pong]
  let (s1, ev) := (s.grant ctx ch pong).etchLate task 0x0B 0 (permitObj ch.n pong) (b.xfer.setWidth 64) (.unit b.seq)
  (s1.pendDiverge task ev).promote

/-- A BLYGRANT of a task performed (10 R243, 18 R322): a release at package scope, behind every earlier access of its context,
in its turn (19 R333). A transfer that another task has granted meanwhile stays granted (log 15). -/
def State.grantGo (s : State) (t : Task) (op : Op) : State :=
  match op.kind with
  | .cmd (.grant n pong) =>
    match ((s.ctxOf t.ctx).bind fun c => c.channel n) with
    | none => s.finishOp t.id op
    | some ch =>
      let b := ch.bufs[bufIx pong]
      if t.unperformedBefore op.id || !s.myTurn t op.etch (.unit b.seq) then s
      else if !b.held then s.finishOp t.id op
      else
        let (s1, ev) := ((s.flushCtx t.loc t.ctx).grant t.ctx ch pong).etchDone t.id 0x0B 0 op.obj (b.xfer.setWidth 64)
          (.unit b.seq) op.etch
        ((s1.finishOp t.id op).pendDiverge t.id ev).promote
  | _ => s

/-- BLYGRANT (10 R243, 18 R322). -/
def execBlygrant (o : GrantOps) (s : State) : Res :=
  s.slot [.sync] fun s =>
    let k := BitVec.ofNat 64 (o.ch.toNat + 64 * o.buf.toNat)
    match s.myCtx.channel o.ch.toNat with
    | none => .error (.trap (.now cProt k))
    | some ch =>
      let b := ch.bufs[bufIx o.buf]
      if !b.held || s.cur.ops.any (fun x => x.kind == .cmd (.grant ch.n o.buf)) then .error (.trap (.now cProt k))
      else
        let obj := permitObj ch.n o.buf
        match s.etchReady 0x0B 0 obj (.unit b.seq) none (some (b.xfer.setWidth 64)) with
        | .error e => .error e
        | .ok _ => .ok ((((s.beginOp (.cmd (.grant ch.n o.buf)) [] false).reserveOp).withObj obj).lastGo State.grantGo)

/-- The status word of a channel (10 R243). -/
def Channel.status (c : Channel) : Word :=
  let all (b : BelayBuf) : Bool := b.permits &&& c.sdies == c.sdies
  BitVec.ofNat 64 ((all c.bufs[0]).toNat + 2 * (all c.bufs[1]).toNat + 4 * (c.bufs[0]).held.toNat +
    8 * (c.bufs[1]).held.toNat + 2 ^ 32 * c.xfers.toNat)

/-- BLYSTAT (10 R243); of a channel that the context does not own it raises PROT with the channel. -/
def execBlystat (o : ChOps) (s : State) : Res :=
  s.slot [.mark (.s o.d)] fun s =>
    match s.myCtx.channel o.ch.toNat with
    | none => .error (.trap (.now cProt (BitVec.ofNat 64 o.ch.toNat)))
    | some ch => .ok (s.beginOp .load [outS o.d ch.status] false)

/-! ### Steps of the engines -/

/-- The oldest pending command of a list. -/
def oldest (hs : List Haul) : Option Haul :=
  hs.foldl (fun b h => match b with
    | none => some h
    | some x => if h.order < x.order then some h else some x) none

/-- Whether a pending command may start: the event of the permit that it would consume finds room in its ring, and its turn
(18 R320, 19 R331, R333). -/
def State.mayStart (s : State) (h : Haul) : Bool :=
  match if Shadow.belay h.fields then (s.ctxOf h.ctx).bind fun c => c.channel (Shadow.channel h.fields) else none with
  | none => true
  | some ch =>
    let b := ch.bufs[bufIx (Shadow.pong h.fields)]
    !b.permits.getLsbD (dieOf h.loc) || s.permitTurn h b

/-- The pending commands of a cluster that may start. -/
def State.pendingOf (s : State) (slice : Nat) : List Haul :=
  s.hauls.filter fun h => h.st == .pending && sliceOf h.loc == slice && s.mayStart h

/-- The command that an idle engine of a cluster takes, or steals from the longest list of its die (04 R99). -/
def State.takeFor (s : State) (slice : Nat) : Option Haul :=
  match oldest (s.pendingOf slice) with
  | some h => some h
  | none =>
    let mates := (List.range 64).filter fun n => sliceDie n == sliceDie slice
    let best := mates.foldl (fun b n =>
      if (s.pendingOf b).length < (s.pendingOf n).length then n else b) (mates.headD slice)
    oldest (s.pendingOf best)

/-- The permit consumed when a belay command starts (18 R320), and the event recorded. -/
def State.takePermit (s : State) (h : Haul) : State :=
  let f : Shadow := h.fields
  let d := dieOf h.loc
  match ((s.ctxOf h.ctx).bind fun c => c.channel f.channel) with
  | none => s
  | some ch =>
    let b := ch.bufs[bufIx f.pong]
    let s1 := s.updBuf h.ctx f.channel f.pong fun b => { b with started := setDie b.started d (dieCount b.started d + 1) }
    if b.permits.getLsbD d then
      let s2 := s1.updBuf h.ctx f.channel f.pong fun b => { b with permits := b.permits &&& ~~~(dieBit d), seq := b.seq + 1 }
      let (s3, ev) := s2.etchLate h.task 0x0A 0 (permitObj ch.n f.pong) (ch.xfers.setWidth 64) (.unit b.seq)
      s3.pendDiverge h.task ev
    else s1

/-- The part of a range that comes through the fabric and has not come yet asked for. -/
def State.rangeAsk (s : State) (h : Haul) (fab : Bool) (va : Word) (n : Nat) : State :=
  match s.haulPieces h false fab va n with
  | .ok ps => ps.foldl (fun s p => match p.1 with
      | .fabric fa => if h.got.any fun g => g.1 == fa then s else s.haulRequest h fa p.2 none false
      | _ => s) s
  | .error _ => s

/-- The source rows of a command, and its residuals, asked for where they come through the fabric (04 R98, 05 R120). -/
def State.haulAsk (s : State) (h : Haul) : State :=
  let f : Shadow := h.fields
  let (_, ssz, _) := f.unit
  let s1 := (List.range f.rows).foldl (fun s r => s.rangeAsk h f.sfab (f.srcRow r) (f.units * ssz)) s
  if f.usesResid then s1.rangeAsk h false f[7] (4 * f.elems * f.rows) else s1

/-- Whether a request of a command is unanswered. -/
def State.haulWaits (s : State) (id : Nat) : Bool := s.fabric.out.any fun o => o.haul == some id

/-- Whether a command's first segment must wait for the lower-numbered dies of its transfer (18 R323). -/
def State.foldWaits (s : State) (h : Haul) : Bool :=
  let f : Shadow := h.fields
  f.belay && f.op == 2 &&
  (match ((s.ctxOf h.ctx).bind fun c => c.channel f.channel) with
   | some ch => ch.senders.any fun d => d < dieOf h.loc && dieCount (ch.bufs[bufIx f.pong]).done d < ch.cmds
   | none => false)

/-- A running command performed from where it stands: its segments, then its end; or its tile handed to the fabric. -/
def State.haulWork (s : State) (h : Haul) : State :=
  let f : Shadow := h.fields
  if f.net then
    match s.haulTile h (List.range f.rows) with
    | .error (i, e) => s.haulFails h i e
    | .ok (s1, rows, bad) =>
      match ((s.ctxOf h.ctx).bind fun c => c.box f.group) with
      | none => s1
      | some b => if f.op = 5 then s1.multicast h b rows bad else s1.redOwn h rows.flatten bad
  else
    match s.haulRun h ((s.haulSegs h).drop h.row) h.row with
    | .error (s1, i, e) => s1.haulFails ((s1.hauls.find? fun x => x.id == h.id).getD h) i e
    | .ok s1 =>
      let h1 := (s1.hauls.find? fun x => x.id == h.id).getD h
      if s1.haulWaits h.id then s1.updHaul h.id fun h => { h with st := .posted } else s1.endHaul h1 h1.fault

/-- Whether some access of a command from where it stands will meet a page that the supervisor must answer for. -/
def State.haulBlocked (s : State) (h : Haul) : Bool :=
  let f : Shadow := h.fields
  let (_, ssz, dsz) := f.unit
  let bad (r : Except HErr (List (Spot × Nat))) : Bool := match r with
    | .error (.page ..) => true
    | _ => false
  (List.range f.rows).any fun r =>
    bad (s.haulPieces h false f.sfab (f.srcRow r) (f.units * ssz)) ||
      (!f.net && bad (s.haulPieces h true f.dfab (s.haulBase h + f.dstRow r) (f.units * dsz)))

/-- A command goes on: what must come through the fabric is asked for, and where nothing is outstanding and it will meet a missing
page, it goes up to that page at once (20 R346). -/
def State.haulGo (s : State) (h : Haul) : State :=
  let s1 := s.haulAsk h
  if s.haulBlocked h && !s.foldWaits h && !s1.haulWaits h.id then s1.haulWork h else s1

/-- HAUL_START (04 R99): an idle engine of a cluster takes or steals a command; one that meets a missing page stops
there at once (20 R346). -/
def execHaulStart (slice : Nat) (s : State) : Res :=
  let busy := (s.hauls.filter fun h => h.eng == some slice).length
  if 64 ≤ slice ∨ 4 ≤ busy then .next s
  else
    match s.takeFor slice with
    | none => .next s
    | some h0 =>
      let s1 := s.updHaul h0.id fun h => { h with st := .running, eng := some slice }
      let h : Haul := { h0 with st := .running, eng := some slice }
      let s2 := if Shadow.belay h.fields then s1.takePermit h else s1
      .next (s2.haulGo h)

/-- HAUL_COMPLETE (04 R98): a running command performs its writes and completes; one whose stores the fabric has
acknowledged completes. -/
def execHaulComplete (id : Nat) (s : State) : Res :=
  match s.hauls.find? fun h => h.id == id with
  | none => .next s
  | some h =>
    let f : Shadow := h.fields
    match h.st with
    | .running =>
      if s.haulWaits id || s.foldWaits h then .next s
      else match h.fault with
        | some x => .next (s.endHaul h (some x))
        | none => .next (s.haulWork h)
    | .posted => .next (if s.haulWaits id then s else s.endHaul h h.fault)
    | .sent =>
      let inTree := f.op != 5 && !(((s.red h.ctx f.group h.k).map Reduction.closed).getD false)
      if f.belay || s.haulWaits id || f.op == 5 || inTree then .next s
      else .next (s.endHaul h h.fault)
    | _ => .next s

/-- BELAY_TRANSFER_HELD (18 R320): every sending die has completed its commands, so the buffer is held, XFERS rises
and the tickets of the transfer complete in one step. -/
def execBelayTransferHeld (ctx ch : Nat) (pong : Bool) (s : State) : Res :=
  match ((s.ctxOf ctx).bind fun c => c.channel ch) with
  | none => .next s
  | some c =>
    let b := c.bufs[bufIx pong]
    if b.held || !(c.senders.all fun d => dieCount b.done d == c.cmds) then .next s
    else
      let zero : Vector Nat 6 := Vector.replicate 6 0
      let s1 := s.updBuf ctx ch pong fun b =>
        { b with held := true, started := zero, done := zero, written := [], xfer := c.xfers + 1 }
      let s2 := s1.updCtx ctx fun c => { c with channels := c.channels.map fun x =>
        if x.n = ch then { x with xfers := x.xfers + 1 } else x }
      let mine := s.hauls.filter fun h =>
        h.ctx == ctx && h.belayDone && Shadow.channel h.fields == ch && Shadow.pong h.fields == pong
      .next (mine.foldl (fun s h =>
        ((s.dropHaul h.id).completeTicket h.task 0 h.ticket none none).updTask h.task fun t =>
          { t with ctl := { t.ctl with convx := t.ctl.convx || h.convx } }) s2).promote

/-- MULTICAST_COMPLETE (03 R70): every member has acknowledged or failed; `done` are the indices of the others that
performed the store. It comes after this module's own copy. -/
def execMulticastComplete (id : Nat) (done : List Nat) (s : State) : Res :=
  match s.hauls.find? fun h => h.id == id && h.st == .sent && Shadow.op h.fields == 5 with
  | none => .next s
  | some h =>
    let f : Shadow := h.fields
    match ((s.ctxOf h.ctx).bind fun c => c.box f.group) with
    | none => .next s
    | some b =>
      let own := (s.fabric.held.any fun x => x.many && x.o.haul == some id) || s.fabric.sent.any fun p => match p.2 with
        | .multicast m x _ => m == s.mid && x == id
        | _ => false
      .next (if own then s else s.multicastEnd h b done)

/-- A refused request counted where its status is ACCESS (03 R77). -/
def State.countRefusal (s : State) (src : Nat) (st : FabStatus) : State := if st = .access then s.countAccess src else s

/-- A multicast's store performed at this module, or refused (03 R70, R61): the machine and the status. -/
def State.multicastHere (s : State) (q : Request) : State × FabStatus :=
  let bs : List (Option Byte) := match q.kind with
    | .store bs => bs
    | _ => []
  match s.exported q.fctx q.off bs.length 3 .store with
  | some (c, ps) => ((s.writePieces (s.reqAgent c q) ps bs).poisonPieces c.id ps q.poison, .ok)
  | none => ((s.exportCharge q.fctx q.off bs.length 3 .store).countRefusal q.src (s.refusal q.fctx), s.refusal q.fctx)

/-- MULTICAST_DELIVER (03 R70, R61, 21 R354): a multicast's store arrives at this member. -/
def execMulticastDeliver (q : Request) (s : State) : Res :=
  if !s.fabricOn then .next (s.countDrop false)
  else if !s.envOk q.src q.inc q.expect then
    .next ((s.countDrop false).send (.stale q.src q.id q.inc s.incarnation))
  else
    let (s1, st) := s.multicastHere q
    .next (s1.send (.ack q.src q.id st 0))

/-- This module's own copy of a multicast comes to its window (03 R62, R70): it has failed where it is not performed. One that its
incarnations drop is answered by a STALE notice of this module to itself, which logs the incarnation (03 R66). -/
def State.multicastOwn (s : State) (q : Request) : State :=
  let (s1, st) := if s.fabricOn && s.envOk q.src q.inc q.expect then s.multicastHere q
    else if s.fabricOn && q.inc == s.incarnation then
      ((s.countDrop false).updFabric fun f => { f with log := f.log ++ [(s.mid, s.incarnation)] }, .stale)
    else (s.countDrop false, .stale)
  if st = .ok then s1
  else s1.updFabric fun f => { f with mc := f.mc.map fun e => if e.id = q.id then { e with failed := true } else e }

/-- REDUCTION_CONTRIBUTION (03 R71, 21 R355): a child's result arrives; one that comes after the wait is discarded. -/
def execReductionContribution (c : Contribution) (s : State) : Res :=
  if !s.fabricOn then .next (s.countDrop false)
  else if !s.envOk c.env.src c.env.inc c.env.expect then
    .next ((s.countDrop false).send (.stale c.env.src c.id c.env.inc s.incarnation))
  else
    match s.sharedCtx c.fctx with
    | none => .next ((s.countRefusal c.env.src (s.refusal c.fctx)).send (.ack c.env.src c.id (s.refusal c.fctx) 0))
    | some x =>
      match x.box c.group with
      | none => .next ((s.countAccess c.env.src).send (.ack c.env.src c.id .access 0))
      | some b =>
        if !(b.kids s.mid).contains c.env.src || (b.index s.mid).isNone then
          .next ((s.countAccess c.env.src).send (.ack c.env.src c.id .access 0))
        else if ((s.red x.id c.group c.k).map Reduction.closed).getD false then
          .next (s.send (.ack c.env.src c.id .unreachable 0))
        else
          let s1 := (s.updRed x.id c.group c.k fun r => { r with got := r.got ++ [c] }).send (.ack c.env.src c.id .ok 0)
          .next (s1.redStep x.id c.group c.k)

/-- REDUCTION_TIMEOUT (21 R355): FXTMO has passed since the first part reached this node. -/
def execReductionTimeout (ctx group k : Nat) (s : State) : Res :=
  match s.red ctx group k, ((s.ctxOf ctx).bind fun c => c.box group) with
  | some r, some b => .next (if r.closed then s else s.redClose r b)
  | _, _ => .next s

/-- The supervisor's answer in XFRESP of a die (20 R346): 1 retry, 2 fail with XLATE, 3 fail with PROT; an unknown
token or 0 has no effect. -/
def State.xfresp (s : State) (die : Nat) (v : Word) : State :=
  let tok := v.toNat % 2 ^ 32
  match s.hauls.find? fun h => h.st == .waiting tok && sliceDie h.engine == die with
  | none => s
  | some h =>
    let h1 : Haul := { h with st := .running, fault := none }
    let eval := (h.fault.map Fail.eval).getD 0
    match v.toNat / 2 ^ 32 % 4 with
    | 0 => s
    | 1 =>
      (s.updHaul h.id fun _ => h1).haulGo h1
    | 2 => s.endHaul h1 (some ⟨cXlate, 0, eval, none⟩)
    | _ => s.endHaul h1 (some ⟨cProt, 0, eval, none⟩)

/-- Tear-down of a context (04 R101, 20 R346): its pending and waiting commands are discarded and its running ones
stop. -/
def State.dropHaulsOf (s : State) (ctx : Nat) : State :=
  let mine := (s.hauls.filter fun h => h.ctx == ctx).map Haul.id
  { s with
    hauls := s.hauls.filter fun h => h.ctx != ctx
    fabric := { s.fabric with
      out := s.fabric.out.filter fun o => !mine.any fun id => o.haul == some id
      mc := s.fabric.mc.filter fun e => !mine.contains e.haul
      reds := s.fabric.reds.filter fun r => r.ctx != ctx } }

end Sys2Proof.Machine
end

