-- ==== Sys2Proof/Machine/Cairn.lean ====
section
/-! DEFINITION. The cairn store: the geometry of frames, their formats, frame descriptors and block tables, allocation
and freeing, moves, demotion, promotion and lending (02 R31 to R54, R381, 12 R272). -/

namespace Sys2Proof.Machine

/-! ### Geometry (R32 to R34) -/

/-- Tokens per frame, T. -/
def Space.tokens (p : Space) : Nat := 4 * 2 ^ p.tcode
/-- The head dimension, D. -/
def Space.dim (p : Space) : Nat := 32 * p.dblk
/-- The POLICY format, or NATFMT when POLICY is 0. -/
def Space.polFmt (p : Space) : Nat :=
  match p.policy with
  | 0 => p.nat
  | 1 => 2
  | 2 => 4
  | 3 => 5
  | _ => 6

/-- A number rounded up to a multiple of `k`. -/
def roundUp (k n : Nat) : Nat := (n + k - 1) / k * k

/-- P(f), the bytes of a page (02 R33). -/
def Space.page (p : Space) (f : Nat) : Nat :=
  let td := p.tokens * p.dim
  match f with
  | 0 | 1 => 2 * td
  | 2 | 3 => td + 32
  | 4 => roundUp 32 (td / 2 + td / 32)
  | 5 => roundUp 32 (34 * td / 32)
  | _ => roundUp 32 (18 * td / 32)

/-- FB(f), the bytes of a frame in a layer (02 R33). -/
def Space.frameBytes (p : Space) (f : Nat) : Nat := roundUp 256 (2 * p.heads * p.page f)

/-- SZ(t), the slot size of a tier (02 R34). -/
def Space.slotSize (p : Space) (tier : Nat) : Nat :=
  if tier = 0 then max (p.frameBytes p.nat) (p.frameBytes p.polFmt) else p.frameBytes p.polFmt

/-- Base and slot count of a tier's pool. -/
def Space.poolOf (p : Space) (tier : Nat) : Word × Nat := p.pool.toList.getD tier (0, 0)

/-- frame_base (02 R34). -/
def Space.frameBase (p : Space) (tier slot layer : Nat) : Word :=
  (p.poolOf tier).1 + BitVec.ofNat 64 ((layer * (p.poolOf tier).2 + slot) * p.slotSize tier)

/-- Where the bytes of token `tau` lie within a page: elements, and its scales where they lie apart (02 R33). -/
def Space.spans (p : Space) (f tau : Nat) : List (Nat × Nat) :=
  let d := p.dim
  match f with
  | 0 | 1 => [(2 * tau * d, 2 * d)]
  | 2 | 3 => [(tau * d, d)]
  | 4 => [(tau * d / 2, d / 2), (p.tokens * d / 2 + tau * d / 32, d / 32)]
  | 5 => [(34 * (tau * d / 32), 34 * d / 32)]
  | _ => [(18 * (tau * d / 32), 18 * d / 32)]

/-- Whether a format has one FP8 scale byte for each page. -/
def isFp8 (f : Nat) : Bool := f == 2 || f == 3

/-- The block format of a frame format that has blocks. -/
def frameBlock : Nat → BlockFmt
  | 4 => .mxfp4
  | 5 => .kd8
  | _ => .kd4

/-- The scalar format of a frame format that has none. -/
def frameFlt : Nat → Fmt
  | 0 => bf16
  | 1 => fp16
  | 2 => e4m3
  | _ => e5m2

/-- The values of one token's row, from its spans; `scale` is the page scale of an FP8 page (02 R33). -/
def rowValues (f scale : Nat) (spans : List (List Byte)) : List FVal :=
  let main := spans.headD []
  match f with
  | 0 | 1 => (chunks 2 main.length main).map fun b => (frameFlt f).decode (leNat b)
  | 2 | 3 => main.map fun b =>
      if scale = 0xFF then .nan else ((frameFlt f).decode b.toNat).scale ((scale : Int) - 127)
  | 4 =>
    let codes := unpackNibbles (main.map BitVec.toNat)
    codes.zipIdx.map fun c => BlockFmt.mxfp4.value (((spans.getD 1 []).getD (c.2 / 32) 0).toNat) 0 c.1
  | _ =>
    let b := frameBlock f
    (chunks b.bytes main.length main).flatMap fun k => b.unpack (k.map BitVec.toNat)

/-- The sign bits of one token's elements. -/
def rowSigns (f : Nat) (spans : List (List Byte)) : List Bool :=
  let main := spans.headD []
  match f with
  | 0 | 1 => (chunks 2 main.length main).map fun b => leNat b / 2 ^ 15 % 2 == 1
  | 2 | 3 => main.map fun b => b.getLsbD 7
  | 4 => (unpackNibbles (main.map BitVec.toNat)).map fun c => c / 8 == 1
  | 5 => (chunks 34 main.length main).flatMap fun k => (k.take 32).map fun b => b.getLsbD 7
  | _ => (chunks 18 main.length main).flatMap fun k => (unpackNibbles ((k.take 16).map BitVec.toNat)).map fun c => c / 8 == 1

/-- A block of a frame in MXFP4: one without a finite value other than 0 is all zero (02 R47). -/
def coldBlock (xs : List FVal) : Block :=
  let k := BlockFmt.mxfp4.encode (fun _ => .rne) .sat xs
  if (maxAbs xs).isZero then { k with elems := k.elems.map fun _ => 0 } else k

/-- A row of values encoded with RNE and saturation; an FP8 row under the page scale 1 (02 R42, R47). -/
def rowEncode (f : Nat) (xs : List FVal) : List (List Byte) :=
  match f with
  | 0 | 1 => [xs.flatMap fun x => natLe 2 ((frameFlt f).conv .rne .sat x).bits]
  | 2 | 3 => [xs.map fun x => BitVec.ofNat 8 ((frameFlt f).conv .rne .sat x).bits]
  | 4 =>
    let bs := (chunks 32 xs.length xs).map fun k => coldBlock k
    [bs.flatMap fun b => (packNibbles b.elems).map (BitVec.ofNat 8), bs.map fun b => BitVec.ofNat 8 b.x0]
  | _ =>
    let g := frameBlock f
    [(chunks 32 xs.length xs).flatMap fun k => (g.pack (g.encode (fun _ => .rne) .sat k)).map (BitVec.ofNat 8)]

/-- ceil(log2(x / 448)) of a finite x that is not 0, between −127 and 127 (02 R46). -/
def e4m3Exp (x : FVal) : Int :=
  let k := x.log2 - 8
  let top : FVal := .fin false 448 k
  clampInt (-127) 127 (if top.lt x.abs then k + 1 else k)

/-- A page of values converted to FP8-E4M3 with its own scale (02 R46): elements and scale byte. -/
def demoteFp8 (xs : List FVal) (signs : List Bool) : List Byte × Byte :=
  let amax := maxAbs xs
  let e : Int := if amax.isZero then 0 else e4m3Exp amax
  ((xs.zip signs).map fun p => BitVec.ofNat 8
      (if p.1.isNan then (if p.2 then 0xFF else 0x7F) else (e4m3.conv .rne .sat (p.1.scale (-e))).bits),
    BitVec.ofInt 8 (e + 127))

/-- The spans of a token in the bytes of a page. -/
def Space.cut (p : Space) (f tau : Nat) (page : List Byte) : List (List Byte) :=
  (p.spans f tau).map fun s => (page.drop s.1).take s.2

/-- The spans of a token in what stands for the bytes of a page. -/
def Space.cutBy {α : Type} (p : Space) (f tau : Nat) (page : List α) : List (List α) :=
  (p.spans f tau).map fun s => (page.drop s.1).take s.2

/-- A page with spans put into it. -/
def putSpans {α : Type} (page : List α) (spans : List ((Nat × Nat) × List α)) : List α :=
  spans.foldl (fun pg s => pg.take s.1.1 ++ s.2 ++ pg.drop (s.1.1 + s.1.2)) page

/-- A page converted to the policy format during a demotion (02 R46, R47). -/
def Space.demotePage (p : Space) (page : List Byte) : List Byte :=
  let f := p.nat
  let g := p.polFmt
  let td := p.tokens * p.dim
  let scale := (page.getD td 0).toNat
  let rows := (List.range p.tokens).map fun t => p.cut f t page
  if g = 2 then
    let (el, sc) := demoteFp8 (rows.flatMap (rowValues f scale)) (rows.flatMap (rowSigns f))
    el ++ [sc] ++ List.replicate 31 0
  else
    putSpans (List.replicate (p.page g) 0)
      (rows.zipIdx.flatMap fun r => (p.spans g r.2).zip (rowEncode g (rowValues f scale r.1)))

/-- The poison of a page so converted: that of each row, and of the whole page where it has one scale (02 R46, log 98). -/
def Space.demotePoison (p : Space) (bad : List Bool) : List Bool :=
  let g := p.polFmt
  if g = 2 ∨ isFp8 p.nat then List.replicate (p.page g) (bad.any fun b => b)
  else
    putSpans (List.replicate (p.page g) false) ((List.range p.tokens).flatMap fun t =>
      (p.spans g t).map fun s => (s, List.replicate s.2 ((p.cutBy p.nat t bad).any fun c => c.any fun b => b)))

/-! ### Access to context memory by a controller (R37) -/

/-- Where a controller's access to a virtual address leads; permissions are not asked for (02 R37). A controller walks; a traverse
unit translates through the TLB of its cluster (20 R344). -/
def State.kvPlace (s : State) (ctx : Nat) (va : Word) (via : Via := .walker) : Option Nat :=
  match s.ctxOf ctx with
  | none => none
  | some c =>
    if va.extractLsb' 48 16 ≠ 0#16 ∨ va.toNat < 0x400000 then none
    else
      match s.leafOf via c va.toNat with
      | .fail .. | .hole .. => none
      | .leaf e block =>
        match leafTarget e block va.toNat with
        | .phys pa => if (s.place pa).isNode then some pa else none
        | .fabric .. => none

/-- Bytes with the poison of each. -/
abbrev Pb := List (Byte × Bool)

/-- The bytes alone. -/
def Pb.bytes (x : Pb) : List Byte := x.map Prod.fst

/-- Whether any is poisoned. -/
def Pb.bad (x : Pb) : Bool := x.any Prod.snd

/-- Bytes without poison. -/
def Pb.good (bs : List Byte) : Pb := bs.map fun b => (b, false)

/-- The numbers of the 32-byte granules of some bytes that are poisoned. -/
def Pb.granules (x : Pb) : List Nat := (List.range ((x.length + 31) / 32)).filter fun i => ((x.drop (32 * i)).take 32).any Prod.snd

/-- Bytes with the poison of the granules that a list names. -/
def Pb.ofGranules (bs : List Byte) (bad : List Nat) : Pb := bs.zipIdx.map fun b => (b.1, bad.contains (b.2 / 32))

/-- A range cut at 32-byte boundaries. -/
def granules : Nat → Nat → Nat → List (Nat × Nat)
  | 0, _, _ => []
  | fuel + 1, a, n =>
    if n = 0 then []
    else
      let m := min n (32 - a % 32)
      (a, m) :: granules fuel (a + m) (n - m)

/-- `n` bytes at a physical address, each with its poison. -/
def State.pbytes (s : State) (pa n : Nat) : Pb :=
  (granules (n / 32 + 2) pa n).flatMap fun g =>
    let bad := s.poisoned g.1
    (s.bytes g.1 g.2).map fun b => (b, bad)

/-- The agent that a controller is when it acts for a task, 0 for none (14 R275, 16 R310). -/
def State.kvAgent (s : State) (ctx who : Nat) : Agent :=
  match s.task who with
  | some t => ⟨ctx, t.depth, who, t.loc⟩
  | none => ⟨ctx, 0, 0, 0⟩

/-- A physical range that a controller may access: not one with a sector of another protected context (23 R363). -/
def State.kvOpens (s : State) (ctx : Nat) (p : Option Nat) (n : Nat) : Option Nat := p.bind fun pa =>
  if s.anyRefused ctx pa n then none else some pa

/-- The charge of a poisoned table entry that a controller's walk meets (20 R343). -/
def State.kvMiss (s : State) (ctx : Nat) (va : Word) : State :=
  match (s.ctxOf ctx).map fun c => s.leafOf .walker c va.toNat with
  | some (.fail _ _ (some pa)) => s.walkLost ctx pa
  | _ => s

/-- Bytes as a controller reads them at their homes; where nothing is mapped, or the memory is another protected context's, it reads
poisoned zeros (log 45). -/
def State.kvRead (s : State) (ctx : Nat) (va : Word) (n : Nat) (via : Via := .walker) : State × Pb :=
  (cuts (n / 256 + 2) va n).foldl (fun acc p =>
    match acc.1.kvOpens ctx (acc.1.kvPlace ctx p.1 via) p.2 with
    | some pa =>
      let s1 := acc.1.touch ctx pa p.2
      (s1, acc.2 ++ s1.pbytes pa p.2)
    | none => (acc.1.kvMiss ctx p.1, acc.2 ++ List.replicate p.2 (0, true))) (s, [])

/-- Bytes written by a controller for a task, and whether every one was. -/
def State.kvPut (s : State) (ctx who : Nat) (va : Word) (bs : List Byte) : State × Bool :=
  ((cuts (bs.length / 256 + 2) va bs.length).foldl (fun (acc : (State × Bool) × List Byte) p =>
    match acc.1.1.kvOpens ctx (acc.1.1.kvPlace ctx p.1) p.2 with
    | some pa => ((acc.1.1.engineWrite (s.kvAgent ctx who) pa ((acc.2.take p.2).map some), acc.1.2), acc.2.drop p.2)
    | none => ((acc.1.1.kvMiss ctx p.1, false), acc.2.drop p.2)) ((s, true), bs)).1

/-- A write whose bytes may be poisoned: each poisoned granule of it is poisoned. -/
def State.kvWrite (s : State) (ctx who : Nat) (va : Word) (x : Pb) : State :=
  let s1 := (s.kvPut ctx who va x.bytes).1
  if !x.bad then s1
  else
    (granules (x.length / 32 + 2) va.toNat x.length).foldl (fun s g =>
      if ((x.drop (g.1 - va.toNat)).take g.2).any Prod.snd then
        match s.kvOpens ctx (s.kvPlace ctx (BitVec.ofNat 64 g.1)) g.2 with
        | some pa => s.setPoison ctx pa
        | none => s
      else s) s1

/-- The first address of a range that does not map to a memory node, if there is one (02 R37). -/
def State.kvHole (s : State) (ctx : Nat) (va : Word) (n : Nat) (via : Via := .walker) : Option Word :=
  ((List.range ((va.toNat % 0x10000 + n + 0xFFFF) / 0x10000)).map fun i =>
    if i = 0 then va else BitVec.ofNat 64 (va.toNat / 0x10000 * 0x10000 + i * 0x10000)).find? fun a => (s.kvPlace ctx a via).isNone

/-- The first address of a range at which an access is not performed, since memory of another protected context is mapped there
(23 R363). -/
def State.kvBarred (s : State) (ctx : Nat) (va : Word) (n : Nat) (via : Via := .walker) : Option Word :=
  (cuts (n / 256 + 2) va n).findSome? fun p => (s.kvPlace ctx p.1 via).bind fun pa =>
    (s.firstRefused ctx pa p.2).map fun q => p.1 + BitVec.ofNat 64 (q - pa)

/-- Why a controller or a traverse unit cannot access a range, with the first such address: a page that is not mapped, for which
it waits (20 R346), or memory of another protected context, for which it fails (23 R363). -/
def State.kvStop (s : State) (ctx : Nat) (va : Word) (n : Nat) (via : Via := .walker) : Option (Bool × Word) :=
  ((s.kvHole ctx va n via).map fun a => (false, a)).or ((s.kvBarred ctx va n via).map fun a => (true, a))

/-- Whether every page of a range maps to a memory node (02 R37). -/
def State.kvMapped (s : State) (ctx : Nat) (va : Word) (n : Nat) : Bool :=
  va.toNat + n ≤ 2 ^ 48 && (n == 0 || (s.kvHole ctx va n).isNone)

/-- An engine's command that meets a page without a mapping posts an ENGINE_FAULT record and waits for the supervisor's answer
under a token (20 R346): the machine and the token. -/
def State.askSupervisor (s : State) (ctx die task : Nat) (va : Word) : State × Nat :=
  let tok := s.nextToken
  let who := ((s.task task).map fun t => t.ctl.taskid.toNat % 2 ^ 32).getD 0
  ({ (s.kvMiss ctx va).record ctx die 2 cXlate who va (BitVec.ofNat 64 tok) with nextToken := tok % (2 ^ 32 - 1) + 1 }, tok)

/-! ### Spaces and frames -/

/-- The space of a number. -/
def State.space (s : State) (id : Nat) : Option Space := s.spaces.find? fun p => p.id == id

/-- A space changed. -/
def State.updSpace (s : State) (id : Nat) (f : Space → Space) : State :=
  { s with spaces := s.spaces.map fun p => if p.id = id then f p else p }

/-- The frame of an identity. -/
def Space.frame (p : Space) (id : Nat) : Option Frame := (p.frames.find? fun e => e.1 == id).map Prod.snd

/-- A frame changed. -/
def Space.updFrame (p : Space) (id : Nat) (f : Frame → Frame) : Space :=
  { p with frames := p.frames.map fun e => if e.1 = id then (e.1, f e.2) else e }

/-- A sequence. -/
def Space.seqOf (p : Space) (i : Nat) : Seqn := Tbl.get Seqn.init p.seqs i

/-- A sequence changed. -/
def Space.updSeq (p : Space) (i : Nat) (f : Seqn → Seqn) : Space :=
  { p with seqs := Tbl.put Seqn.init p.seqs i (f (p.seqOf i)) }

/-- Identities reserved by a sequence, with their slots. -/
def Space.reserved (p : Space) : List (Nat × Nat) := p.seqs.flatMap fun e => e.2.rsv

/-- Identities in use or reserved. -/
def Space.usedIds (p : Space) : List Nat := p.frames.map Prod.fst ++ p.reserved.map Prod.fst

/-- Slots of a tier in use, reserved, or taken as the target of a move. -/
def Space.usedSlots (p : Space) (tier : Nat) : List Nat :=
  ((p.frames.filter fun e => e.2.tier == tier).map fun e => e.2.slot) ++
    (if tier = 0 then p.reserved.map Prod.snd else []) ++
    ((p.moves.filter fun m => m.tier == tier).map fun m => m.slot)

/-- The lowest number that a list does not hold. -/
def lowestFree (used : List Nat) : Nat → Nat → Nat
  | 0, k => k
  | fuel + 1, k => if used.contains k then lowestFree used fuel (k + 1) else k

/-- The lowest free number below a bound, if there is one (12 R272). -/
def freeBelow (used : List Nat) (n : Nat) : Option Nat :=
  let k := lowestFree used (used.length + 1) 0
  if k < n then some k else none

/-- A free identity. -/
def Space.freeId (p : Space) : Option Nat := freeBelow p.usedIds p.nf

/-- A free slot of a tier. -/
def Space.freeSlot (p : Space) (tier : Nat) : Option Nat := freeBelow (p.usedSlots tier) (p.poolOf tier).2

/-- How many slots of a tier are free. -/
def Space.freeCount (p : Space) (tier : Nat) : Nat := (p.poolOf tier).2 - (p.usedSlots tier).length

/-- Credits taken: frames that the lender holds, and those it has accepted (02 R52). -/
def Space.creditUsed (p : Space) : Nat :=
  (p.frames.filter fun e => e.2.lentIn && !e.2.lost).length +
    (p.moves.filter fun m => m.tier == 3 && m.put).length

/-- Whether a move out of tier T0 is in progress. -/
def Space.movingOut (p : Space) : Bool :=
  p.moves.any fun m => ((p.frame m.ident).map fun f => f.tier == 0).getD false

/-- NB, the blocks of a sequence. -/
def Seqn.nb (q : Seqn) : Nat := q.blocks.length

/-! ### Mirrors in context memory (R36 to R39) -/

/-- The frame descriptor entry (02 R38); a draining frame keeps every field but its count. -/
def Frame.desc (f : Frame) : Word :=
  BitVec.ofNat 64 (f.refcnt * 2 ^ 48 + f.cls * 2 ^ 46 + f.pin.toNat * 2 ^ 45 + f.tier * 2 ^ 43 + f.fmt * 2 ^ 40 +
    f.lentIn.toNat * 2 ^ 39 + f.lentOut.toNat * 2 ^ 38 + f.peer * 2 ^ 26 + f.use)

/-- The frame placement entry (02 R39). -/
def Frame.placement (f : Frame) : Word :=
  BitVec.ofNat 64 (f.slot + f.written * 2 ^ 32 + f.lost.toNat * 2 ^ 39 + min f.readers 4095 * 2 ^ 40 + f.hold.toNat * 2 ^ 52)

/-- No mirrors: those of an absent entry. -/
def Mirror.none : Mirror := ⟨0, 0, false, 0⟩

/-- The mirrors of a frame as it stands (02 R36). -/
def Space.mirror (p : Space) (id : Nat) : Mirror :=
  match p.frame id with
  | some f => ⟨f.tier, f.fmt, f.mig, if f.tier = 3 then f.peer else 0⟩
  | none => Mirror.none

/-- An entry that names a frame, with its mirrors as they stand. -/
def Space.mkEnt (p : Space) (id fill : Nat) : BlockEnt := ⟨true, id, fill, p.mirror id⟩

/-- An entry read: where it disagrees with the descriptor its mirrors are rewritten (02 R36). -/
def Space.reread (p : Space) (e : BlockEnt) : BlockEnt := if e.v then { e with mir := p.mirror e.frame } else e

/-- The entries of a sequence from one block to another read. -/
def Space.readEntries (p : Space) (i first stop : Nat) : Space :=
  p.updSeq i fun q => { q with blocks := q.blocks.zipIdx.map fun e => if first ≤ e.2 ∧ e.2 < stop then p.reread e.1 else e.1 }

/-- A block table entry as the controller last wrote it (02 R36). -/
def BlockEnt.word (e : BlockEnt) : Word :=
  if !e.v then BitVec.ofNat 64 (e.fill * 2 ^ 51)
  else BitVec.ofNat 64 (2 ^ 63 + e.mir.tier * 2 ^ 61 + e.mir.fmt * 2 ^ 58 + e.fill * 2 ^ 51 + e.mir.mig.toNat * 2 ^ 50 +
    e.mir.peer * 2 ^ 36 + e.frame)

/-- The sequence table entry (02 R35). -/
def Seqn.entry (q : Seqn) : List Byte :=
  natLe 8 q.btbase.toNat ++ natLe 4 q.len ++ natLe 4 q.cap ++ natLe 1 q.st ++ natLe 1 q.dclass ++ natLe 2 0 ++
    natLe 4 q.ops ++ natLe 8 0

/-- What a space holds for an identity, in both of its tables; zero for a free one (02 R38, log 98). -/
def Space.words (p : Space) (id : Nat) : Word × Word :=
  match p.frame id with
  | some f => (f.desc, f.placement)
  | none => (0, 0)

/-- Where a line of a controller's structures lies, and its bytes (02 R35 to R39): none beyond the end of the table. -/
def Space.lineAt (p : Space) : KvLine → Word × List Byte
  | .fd k => (p.fdtbase + BitVec.ofNat 64 (64 * k),
      (List.range (min 8 (p.nf - 8 * k))).flatMap fun j => natLe 8 (p.words (8 * k + j)).1.toNat)
  | .fp k => (p.fpebase + BitVec.ofNat 64 (64 * k),
      (List.range (min 8 (p.nf - 8 * k))).flatMap fun j => natLe 8 (p.words (8 * k + j)).2.toNat)
  | .st k => (p.stbase + BitVec.ofNat 64 (64 * k), (List.range (min 2 (p.ns - 2 * k))).flatMap fun j => (p.seqOf (2 * k + j)).entry)
  | .bt i k => ((p.seqOf i).btbase + BitVec.ofNat 64 (64 * k),
      (List.range 8).flatMap fun j => natLe 8 (((p.seqOf i).blocks[8 * k + j]?).map BlockEnt.word |>.getD 0).toNat)

/-- A line written back for a task; a failure makes a KV_WRITEBACK record, and the line is written again when it next changes
(02 R37). -/
def State.kvBack (s : State) (p : Space) (who : Nat) (l : KvLine) : State :=
  let (va, bs) := p.lineAt l
  let (s1, ok) := s.kvPut p.ctx who va bs
  if ok then s1 else s.record p.ctx p.home 9 0 0 va (BitVec.ofNat 64 p.id)

/-- The lines in which a space differs from what it was, and those written though nothing changed; the block table of a sequence
that has just been opened is zeroed whole (11 R265). -/
def Space.changed (old new : Space) : List KvLine :=
  let ids := ((old.frames ++ new.frames).map Prod.fst).eraseDups.filter fun i => old.words i != new.words i
  let qs := ((old.seqs ++ new.seqs).map Prod.fst).eraseDups.filter fun i => old.seqOf i != new.seqOf i
  (ids.flatMap fun i =>
    (if (old.words i).1 = (new.words i).1 then [] else [KvLine.fd (i / 8)]) ++
      (if (old.words i).2 = (new.words i).2 then [] else [KvLine.fp (i / 8)])) ++
  (qs.flatMap fun i =>
    let o := old.seqOf i
    let q := new.seqOf i
    let opened := o.st = 0 ∧ q.st = 1
    (if o.entry = q.entry then [] else [KvLine.st (i / 2)]) ++
      ((List.range (if opened then q.cap else max o.blocks.length q.blocks.length)).filter fun b =>
        opened || o.blocks[b]? != q.blocks[b]?).map fun b => KvLine.bt i (b / 8)) ++ new.dirty

/-- A space written back to the context's memory as far as a step changed it (02 R37). -/
def State.syncSpace (s : State) (who : Nat) (old new : Space) : State :=
  (((old.changed new).eraseDups).foldl (fun s l => s.kvBack new who l) s).updSpace new.id fun p => { p with dirty := [] }

/-! ### Lending messages (R52) -/

/-- A control-class message, sent only while the fabric is on and something leads to its target (03 R60). -/
def State.control (s : State) (target : Nat) (p : Packet) : State := if s.reachable target then s.send p else s

/-- LEND_FREE of a lender identity. -/
def State.lendFree (s : State) (p : Space) (peer ident : Nat) : State := s.control peer (.lendFree peer p.peersp ident)

/-! ### Freeing (R50) -/

/-- A move forgotten. -/
def Space.dropMove (p : Space) (id : Nat) : Space :=
  let q : Space := { p with moves := p.moves.filter fun m => m.ident != id }
  q.updFrame id fun f => { f with mig := false, hold := false }

/-- A KV command with one changed. -/
def State.updKv (s : State) (n : Nat) (f : KvCmd → KvCmd) : State :=
  { s with kvcmds := s.kvcmds.map fun c => if c.n = n then f c else c }

/-- The first status that is not 0 stays (11 R268). -/
def KvCmd.note (c : KvCmd) (st : Nat) : KvCmd := { c with status := if c.status = 0 then st else c.status }

/-- A move of a frame abandoned (02 R49): its target slot is released, a frame that the lender has accepted is given
back; `st` is the status that a KV instruction which caused the move reports for the frame. -/
def State.abandon (s : State) (sid id st : Nat) : State :=
  match s.space sid with
  | none => s
  | some p =>
    match p.moves.find? fun m => m.ident == id with
    | none => s
    | some m =>
      let s1 := s.updSpace sid fun p => p.dropMove id
      let s2 := match m.tier, m.lenderIdent with
        | 3, some l => s1.lendFree p p.peer l
        | _, _ => s1
      match m.why with
      | .kv n => s2.updKv n fun c => c.note st
      | _ => s2

/-- A frame given back: its slot and identity are free, a borrowed one is given back to its lender (02 R50, R53). -/
def State.freeFrame (s : State) (sid id : Nat) : State :=
  match s.space sid with
  | none => s
  | some p =>
    match p.frame id with
    | none => s
    | some f =>
      let s1 := if f.lentIn && !f.lost then s.lendFree p f.peer f.slot else s
      s1.updSpace sid fun p => { p with frames := p.frames.filter fun e => e.1 != id }

/-- A reference dropped (02 R50). -/
def State.dropRef (s : State) (sid id : Nat) : State :=
  let s1 := s.updSpace sid fun p => p.updFrame id fun f => { f with refcnt := f.refcnt - 1 }
  match (s1.space sid).bind fun p => p.frame id with
  | some f =>
    if f.refcnt ≠ 0 then s1
    else
      let s2 := s1.abandon sid id 0
      if f.readers = 0 then s2.freeFrame sid id else s2
  | none => s1

/-! ### Moves (R44 to R49) -/

/-- The target of a demotion out of tier T0 (02 R45). -/
def Space.demoteTo (p : Space) : Option Nat :=
  if (p.freeSlot 1).isSome then some 1
  else if (p.freeSlot 2).isSome then some 2
  else if p.lend && p.creditUsed < p.credit then some 3
  else none

/-- A move started (02 R49): MIG is set and the target slot taken; `etch` is the slot of its record. -/
def Space.startMove (p : Space) (id tier : Nat) (why : MoveWhy) (etch : Option Nat) : Space :=
  let m : Move := ⟨id, tier, (p.freeSlot tier).getD 0, why, false, false, none, [], false, none, etch⟩
  let q : Space := { p with moves := p.moves ++ [m], recalls := eraseNat id p.recalls }
  q.updFrame id fun f => { f with mig := true }

/-- Whether a frame is eligible for automatic demotion, but for the preference among classes (02 R44). -/
def Frame.eligible (f : Frame) (t : Nat) : Bool :=
  2 ≤ f.cls && !f.pin && f.tier == 0 && f.written == t && f.readers == 0 && !f.mig && !f.lentOut && !f.lost && f.refcnt != 0

/-- The frame that automatic demotion takes next: class 3 first, then the largest age, then the lower identity
(02 R43, R44). -/
def Space.victim (p : Space) : Option Nat :=
  let el := p.frames.filter fun e => e.2.eligible p.tokens
  let c3 := el.filter fun e => e.2.cls == 3
  let age (f : Frame) : Nat := (p.stamp.toNat + 2 ^ 32 - f.use) % 2 ^ 26
  ((if c3.isEmpty then el else c3).foldl (fun (b : Option (Nat × Frame)) e => match b with
    | none => some e
    | some x => if age x.2 < age e.2 ∨ (age x.2 = age e.2 ∧ e.1 < x.1) then some e else some x) none).map Prod.fst

/-- The move that a proof run's image names next for a space (19 R334): frame and tier. -/
def State.recordedMove (s : State) (p : Space) : Option (Nat × Nat) :=
  match (s.ctxOf p.ctx).bind fun c => s.etchCb c with
  | none => none
  | some cb =>
    (List.range cb.psysn).findSome? fun i =>
      match s.ctxRead p.ctx (cb.psys + BitVec.ofNat 64 (32 * i)) 32 with
      | some (r, _) =>
        if field r 0 2 = 0x17 ∧ field r 8 8 / 2 ^ 32 = p.id ∧ field r 24 4 = (p.seq.toNat + 1) % 2 ^ 32 then
          some (field r 8 4, field r 16 8 % 4)
        else none
      | none => none

/-- A move of the controller's own started: the slot of its record is reserved as the controller accepts it (19 R331). -/
def State.ownMove (s : State) (sid id tier : Nat) (why : MoveWhy) : State :=
  match s.space sid with
  | none => s
  | some p =>
    let (s1, k) := s.etchReserve p.ctx p.home
    s1.updSpace sid fun p => p.startMove id tier why k

/-- Automatic demotion carried on (02 R44, R45) while the ring has room (19 R331): one move at a time, until the goal is reached, no frame is eligible,
or no target is left, which sets DEMOTE_BLOCKED. In proof mode only a recorded move starts (19 R334). -/
def State.autoStep (s : State) (sid : Nat) : State :=
  match s.space sid with
  | none => s
  | some p =>
    if (p.moves.any fun m => m.why == .auto) || s.ringFull p.ctx then s
    else if ((s.ctxOf p.ctx).map Ctx.etch) = some 2 then
      match s.recordedMove p with
      | some (id, tier) =>
        if ((p.frame id).map fun f => f.tier == 0 && !f.mig).getD false && (tier == 3 || (p.freeSlot tier).isSome) then
          s.ownMove sid id tier .auto
        else s
      | none => s
    else
      match p.goal with
      | none => s
      | some g =>
        if g ≤ p.freeCount 0 then s.updSpace sid fun p => { p with goal := none }
        else
          match p.victim with
          | none => s.updSpace sid fun p => { p with goal := none }
          | some id =>
            match p.demoteTo with
            | none => s.updSpace sid fun p => { p with goal := none, demoteBlocked := true }
            | some tier => s.ownMove sid id tier .auto

/-- The check after an allocation from tier T0 (02 R44). -/
def State.checkMarks (s : State) (sid : Nat) : State :=
  match s.space sid with
  | none => s
  | some p =>
    if p.freeCount 0 < p.wmlow then
      (s.updSpace sid fun p => { p with goal := some (max p.wmhigh (p.goal.getD 0)) }).autoStep sid
    else s.autoStep sid

/-- Demotion forced by a promotion that finds no free slot (02 R48). -/
def State.forceDemotion (s : State) (sid : Nat) : State :=
  (s.updSpace sid fun p => { p with goal := some (max (max p.wmhigh 1) (p.goal.getD 0)) }).autoStep sid

/-- A move started; one into tier T0 allocates its slot there (02 R44, R49). -/
def State.beginMove (s : State) (sid id tier : Nat) (why : MoveWhy) : State :=
  let s1 := match why with
    | .kv _ => s.updSpace sid fun p => p.startMove id tier why none
    | _ => s.ownMove sid id tier why
  if tier = 0 then s1.checkMarks sid else s1

/-- The tier a recalled frame goes to (02 R53). -/
def Space.homeTier (p : Space) : Option Nat := [0, 1, 2].find? fun t => (p.freeSlot t).isSome

/-- Recalls that wait, started where there is room (02 R53): a pinned frame does not move (02 R44). In proof mode only a recorded
one starts (19 R334). -/
def State.recallStep (s : State) (sid : Nat) : State :=
  match s.space sid with
  | none => s
  | some p =>
    p.recalls.foldl (fun s id =>
      match (s.space sid).bind fun p => (p.frame id).map fun f => (p, f) with
      | none => s.updSpace sid fun p => { p with recalls := eraseNat id p.recalls }
      | some (p, f) =>
        if !f.lentIn || f.lost then s.updSpace sid fun p => { p with recalls := eraseNat id p.recalls }
        else if f.mig || f.pin || s.ringFull p.ctx then s
        else if ((s.ctxOf p.ctx).map Ctx.etch) = some 2 then
          match s.recordedMove p with
          | some (k, tier) => if k = id ∧ (p.freeSlot tier).isSome then s.beginMove sid id tier .recall else s
          | none => s
        else match p.homeTier with
          | some t => s.beginMove sid id t .recall
          | none => s) s

/-- What the controllers go on with at the end of a step that a task, 0 for none, has caused: waiting recalls, automatic
demotion, and every line of their structures that changed written back (02 R37, R44, R53). -/
def State.kvSyncBy (s : State) (who : Nat) (old : State) : State :=
  s.spaces.foldl (fun s p =>
    let s1 := (s.recallStep p.id).autoStep p.id
    match old.space p.id, s1.space p.id with
    | some o, some n => if o = n then s1 else s1.syncSpace who o n
    | _, _ => s1) s

/-- The same where no task is the cause. -/
def State.kvSync (s old : State) : State := s.kvSyncBy 0 old

/-- The bytes of a frame in all layers, each with its poison (02 R33, R34); of a LOST one, poisoned zeros
(02 R54). -/
def State.frameData (s : State) (p : Space) (f : Frame) : State × Pb :=
  let n := 2 * p.heads * p.page f.fmt
  if f.lost then (s, List.replicate (n * p.layers) (0, true))
  else
    (List.range p.layers).foldl (fun acc l =>
      let r := acc.1.kvRead p.ctx (p.frameBase f.tier f.slot l) n
      (r.1, acc.2 ++ r.2)) (s, [])

/-- Bytes of all layers, `n` to a layer, put into a slot. -/
def State.putFrame (s : State) (p : Space) (who tier slot n : Nat) (x : Pb) : State :=
  (List.range p.layers).foldl (fun s l =>
    s.kvWrite p.ctx who (p.frameBase tier slot l) ((x.drop (l * n)).take n)) s

/-- Why a slot of a tier, of `n` bytes to a layer, cannot be accessed, and the first such address. -/
def State.slotStop (s : State) (p : Space) (tier slot n : Nat) : Option (Bool × Word) :=
  (List.range p.layers).findSome? fun l => s.kvStop p.ctx (p.frameBase tier slot l) n

/-- How many bytes a frame of a format takes in all layers. -/
def Space.allBytes (p : Space) (fmt : Nat) : Nat := 2 * p.heads * p.page fmt * p.layers

/-- The format that a frame has after a move (02 R46). -/
def Space.fmtAfter (p : Space) (f : Frame) (tier : Nat) : Nat :=
  if f.fmt = p.nat ∧ f.tier < tier ∧ p.policy ≠ 0 then p.polFmt else f.fmt

/-- The bytes of a frame after a move (02 R46). -/
def Space.dataAfter (p : Space) (f : Frame) (tier : Nat) (x : Pb) : Pb :=
  if f.fmt = p.nat ∧ f.tier < tier ∧ p.policy ≠ 0 then
    (chunks (p.page f.fmt) x.length x).flatMap fun pg => (p.demotePage (Pb.bytes pg)).zip (p.demotePoison (pg.map Prod.snd))
  else x

/-! ### Loss of a lender or a borrower (R53, R381) -/

/-- A borrowed frame becomes LOST, and a move of it is abandoned (02 R48, R381). -/
def State.loseFrame (s : State) (sid id : Nat) : State :=
  (s.abandon sid id 4).updSpace sid fun p => p.updFrame id fun f => { f with lost := true }

/-- A lender is lost (02 R53, 03 R73): every frame borrowed from it is LOST, and moves to it are abandoned. A space
number limits this to one receiving space. -/
def State.lenderLost (s : State) (peer : Nat) (rsp : Option Nat) : State :=
  s.spaces.foldl (fun s p =>
    if p.peer = peer ∧ (rsp.isNone ∨ rsp = some p.peersp) then
      let s1 := (p.frames.filter fun e => e.2.lentIn && !e.2.lost && e.2.peer == peer).foldl (fun s e => s.loseFrame p.id e.1) s
      let gone := p.moves.filter fun m => m.tier == 3
      gone.foldl (fun s m => (s.updSpace p.id fun p => { p with moves := p.moves.map fun x =>
        if x.ident = m.ident then { x with lenderIdent := none } else x }).abandon p.id m.ident 3) s1
    else s) s

/-- A borrower is lost (02 R53): every frame lent to it is freed, or drains. -/
def State.borrowerLost (s : State) (peer : Nat) : State :=
  s.spaces.foldl (fun s p =>
    (p.frames.filter fun e => e.2.lentOut && e.2.peer == peer).foldl (fun s e =>
      if e.2.readers = 0 then s.freeFrame p.id e.1
      else s.updSpace p.id fun p => p.updFrame e.1 fun f => { f with refcnt := 0 }) s) s

/-- A stream changed. -/
def State.updStream (s : State) (id : Nat) (f : Stream → Stream) : State :=
  { s with streams := s.streams.map fun x => if x.id = id then f x else x }

/-- A stream stopped at the block it has reached (11 R260): pages of that block that have landed are not folded, and rows
return to the state before it (02 R381). -/
def State.stopStream (s : State) (id status : Nat) : State :=
  s.updStream id fun x => { x with
    stop := status, stopBlock := x.block
    landed := x.landed.filter fun l => l.block != x.block
    rows := if x.folding = some x.block then x.saved else x.rows
    folding := none, got := [], asked := false }

/-- A move changed. -/
def State.updMove (s : State) (sid id : Nat) (f : Move → Move) : State :=
  s.updSpace sid fun p => { p with moves := p.moves.map fun m => if m.ident = id then f m else m }

/-- Whether what asked for a lending read still waits for that one: it has asked for no other since. -/
def State.lendWanted (s : State) (l : LendReq) : Bool :=
  !(s.fabric.lends.any fun x => x.by_ == l.by_ && l.id < x.id) && (match l.by_ with
    | .stream k => (s.streams.find? fun x => x.id == k).any Stream.asked
    | .move sid id => ((s.space sid).bind fun p => p.moves.find? fun m => m.ident == id).any Move.asked
    | .split n => (s.kvcmds.find? fun c => c.n == n).any KvCmd.asked)

/-- Whether a lending read's frame is still the one that its lender holds for this module (03 R381). -/
def State.lendHolds (s : State) (l : LendReq) : Bool :=
  ((s.space l.space).bind fun p => p.frame l.ident).any fun f => f.lentIn && !f.lost && f.peer == l.target && f.slot == l.rident

/-- A failed lending read of a lender (02 R381): ACCESS loses the one frame, if it is borrowed still, any other status the lender;
then the ATTN that asked stops at the block with status 2 (LOST), and a move or a split goes on with what the frame has become. -/
def State.lendFailed (s : State) (l : LendReq) (st : FabStatus) : State :=
  let s1 := s.updFabric fun f => { f with lends := f.lends.filter fun x => x.id != l.id }
  let s2 := if !s.lendWanted l then s1 else match l.by_ with
    | .stream x => s1.stopStream x 2
    | .move sid id => s1.updMove sid id fun m => { m with asked := false }
    | .split n => s1.updKv n fun c => { c with asked := false }
  if st ≠ .access then s2.lenderLost l.target none else if s.lendHolds l then s2.loseFrame l.space l.ident else s2

/-- A lending read sent, of at most 128 bytes from an offset (02 R381); while the lender cannot be reached it fails at
once. -/
def State.lendingRead (s : State) (p : Space) (by_ : Borrower) (ident : Nat) (f : Frame) (off n : Nat) : State :=
  let l : LendReq := ⟨s.nextId, f.peer, by_, p.id, ident, p.peersp, f.slot, off⟩
  if s.reachable f.peer then
    { (s.send (.lendingRead f.peer s.nextId p.peersp f.slot off (min 128 n))).updFabric fun fb => { fb with lends := fb.lends ++ [l] } with
      nextId := s.nextId + 1 }
  else
    (s.updFabric fun fb => { fb with lends := fb.lends ++ [l] }).lendFailed l .unreachable

/-! ### Steps of moves -/

/-- The KVMOVE record of a move that the controller started on its own, made at its switch in the slot that it took at its start
(19 R326, R331). -/
def State.etchMove (s : State) (p : Space) (m : Move) (fmt : Nat) : State :=
  match m.etch with
  | none => s
  | some k =>
    (s.etchSys p.ctx p.home 0 0x17 (BitVec.ofNat 64 (p.id * 2 ^ 32 + m.ident)) (BitVec.ofNat 64 (m.tier + 4 * fmt))
      (.unit p.seq) 0 (some k)).updSpace p.id fun p => { p with seq := p.seq + 1 }

/-- The copy of a move complete: HOLD is set (02 R49). -/
def State.holdMove (s : State) (sid id : Nat) : State :=
  (s.updMove sid id fun m => { m with held := true }).updSpace sid fun p => p.updFrame id fun f => { f with hold := true }

/-- The task whose command caused a move; 0 where no command did. -/
def State.moveTask (s : State) (m : Move) : Nat :=
  match m.why with
  | .kv n => ((s.kvcmds.find? fun c => c.n == n).map KvCmd.task).getD 0
  | _ => 0

/-- LB(f), the bytes of a layer that the pages of a frame fill (02 R33). -/
def Space.layerBytes (p : Space) (fmt : Nat) : Nat := 2 * p.heads * p.page fmt

/-- Why a move's source or target cannot be accessed, and the first such address (20 R346, 23 R363). -/
def State.moveStop (s : State) (p : Space) (f : Frame) (m : Move) : Option (Bool × Word) :=
  (if f.tier = 3 then none else s.slotStop p f.tier f.slot (p.layerBytes f.fmt)).orElse fun _ =>
    if m.tier = 3 then none else s.slotStop p m.tier m.slot (p.layerBytes (p.fmtAfter f m.tier))

/-- A command that the supervisor or a refused access fails where it stands (20 R346, 23 R363). -/
def State.kvQuit (s : State) (n cause : Nat) (va : Word) : State := s.updKv n fun c =>
  { c with performed := true, stuck := none, left := [], cur := none, fail := some ⟨cause, 0, va, some (4, c.ticket)⟩ }

/-- A move that fails is abandoned, and the command that caused it fails with it; automatic demotion ends (20 R346). -/
def State.moveFails (s : State) (p : Space) (m : Move) (cause : Nat) (va : Word) : State :=
  let s1 := (s.abandon p.id m.ident 0).updSpace p.id fun p => if m.why = .auto then { p with goal := none } else p
  match m.why with
  | .kv n => s1.kvQuit n cause va
  | _ => s1

/-- The copy of a move carried on (02 R49, R52): a borrowed frame is read from its lender piece by piece, a frame for
the lender is sent in LEND_PUT, any other is written into its target slot and HOLD is set. A page that is not mapped is the
supervisor's to answer for (20 R346), and memory of another protected context fails the move (23 R363). -/
def State.moveCopy (s : State) (sid : Nat) (m : Move) : State :=
  match s.space sid with
  | none => s
  | some p =>
    match p.frame m.ident with
    | none => s
    | some f =>
      let total := p.allBytes f.fmt
      if m.held || m.put || m.asked || m.stuck.isSome then s
      else match s.moveStop p f m with
      | some (true, va) => s.moveFails p m cProt va
      | some (false, va) =>
        let who := s.moveTask m
        let (s1, tok) := s.askSupervisor p.ctx p.home who va
        s1.updMove sid m.ident fun m => { m with stuck := some (tok, va) }
      | none =>
        if f.tier = 3 && m.bytes.length < total then
          (s.updMove sid m.ident fun m => { m with asked := true }).lendingRead p (.move sid m.ident) m.ident f m.bytes.length
            (total - m.bytes.length)
        else
          let (s1, x) := if f.tier = 3 then (s, m.bytes) else s.frameData p f
          let out := p.dataAfter f m.tier x
          let fmt := p.fmtAfter f m.tier
          if m.tier = 3 then
            if s1.reachable p.peer then
              ((s1.send (.lendPut p.peer sid m.ident p.peersp fmt ⟨Pb.bytes out, Pb.granules out, p.layerBytes fmt⟩)).updMove sid m.ident fun m => { m with put := true })
            else s1.lenderLost p.peer none
          else (s1.putFrame p (s.moveTask m) m.tier m.slot (p.layerBytes fmt) out).holdMove sid m.ident

/-- MOVE_HOLD (02 R49). -/
def execMoveHold (sid id : Nat) (s : State) : Res :=
  match (s.space sid).bind fun p => p.moves.find? fun m => m.ident == id with
  | some m => .next ((s.moveCopy sid m).kvSyncBy (s.moveTask m) s)
  | none => .next s

/-- MOVE_SWITCH (02 R49): when no reader is left the frame's place changes in one step, and the old slot returns to its
pool; a promotion or recall of a borrowed frame ends with LEND_FREE (02 R48). -/
def execMoveSwitch (sid id : Nat) (s : State) : Res :=
  match s.space sid with
  | none => .next s
  | some p =>
    match p.moves.find? fun m => m.ident == id, p.frame id with
    | some m, some f =>
      if !m.held || f.readers != 0 then .next s
      else
        let s1 := if f.lentIn && !f.lost then s.lendFree p f.peer f.slot else s
        let s2 := s1.updSpace sid fun q => (q.dropMove id).updFrame id fun f => { f with
          tier := m.tier, fmt := p.fmtAfter f m.tier
          slot := if m.tier = 3 then m.lenderIdent.getD 0 else m.slot
          lentIn := m.tier == 3, peer := if m.tier = 3 then p.peer else 0 }
        let s3 := match m.why with
          | .kv n => s2.updKv n fun c => { c with value := c.value + 1 }
          | _ => s2
        .next ((s3.etchMove p m (p.fmtAfter f m.tier)).kvSyncBy (s.moveTask m) s)
    | _, _ => .next s

/-! ### Lending between modules -/

/-- Whether a control-class packet is taken: the fabric is on and its incarnations match; otherwise it is dropped and
counted (03 R60, R66). -/
def State.ctlOk (s : State) (e : Envelope) : Bool := s.fabricOn && s.envOk e.src e.inc e.expect

/-- The borrower's SZ(T1): what it lends has the format of its lower tiers (02 R34, R46, R51). -/
def lentSlot (x : LendFrame) : Nat := roundUp 256 x.layer

/-- LEND_PUT at the lender (02 R51, R52): a frame of its receiving space is allocated, with USE 0 (log 98), and the bytes are
written, poison with them, layer by layer. It is refused where the space's T0 slots are smaller than the borrower's SZ(T1), and
where the frame has more layers than the space (log 46). -/
def execLendPut (env : Envelope) (space ident peerSpace fmt : Nat) (bytes : LendFrame) (s : State) : Res :=
  if !s.ctlOk env then .next (s.countDrop false)
  else
    let answer (s : State) (l : Option Nat) : State := s.control env.src (.lendAck env.src space ident l)
    match s.space peerSpace with
    | none => .next (answer s none)
    | some p =>
      let held := (p.frames.filter fun e => e.2.lentOut).length
      let n := bytes.layer
      if p.credit = 0 ∨ p.peer ≠ env.src ∨ p.credit ≤ held ∨ p.slotSize 0 < lentSlot bytes ∨ n * p.layers < bytes.data.length then
        .next (answer s none)
      else
        match p.freeId, p.freeSlot 0 with
        | some id, some slot =>
          if (s.slotStop p 0 slot n).isSome then .next (answer s none)
          else
            let f : Frame := { refcnt := 1, cls := 0, pin := false, tier := 0, fmt := fmt, lentIn := false, lentOut := true, peer := env.src
                               use := 0, slot := slot, written := p.tokens, lost := false, readers := 0, hold := false, mig := false
                               size := bytes.data.length, layer := n }
            let s1 := (s.updSpace p.id fun p => { p with frames := p.frames ++ [(id, f)] }).putFrame p 0 0 slot n
              (Pb.ofGranules bytes.data bytes.bad)
            .next (((answer s1 (some id)).checkMarks p.id).kvSync s)
        | _, _ => .next (answer s none)

/-- The receiving space that a LEND_PUT of this module named (02 R49, R52): the last one sent for a frame of a space. -/
def State.putSpace (s : State) (peer space ident : Nat) : Option Nat :=
  s.fabric.sent.reverse.findSome? fun p => match p.2 with
    | .lendPut t sp id r _ _ => if t = peer ∧ sp = space ∧ id = ident then some r else none
    | _ => none

/-- LEND_ACK at the borrower (02 R52): the move is held for its switch, or a refusal abandons it; an acknowledgement of
an abandoned move, or for a space that has been torn down, is answered with LEND_FREE (02 R49). -/
def execLendAck (env : Envelope) (space ident : Nat) (lender : Option Nat) (s : State) : Res :=
  if !s.ctlOk env then .next (s.countDrop false)
  else
    match (s.space space).bind fun p => p.moves.find? fun m => m.ident == ident && m.tier == 3 && m.put && m.lenderIdent.isNone, lender with
    | some m, some l =>
      .next (((s.updMove space ident fun m => { m with lenderIdent := some l }).holdMove space ident).kvSyncBy (s.moveTask m) s)
    | some m, none =>
      let s1 := s.abandon space ident 3
      -- the demotion of automatic moves stops where tier T3 is full (02 R45, R51)
      .next ((if m.why = .auto then s1.updSpace space fun p => { p with goal := none, demoteBlocked := true }
        else s1).kvSyncBy (s.moveTask m) s)
    | none, some l => match s.putSpace env.src space ident with
      | some r => .next (s.control env.src (.lendFree env.src r l))
      | none => .next s
    | none, none => .next s

/-- LEND_FREE at the lender (02 R52). -/
def execLendFree (env : Envelope) (space ident : Nat) (s : State) : Res :=
  if !s.ctlOk env then .next (s.countDrop false)
  else
    match (s.space space).bind fun p => p.frame ident with
    | some f =>
      if f.lentOut ∧ f.peer = env.src then
        .next ((if f.readers = 0 then s.freeFrame space ident
          else s.updSpace space fun p => p.updFrame ident fun f => { f with refcnt := 0 }).kvSync s)
      else .next s
    | none => .next s

/-- LEND_RECALL at the borrower (02 R53): the frame is moved home as soon as there is room; until then the recall waits. The message
names a lender identity alone (02 R52): every frame that the borrower holds with that lender under it is recalled (log 103). -/
def execLendRecall (env : Envelope) (ident : Nat) (s : State) : Res :=
  if !s.ctlOk env then .next (s.countDrop false)
  else
    .next ((s.spaces.foldl (fun s p =>
      match p.frames.find? fun e => e.2.lentIn && !e.2.lost && e.2.peer == env.src && e.2.slot == ident with
      | some e => s.updSpace p.id fun p => { p with recalls := insertNat e.1 p.recalls }
      | none => s) s).kvSync s)

/-- LEND_GONE at the borrower (02 R52, R53). -/
def execLendGone (env : Envelope) (space : Option Nat) (s : State) : Res :=
  if !s.ctlOk env then .next (s.countDrop false)
  else .next ((s.lenderLost env.src space).kvSync s)

/-- LEND_ACK_TIMEOUT (03 R73): no answer to a LEND_PUT within FXTMO; the lender counts as unreachable. -/
def execLendAckTimeout (space ident : Nat) (s : State) : Res :=
  match (s.space space).bind fun p => (p.moves.find? fun m => m.ident == ident && m.tier == 3 && m.put && !m.held).map fun _ => p.peer with
  | some peer => .next ((s.lenderLost peer none).kvSync s)
  | none => .next s

/-- LENDING_READ at the lender (02 R381): performed only for a frame that it holds for the reader; it passes through no
export table. The poison of each 32-byte granule goes with the bytes. -/
def execLendingRead (env : Envelope) (id space ident off len : Nat) (s : State) : Res :=
  if !s.fabricOn then .next (s.countDrop false)
  else if !s.envOk env.src env.inc env.expect then
    .next ((s.countDrop false).send (.stale env.src id env.inc s.incarnation))
  else
    let reply (s : State) (st : FabStatus) (x : Pb) : State :=
      s.send (.lendingReply env.src space ident off st ⟨id, Pb.bytes x⟩ (Pb.granules x))
    match (s.space space).bind fun p => (p.frame ident).map fun f => (p, f) with
    | none => .next (reply s .access [])
    | some (p, f) =>
      if !f.lentOut || f.peer != env.src || f.refcnt == 0 || f.size < off + len then .next (reply s .access [])
      else
        let r := (List.range len).foldl (fun acc i =>
          let b := acc.1.kvRead p.ctx (p.frameBase 0 f.slot ((off + i) / f.layer) + BitVec.ofNat 64 ((off + i) % f.layer)) 1
          (b.1, acc.2 ++ b.2)) (s, ([] : Pb))
        .next (reply r.1 .ok r.2)

/-- INCARNATION_NOTICE (02 R53): it is checked only against this module's incarnation. A borrower whose incarnation
differs from the peer table is lost, and so is a lender; the target logs it for its supervisor. -/
def execIncarnationNotice (env : Envelope) (s : State) : Res :=
  if !s.fabricOn then .next (s.countDrop false)
  else if env.expect ≠ s.incarnation then .next (s.countDrop false)
  else
    let s1 := s.updFabric fun f => { f with log := f.log ++ [(env.src, env.inc)] }
    if env.inc = s.peerInc env.src then .next s1
    else
      .next (((s1.borrowerLost env.src).lenderLost env.src none).kvSync s)

end Sys2Proof.Machine
end

