-- ==== Sys2Proof/Machine/Kv.lean ====
section
/-! DEFINITION. The KV instructions and KVSPACE: their issue, what the home controller does for each, and their
completion (02 R31 to R54, 11 R263 to R271). -/

namespace Sys2Proof.Machine

/-! ### What the operations share -/

/-- Whether bytes `a` to `b − 1` of an argument block are zero (11 R264). -/
def zeros (bs : List Byte) (a b : Nat) : Bool := ((bs.drop a).take (b - a)).all fun x => x == 0

/-- The failure of a KV command with its handle in c.EVAL (11 R263). -/
def KvCmd.failure (c : KvCmd) (cause : Nat) (eval : Word) : Fail := ⟨cause, 0, eval, some (4, c.ticket)⟩

/-- A command with its final status. -/
def State.kvDone (s : State) (c : KvCmd) (status value : Nat) (ans : Option (List Byte)) : State :=
  s.updKv c.n fun c => { c with performed := true, status := status, value := value, ans := ans }

/-- A command that failed. -/
def State.kvFailed (s : State) (c : KvCmd) (cause : Nat) (eval : Word) : State :=
  s.updKv c.n fun c => { c with performed := true, fail := some (c.failure cause eval) }

/-- A command that failed with its handle in c.EVAL. -/
def State.kvBad (s : State) (c : KvCmd) (cause : Nat) : State := s.kvFailed c cause (BitVec.ofNat 64 c.handle)

/-- A table capacity and address that R265 accepts. -/
def State.tableOk (s : State) (ctx : Nat) (base : Word) (cap : Nat) : Bool :=
  base.toNat % 64 == 0 && cap % 8 == 0 && 8 ≤ cap && cap ≤ 65536 && s.kvMapped ctx base (8 * cap)

/-- The blocks that hold `n` tokens. -/
def Space.blocksFor (p : Space) (n : Nat) : Nat := (n + p.tokens - 1) / p.tokens

/-! ### Opening and forking (R265) -/

/-- KVOPEN at its serialisation point; DCLASS has two bits (log 98). -/
def State.kvOpen (s : State) (c : KvCmd) (p : Space) (i : Nat) : State :=
  let base := fieldW c.args 8
  let cap := field c.args 16 4
  if !zeros c.args 5 8 || !zeros c.args 20 32 || (p.seqOf i).st != 0 || !s.tableOk p.ctx base cap then s.kvDone c 2 0 none
  else (s.updSpace p.id fun p => p.updSeq i fun _ => ⟨base, 0, cap, 1, field c.args 4 1 % 4, 0, [], []⟩).kvDone c 0 0 none

/-- KVFORK at its serialisation point (02 R41); DCLASS has two bits (log 98). -/
def State.kvFork (s : State) (c : KvCmd) (p : Space) (i : Nat) : State :=
  let child := field c.args 4 4
  let j := child % 2 ^ 24
  let base := fieldW c.args 8
  let cap := field c.args 16 4
  let q := p.seqOf i
  if q.st ≠ 1 ∨ child / 2 ^ 24 ≠ p.id ∨ p.ns ≤ j ∨ (p.seqOf j).st ≠ 0 then s.kvBad c cKvHandle
  else if !zeros c.args 21 32 || !s.tableOk p.ctx base cap || cap < q.nb then s.kvDone c 2 0 none
  else
    let ids := (q.blocks.filter fun e => e.v).map fun e => e.frame
    if ids.any fun k => 65535 ≤ ((p.frame k).map Frame.refcnt).getD 0 then s.kvDone c 1 0 none
    else
      let s1 := s.updSpace p.id fun p =>
        (ids.foldl (fun p k => p.updFrame k fun f => { f with refcnt := f.refcnt + 1 }) p).readEntries i 0 q.nb
      (s1.updSpace p.id fun p => p.updSeq j fun _ =>
        ⟨base, q.len, cap, 1, field c.args 20 1 % 4, 0, (p.seqOf i).blocks, []⟩).kvDone c 0 ids.length none

/-! ### Reservations (R266) -/

/-- `n` more frames reserved, lowest numbers first (12 R272). -/
def Space.reserve (p : Space) (i : Nat) : Nat → Space
  | 0 => p
  | n + 1 =>
    match p.freeId, p.freeSlot 0 with
    | some id, some slot =>
      (p.updSeq i fun q => { q with rsv := insertBy (fun a b => decide (a.1 ≤ b.1)) (id, slot) q.rsv }).reserve i n
    | _, _ => p

/-- KVRSV at its serialisation point. -/
def State.kvRsv (s : State) (c : KvCmd) (p : Space) (i : Nat) : State :=
  let n := field c.args 4 4
  let have_ := (p.seqOf i).rsv.length
  if !zeros c.args 8 32 then s.kvDone c 2 0 none
  else if n ≤ have_ then
    (s.updSpace p.id fun p => p.updSeq i fun q => { q with rsv := q.rsv.take n }).kvDone c 0 n none
  else if p.nf - p.usedIds.length < n - have_ ∨ p.freeCount 0 < n - have_ then s.kvDone c 3 0 none
  else ((s.updSpace p.id fun p => p.reserve i (n - have_)).checkMarks p.id).kvDone c 0 n none

/-! ### Appending (R42, R267) -/

/-- RB, the bytes of one token's row in the source (11 R267). -/
def Space.rowBytes (p : Space) : Nat :=
  match p.nat with
  | 0 | 1 => 2 * p.dim
  | 2 | 3 => p.dim
  | 4 => 17 * p.dblk
  | 5 => 34 * p.dblk
  | _ => 18 * p.dblk

/-- A source row cut into the spans of the page layout (11 R267). -/
def Space.rowSpans (p : Space) (row : Pb) : List Pb :=
  if p.nat = 4 then
    let bs := chunks 17 row.length row
    [bs.flatMap fun b => b.take 16, bs.map fun b => b.getD 16 (0, false)]
  else [row]

/-- The physical pieces of a source range that a controller reads; else the failure of R267, with the trap of a walk. -/
def State.kvSource (s : State) (c : KvCmd) (va : Word) (n : Nat) : Except (Nat × Word × Option Trap) (List (Nat × Nat)) :=
  (cuts (n / 256 + 2) va n).mapM fun x =>
    if x.1.toNat < 0x400000 then .error (cXlate, x.1, none)
    else
      match s.translate .walker c.ctx c.sv .load x.1 with
      | .error t => .error (if t.cause = cProt then cProt else cXlate, x.1, some t)
      | .ok (.fabric ..) => .error (cProt, x.1, none)
      | .ok (.phys pa) =>
        match s.place pa with
        | .node _ => match s.firstRefused c.ctx pa x.2 with
          | some q => .error (cProt, x.1 + BitVec.ofNat 64 (q - pa), none)
          | none => .ok (pa, x.2)
        | .pad .. => .ok (pa, x.2)
        | .weights k _ => if s.wsOpen k then .error (cProt, x.1, none) else .ok (pa, x.2)
        | _ => .error (cProt, x.1, none)

/-- A source that cannot be read: the command fails, and a poisoned walk is charged (20 R343). -/
def State.sourceFails (s : State) (c : KvCmd) (e : Nat × Word × Option Trap) : State :=
  ((e.2.2.map (s.walkCharge c.ctx)).getD s).kvFailed c e.1 e.2.1

/-- A source read at its homes. -/
def State.sourceTouch (s : State) (c : KvCmd) (ps : List (Nat × Nat)) : State := ps.foldl (fun s p => s.touch c.ctx p.1 p.2) s

/-- Bytes `off` to `off + n − 1` of a source of physical pieces, each with its poison. -/
def State.sourceBytes (s : State) : List (Nat × Nat) → Nat → Nat → Pb
  | [], _, _ => []
  | p :: ps, off, n =>
    if p.2 ≤ off then s.sourceBytes ps (off - p.2) n
    else
      let k := min n (p.2 - off)
      s.pbytes (p.1 + off) k ++ (if k = n then [] else s.sourceBytes ps 0 (n - k))

/-- Where an append finds its block: the frame that it must split, if it must, or a status (02 R42, R54). -/
inductive AppendAt where
  | fresh
  | inPlace (id : Nat)
  | split (id : Nat)
  /-- The block is absent: a split with nothing to copy from. -/
  | absent
  | moving
  deriving DecidableEq, Repr

/-- The check of step 2 of R42. -/
def Space.appendAt (p : Space) (q : Seqn) : AppendAt :=
  if q.len % p.tokens = 0 then .fresh
  else
    match q.blocks[q.len / p.tokens]? with
    | none => .absent
    | some e =>
      match e.v, p.frame e.frame with
      | true, some f =>
        if f.mig then .moving
        else if 1 < f.refcnt ∨ f.tier ≠ 0 ∨ f.fmt ≠ p.nat then .split e.frame
        else .inPlace e.frame
      | _, _ => .absent

/-- A frame taken for a sequence (02 R42 step 1, 11 R266): identity, and the machine with it in use;
USE begins with 0 (log 98). -/
def State.allocFrame (s : State) (who sid i : Nat) : State × Nat :=
  match s.space sid with
  | none => (s, 0)
  | some p =>
    let q := p.seqOf i
    let take (id slot : Nat) (p : Space) : State × Nat :=
      let f : Frame := ⟨1, q.dclass, false, 0, p.nat, false, false, 0, 0, slot, 0, false, 0, false, false, 0, 0⟩
      let s1 := s.updSpace sid fun _ => { p with frames := p.frames ++ [(id, f)] }
      -- the pages of an FP8 frame have the scale 0x7F (11 R267)
      let s2 := if isFp8 p.nat then
          (List.range p.layers).foldl (fun s l => (List.range (2 * p.heads)).foldl (fun s pg =>
            s.kvWrite p.ctx who (p.frameBase 0 slot l + BitVec.ofNat 64 (pg * p.page p.nat + p.tokens * p.dim))
              (Pb.good (0x7F :: List.replicate 31 0))) s) s1
        else s1
      (s2.checkMarks sid, id)
    match q.rsv with
    | (id, slot) :: rest => take id slot (p.updSeq i fun q => { q with rsv := rest })
    | [] =>
      match p.freeId, p.freeSlot 0 with
      | some id, some slot => take id slot p
      | _, _ => (s, 0)

/-- Spans of a token written into a page of a slot. -/
def State.putToken (s : State) (p : Space) (who slot l pg tau : Nat) (spans : List Pb) : State :=
  ((p.spans p.nat tau).zip spans).foldl (fun s x =>
    s.kvWrite p.ctx who (p.frameBase 0 slot l + BitVec.ofNat 64 (pg * p.page p.nat + x.1.1)) x.2) s

/-- A page of a frame as a split reads it: from the pool, from the bytes a lender sent, or zeros of a LOST frame. -/
def State.oldPage (s : State) (p : Space) (f : Frame) (got : Pb) (l pg : Nat) : State × Pb :=
  let n := p.page f.fmt
  if f.lost then (s, List.replicate n (0, true))
  else if f.tier = 3 then (s, (got.drop ((l * 2 * p.heads + pg) * n)).take n)
  else s.kvRead p.ctx (p.frameBase f.tier f.slot l + BitVec.ofNat 64 (pg * n)) n

/-- The spans of a token of a page as they stand in a frame of the native format (02 R42): the same bytes, or each element
converted, poisoned where its row or its scale is. -/
def Space.copySpans (p : Space) (f : Frame) (page : Pb) (tau : Nat) : List Pb :=
  let old := p.cutBy f.fmt tau page
  if f.fmt = p.nat then old
  else
    let scale := page.getD (p.tokens * p.dim) (0, false)
    let bad := (old.any fun x => x.any Prod.snd) || (isFp8 f.fmt && scale.2)
    (rowEncode p.nat (rowValues f.fmt scale.1.toNat (old.map Pb.bytes))).map fun bs => bs.map fun b => (b, bad)

/-- Positions 0 to `q − 1` of a frame copied into a new one (02 R42 step 2), and whether poison was delivered. A LOST frame's
positions read as zero, with poison (02 R54). -/
def State.copyInto (s : State) (p : Space) (who : Nat) (f : Frame) (got : Pb) (slot q : Nat) : State × Bool :=
  (List.range p.layers).foldl (fun acc l => (List.range (2 * p.heads)).foldl (fun acc pg =>
    let (s0, page) := acc.1.oldPage p f got l pg
    let spans := (List.range q).map fun tau => (tau, p.copySpans f page tau)
    let s1 := spans.foldl (fun s x => s.putToken p who slot l pg x.1 x.2) s0
    let s2 := if isFp8 p.nat ∧ f.fmt = p.nat ∧ !f.lost then
        s1.kvWrite p.ctx who (p.frameBase 0 slot l + BitVec.ofNat 64 (pg * p.page p.nat + p.tokens * p.dim))
          [page.getD (p.tokens * p.dim) (0, false)]
      else s1
    (s2, acc.2 || spans.any fun x => x.2.any fun y => y.any Prod.snd)) acc) (s, false)

/-- The entry of block `b` of a sequence set. -/
def Seqn.setBlock (q : Seqn) (b : Nat) (e : BlockEnt) : Seqn :=
  { q with blocks := if b < q.blocks.length then q.blocks.set b e else q.blocks ++ [e] }

/-- One append of a token whose row for layer, head and K or V is given (02 R42), and whether poison was delivered by what it
copied. -/
def State.append (s : State) (who sid i : Nat) (got : Pb) (row : Nat → Nat → Pb) : State × Bool :=
  match s.space sid with
  | none => (s, false)
  | some p =>
    let q := p.seqOf i
    let b := q.len / p.tokens
    let k := q.len % p.tokens
    let place (s : State) (id fill : Nat) : State := s.updSpace sid fun p => p.updSeq i fun q => q.setBlock b (p.mkEnt id fill)
    let (s1, id, bad) : State × Nat × Bool := match p.appendAt q with
      | .inPlace id => (s, id, false)
      | .split old =>
        let (s1, id) := s.allocFrame who sid i
        let (s2, bad) := match p.frame old, (s1.space sid).bind fun p => p.frame id with
          | some f, some g => s1.copyInto p who f got g.slot k
          | _, _ => (s1, false)
        let s3 := place (s2.updSpace sid fun p => p.updFrame id fun f => { f with written := k }) id k
        (s3.dropRef sid old, id, bad)
      | .fresh =>
        let (s1, id) := s.allocFrame who sid i
        (place s1 id 0, id, false)
      | .absent | .moving =>
        let (s1, id) := s.allocFrame who sid i
        (place (s1.updSpace sid fun p => p.updFrame id fun f => { f with written := k }) id k, id, false)
    let slot := (((s1.space sid).bind fun p => p.frame id).map fun f => f.slot).getD 0
    let s2 := (List.range p.layers).foldl (fun s l => (List.range (2 * p.heads)).foldl (fun s pg =>
      s.putToken p who slot l pg k (p.rowSpans (row l pg))) s) s1
    let s3 := s2.updSpace sid fun p => p.updFrame id fun f => { f with written := max f.written (k + 1) }
    ((place s3 id (k + 1)).updSpace sid fun p => p.updSeq i fun q => { q with len := q.len + 1 }, bad)

/-- Why the slots that an operation on a space has written, or that of a frame which it read, cannot be accessed, and the first
such address (20 R346, 23 R363). -/
def State.appendStop (s : State) (old new : Space) (read : Option Nat) : Option (Bool × Word) :=
  let n (f : Frame) : Nat := old.layerBytes f.fmt
  ((new.frames.filter fun e => ((old.frame e.1).map Frame.written) != some e.2.written).findSome? fun e =>
    s.slotStop old 0 e.2.slot (n e.2)).orElse fun _ =>
    (read.bind fun id => old.frame id).bind fun f => if f.tier = 3 then none else s.slotStop old f.tier f.slot (n f)

/-- A command that meets a page without a mapping waits for the supervisor (20 R346). -/
def State.kvStuck (s : State) (c : KvCmd) (die : Nat) (va : Word) : State :=
  let (s1, tok) := s.askSupervisor c.ctx die c.task va
  s1.updKv c.n fun c => { c with stuck := some (tok, va) }

/-- KVWR at its serialisation point: all its checks, then its appends one after another. -/
def State.kvWr (s : State) (c : KvCmd) (p : Space) (i : Nat) : State :=
  let n := field c.args 4 2
  let src := fieldW c.args 8
  let q := p.seqOf i
  let rb := p.rowBytes
  if !zeros c.args 6 8 || !zeros c.args 16 32 || n = 0 || 64 < n then s.kvDone c 2 0 none
  else
    match s.kvSource c src (p.layers * n * p.heads * 2 * rb) with
    | .error e => s.sourceFails c e
    | .ok ps =>
      if q.cap ≤ (q.len + n - 1) / p.tokens then s.kvBad c cKvQuota
      else
        let at_ := p.appendAt q
        let splits := match at_ with
          | .split _ | .absent => 1
          | _ => 0
        let need := p.blocksFor (q.len + n) - p.blocksFor q.len + splits
        let avail := q.rsv.length + min (p.nf - p.usedIds.length) (p.freeCount 0)
        -- no transition of 02 R54 appends to a moving frame
        if at_ = .moving then s.kvDone c 2 0 none
        else if avail < need then
          if p.movingOut then s.updKv c.n fun c => { c with waits := true } else s.kvBad c cKvQuota
        else
          let source : Option (Nat × Frame) := match at_ with
            | .split id => (p.frame id).map fun f => (id, f)
            | _ => none
          let ask := source.bind fun x =>
            if x.2.tier = 3 ∧ !x.2.lost ∧ (c.gotFor ≠ some x.1 ∨ c.bytes.length < p.allBytes x.2.fmt) then some x else none
          match ask with
          | some (id, f) =>
            let have_ := if c.gotFor = some id then c.bytes else []
            (s.updKv c.n fun c => { c with gotFor := some id, bytes := have_, asked := true }).lendingRead p (.split c.n) id f
              have_.length (p.allBytes f.fmt - have_.length)
          | none =>
            let s0 := s.sourceTouch c ps
            let (s1, bad) := (List.range n).foldl (fun acc t =>
              let r := acc.1.append c.task p.id i c.bytes fun l pg =>
                acc.1.sourceBytes ps ((((l * n + t) * p.heads) * 2 + pg) * rb) rb
              (r.1, acc.2 || r.2)) (s0, false)
            match (s1.space p.id).bind fun p1 => s.appendStop p p1 (source.map Prod.fst) with
            | some (true, va) => s.kvFailed c cProt va
            | some (false, va) => s.kvStuck c p.home va
            | none =>
              -- the positions of a LOST frame deliver poison to the appending task (02 R54, 01 R21); its record names address 0 (log 104)
              let lost := (source.map fun x => x.2.lost).getD false
              let s2 := if lost then s1.note 0 (some c.ctx) 0 0 else s1
              (s2.updKv c.n fun c => { c with poisoned := bad }).kvDone c 0 (q.len + n) none

/-! ### Trimming and freeing (R268) -/

/-- KVTRIM at its serialisation point. -/
def State.kvTrim (s : State) (c : KvCmd) (p : Space) (i : Nat) : State :=
  let l := field c.args 4 4
  let q := p.seqOf i
  if !zeros c.args 8 32 || q.len < l then s.kvDone c 2 0 none
  else
    let keep := p.blocksFor l
    let gone := ((q.blocks.drop keep).filter fun e => e.v).map fun e => e.frame
    let s1 := s.updSpace p.id fun p =>
      { p.updSeq i fun q => { q with
          len := l
          blocks := (q.blocks.take keep).zipIdx.map fun e =>
            if e.2 + 1 = keep then { p.reread e.1 with fill := l - (keep - 1) * p.tokens } else e.1 } with
        dirty := if keep = 0 then p.dirty else .bt i ((keep - 1) / 8) :: p.dirty }
    (gone.foldl (fun s id => s.dropRef p.id id) s1).kvDone c 0 gone.length none

/-- A sequence freed: every reference dropped, the reservation released, the state free. -/
def State.freeSeq (s : State) (sid i : Nat) : State × Nat :=
  match s.space sid with
  | none => (s, 0)
  | some p =>
    let q := p.seqOf i
    let gone := (q.blocks.filter fun e => e.v).map fun e => e.frame
    let s1 := s.updSpace sid fun p => p.updSeq i fun q => { q with len := 0, blocks := [], rsv := [], st := 0 }
    (gone.foldl (fun s id => s.dropRef sid id) s1, gone.length)

/-- KVFREE at its serialisation point. -/
def State.kvFree (s : State) (c : KvCmd) (p : Space) (i : Nat) : State :=
  if !zeros c.args 4 32 then s.kvDone c 2 0 none
  else
    let (s1, n) := s.freeSeq p.id i
    s1.kvDone c 0 n none

/-! ### Ranges (R268) -/

/-- The frames of a range in ascending block order, each once; `none` stands for an absent entry. -/
def rangeFrames : List BlockEnt → List Nat → List (Option Nat)
  | [], _ => []
  | e :: es, seen =>
    if !e.v then none :: rangeFrames es seen
    else if seen.contains e.frame then rangeFrames es seen
    else some e.frame :: rangeFrames es (e.frame :: seen)

/-- The argument at +4 that a range instruction accepts (11 R264). -/
def KvKind.argOk : KvKind → Nat → Bool
  | .kclass, a => a ≤ 3
  | .kpin, a => a ≤ 1
  | .kdemote, a => 1 ≤ a && a ≤ 3
  | _, a => a == 0

/-- A range instruction at its serialisation point: its frames are noted, to be acted on one after another. -/
def State.kvRange (s : State) (c : KvCmd) (p : Space) (i : Nat) : State :=
  let first := field c.args 8 4
  let count := field c.args 12 4
  let q := p.seqOf i
  if !zeros c.args 5 8 || !zeros c.args 16 32 || !KvKind.argOk c.kind (field c.args 4 1) then s.kvDone c 2 0 none
  else
    let stop := if count = 0 then q.nb else min q.nb (first + count)
    (s.updSpace p.id fun p => p.readEntries i first stop).updKv c.n fun c =>
      { c with performed := true, left := rangeFrames ((q.blocks.take stop).drop first) [] }

/-- What a range instruction does for a frame now. -/
inductive KvAct where
  /-- Done with it: a status, and whether it counts. -/
  | over (status : Nat) (counts : Bool)
  | move (tier : Nat)
  /-- It waits for a move to end, after a demotion has been asked for or not. -/
  | wait (force : Bool)
  deriving DecidableEq, Repr

/-- The rules of R268 for one frame. -/
def Space.act (p : Space) (kind : KvKind) (arg : Nat) (f : Frame) : KvAct :=
  match kind with
  | .kclass | .kpin => .over 0 true
  | .kdemote =>
    if f.mig then .wait false
    else if f.pin ∨ f.written < p.tokens ∨ arg ≤ f.tier then .over 2 false
    else if arg = 3 then (if p.lend && p.creditUsed < p.credit then .move 3 else .over 2 false)
    else if (p.freeSlot arg).isSome then .move arg
    else .over 3 false
  | .kpromote =>
    if f.mig then .wait false
    else if f.pin then .over 2 false
    else if f.lost then .over 4 false
    else if f.tier = 0 then .over 0 false
    else if (p.freeSlot 0).isSome then .move 0
    else .wait true
  | _ =>
    if f.mig then .wait false
    else if f.tier ≠ 3 ∨ f.lost then .over 0 false
    else if f.pin then .over 2 false
    else match p.homeTier with
      | some t => .move t
      | none => .over 3 false

/-- The next thing a range instruction does; `fuel` bounds the frames handled at once. -/
def State.kvAdvance : Nat → State → Nat → State
  | 0, s, _ => s
  | fuel + 1, s, n =>
    match s.kvcmds.find? fun c => c.n == n with
    | none => s
    | some c =>
      match s.space (c.handle / 2 ^ 24) with
      | none => s.updKv n fun c => { c with left := [], cur := none }
      | some p =>
        match c.cur with
        | some id =>
          if p.moves.any fun m => m.ident == id && m.why == .kv n then s
          else (s.updKv n fun c => { c with cur := none }).kvAdvance fuel n
        | none =>
          let pop (s : State) : State := s.updKv n fun c => { c with left := c.left.tail }
          match c.left with
          | [] => s
          | none :: _ => ((pop s).updKv n fun c => c.note 4).kvAdvance fuel n
          | some id :: _ =>
            match p.frame id with
            | none => (pop s).kvAdvance fuel n
            | some f =>
              let arg := field c.args 4 1
              match p.act c.kind arg f with
              | .over st counts =>
                let s1 := match c.kind with
                  | .kclass => s.updSpace p.id fun p =>
                    { p.updFrame id fun f => { f with cls := arg } with dirty := .fd (id / 8) :: p.dirty }
                  | .kpin => s.updSpace p.id fun p =>
                    { p.updFrame id fun f => { f with pin := arg == 1 } with dirty := .fd (id / 8) :: p.dirty }
                  | _ => s
                ((pop s1).updKv n fun c => { c.note st with value := c.value + counts.toNat }).kvAdvance fuel n
              | .move t =>
                (pop (s.beginMove p.id id t (.kv n))).updKv n fun c => { c with cur := some id }
              | .wait false => s
              | .wait true =>
                -- a promotion without a free slot starts demotion, and waits while a move out of T0 runs (02 R48)
                let s1 := s.forceDemotion p.id
                if ((s1.space p.id).map Space.movingOut).getD false then s1
                else ((pop s1).updKv n fun c => c.note 3).kvAdvance fuel n

/-! ### KVQUERY (R269) -/

/-- KVQUERY at its serialisation point. -/
def State.kvQuery (s : State) (c : KvCmd) (p : Space) (i : Nat) : State :=
  let k := field c.args 4 4
  let q := p.seqOf i
  if !zeros c.args 8 32 then s.kvDone c 2 0 none
  else
    match q.blocks[k]? with
    | some e =>
      let w : Word × Word := if e.v then p.words e.frame else (0, 0)
      -- reading the entry rewrites its mirrors (02 R36)
      (s.updSpace p.id fun p => p.readEntries i k (k + 1)).kvDone c 0 0
        (some (natLe 8 (p.reread e).word.toNat ++ natLe 8 w.1.toNat ++ natLe 8 w.2.toNat))
    | none =>
      if k = 0xFFFFFFFF then
        s.kvDone c 0 0 (some (natLe 4 q.len ++ natLe 4 q.nb ++ natLe 4 q.cap ++ natLe 4 q.rsv.length ++ natLe 1 q.st ++
          natLe 1 q.dclass ++ natLe 6 0))
      else s.kvDone c 2 0 (some (List.replicate 24 0))

/-! ### KVSPACE (R270) -/

/-- Whether a module is one torus hop away (02 R51). -/
def State.neighbour (s : State) (m : Nat) : Bool :=
  let r := (s.mcrGet fxid).toNat
  let dims : List (Nat × Nat × Nat) := (List.range 3).map fun i => (s.mid / 16 ^ i % 16, m / 16 ^ i % 16, r / 2 ^ (12 + 4 * i) % 16 + 1)
  let diff := dims.filter fun d => d.1 != d.2.1
  s.inTorus m && diff.length == 1 && diff.all fun d => (d.1 + 1) % d.2.2 == d.2.1 || (d.2.1 + 1) % d.2.2 == d.1

/-- The offset of the first field of a descriptor that breaks R32 or R51. -/
def State.descBad (s : State) (d : List Byte) : Option Nat :=
  let f := field d
  let pool (o : Nat) : Bool := f o 8 % 256 == 0 && f (o + 12) 4 == 0
  let lends := f 2 1 / 4 % 2 == 1 || f 108 4 != 0
  ([(0, (s.ctxOf (f 0 2)).isSome), (2, f 2 1 < 8), (3, f 3 1 ≤ 4), (4, 1 ≤ f 4 2 && f 4 2 ≤ 512), (6, 1 ≤ f 6 1 && f 6 1 ≤ 64),
    (7, 1 ≤ f 7 1 && f 7 1 ≤ 8), (8, f 8 1 ≤ 6), (9, f 9 1 ≤ 4), (10, f 10 1 ≤ 1), (11, f 11 1 == 0), (12, 1 ≤ f 12 4),
    (16, f 16 8 % 64 == 0), (24, 1 ≤ f 24 4 && f 24 4 ≤ 2 ^ 24), (28, f 28 4 == 0), (32, f 32 8 % 64 == 0), (40, f 40 8 % 64 == 0),
    (48, pool 48), (64, pool 64), (80, pool 80), (100, f 96 4 ≤ f 100 4 && f 100 4 ≤ f 56 4),
    (104, !lends || f 104 2 < 4096 && s.neighbour (f 104 2)), (107, f 107 1 == 0), (116, f 116 12 == 0)].find? fun x => !x.2).map Prod.fst

/-- The space that a descriptor describes. -/
def spaceOf (id : Nat) (d : List Byte) (addr : Word) (addrCtx : Nat) : Space where
  id := id
  ctx := field d 0 2
  srem := field d 2 1 / 2 % 2 == 1
  lend := field d 2 1 / 4 % 2 == 1
  tcode := field d 3 1
  layers := field d 4 2
  heads := field d 6 1
  dblk := field d 7 1
  nat := field d 8 1
  policy := field d 9 1
  home := field d 10 1
  nf := field d 12 4
  stbase := fieldW d 16
  ns := field d 24 4
  fdtbase := fieldW d 32
  fpebase := fieldW d 40
  pool := #v[(fieldW d 48, field d 56 4), (fieldW d 64, field d 72 4), (fieldW d 80, field d 88 4)]
  wmlow := field d 96 4
  wmhigh := field d 100 4
  peer := field d 104 2 % 4096
  peersp := field d 106 1
  credit := field d 108 4
  stamp := BitVec.ofNat 32 (field d 112 4)
  demoteBlocked := false
  goal := none
  seqs := []
  frames := []
  moves := []
  recalls := []
  dirty := []
  seq := 0
  addr := addr
  addrCtx := addrCtx

/-- The offset of the first table or pool that is not wholly mapped (02 R37). -/
def State.descUnmapped (s : State) (p : Space) : Option Nat :=
  let rng : List (Nat × Word × Nat) := [(16, p.stbase, 32 * p.ns), (32, p.fdtbase, 8 * p.nf), (40, p.fpebase, 8 * p.nf)] ++
    (List.range 3).map fun t => (48 + 16 * t, (p.poolOf t).1, p.layers * (p.poolOf t).2 * p.slotSize t)
  (rng.find? fun r => r.2.2 != 0 && !s.kvMapped p.ctx r.2.1 r.2.2).map Prod.fst

/-- The offset of the first field in which a descriptor differs from a valid space where it may not. -/
def Space.descDiff (p q : Space) : Option Nat :=
  ([(0, p.ctx == q.ctx), (3, p.tcode == q.tcode), (4, p.layers == q.layers), (6, p.heads == q.heads), (7, p.dblk == q.dblk),
    (8, p.nat == q.nat), (9, p.policy == q.policy), (10, p.home == q.home), (12, p.nf == q.nf), (16, p.stbase == q.stbase),
    (24, p.ns == q.ns), (32, p.fdtbase == q.fdtbase), (40, p.fpebase == q.fpebase), (48, p.poolOf 0 == q.poolOf 0),
    (64, p.poolOf 1 == q.poolOf 1), (80, p.poolOf 2 == q.poolOf 2), (104, p.peer == q.peer),
    (106, p.peersp == q.peersp)].find? fun x => !x.2).map Prod.fst

/-- LEND_RECALL for the frames that a lowered credit leaves too many of, largest age first (11 R270). -/
def State.recallExcess (s : State) (p : Space) : State :=
  let held := p.frames.filter fun e => e.2.lentOut
  let age (f : Frame) : Nat := (p.stamp.toNat + 2 ^ 32 - f.use) % 2 ^ 26
  ((sortBy (fun a b => decide (age b.2 < age a.2 ∨ (age a.2 = age b.2 ∧ a.1 ≤ b.1))) held).take (held.length - p.credit)).foldl
    (fun s e => s.control e.2.peer (.lendRecall e.2.peer e.1)) s

/-- The tear-down of a space by a command of a task (11 R270). -/
def State.spaceDown (s : State) (who : Nat) (p : Space) : State :=
  let s1 := (p.seqs.filter fun e => e.2.st != 0).foldl (fun s e => (s.freeSeq p.id e.1).1) s
  let s2 := match s1.space p.id with
    | some q => s1.syncSpace who p q
    | none => s1
  { s2 with spaces := s2.spaces.filter fun q => q.id != p.id }

/-- The number of the space that a command acts on. -/
def KvCmd.spaceNo (c : KvCmd) : Nat := if c.kind = .kspace then c.handle else c.handle / 2 ^ 24

/-- Whether a command has arrived and could not be performed at once. -/
def KvCmd.begun (c : KvCmd) : Bool := c.waits || c.asked || c.stuck.isSome

/-- Whether an ATTN stream or a KV operation of a space is in flight (11 R270): one that came before, or that is under way. -/
def State.spaceBusy (s : State) (id n : Nat) : Bool :=
  (s.streams.any fun x => (x.assigned || x.id < n) && x.handle / 2 ^ 24 == id) ||
    s.kvcmds.any fun c => c.n != n && (c.n < n || c.performed || c.begun) && c.spaceNo == id

/-- The bytes of a descriptor through the issuing context's translation, read at their homes; or the failure of R270, with the
address of the first poisoned byte. -/
def State.descBytes (s : State) (c : KvCmd) : State × Except (Nat × Word × Option Trap) (List Byte) :=
  match s.kvSource c c.argVa 128 with
  | .error e => (s, .error e)
  | .ok ps =>
    let s1 := s.sourceTouch c ps
    let x := s1.sourceBytes ps 0 128
    (s1, if Pb.bad x then .error (cProt, c.argVa + BitVec.ofNat 64 (x.findIdx Prod.snd), none) else .ok (Pb.bytes x))

/-- A space created, replaced or torn down by a descriptor that breaks no limit (11 R270). At creation every sequence and every
identity is free, and nothing is written into the space's tables until a line of them changes (log 105); a tear-down's result takes
the DEMOTE_BLOCKED that was pending (02 R45). -/
def State.kvSpaceDo (s : State) (c : KvCmd) (d : List Byte) : State :=
  let q := spaceOf c.handle d c.argVa c.ctx
  match field d 2 1 % 2, s.space c.handle with
  | 0, none => s.kvDone c 2 2 none
  | 0, some p =>
    if p.frames.any fun e => e.2.lentOut then s.kvDone c 2 2 none
    else if s.spaceBusy c.handle c.n then s
    else (s.spaceDown c.task p).kvDone c (2 ^ 8 * p.demoteBlocked.toNat) 0 none
  | _, none =>
    match s.descUnmapped q with
    | some o => s.kvDone c 2 o none
    | none => ({ s with spaces := s.spaces ++ [q] }).kvDone c 0 0 none
  | _, some p =>
    match p.descDiff q with
    | some o => s.kvDone c 2 o none
    | none =>
      let p1 : Space := { p with srem := q.srem, lend := q.lend, wmlow := q.wmlow, wmhigh := q.wmhigh, credit := q.credit }
      let s1 := s.updSpace p.id fun _ => p1
      (if q.credit < p.credit then s1.recallExcess p1 else s1).kvDone c 0 0 none

/-- KVSPACE at its controller: VALID 0 for an invalid space is refused as such (11 R270); any other descriptor that breaks a limit is
refused whatever its VALID bit (02 R32). -/
def State.kvSpace (s0 : State) (c : KvCmd) : State :=
  let (s, r) := s0.descBytes c
  match r with
  | .error e => s.sourceFails c e
  | .ok d =>
    match if field d 2 1 % 2 = 0 ∧ (s.space c.handle).isNone then none else s.descBad d with
    | some o => s.kvDone c 2 o none
    | none => s.kvSpaceDo c d

/-! ### Issue and completion (R263) -/

/-- A command at its serialisation point. -/
def State.kvPerform (s : State) (c : KvCmd) : State :=
  match c.kind with
  | .kspace => s.kvSpace c
  | _ =>
    let i := c.handle % 2 ^ 24
    match s.space (c.handle / 2 ^ 24) with
    | none => s.kvBad c cKvHandle
    | some p =>
      if p.ctx ≠ c.ctx ∨ p.ns ≤ i then s.kvBad c cKvHandle
      else if c.kind ≠ .kopen ∧ (p.seqOf i).st ≠ 1 then s.kvBad c cKvHandle
      else
        match c.kind with
        | .kopen => s.kvOpen c p i
        | .kfork => s.kvFork c p i
        | .krsv => s.kvRsv c p i
        | .kwr => s.kvWr c p i
        | .ktrim => s.kvTrim c p i
        | .kfree => s.kvFree c p i
        | .kquery => s.kvQuery c p i
        | _ => s.kvRange c p i

/-- A command that has just been performed, or has failed before it was, takes the space counter of its event (19 R326, R328). -/
def State.kvSerial (s old : State) (c : KvCmd) : State :=
  match if c.performed then none else (s.space c.spaceNo).orElse fun _ => old.space c.spaceNo with
  | none => s
  | some p => (s.updKv c.n fun c => { c with serial := some p.seq }).updSpace p.id fun p => { p with seq := p.seq + 1 }

/-- The event of a completed command in the etch log (19 R326): the divergence, if there is one. -/
def State.kvEtch (s : State) (c : KvCmd) (slot : Option EtchSlot) (value : Word) : State × Option Word :=
  let obj := BitVec.ofNat 64 (if c.kind = .kspace then c.handle * 2 ^ 24 else c.handle)
  s.etchDone c.task 0x0C c.fail.isSome.toNat obj value ((c.serial.map Series.unit).getD .none) slot

/-- A command whose work is done: its result word, c.KVSTAT, its ticket and the count of the sequence's operations
(11 R263, 02 R35). Its task sees its writes from the fill on (14 R283). -/
def State.kvFinish (s : State) (c : KvCmd) : State :=
  let sid := c.spaceNo
  let i := c.handle % 2 ^ 24
  let blocked := ((s.space sid).map fun p => p.demoteBlocked).getD false
  let word : Word := BitVec.ofNat 64 (c.status + blocked.toNat * 2 ^ 8 + c.value % 2 ^ 32 * 2 ^ 32)
  let gone : State := { s with kvcmds := s.kvcmds.filter fun x => x.n != c.n }
  match gone.findOp c.op with
  | none => gone
  | some (t, op) =>
    match c.fail with
    | some f =>
      let (s1, d) := gone.kvEtch c op.etch (BitVec.ofNat 64 f.cause)
      let f1 := (d.map divFail).getD f
      (s1.finishOp t.id { op with fail := some f1 }).completeTicket t.id 4 c.ticket (some f) (some op.id)
    | none =>
      let s1 := match c.ans with
        | some a => gone.windowPut t (c.argVa + 8) a
        | none => gone
      let counts := c.kind != .kspace && !(c.kind == .kopen && c.status == 0)
      let s2 := s1.updSpace sid fun p =>
        let p1 := { p with demoteBlocked := false }
        if counts && (p1.seqOf i).st == 1 then p1.updSeq i fun q => { q with ops := (q.ops + 1) % 2 ^ 32 } else p1
      let (s3, d) := s2.kvEtch c op.etch word
      let op1 := { op with
        outs := op.outs.map fun o => { o with data := word.setWidth 1024 }
        poison := c.poisoned
        fail := d.map divFail }
      let s4 := ((s3.finishOp t.id op1).updTask t.id fun t => { t with ctl := { t.ctl with
        kvstat := (word &&& 0x1FF) ||| BitVec.ofNat 64 (c.ticket % 2 ^ 32 * 2 ^ 32) } }).advanceGen t.loc
      s4.completeTicket t.id 4 c.ticket none none

/-- Whether a command has nothing left to do. -/
def KvCmd.over (c : KvCmd) : Bool := c.performed && c.left.isEmpty && c.cur.isNone

/-- The handles of the sequences that a command names. -/
def KvCmd.handles (c : KvCmd) : List Nat := c.handle :: if c.kind = .kfork then [field c.args 4 4] else []

/-- The frames of the sequences that a command names. -/
def KvCmd.framesOf (c : KvCmd) (p : Space) : List Nat :=
  c.handles.flatMap fun h => ((p.seqOf (h % 2 ^ 24)).blocks.filter fun e => e.v).map fun e => e.frame

/-- Whether two commands act on one sequence or on a frame that two sequences share, or one of them on the space of the other
(02 R40). -/
def State.kvMeets (s : State) (c x : KvCmd) : Bool :=
  c.spaceNo == x.spaceNo && (c.kind == .kspace || x.kind == .kspace || c.handles.any x.handles.contains ||
    (s.space c.spaceNo).any fun p => (c.framesOf p).any (x.framesOf p).contains)

/-- Whether the turn of a command's event in its space's series has come (19 R333). -/
def State.kvTurn (s : State) (c : KvCmd) : Bool :=
  match s.findOp c.op, s.space c.spaceNo with
  | some (t, op), some p => s.myTurn t op.etch (.unit p.seq)
  | _, _ => true

/-- Whether a command may be worked on now (02 R40, 11 R263, log 47): its controller takes those that meet one at a time, in the order
in which they came, and those of one task in issue order; in proof mode each in its turn (19 R333). -/
def State.kvMay (s : State) (c : KvCmd) : Bool :=
  c.sent && !c.stuck.isSome && !c.asked && (c.performed || s.kvTurn c &&
    !s.kvcmds.any fun x => x.n != c.n && !x.performed &&
      ((x.begun && s.kvMeets c x) || (!x.begun && x.task == c.task && x.spaceNo == c.spaceNo && x.n < c.n)))

/-- Whether a command is the oldest of its task: the KV instructions of one complete in issue order (11 R263). -/
def State.kvOldest (s : State) (c : KvCmd) : Bool :=
  ((s.kvcmds.find? fun x => x.task == c.task).map fun x => x.n == c.n).getD false

/-- A command worked on as far as it goes, and completed when nothing is left and no earlier one of its task is. -/
def State.kvWork (s : State) (c : KvCmd) : State :=
  let s1 := if c.performed then s else s.kvPerform c
  let now := (s1.kvcmds.find? fun x => x.n == c.n).any KvCmd.performed
  let s2 := if now then s1.kvSerial s c else s1
  let s3 := s2.kvAdvance 65540 c.n
  let s4 := match s3.kvcmds.find? fun x => x.n == c.n with
    | some c2 =>
      if c2.over && s3.kvOldest c2 then
        -- a range instruction leaves current mirrors in the entries of its sequence (02 R36)
        let s4 := if c2.kind ∈ [KvKind.kclass, .kpin, .kdemote, .kpromote, .klend] then
          s3.updSpace c2.spaceNo fun p => p.readEntries (c2.handle % 2 ^ 24) 0 (p.seqOf (c2.handle % 2 ^ 24)).nb else s3
        s4.kvFinish c2
      else s3
    | none => s3
  s4.kvSyncBy c.task s

/-- A command that waited in its core until the earlier accesses of its task were performed leaves it (11 R263): the
dirty bytes of its context are written back (04 R86). -/
def State.kvLeave (s : State) (c : KvCmd) : State :=
  match s.task c.task with
  | none => s
  | some t =>
    if c.sent || t.unperformedBefore c.op then s
    else
      (s.flushCtx t.loc t.ctx).updKv c.n fun c => { c with sent := true }

/-- KV_OP_COMPLETE (11 R263). -/
def execKvOpComplete (n : Nat) (s : State) : Res :=
  match s.kvcmds.find? fun c => c.n == n with
  | some c =>
    let s1 := s.kvLeave c
    let c1 := (s1.kvcmds.find? fun c => c.n == n).getD c
    .next (if s1.kvMay c1 && !c1.waits then s1.kvWork c1 else s1)
  | none => .next s

/-- APPEND_WAIT_RESUME (02 R42): an append that waited for a frame goes on once frames suffice, or ends with KV_QUOTA
once no move out of tier T0 is left. -/
def execAppendWaitResume (n : Nat) (s : State) : Res :=
  match s.kvcmds.find? fun c => c.n == n with
  | some c =>
    if !c.waits then .next s
    else
      let t := (s.updKv n fun c => { c with waits := false }).kvWork { c with waits := false }
      .next (if (t.kvcmds.find? fun c => c.n == n).any fun c => c.waits then s else t)
  | none => .next s

/-- The supervisor's answer to a command, a move or a stream that waits under a token of its die (20 R346): 1 goes on, 2 and 3
fail with XLATE and PROT. A move that fails is abandoned, and its command fails with it. -/
def State.kvAnswer (s : State) (die : Nat) (v : Word) : State :=
  let tok := v.toNat % 2 ^ 32
  let act := v.toNat / 2 ^ 32 % 4
  let cause := if act = 2 then cXlate else cProt
  let mine (x : Option (Nat × Word)) : Bool := (x.map fun y => y.1 == tok).getD false
  if act = 0 then s
  else
    let s1 := (s.kvcmds.filter fun c => mine c.stuck && ((s.space c.spaceNo).map Space.home) == some die).foldl (fun s c =>
      match c.stuck with
      | some (_, va) => if act = 1 then s.updKv c.n fun c => { c with stuck := none } else (s.kvQuit c.n cause va).kvSerial s c
      | none => s) s
    let s2 := (s1.spaces.filter fun p => p.home == die).foldl (fun s p => (p.moves.filter fun m => mine m.stuck).foldl (fun s m =>
      if act = 1 then s.updMove p.id m.ident fun m => { m with stuck := none }
      else
        let s2 := s.moveFails p m cause ((m.stuck.map Prod.snd).getD 0)
        match m.why with
        | .kv n => ((s.kvcmds.find? fun c => c.n == n).map (s2.kvSerial s)).getD s2
        | _ => s2) s) s1
    { s2 with streams := s2.streams.map fun x =>
        if mine x.stuck && dieOf x.loc == die then
          match x.stuck with
          | some (_, va) =>
            if act = 1 then { x with stuck := none }
            else { x with stuck := none, stop := 5, stopBlock := x.block, fault := some ⟨cause, 0, va, some (2, x.ticket)⟩ }
          | none => x
        else x }

/-- A KV command begun: D is EMPTY, a tl.kv ticket is drawn, and it leaves for its controller unless a lower slot of its bundle has
begun an access that is not performed yet (11 R263). -/
def State.kvSend (s : State) (kind : KvKind) (d : SReg) (handle : Nat) (args : List Byte) (va : Word) : State :=
  let ticket := s.cur.nextTicket 4
  let sent := !s.cur.ops.any Op.unperformed
  let s0 := if sent then s.flushCtx s.cur.loc s.cur.ctx else s
  let s1 := s0.setCur fun t => t.draw 4
  let n := s1.nextId
  let s2 := ({ s1 with nextId := n + 1 }.beginOp (.kv n) [outS d 0] false).reserveOp
  let c : KvCmd := ⟨n, s.cur.id, s.cur.ctx, s.cur.loc, kind, handle, args, va, s.cur.ctl.sv, s.cur.depth, ticket, n + 1, false,
    false, 0, 0, none, none, [], none, [], none, false, sent, false, none, none⟩
  { s2 with kvcmds := s2.kvcmds ++ [c] }

/-- What every KV instruction checks at issue (11 R263): alignment, the task window, the handle; and it waits for the memory
operations of earlier bundles. -/
def kvIssue (kind : KvKind) (o : MSOps) (s : State) : Res :=
  s.slot (baseUse o.a o.wa ++ [.mark (.s o.d)]) fun s =>
    let va := s.base o.a + o.off.signExtend 64 * 32
    if va.extractLsb' 0 5 ≠ 0#5 then .error (.trap (.now cMisalign va))
    else if s.cur.ctl.spb.toNat ≤ va.toNat ∧ va.toNat + 32 ≤ min s.cur.ctl.spl.toNat padSize then
      if s.unperformedEarlier then .error (.wait false)
      else
        let args := s.bytesSeen (padBase s.cur.loc + va.toNat) 32
        let h := field args 0 4
        let bad : Except Stop State := .error (.trap (.now cKvHandle (BitVec.ofNat 64 h)))
        match s.space (h / 2 ^ 24) with
        | none => bad
        | some p =>
          if p.ctx ≠ s.cur.ctx ∨ p.ns ≤ h % 2 ^ 24 then bad
          else
            match s.etchReady 0x0C 0 (BitVec.ofNat 64 h) (.unit p.seq) none with
            | .error e => .error e
            | .ok _ => .ok (s.kvSend kind o.d h args va)
    else .error (.trap (.now cSpBound va))

/-- KVOPEN (11 R265). -/
def execKvopen (o : MSOps) (s : State) : Res := kvIssue .kopen o s
/-- KVFORK (11 R265). -/
def execKvfork (o : MSOps) (s : State) : Res := kvIssue .kfork o s
/-- KVRSV (11 R266). -/
def execKvrsv (o : MSOps) (s : State) : Res := kvIssue .krsv o s
/-- KVWR (11 R267). -/
def execKvwr (o : MSOps) (s : State) : Res := kvIssue .kwr o s
/-- KVTRIM (11 R268). -/
def execKvtrim (o : MSOps) (s : State) : Res := kvIssue .ktrim o s
/-- KVFREE (11 R268). -/
def execKvfree (o : MSOps) (s : State) : Res := kvIssue .kfree o s
/-- KVCLASS (11 R268). -/
def execKvclass (o : MSOps) (s : State) : Res := kvIssue .kclass o s
/-- KVPIN (11 R268). -/
def execKvpin (o : MSOps) (s : State) : Res := kvIssue .kpin o s
/-- KVDEMOTE (11 R268). -/
def execKvdemote (o : MSOps) (s : State) : Res := kvIssue .kdemote o s
/-- KVPROMOTE (11 R268). -/
def execKvpromote (o : MSOps) (s : State) : Res := kvIssue .kpromote o s
/-- KVLEND (11 R268). -/
def execKvlend (o : MSOps) (s : State) : Res := kvIssue .klend o s
/-- KVQUERY (11 R269). -/
def execKvquery (o : MSOps) (s : State) : Res := kvIssue .kquery o s

/-- KVSPACE (11 R270). -/
def execKvspace (o : SpaceOps) (s : State) : Res :=
  s.slot (baseUse o.a o.wa ++ [.mark (.s o.d)]) fun s =>
    if !s.cur.ctl.sv then .error s.protFree
    else
      let sp := o.sp.toNat
      let ser : Series := match s.space sp with
        | some p => .unit p.seq
        | none => .none
      match s.etchReady 0x0C 0 (BitVec.ofNat 64 (sp * 2 ^ 24)) ser none with
      | .error e => .error e
      | .ok _ => .ok (s.kvSend .kspace o.d sp [] (s.base o.a))

end Sys2Proof.Machine
end

