-- ==== Sys2Proof/Machine/Mcr.lean ====
section
/-! DEFINITION. The memory control space: what a read of a register answers and what a write does (01 R28; 03 R60, R77;
04 R93, R94; 15 R297; 20 R346; 23 R358; 24 R372, R373). -/

namespace Sys2Proof.Machine

/-- The bits of `new` under a mask, the others of `old`. -/
def under (mask new old : Word) : Word := (new &&& mask) ||| (old &&& ~~~mask)

/-- `n` bits from bit `lo`. -/
def bitsAt (lo n : Nat) : Word := BitVec.ofNat 64 ((2 ^ n - 1) * 2 ^ lo)

/-- A field of a register as a number. -/
def Word.get (v : Word) (lo n : Nat) : Nat := v.toNat / 2 ^ lo % 2 ^ n

/-- Bits that a write of 1 clears. -/
def w1c (mask new old : Word) : Word := old &&& ~~~(new &&& mask)

/-! ### Which registers there are -/

/-- The bits of a plain register that software writes (01 R28, R29; 03 R77; 15 R297; 24 R372). Registers with effects of
their own are not among them. -/
def plainMask (die off : Nat) : Word :=
  if off < 0x50000 then
    if !hasBlock die (off / 0x10000) then 0
    else
      let o := off % 0x10000
      if 0x100 ≤ o ∧ o < 0x200 then bitsAt 16 32
      else if o = 0x200 then bitsAt 0 17
      else 0
  else if 0x81000 ≤ off ∧ off < 0x81030 then bitsAt 4 32
  else if 0xF0000 ≤ off then
    match off - 0xF0000 with
    | 0x00 => bitsAt 12 36
    | 0x08 => bitsAt 0 4
    | 0x18 | 0x20 => bitsAt 0 32
    | _ => 0
  else if die ≠ 0 then 0
  else
    match off with
    | 0x80008 => bitsAt 13 35
    | 0x80010 => bitsAt 0 20
    | 0x80018 => bitsAt 0 48
    | 0xA0000 | 0xA0020 | 0xA0040 | 0xA0060 => bitsAt 0 64
    | 0xA0008 | 0xA0028 | 0xA0048 | 0xA0068 => bitsAt 0 4 ||| bitsAt 16 32
    | 0xA0010 | 0xA0030 | 0xA0050 | 0xA0070 => bitsAt 0 64
    | 0xD0000 => bitsAt 12 36
    | 0xD0008 => bitsAt 0 4
    | 0xD0018 => bitsAt 0 32
    | 0xD0040 => bitsAt 4 48
    | 0xD0048 => bitsAt 0 4
    | 0xD0058 => bitsAt 0 32
    | _ => 0

/-! ### Reads -/

/-- Tasks in the ready queues: new ones, and saved ones whose event has come (15 R297, R299). -/
def State.readyCount (s : State) : Nat :=
  (s.tasks.filter fun t => t.status == .ready || (t.status == .saved && t.latched)).length

/-- A register as it reads (01 R28). -/
def State.regRead (s : State) (pa : Nat) : Word :=
  let die := (pa - ctlBase 0) / 0x1000000
  let off := (pa - ctlBase 0) % 0x1000000
  let v := s.mcrGet pa
  if off = 0x90000 then (if die < 2 then 0 else under (bitsAt 16 16) (BitVec.ofNat 64 (s.sets.length * 2 ^ 16)) v)
  else if die = 0 then
    match off with
    | 0xA0080 => BitVec.ofNat 64 (s.sets.length + s.readyCount * 2 ^ 32)
    | 0xC0000 => 0
    | 0xC0008 => BitVec.ofNat 64 (s.sec.queue.length + s.sec.unlocked.toNat * 2 ^ 6) ||| (v &&& 0x20)
    | 0xC0010 => BitVec.ofNat 64 (s.sec.arb + s.sec.wasted * 2 ^ 7)
    | _ => v
  else v

/-! ### Registers with effects -/

/-- HMROT of a stack (01 R24, R28). -/
def hmrot (die stack : Nat) : Nat := ctlBase die + stack * 0x10000 + 0x208

/-- HMRET of a stack (01 R26, R28). -/
def hmret (die stack : Nat) : Nat := ctlBase die + stack * 0x10000 + 0x300

/-- HMSTAT of a stack (01 R28). -/
def hmstat (die stack : Nat) : Nat := ctlBase die + stack * 0x10000

/-- HMCH of a channel (01 R28). -/
def hmch (die stack chan : Nat) : Nat := ctlBase die + stack * 0x10000 + 0x100 + 8 * chan

/-- A write of HMROT (01 R24, R28): GO starts a rotation pass or is refused with ERR. Slots
written while a pass runs replace its own (log 101). -/
def State.hmrotWrite (s : State) (die stack : Nat) (v : Word) : State :=
  let old := s.mcrGet (hmrot die stack)
  let new := w1c (bitsAt 18 2) v (under (bitsAt 0 16 ||| bitsAt 20 2) v old)
  if !v.getLsbD 16 then s.mcrPut (hmrot die stack) new
  else if old.getLsbD 17 || Word.get v 0 8 == Word.get v 8 8 || Word.get v 0 8 == 255 || Word.get v 8 8 == 255 then
    s.mcrPut (hmrot die stack) (new ||| bitsAt 19 1)
  else (s.mcrPut (hmrot die stack) (new ||| bitsAt 17 1)).mcrPut (hmrot die stack + 8) 0

/-- The state of a channel. -/
def State.chanState (s : State) (die stack chan : Nat) : Nat := Word.get (s.mcrGet (hmch die stack chan)) 0 2

/-- A channel's state changed. -/
def State.putChan (s : State) (die stack chan st : Nat) : State :=
  s.mcrPut (hmch die stack chan) (under 3 (BitVec.ofNat 64 st) (s.mcrGet (hmch die stack chan)))

/-- The mode of a half-stack: 0, 1 and 2 for 16, 15 and 14 ways (01 R28). -/
def State.halfMode (s : State) (die stack half : Nat) : Nat := Word.get (s.mcrGet (hmstat die stack)) (2 * half) 2

/-- The channel of a half-stack that holds the data line that R10 places on channel `ch` of stripe `k`, with the channels of it
that are out of use in the order of their retirements (01 R10, R26): the line of the first moves to the reserve channel, the line
of the second to where the parity line then is (log 25). -/
def lineChannel (k ch : Nat) (out : List Nat) : Nat :=
  let reserve := (k + 1) % 16
  match out with
  | [] => ch
  | a :: rest =>
    let at_ := if ch = a then reserve else ch
    let parity := if k % 16 = a then reserve else k % 16
    match rest with
    | [] => at_
    | b :: _ => if at_ = b then parity else at_

/-- The base of a node of tier T0 (01 R12). -/
def nodeBase (n : Nat) : Nat := if n < 2 then n * 0x004000000000 else 0x008000000000 + (n - 2) * 0x001000000000

/-- The half-stacks of a node of tier T0 (01 R11). -/
def groupsOf (n : Nat) : Nat := if n < 2 then 8 else 2

/-- Where a line of tier T0 lies: its node, stack, half-stack, stripe and data line (01 R10, R11). -/
structure StripeLine where
  node : Nat
  stack : Nat
  half : Nat
  stripe : Nat
  ix : Nat
  deriving DecidableEq, Repr

/-- Where the line of an address of a node of tier T0 lies (01 R10, R11). -/
def stripeLine (n pa : Nat) : StripeLine :=
  let l := (pa - nodeBase n) / 256
  let g := (l ^^^ (l >>> 12)) % groupsOf n
  let i := l / groupsOf n
  ⟨n, g / 2, g % 2, i / 14, i % 14⟩

/-- The address of a line of tier T0 (01 R10, R11). -/
def StripeLine.addr (x : StripeLine) : Nat :=
  let i := 14 * x.stripe + x.ix
  let l := i * groupsOf x.node
  nodeBase x.node + 256 * (l + (2 * x.stack + x.half ^^^ (l >>> 12)) % groupsOf x.node)

/-- The channels of a half-stack, counted within it, that a stripe does not use, in the order of their retirements (01 R26, R27):
the retiring one is among them for the stripes below its frontier. -/
def State.outOfUse (s : State) (n stack half k : Nat) : List Nat :=
  let mine (r : Retire) : Bool := r.die == n && r.stack == stack && r.chan / 16 == half
  ((s.retired.filter mine) ++ (s.retiring.filter fun r => mine r && k < Word.get (s.mcrGet (hmret n stack + 8)) 0 23)).map fun r =>
    r.chan % 16

/-- Die, stack and channel of the controller of a line of nodes 0 to 7: stack 4 for LPDDR, 5 for the pool port
(01 R10, R11, R14 to R16, R27). -/
def State.memSite (s : State) (pa : Nat) : Nat × Nat × Nat :=
  match s.place pa with
  | .node 6 =>
    let l := (pa - 0x010000000000) / 256
    let live := (List.range 24).filter fun n =>
      !([0, 1].any fun d => s.chanState d 4 n == 3)
    let ch := live.getD (l % live.length) 0
    (if ch < 12 then 0 else 1, 4, ch)
  | .node 7 => (1, 5, 0)
  | .node n =>
    let x := stripeLine n pa
    (n, x.stack, 16 * x.half + lineChannel x.stripe ((x.stripe + 2 + x.ix) % 16) (s.outOfUse n x.stack x.half x.stripe))
  | _ => (0, 0, 0)

/-- An error count of a channel raised, saturating: CECNT at bit 16, UECNT at bit 32 (01 R28). -/
def State.countError (s : State) (die stack chan bit : Nat) : State :=
  if 4 < stack then s
  else
    let v := s.mcrGet (hmch die stack chan)
    let n := Word.get v bit 16
    if n = 65535 then s else s.mcrPut (hmch die stack chan) (v + BitVec.ofNat 64 (2 ^ bit))

/-- Whether a level of a context's tables maps a page of node 6 (01 R15). -/
def State.mapsT1 (s : State) (c : Ctx) : Bool :=
  let t1 (pa : Nat) : Bool := 0x010000000000 ≤ pa && pa < 0x030000000000
  let leafT1 (e : Word) (block : Bool) : Bool := match leafTarget e block 0 with
    | .phys pa => t1 pa
    | .fabric .. => false
  (List.range 64).any fun i =>
    let e1 := BitVec.ofNat 64 (s.word (c.ptroot + 8 * i) 8)
    pteType e1 == 1 && !pteMalformed 1 e1 && (List.range 8192).any fun j =>
      let e2 := BitVec.ofNat 64 (s.word (pteTable e1 + 8 * j) 8)
      if pteMalformed 2 e2 then false
      else if pteType e2 = 2 then leafT1 e2 true
      else pteType e2 == 1 && (List.range 8192).any fun k =>
        let e3 := BitVec.ofNat 64 (s.word (pteTable e2 + 8 * k) 8)
        !pteMalformed 3 e3 && pteType e3 == 2 && leafT1 e3 false

/-- Why a retirement is refused (01 R15, R26, R28), if it is: the code of RESULT; where several cases hold, the first in the order
of R26's table (log 101). Either LPDDR block may retire any channel of tier T1 (log 101). -/
def State.retireRefused (s : State) (die stack chan : Nat) : Option Nat :=
  if stack = 4 ∧ 24 ≤ chan then some 3
  else if stack ≠ 4 ∧ s.halfMode die stack (chan / 16) = 2 then some 1
  else if (s.retiring.any fun r => r.die == die && r.stack == stack) || (stack == 4 && s.ctxs.any fun c => s.mapsT1 c) then some 2
  else if s.chanState die stack chan = 3 then some 3
  else none

/-- The retirement of a channel begun (01 R26, R27). A T1 channel has no stripes to rebuild, so it is retired at once
(01 R14, R15). -/
def State.retire (s : State) (die stack chan : Nat) : State :=
  let s1 := s.errLog die 7 stack chan 0 0 0
  if stack = 4 then ((s1.putChan die stack chan 3).mcrPut (hmret die stack) (s1.mcrGet (hmret die stack) ||| bitsAt 7 1)).errLog die 8 stack chan 0 0 0
  else
    let s2 := (s1.putChan die stack chan 2).mcrPut (hmret die stack) (s1.mcrGet (hmret die stack) ||| bitsAt 6 1)
    { s2.mcrPut (hmret die stack + 8) 0 with retiring := s2.retiring ++ [⟨die, stack, chan⟩] }

/-- A write of HMRET (01 R26, R28): GO starts a retirement or is refused with a RESULT; a channel refused for its half-stack's mode
stays in service as SUSPECT. -/
def State.hmretWrite (s : State) (die stack : Nat) (v : Word) : State :=
  let old := s.mcrGet (hmret die stack)
  let new := w1c (bitsAt 7 1) v (under (bitsAt 0 5 ||| bitsAt 8 2) v old)
  let put (x : Word) : State := s.mcrPut (hmret die stack) x
  if !v.getLsbD 5 then put new
  else
    let chan := Word.get v 0 5
    match s.retireRefused die stack chan with
    | some r =>
      let s1 := put (under (bitsAt 10 3) (BitVec.ofNat 64 (r * 2 ^ 10)) new)
      if r = 1 ∧ s1.chanState die stack chan = 0 then s1.putChan die stack chan 1 else s1
    | none => (put (under (bitsAt 10 3) 0 new)).retire die stack chan

/-- Every core's generation advances (04 R93). -/
def State.advanceAll (s : State) : State := (List.range 1024).foldl (fun s l => s.advanceGen l) s

/-- A write of WSCTL of weight store `k` (04 R93, R94): OPEN 1 while task sets hold the seal is refused with ERR;
OPEN 0 seals, and every core's generation advances. -/
def State.wsctlWrite (s : State) (k : Nat) (v : Word) : State :=
  let old := s.mcrGet (wsctl k)
  let new := w1c (bitsAt 1 1) v (under (bitsAt 32 16) v old)
  if !v.getLsbD 0 then (s.mcrPut (wsctl k) (new &&& ~~~(1 : Word))).advanceAll
  else if s.sets ≠ [] then s.mcrPut (wsctl k) (new ||| 2)
  else s.mcrPut (wsctl k) (new ||| 1)

/-- The modules one hop away (03 R60). -/
def State.neighbours (s : State) : List Nat :=
  let r := (s.mcrGet fxid).toNat
  let hop (i : Nat) : List Nat :=
    let n := r / 2 ^ (12 + 4 * i) % 16 + 1
    let x := s.mid / 16 ^ i % 16
    [(x + 1) % n, (x + n - 1) % n].map fun y => s.mid - x * 16 ^ i + y * 16 ^ i
  ((List.range 3).flatMap hop).eraseDups.filter s.neighbour

/-- LEND_GONE for every space, sent to the modules that can have borrowed, once after the incarnation has changed (02 R52). -/
def State.announce (s : State) : State :=
  let s1 := match s.fabric.told with
    | some k => if k = s.incarnation then s else s.neighbours.foldl (fun s m => s.send (.lendGone m none)) s
    | none => s
  s1.updFabric fun f => { f with told := some s.incarnation }

/-- A write of FXID (03 R60, R77, 02 R52, R53): MID changes only while EN is 0; setting EN sends an incarnation notice to
every neighbour. Clearing it drops the requests that wait at this module, which can no longer be answered (log 13). -/
def State.fxidWrite (s : State) (v : Word) : State :=
  let old := s.mcrGet fxid
  let mid := if old.getLsbD 40 then 0 else bitsAt 0 12
  let s1 := s.mcrPut fxid (under (mid ||| bitsAt 12 12 ||| bitsAt 40 1) v old)
  if v.getLsbD 40 && !old.getLsbD 40 then
    (s1.neighbours.foldl (fun s m => s.send (.incarnation m s.incarnation)) s1).announce
  else if v.getLsbD 40 then s1
  else s1.updFabric fun f => { f with waits := [], acqs := [] }

/-- A command block enqueued, or SCSTAT.DROP (23 R358). -/
def State.scEnqueue (s : State) (e : ScEntry) : State :=
  if 16 ≤ s.sec.queue.length then
    s.mcrPut (ctlBase 0 + 0xC0008) (s.mcrGet (ctlBase 0 + 0xC0008) ||| 0x20)
  else { s with sec := { s.sec with queue := s.sec.queue ++ [e] } }

/-- A register written by software (01 R28). -/
def State.regWrite (s : State) (pa : Nat) (v : Word) : State :=
  let die := (pa - ctlBase 0) / 0x1000000
  let off := (pa - ctlBase 0) % 0x1000000
  let old := s.mcrGet pa
  let block := off < 0x50000 && hasBlock die (off / 0x10000)
  if block && off % 0x10000 == 0x208 then s.hmrotWrite die (off / 0x10000) v
  else if block && off % 0x10000 == 0x300 then s.hmretWrite die (off / 0x10000) v
  else if off = 0x90000 ∧ 2 ≤ die then s.wsctlWrite (die - 2) v
  else if off = 0xB0000 then ((s.mcrPut pa (v &&& bitsAt 0 34)).xfresp die v).kvAnswer die v
  else if die = 0 ∧ off = 0x80000 then s.fxidWrite v
  else if die = 0 ∧ off = 0xC0000 then s.scEnqueue (.block ((v &&& bitsAt 6 42).toNat))
  else if die = 0 ∧ off = 0xC0008 then s.mcrPut pa (w1c 0x20 v old)
  else if die = 0 ∧ off = 0xD0060 then
    (s.mcrPut pa (w1c (bitsAt 49 1) v (under (bitsAt 0 38 ||| bitsAt 48 1) v old))).interrupt
  else
    let s1 := s.mcrPut pa (under (plainMask die off) v old)
    -- room in the journal lets the records that wait be written (24 R372)
    if die = 0 ∧ 0xD0000 ≤ off ∧ off < 0xD0020 then s1.drainDone else s1

/-! ### The steps that a register write is -/

/-- REGISTER_WRITE (01 R28): a register written from outside the cores, through BAR0 (24 R370). -/
def execRegisterWrite (pa : Nat) (v : Word) (s : State) : Res :=
  .next (match s.place pa with
    | .control .. => if pa % 8 = 0 then s.regWrite pa v else s
    | _ => s)

/-- KEY_ROTATE (01 R24): HMROT written. -/
def execKeyRotate (die stack : Nat) (v : Word) (s : State) : Res :=
  .next (if die < 6 ∧ hasBlock die stack then s.hmrotWrite die stack v else s)

/-- CHANNEL_RETIRE (01 R26): HMRET written. -/
def execChannelRetire (die stack : Nat) (v : Word) (s : State) : Res :=
  .next (if die < 6 ∧ hasBlock die stack then s.hmretWrite die stack v else s)

/-- WS_UNSEAL (04 R93): WSCTL written with OPEN 1. -/
def execWsUnseal (k : Nat) (v : Word) (s : State) : Res :=
  .next (if k < 4 ∧ v.getLsbD 0 then s.wsctlWrite k v else s)

/-- WS_SEAL (04 R93): WSCTL written with OPEN 0. -/
def execWsSeal (k : Nat) (v : Word) (s : State) : Res :=
  .next (if k < 4 ∧ !v.getLsbD 0 then s.wsctlWrite k v else s)

/-- WS_REFRESH_PHASE (04 R94): the refresh window of a store moves to the next partition. -/
def execWsRefreshPhase (k : Nat) (s : State) : Res :=
  .next (if h : k < 4 then { s with wsPhase := s.wsPhase.set k ((s.wsPhase[k] / 2048 + 1) % 8 * 2048) } else s)

/-- FABRIC_ENABLE (03 R60, 02 R53): FXID written with EN 1. -/
def execFabricEnable (v : Word) (s : State) : Res := .next (if v.getLsbD 40 then s.fxidWrite v else s)

/-- FABRIC_DISABLE (03 R60): FXID written with EN 0. -/
def execFabricDisable (v : Word) (s : State) : Res := .next (if v.getLsbD 40 then s else s.fxidWrite v)

/-- XFRESP written with a value of ACT. -/
def State.answer (s : State) (die : Nat) (v : Word) (act : Nat) : State :=
  if die < 6 ∧ Word.get v 32 2 = act then s.regWrite (ctlBase die + 0xB0000) v else s

/-- XFRESP_RETRY (20 R346). -/
def execXfrespRetry (die : Nat) (v : Word) (s : State) : Res := .next (s.answer die v 1)

/-- XFRESP_FAIL_XLATE (20 R346). -/
def execXfrespFailXlate (die : Nat) (v : Word) (s : State) : Res := .next (s.answer die v 2)

/-- XFRESP_FAIL_PROT (20 R346). -/
def execXfrespFailProt (die : Nat) (v : Word) (s : State) : Res := .next (s.answer die v 3)

end Sys2Proof.Machine
end

