-- ==== Sys2Proof/Machine/Access.lean ====
section
/-! DEFINITION. Where an address leads and whether it may be used (10 R219, R220), and reading and writing there: the
loads and stores of a slot as lists of pieces, held behind full/empty operations where they must be (10 R221, R227). -/

namespace Sys2Proof.Machine

/-! ### The checks of an access (10 R219, R220) -/

/-- The three columns of R219; a vector access is a plain one that is never one aligned doubleword of memory control space
(01 R28). -/
inductive Way where
  | plain | vec | atomic | fe
  deriving DecidableEq, Repr

/-- A trap at the bundle. -/
def trapNow {α : Type} (cause : Nat) (eval : Word) : Except Stop α := .error (.trap (.now cause eval))

/-- The way conversions and restorations of a context that are outstanding at a core, in issue order (10 R245). -/
def State.extOps (s : State) (loc ctx : Nat) : List Op :=
  sortBy (fun a b => decide (a.id ≤ b.id)) ((s.tasks.filter fun t => t.loc == loc && t.ctx == ctx).flatMap fun t =>
    t.ops.filter fun o => o.converts != 0 || o.kind == .wayrest)

/-- The ways that a list of outstanding operations will convert behind its last restoration (10 R245). -/
def comingWays (os : List Op) : Nat := ((os.reverse.takeWhile fun o => o.kind != .wayrest).map Op.converts).sum

/-- An access of the local window, its extension or the reserved range (04 R87 to R89): one to a range that is being
converted waits for the conversion (10 R245). -/
def State.reachLocal (s : State) (w : Way) (va : Word) (n : Nat) (report : Word) : Except Stop Dest :=
  let a := va.toNat
  let pa := padBase s.cur.loc + a
  let c := s.core s.cur.loc
  let done := padSize + 0x8000 * c.extWays
  if a < padSize then
    if s.cur.inWindow va n then .ok (.pad pa) else trapNow cSpBound report
  else if c.extOwner ≠ s.cur.ctx then trapNow cSpBound report
  else if done + 0x8000 * comingWays (s.extOps s.cur.loc s.cur.ctx) < a + n then trapNow cSpBound report
  else if w ≠ .plain ∧ w ≠ .vec then trapNow cProt report
  else if a + n ≤ done ∨ s.cur.ops.any (fun o => o.converts != 0) then .ok (.ext pa)
  else .error (.wait false)

/-- Where a physical address leads for a kind of access (04 R93; 10 R219, R220; 23 R363); the first `skip` bytes are not
accessed. -/
def State.reachPhys (s : State) (w : Way) (k : Acc) (pa n skip : Nat) (report : Word) : Except Stop Dest :=
  match s.place pa with
  | .node _ =>
    if w = .fe then trapNow cProt report
    else match s.firstRefused s.cur.ctx (pa + skip) (n - skip) with
      | some q => trapNow cProt (report + BitVec.ofNat 64 (q - (pa + skip)))
      | none => .ok (.node pa)
  | .pad .. => .ok (.pad pa)
  | .weights i _ =>
    let ok := match k with
      | .load => !s.wsOpen i
      | .store => s.cur.ctl.sv && s.wsOpen i
      | _ => false
    if (w = .plain ∨ w = .vec) ∧ ok = true then .ok (.weights pa) else trapNow cProt report
  | .control .. => if w = .plain ∧ n = 8 ∧ pa % 8 = 0 then .ok (.control pa) else trapNow cMisalign report
  | .none => trapNow cMachine (BitVec.ofNat 64 (pa + skip))

/-- The checks of R220 after alignment for `n` bytes at an address that cross no page; `report` is the lowest of them that
is accessed. -/
def State.reach (s : State) (w : Way) (k : Acc) (va : Word) (n : Nat) (report : Word) : Except Stop Dest :=
  if va.toNat < 0x400000 then s.reachLocal w va n report
  else
    match s.translate (.core s.cur.loc) s.cur.ctx s.cur.ctl.sv k va with
    | .error t => .error (.trap (t.reportAt report))
    | .ok (.fabric m off) =>
      if w = .fe then trapNow cProt report else .ok (.fabric (BitVec.ofNat 64 (m * 2 ^ 52 + off)))
    | .ok (.phys pa) => s.reachPhys w k pa n (report.toNat - va.toNat) report

/-- The checks of one aligned element, its alignment first. -/
def State.reachAligned (s : State) (w : Way) (k : Acc) (va : Word) (n : Nat) : Except Stop Dest :=
  if va.toNat % n ≠ 0 then trapNow cMisalign va else s.reach w k va n va

/-! ### Scopes (10 R231) -/

/-- Whether a scope covers a place at a location. -/
def coversPad (sc : Scope) (me loc : Nat) : Bool :=
  match sc with
  | .co => loc == me
  | .cl => sliceOf loc == sliceOf me
  | .di => dieOf loc == dieOf me
  | .pk | .sy => true

/-- Whether a scope covers a home slice. -/
def coversHome (sc : Scope) (me slice : Nat) : Bool :=
  match sc with
  | .co => false
  | .cl => slice == sliceOf me
  | .di => sliceDie slice == dieOf me
  | .pk | .sy => true

/-- Whether a scope around the focused task's core covers a target. -/
def State.covers (s : State) (sc : Scope) : Dest → Bool
  | .pad pa | .ext pa => coversPad sc s.cur.loc ((pa - padBase 0) / 0x400000)
  | .node pa => coversHome sc s.cur.loc (home pa)
  | .weights _ | .control _ => sc == .pk || sc == .sy
  | .fabric _ => sc == .sy

/-! ### Reading and writing at a place -/

/-- The bytes under a mask read within one line or granule, with those between them: the machine, the bytes, and whether any of
those under the mask is poisoned. -/
def State.readMasked (s : State) (a : Agent) (d : Dest) (mask : List Bool) : State × List Byte × Bool :=
  match d with
  | .node pa | .weights pa => s.l1Load a pa mask
  | .pad pa | .ext pa => (s, s.bytes pa mask.length, s.anyPoison pa mask.length)
  | .control pa => (s, natLe 8 (s.regRead pa).toNat, false)
  | .fabric _ => (s, [], false)

/-- `n` bytes read within one line or granule: the machine, the bytes, and whether they are poisoned. -/
def State.readDest (s : State) (a : Agent) (d : Dest) (n : Nat) : State × List Byte × Bool :=
  s.readMasked a d (List.replicate n true)

/-- Bytes written within one line by an operation, 0 for none: commands issued after it are not spoiled (11 R255). -/
def State.writeDest (s : State) (a : Agent) (op : Nat) (d : Dest) (bs : List (Option Byte)) : State :=
  match d with
  | .node pa => s.l1Store a pa bs
  | .pad pa | .ext pa | .weights pa => (s.padPut pa bs).spoil pa bs.length a.task op
  | .control pa => s.regWrite pa (BitVec.ofNat 64 (leNat (bs.map fun b => b.getD 0)))
  | .fabric _ => s

/-- Whether a load must go to tier T2 for its bytes (03 R76): they are in neither the L1 nor the home slice. -/
def State.missesT2 (s : State) (a : Agent) (pa n : Nat) : Bool :=
  (match s.place pa with
   | .node k => k == 7
   | _ => false) && !(s.l2Sector pa).valid &&
    (match s.lineAt a.loc a.ctx (pa / 64) with
     | some l => (List.range n).any fun i => l.needs (s.core a.loc).gen (pa % 64 + i)
     | none => true)

/-! ### The pieces of an access -/

/-- A piece as it is asked for: address, bytes, bit of the register, which bytes are accessed. -/
structure Want where
  va : Word
  n : Nat
  bit : Nat
  mask : List Bool
  deriving DecidableEq, Repr

/-- The lowest byte that is accessed. -/
def Want.lowest (w : Want) : Word := w.va + BitVec.ofNat 64 (w.mask.findIdx id)

/-- The pieces wanted, each checked, in ascending order; the first that fails is reported (10 R220). -/
def State.reachAll (s : State) (k : Acc) : List Want → Except Stop (List Piece)
  | [] => .ok []
  | w :: ws =>
    match s.reach .vec k w.va w.n w.lowest with
    | .error e => .error e
    | .ok d =>
      match s.reachAll k ws with
      | .error e => .error e
      | .ok ps => .ok (⟨d, w.n, w.bit, w.mask⟩ :: ps)

/-- The chunks of `g` bytes of a vector access that have an active lane (10 R224): a load reads aligned doublewords, its
single-copy atomic units (14 R276), a store writes 32-byte granules, so that a granule written whole loses its poison
(04 R91). -/
def vecWants (g : Nat) (em : BitVec 32) (va : Word) (w : Width) : List Want :=
  (List.range (w.bits / 8 / g)).filterMap fun c =>
    let mask := (List.range g).map fun i => em.getLsbD ((g * c + i) / 4)
    if mask.any id then some ⟨va + BitVec.ofNat 64 (g * c), g, 8 * g * c, mask⟩ else none

/-- A fabric piece trimmed to the bytes that are accessed. -/
def Piece.trim (p : Piece) : Piece :=
  match p.dst with
  | .fabric fa =>
    let lo := p.mask.findIdx id
    let hi := p.mask.length - p.mask.reverse.findIdx id
    ⟨.fabric (fa + BitVec.ofNat 64 lo), hi - lo, p.bit + 8 * lo, (p.mask.take hi).drop lo⟩
  | _ => p

/-- Two fabric pieces of one module that lie as in the register, made one request (03 R69). -/
def Piece.join (p q : Piece) : Option Piece :=
  match p.dst, q.dst with
  | .fabric a, .fabric b =>
    let gap := (q.bit - p.bit) / 8
    if a.extractLsb' 52 12 = b.extractLsb' 52 12 ∧ a + BitVec.ofNat 64 gap = b then
      some ⟨.fabric a, gap + q.n, p.bit, p.mask ++ List.replicate (gap - p.n) false ++ q.mask⟩
    else none
  | _, _ => none

/-- The pieces of a vector access with the fabric pieces of each module as one request. -/
def joinPieces : List Piece → List Piece
  | [] => []
  | p :: ps =>
    match joinPieces ps with
    | [] => [p.trim]
    | q :: qs =>
      match p.trim.join q with
      | some r => r :: qs
      | none => p.trim :: q :: qs

/-- The number that a piece's bytes are in the register. -/
def placed (bs : List Byte) (bit : Nat) : Nat := leNat bs * 2 ^ bit

/-- The local pieces of a load read in order: the machine, the bits they give, and whether any is poisoned. -/
def State.readPiecesOf (s : State) (a : Agent) : List Piece → State × Nat × Bool
  | [] => (s, 0, false)
  | p :: ps =>
    let (s1, bs, bad) := s.readMasked a p.dst p.mask
    let (s2, x, bad2) := s1.readPiecesOf a ps
    (s2, placed bs p.bit + x, bad || bad2)

/-- The fabric address of the access, or of its part in a later page, whose request begins at bit `bit` of the register
at `fa`: the request leaves out leading inactive lanes, the failure's address does not (03 R68, 10 R220). -/
def partAddr (fa : Word) (bit : Nat) : Word := fa - BitVec.ofNat 64 (min (bit / 8) (fa.toNat % 0x10000))

/-- A request of a task of this module: its number, its operation, the address that its failure names, the bit of the register,
and its length. -/
def OutReq.ofTask (id target task op : Nat) (addr : Word) (bit len : Nat) (store : Bool) (sext : Nat) : OutReq :=
  ⟨id, target, task, op, addr, bit, len, store, none, sext, 0, false, 0, none, none⟩

/-- The requests that the remote pieces of an access of a task make, numbered from the state's next number on, with their
window offsets. -/
def State.pieceReqs (s : State) (task op sext : Nat) (store : Bool) (ps : List Piece) : List (OutReq × Nat × Piece) :=
  ps.zipIdx.filterMap fun p => match p.1.dst with
    | .fabric fa => some (OutReq.ofTask (s.nextId + p.2) (fa.toNat / 2 ^ 52) task op (partAddr fa p.1.bit) p.1.bit p.1.n store sext,
        fa.toNat % 2 ^ 52, p.1)
    | _ => none

/-- The requests of an access sent, all of them noted first: one that ends at once does not end the access while another is
outstanding (03 R67, R69). -/
def State.sendAll (s : State) (ctx : Nat) (rs : List (OutReq × Nat × Piece)) (kind : Piece → ReqKind) : State :=
  rs.foldl (fun s r => s.dispatch ctx r.1 r.2.1 (kind r.2.2) false) (rs.foldl (fun s r => s.enlist r.1 r.2.1) s)

/-- The remote pieces of a load sent (03 R67, R69). -/
def State.sendLoads (s : State) (task ctx op sext : Nat) (ps : List Piece) : State :=
  s.sendAll ctx (s.pieceReqs task op sext false ps) fun p => .load p.n

/-- Whether a piece goes through the fabric. -/
def Piece.remote (p : Piece) : Bool :=
  match p.dst with
  | .fabric _ => true
  | _ => false

/-- A register's value sign-extended from `sext` bits, where that is not 0. -/
def widen (sext x : Nat) : Nat := if sext = 0 then x else intBits 64 (toSigned sext x)

/-- A task as an agent of memory. -/
def Task.agent (t : Task) : Agent := ⟨t.ctx, t.depth, t.id, t.loc⟩

/-- The lanes of a register that local pieces bring. -/
def pieceLanes (ps : List Piece) : BitVec 32 :=
  BitVec.ofNat 32 (ps.map fun p => (p.mask.zipIdx.map fun b =>
    if b.1 && (p.bit + 8 * b.2) % 32 == 0 then 2 ^ ((p.bit + 8 * b.2) / 32) else 0).sum).sum

/-- A load of a task performed (10 R221): its local pieces are read and its remote pieces sent. One that makes two requests reports
the lanes that arrived, whether their modules differ (03 R69) or only their pages do (log 108). -/
def State.performLoad (s : State) (t : Task) (op : Op) (ps : List Piece) (sext : Nat) : State :=
  let rem := ps.filter Piece.remote
  let loc := ps.filter fun p => !p.remote
  let (s1, x, bad) := s.readPiecesOf t.agent loc
  let put (y : Nat) (kind : OpKind) : Op := { op with
    kind := kind, poison := bad, split := decide (1 < rem.length), lanes := pieceLanes loc
    outs := op.outs.map fun o => { o with data := BitVec.ofNat 1024 y } }
  if rem = [] then s1.updOp t.id (put (widen sext x) .load)
  else (s1.updOp t.id (put x (.remote false))).sendLoads t.id t.ctx op.id sext rem

/-- Whether remote accesses of the core, loads or stores, were outstanding before the bundle (03 R67): one that alone exceeds a limit
issues when none is (log 112). -/
def State.farBefore (s : State) (store : Bool) : Bool :=
  (s.fabric.out.any fun o => o.store == store && o.haul.isNone && (s.scr.first.map fun n => decide (o.id < n)).getD true &&
    ((s.task o.task).map fun t => t.loc == s.cur.loc).getD false) ||
  (s.opsAt s.cur.loc).any fun o => s.earlier o && (if store then o.unsent.2 else o.unsent.1) != 0

/-- A load of the focused task issued (10 R221): it is performed at once, or held where an earlier operation of its
context must come first. `dst` is the register, `mask` the bits of it that are written. -/
def State.load (s : State) (dst : Dst) (mask : BitVec 1024) (sext : Nat) (ps : List Piece) : Except Stop State :=
  let rem := (ps.filter Piece.remote).length
  let loc := ps.filter fun p => !p.remote
  let sent := s.remoteLoads s.cur.loc
  if rem ≠ 0 ∧ s.farBefore false ∧ 32 < sent + rem then .error (.wait false)
  else
    let parks := rem ≠ 0 || loc.any fun p => s.missesT2 s.me (p.dst.pa.getD 0) p.n
    let s1 := s.beginOp (.heldRead ps sext) (if dst = .s 0 then [] else [⟨dst, mask, 0⟩]) parks
    match s1.cur.ops.getLast? with
    | some op => .ok (if s1.cur.mustWait op then s1 else s1.performLoad s1.cur op ps sext)
    | none => .ok s1

/-- The remote pieces of a store sent under one ticket (03 R65, R69). -/
def State.sendStores (s : State) (task ctx : Nat) (x : VWord) (ps : List Piece) : State :=
  s.sendAll ctx (s.pieceReqs task 0 0 true ps) fun p => .store (p.bytes x)

/-- The posted stores of a store's remote pieces noted before they are sent: their numbers follow one another. -/
def postedOf (first ticket : Nat) (ps : List Piece) : List Posted :=
  ps.zipIdx.filterMap fun p => match p.1.dst with
    | .fabric fa => some ⟨first + p.2, ticket, partAddr fa p.1.bit, none⟩
    | _ => none

/-- A store of a task performed (10 R221) by an operation, 0 for none: its local pieces are written in order, its remote
pieces posted under its tl.fabric ticket. -/
def State.performStore (s : State) (t : Task) (op : Nat) (ps : List Piece) (x : VWord) (ticket : Nat) : State :=
  let rem := ps.filter Piece.remote
  let s1 := (ps.filter fun p => !p.remote).foldl (fun (s : State) p => s.writeDest t.agent op p.dst (p.bytes x)) s
  if rem = [] then s1
  else
    (s1.updTask t.id fun t => { t with posted := t.posted ++ postedOf s1.nextId ticket rem }).sendStores t.id t.ctx x rem

/-- A store of the focused task issued (10 R221): performed at once, or held where an earlier operation of its context
must come first. Its remote pieces draw one ticket (03 R65). -/
def State.store (s : State) (x : VWord) (ps : List Piece) : Except Stop State :=
  let rem := (ps.filter Piece.remote).length
  let posted := s.remoteStores s.cur.loc
  let held := ps.any fun p => s.blocked p.dst p.n
  if rem ≠ 0 ∧ s.farBefore true ∧ 64 < posted + rem then .error (.wait false)
  else
    let ticket := s.cur.nextTicket 3
    let s1 := if rem = 0 then s else s.setCur fun t => t.draw 3
    .ok (if held then s1.beginOp (.heldWrite ps x ticket) [] false else s1.performStore s1.cur 0 ps x ticket)

end Sys2Proof.Machine
end

