-- ==== Sys2Proof/Decode.lean ====
section
/-! DEFINITION. The decoder and the encoder of slots (07 R138 to R145). A slot is read as class and opcode
(bits 30 to 22) and its operand field (bits 21 to 0), cut by the layout of the instruction; a field the
instruction does not use must be zero. -/

namespace Sys2Proof

/-- Why a word is no slot (07 R145). -/
inductive DecodeErr where
  | reserved   -- the opcode is reserved in its class
  | field      -- an unused field is not zero, or a coded field holds a value that is not listed
  | limits     -- the instruction does not accept a value of one of its fields
  deriving DecidableEq, Repr

/-- The code of a Width. -/
def Width.code : Width → Nat
  | .w256 => 0
  | .w512 => 1
  | .w1024 => 2

/-- The Width of a code, if it is listed. -/
def Width.ofCode : Nat → Option Width
  | 0 => some .w256
  | 1 => some .w512
  | 2 => some .w1024
  | _ => none

/-- The code of a ElemType. -/
def ElemType.code : ElemType → Nat
  | .i8 => 0
  | .i16 => 1
  | .i32 => 2
  | .bf16 => 3
  | .f16 => 4
  | .f32 => 5
  | .f64 => 6
  | .f8 => 7

/-- The ElemType of a code, if it is listed. -/
def ElemType.ofCode : Nat → Option ElemType
  | 0 => some .i8
  | 1 => some .i16
  | 2 => some .i32
  | 3 => some .bf16
  | 4 => some .f16
  | 5 => some .f32
  | 6 => some .f64
  | 7 => some .f8
  | _ => none

/-- The code of a Esz. -/
def Esz.code : Esz → Nat
  | .e8 => 0
  | .e16 => 1
  | .e32 => 2
  | .e64 => 3

/-- The Esz of a code, if it is listed. -/
def Esz.ofCode : Nat → Option Esz
  | 0 => some .e8
  | 1 => some .e16
  | 2 => some .e32
  | 3 => some .e64
  | _ => none

/-- The code of a Scope. -/
def Scope.code : Scope → Nat
  | .co => 0
  | .cl => 1
  | .di => 2
  | .pk => 3
  | .sy => 4

/-- The Scope of a code, if it is listed. -/
def Scope.ofCode : Nat → Option Scope
  | 0 => some .co
  | 1 => some .cl
  | 2 => some .di
  | 3 => some .pk
  | 4 => some .sy
  | _ => none

/-- The code of a AScope. -/
def AScope.code : AScope → Nat
  | .cl => 0
  | .di => 1
  | .pk => 2
  | .sy => 3

/-- The AScope of a code, if it is listed. -/
def AScope.ofCode : Nat → Option AScope
  | 0 => some .cl
  | 1 => some .di
  | 2 => some .pk
  | 3 => some .sy
  | _ => none

/-- The code of a Ord. -/
def Ord.code : Ord → Nat
  | .rlx => 0
  | .acq => 1
  | .rel => 2
  | .ar => 3

/-- The Ord of a code, if it is listed. -/
def Ord.ofCode : Nat → Option Ord
  | 0 => some .rlx
  | 1 => some .acq
  | 2 => some .rel
  | 3 => some .ar
  | _ => none

/-- The code of a CcV. -/
def CcV.code : CcV → Nat
  | .eq => 0
  | .ne => 1
  | .lt => 2
  | .le => 3
  | .ltu => 4
  | .leu => 5
  | .un => 6
  | .ord => 7

/-- The CcV of a code, if it is listed. -/
def CcV.ofCode : Nat → Option CcV
  | 0 => some .eq
  | 1 => some .ne
  | 2 => some .lt
  | 3 => some .le
  | 4 => some .ltu
  | 5 => some .leu
  | 6 => some .un
  | 7 => some .ord
  | _ => none

/-- The code of a CcI. -/
def CcI.code : CcI → Nat
  | .eq => 0
  | .ne => 1
  | .lt => 2
  | .ge => 3
  | .ltu => 4
  | .geu => 5
  | .bit => 6

/-- The CcI of a code, if it is listed. -/
def CcI.ofCode : Nat → Option CcI
  | 0 => some .eq
  | 1 => some .ne
  | 2 => some .lt
  | 3 => some .ge
  | 4 => some .ltu
  | 5 => some .geu
  | 6 => some .bit
  | _ => none

/-- The code of a CcF. -/
def CcF.code : CcF → Nat
  | .eq => 0
  | .ne => 1
  | .lt => 2
  | .le => 3
  | .un => 4
  | .or => 5

/-- The CcF of a code, if it is listed. -/
def CcF.ofCode : Nat → Option CcF
  | 0 => some .eq
  | 1 => some .ne
  | 2 => some .lt
  | 3 => some .le
  | 4 => some .un
  | 5 => some .or
  | _ => none

/-- The code of a Ovf. -/
def Ovf.code : Ovf → Nat
  | .sat => 0
  | .inf => 1
  | .nan => 2
  | .trap => 3

/-- The Ovf of a code, if it is listed. -/
def Ovf.ofCode : Nat → Option Ovf
  | 0 => some .sat
  | 1 => some .inf
  | 2 => some .nan
  | 3 => some .trap
  | _ => none

/-- The code of a Rnd. -/
def Rnd.code : Rnd → Nat
  | .rfm => 0
  | .rne => 1
  | .rtz => 2
  | .rsto => 3

/-- The Rnd of a code, if it is listed. -/
def Rnd.ofCode : Nat → Option Rnd
  | 0 => some .rfm
  | 1 => some .rne
  | 2 => some .rtz
  | 3 => some .rsto
  | _ => none

/-- The code of a QFmt. -/
def QFmt.code : QFmt → Nat
  | .kd8 => 0
  | .kd4 => 1
  | .mxe4m3 => 2
  | .mxe5m2 => 3
  | .mxfp4 => 4
  | .e4m3 => 5
  | .e5m2 => 6

/-- The QFmt of a code, if it is listed. -/
def QFmt.ofCode : Nat → Option QFmt
  | 0 => some .kd8
  | 1 => some .kd4
  | 2 => some .mxe4m3
  | 3 => some .mxe5m2
  | 4 => some .mxfp4
  | 5 => some .e4m3
  | 6 => some .e5m2
  | _ => none

/-- The code of a FType. -/
def FType.code : FType → Nat
  | .f64 => 0
  | .f32 => 1
  | .f16 => 2
  | .bf16 => 3

/-- The FType of a code, if it is listed. -/
def FType.ofCode : Nat → Option FType
  | 0 => some .f64
  | 1 => some .f32
  | 2 => some .f16
  | 3 => some .bf16
  | _ => none

/-- The code of a CvtType. -/
def CvtType.code : CvtType → Nat
  | .i64 => 0
  | .u64 => 1
  | .f64 => 2
  | .f32 => 3
  | .f16 => 4
  | .bf16 => 5

/-- The CvtType of a code, if it is listed. -/
def CvtType.ofCode : Nat → Option CvtType
  | 0 => some .i64
  | 1 => some .u64
  | 2 => some .f64
  | 3 => some .f32
  | 4 => some .f16
  | 5 => some .bf16
  | _ => none

/-- The code of a Timeline. -/
def Timeline.code : Timeline → Nat
  | .haul => 0
  | .mma => 1
  | .attn => 2
  | .fabric => 3
  | .kv => 4
  | .sw => 5

/-- The Timeline of a code, if it is listed. -/
def Timeline.ofCode : Nat → Option Timeline
  | 0 => some .haul
  | 1 => some .mma
  | 2 => some .attn
  | 3 => some .fabric
  | 4 => some .kv
  | 5 => some .sw
  | _ => none

/-- The operand field of RRR. -/
def RRR.enc (o : RRR) : Nat :=
  glue [(2, 0), (1, o.wb.toNat), (1, o.wa.toNat), (6, o.b.val), (6, o.a.val), (6, o.d.val)]

/-- RRR from an operand field. -/
def RRR.dec (n : Nat) : Option RRR :=
  match cut [2, 1, 1, 6, 6, 6] n with
  | [z0, wb_, wa_, b_, a_, d_] => if z0 = 0 then some ⟨Fin.ofNat 64 d_, Fin.ofNat 64 a_, Fin.ofNat 64 b_, wa_ == 1, wb_ == 1⟩ else none
  | _ => none

/-- The operand field of RI. -/
def RI.enc (o : RI) : Nat :=
  glue [(9, o.imm.toNat), (1, o.wa.toNat), (6, o.a.val), (6, o.d.val)]

/-- RI from an operand field. -/
def RI.dec (n : Nat) : Option RI :=
  match cut [9, 1, 6, 6] n with
  | [imm_, wa_, a_, d_] => some ⟨Fin.ofNat 64 d_, Fin.ofNat 64 a_, wa_ == 1, BitVec.ofNat 9 imm_⟩
  | _ => none

/-- The operand field of DivOps. -/
def DivOps.enc (op : Nat) (o : DivOps) : Nat :=
  glue [(2, op), (1, o.wb.toNat), (1, o.wa.toNat), (6, o.b.val), (6, o.a.val), (6, o.d.val)]

/-- DivOps from an operand field. -/
def DivOps.dec (n : Nat) : Option DivOps :=
  match cut [2, 1, 1, 6, 6, 6] n with
  | [_, wb_, wa_, b_, a_, d_] => some ⟨Fin.ofNat 64 d_, Fin.ofNat 64 a_, Fin.ofNat 64 b_, wa_ == 1, wb_ == 1⟩
  | _ => none

/-- The operand field of RR. -/
def RR.enc (o : RR) : Nat :=
  glue [(3, 0), (1, o.wa.toNat), (6, 0), (6, o.a.val), (6, o.d.val)]

/-- RR from an operand field. -/
def RR.dec (n : Nat) : Option RR :=
  match cut [3, 1, 6, 6, 6] n with
  | [z0, wa_, z1, a_, d_] => if z0 = 0 ∧ z1 = 0 then some ⟨Fin.ofNat 64 d_, Fin.ofNat 64 a_, wa_ == 1⟩ else none
  | _ => none

/-- The operand field of SelOps. -/
def SelOps.enc (o : SelOps) : Nat :=
  glue [(1, o.n.toNat), (3, o.p.val), (6, o.b.val), (6, o.a.val), (6, o.d.val)]

/-- SelOps from an operand field. -/
def SelOps.dec (n : Nat) : Option SelOps :=
  match cut [1, 3, 6, 6, 6] n with
  | [n_, p_, b_, a_, d_] => some ⟨Fin.ofNat 64 d_, Fin.ofNat 64 a_, Fin.ofNat 64 b_, Fin.ofNat 8 p_, n_ == 1⟩
  | _ => none

/-- The operand field of LiOps. -/
def LiOps.enc (o : LiOps) : Nat :=
  glue [(16, o.imm.toNat), (6, o.d.val)]

/-- LiOps from an operand field. -/
def LiOps.dec (n : Nat) : Option LiOps :=
  match cut [16, 6] n with
  | [imm_, d_] => some ⟨Fin.ofNat 64 d_, BitVec.ofNat 16 imm_⟩
  | _ => none

/-- The operand field of CmpOps. -/
def CmpOps.enc (o : CmpOps) : Nat :=
  glue [(1, o.w32.toNat), (1, 0), (1, o.wb.toNat), (1, o.wa.toNat), (6, o.b.val), (6, o.a.val), (3, o.cc.code), (3, o.pd.val)]

/-- CmpOps from an operand field. -/
def CmpOps.dec (n : Nat) : Option CmpOps :=
  match cut [1, 1, 1, 1, 6, 6, 3, 3] n with
  | [w32_, z0, wb_, wa_, b_, a_, cc_, pd_] => if z0 = 0 then (CcI.ofCode cc_).bind fun cc => some ⟨Fin.ofNat 8 pd_, cc, Fin.ofNat 64 a_, Fin.ofNat 64 b_, wa_ == 1, wb_ == 1, w32_ == 1⟩ else none
  | _ => none

/-- The operand field of CmpiOps. -/
def CmpiOps.enc (o : CmpiOps) : Nat :=
  glue [(9, o.imm.toNat), (1, o.wa.toNat), (6, o.a.val), (3, o.cc.code), (3, o.pd.val)]

/-- CmpiOps from an operand field. -/
def CmpiOps.dec (n : Nat) : Option CmpiOps :=
  match cut [9, 1, 6, 3, 3] n with
  | [imm_, wa_, a_, cc_, pd_] => (CcI.ofCode cc_).bind fun cc => some ⟨Fin.ofNat 8 pd_, cc, Fin.ofNat 64 a_, wa_ == 1, BitVec.ofNat 9 imm_⟩
  | _ => none

/-- The operand field of PlogOps. -/
def PlogOps.enc (op : Nat) (o : PlogOps) : Nat :=
  glue [(10, 0), (3, op), (3, o.pb.val), (3, o.pa.val), (3, o.pd.val)]

/-- PlogOps from an operand field. -/
def PlogOps.dec (n : Nat) : Option PlogOps :=
  match cut [10, 3, 3, 3, 3] n with
  | [z0, _, pb_, pa_, pd_] => if z0 = 0 then some ⟨Fin.ofNat 8 pd_, Fin.ofNat 8 pa_, Fin.ofNat 8 pb_⟩ else none
  | _ => none

/-- The operand field of DOnly. -/
def DOnly.enc (o : DOnly) : Nat :=
  glue [(16, 0), (6, o.d.val)]

/-- DOnly from an operand field. -/
def DOnly.dec (n : Nat) : Option DOnly :=
  match cut [16, 6] n with
  | [z0, d_] => if z0 = 0 then some ⟨Fin.ofNat 64 d_⟩ else none
  | _ => none

/-- The operand field of AOnly. -/
def AOnly.enc (o : AOnly) : Nat :=
  glue [(3, 0), (1, o.wa.toNat), (6, 0), (6, o.a.val), (6, 0)]

/-- AOnly from an operand field. -/
def AOnly.dec (n : Nat) : Option AOnly :=
  match cut [3, 1, 6, 6, 6] n with
  | [z0, wa_, z1, a_, z2] => if z0 = 0 ∧ z1 = 0 ∧ z2 = 0 then some ⟨Fin.ofNat 64 a_, wa_ == 1⟩ else none
  | _ => none

/-- The operand field of FRRR. -/
def FRRR.enc (o : FRRR) : Nat :=
  glue [(2, o.f.code), (1, o.wb.toNat), (1, o.wa.toNat), (6, o.b.val), (6, o.a.val), (6, o.d.val)]

/-- FRRR from an operand field. -/
def FRRR.dec (n : Nat) : Option FRRR :=
  match cut [2, 1, 1, 6, 6, 6] n with
  | [f_, wb_, wa_, b_, a_, d_] => (FType.ofCode f_).bind fun f => some ⟨Fin.ofNat 64 d_, Fin.ofNat 64 a_, Fin.ofNat 64 b_, wa_ == 1, wb_ == 1, f⟩
  | _ => none

/-- The operand field of FcmpOps. -/
def FcmpOps.enc (o : FcmpOps) : Nat :=
  glue [(2, o.f.code), (1, o.wb.toNat), (1, o.wa.toNat), (6, o.b.val), (6, o.a.val), (3, o.cc.code), (3, o.pd.val)]

/-- FcmpOps from an operand field. -/
def FcmpOps.dec (n : Nat) : Option FcmpOps :=
  match cut [2, 1, 1, 6, 6, 3, 3] n with
  | [f_, wb_, wa_, b_, a_, cc_, pd_] => (CcF.ofCode cc_).bind fun cc => (FType.ofCode f_).bind fun f => some ⟨Fin.ofNat 8 pd_, cc, Fin.ofNat 64 a_, Fin.ofNat 64 b_, wa_ == 1, wb_ == 1, f⟩
  | _ => none

/-- The operand field of FcvtOps. -/
def FcvtOps.enc (o : FcvtOps) : Nat :=
  glue [(2, o.ovf.code), (1, 0), (1, o.wa.toNat), (3, o.dst.code), (3, o.src.code), (6, o.a.val), (6, o.d.val)]

/-- FcvtOps from an operand field. -/
def FcvtOps.dec (n : Nat) : Option FcvtOps :=
  match cut [2, 1, 1, 3, 3, 6, 6] n with
  | [ovf_, z0, wa_, dst_, src_, a_, d_] => if z0 = 0 then (CvtType.ofCode src_).bind fun src => (CvtType.ofCode dst_).bind fun dst => (Ovf.ofCode ovf_).bind fun ovf => some ⟨Fin.ofNat 64 d_, Fin.ofNat 64 a_, src, dst, wa_ == 1, ovf⟩ else none
  | _ => none

/-- The operand field of FRR. -/
def FRR.enc (o : FRR) : Nat :=
  glue [(2, o.f.code), (1, 0), (1, o.wa.toNat), (6, 0), (6, o.a.val), (6, o.d.val)]

/-- FRR from an operand field. -/
def FRR.dec (n : Nat) : Option FRR :=
  match cut [2, 1, 1, 6, 6, 6] n with
  | [f_, z0, wa_, z1, a_, d_] => if z0 = 0 ∧ z1 = 0 then (FType.ofCode f_).bind fun f => some ⟨Fin.ofNat 64 d_, Fin.ofNat 64 a_, wa_ == 1, f⟩ else none
  | _ => none

/-- The operand field of DK. -/
def DK.enc (o : DK) : Nat :=
  glue [(10, o.k.toNat), (6, 0), (6, o.d.val)]

/-- DK from an operand field. -/
def DK.dec (n : Nat) : Option DK :=
  match cut [10, 6, 6] n with
  | [k_, z0, d_] => if z0 = 0 then some ⟨Fin.ofNat 64 d_, BitVec.ofNat 10 k_⟩ else none
  | _ => none

/-- The operand field of AK. -/
def AK.enc (o : AK) : Nat :=
  glue [(10, o.k.toNat), (6, o.a.val), (6, 0)]

/-- AK from an operand field. -/
def AK.dec (n : Nat) : Option AK :=
  match cut [10, 6, 6] n with
  | [k_, a_, z0] => if z0 = 0 then some ⟨Fin.ofNat 64 a_, BitVec.ofNat 10 k_⟩ else none
  | _ => none

/-- The operand field of AX. -/
def AX.enc (o : AX) : Nat :=
  glue [(10, 0), (6, o.a.val), (6, 0)]

/-- AX from an operand field. -/
def AX.dec (n : Nat) : Option AX :=
  match cut [10, 6, 6] n with
  | [z0, a_, z1] => if z0 = 0 ∧ z1 = 0 then some ⟨Fin.ofNat 64 a_⟩ else none
  | _ => none

/-- The operand field of BrOps. -/
def BrOps.enc (o : BrOps) : Nat :=
  glue [(17, o.off.toNat), (1, o.h.toNat), (1, o.n.toNat), (3, o.p.val)]

/-- BrOps from an operand field. -/
def BrOps.dec (n : Nat) : Option BrOps :=
  match cut [17, 1, 1, 3] n with
  | [off_, h_, n_, p_] => some ⟨Fin.ofNat 8 p_, n_ == 1, h_ == 1, BitVec.ofNat 17 off_⟩
  | _ => none

/-- The operand field of FrameOps. -/
def FrameOps.enc (o : FrameOps) : Nat :=
  glue [(9, o.imm.toNat), (13, 0)]

/-- FrameOps from an operand field. -/
def FrameOps.dec (n : Nat) : Option FrameOps :=
  match cut [9, 13] n with
  | [imm_, z0] => if z0 = 0 then some ⟨BitVec.ofNat 9 imm_⟩ else none
  | _ => none

/-- The operand field of DbnzOps. -/
def DbnzOps.enc (o : DbnzOps) : Nat :=
  glue [(16, o.off.toNat), (6, o.d.val)]

/-- DbnzOps from an operand field. -/
def DbnzOps.dec (n : Nat) : Option DbnzOps :=
  match cut [16, 6] n with
  | [off_, d_] => some ⟨Fin.ofNat 64 d_, BitVec.ofNat 16 off_⟩
  | _ => none

/-- The operand field of KOnly. -/
def KOnly.enc (o : KOnly) : Nat :=
  glue [(10, o.k.toNat), (12, 0)]

/-- KOnly from an operand field. -/
def KOnly.dec (n : Nat) : Option KOnly :=
  match cut [10, 12] n with
  | [k_, z0] => if z0 = 0 then some ⟨BitVec.ofNat 10 k_⟩ else none
  | _ => none

/-- The operand field of VRR. -/
def VRR.enc (o : VRR) : Nat :=
  glue [(1, o.wb.toNat), (1, o.wa.toNat), (3, o.dt.code), (2, o.w.code), (5, o.vb.val), (5, o.va.val), (5, o.vd.val)]

/-- VRR from an operand field. -/
def VRR.dec (n : Nat) : Option VRR :=
  match cut [1, 1, 3, 2, 5, 5, 5] n with
  | [wb_, wa_, dt_, w_, vb_, va_, vd_] => (Width.ofCode w_).bind fun w => (ElemType.ofCode dt_).bind fun dt => some ⟨Fin.ofNat 32 vd_, Fin.ofNat 32 va_, Fin.ofNat 32 vb_, w, dt, wa_ == 1, wb_ == 1⟩
  | _ => none

/-- The operand field of VR1. -/
def VR1.enc (o : VR1) : Nat :=
  glue [(1, 0), (1, o.wa.toNat), (3, o.dt.code), (2, o.w.code), (5, 0), (5, o.va.val), (5, o.vd.val)]

/-- VR1 from an operand field. -/
def VR1.dec (n : Nat) : Option VR1 :=
  match cut [1, 1, 3, 2, 5, 5, 5] n with
  | [z0, wa_, dt_, w_, z1, va_, vd_] => if z0 = 0 ∧ z1 = 0 then (Width.ofCode w_).bind fun w => (ElemType.ofCode dt_).bind fun dt => some ⟨Fin.ofNat 32 vd_, Fin.ofNat 32 va_, w, dt, wa_ == 1⟩ else none
  | _ => none

/-- The operand field of VcmpOps. -/
def VcmpOps.enc (o : VcmpOps) : Nat :=
  glue [(1, o.acc.toNat), (1, o.wb.toNat), (1, o.wa.toNat), (3, o.dt.code), (2, o.w.code), (5, o.vb.val), (5, o.va.val), (1, 0), (3, o.cc.code)]

/-- VcmpOps from an operand field. -/
def VcmpOps.dec (n : Nat) : Option VcmpOps :=
  match cut [1, 1, 1, 3, 2, 5, 5, 1, 3] n with
  | [acc_, wb_, wa_, dt_, w_, vb_, va_, z0, cc_] => if z0 = 0 then (CcV.ofCode cc_).bind fun cc => (Width.ofCode w_).bind fun w => (ElemType.ofCode dt_).bind fun dt => some ⟨cc, Fin.ofNat 32 va_, Fin.ofNat 32 vb_, w, dt, wa_ == 1, wb_ == 1, acc_ == 1⟩ else none
  | _ => none

/-- The operand field of VBc. -/
def VBc.enc (o : VBc) : Nat :=
  glue [(1, o.wa.toNat), (3, o.dt.code), (2, o.w.code), (6, o.s.val), (5, 0), (5, o.vd.val)]

/-- VBc from an operand field. -/
def VBc.dec (n : Nat) : Option VBc :=
  match cut [1, 3, 2, 6, 5, 5] n with
  | [wa_, dt_, w_, s_, z0, vd_] => if z0 = 0 then (Width.ofCode w_).bind fun w => (ElemType.ofCode dt_).bind fun dt => some ⟨Fin.ofNat 32 vd_, Fin.ofNat 64 s_, w, dt, wa_ == 1⟩ else none
  | _ => none

/-- The operand field of VextOps. -/
def VextOps.enc (o : VextOps) : Nat :=
  glue [(2, o.w.code), (3, o.dt.code), (6, o.sb.val), (5, o.va.val), (6, o.sd.val)]

/-- VextOps from an operand field. -/
def VextOps.dec (n : Nat) : Option VextOps :=
  match cut [2, 3, 6, 5, 6] n with
  | [w_, dt_, sb_, va_, sd_] => (ElemType.ofCode dt_).bind fun dt => (Width.ofCode w_).bind fun w => some ⟨Fin.ofNat 64 sd_, Fin.ofNat 32 va_, Fin.ofNat 64 sb_, dt, w⟩
  | _ => none

/-- The operand field of VSS. -/
def VSS.enc (o : VSS) : Nat :=
  glue [(1, o.wa.toNat), (3, o.dt.code), (2, o.w.code), (6, o.s.val), (5, o.va.val), (5, o.vd.val)]

/-- VSS from an operand field. -/
def VSS.dec (n : Nat) : Option VSS :=
  match cut [1, 3, 2, 6, 5, 5] n with
  | [wa_, dt_, w_, s_, va_, vd_] => (Width.ofCode w_).bind fun w => (ElemType.ofCode dt_).bind fun dt => some ⟨Fin.ofNat 32 vd_, Fin.ofNat 32 va_, Fin.ofNat 64 s_, w, dt, wa_ == 1⟩
  | _ => none

/-- The operand field of VII. -/
def VII.enc (o : VII) : Nat :=
  glue [(3, o.dt.code), (2, o.w.code), (7, o.imm.toNat), (5, o.va.val), (5, o.vd.val)]

/-- VII from an operand field. -/
def VII.dec (n : Nat) : Option VII :=
  match cut [3, 2, 7, 5, 5] n with
  | [dt_, w_, imm_, va_, vd_] => (Width.ofCode w_).bind fun w => (ElemType.ofCode dt_).bind fun dt => some ⟨Fin.ofNat 32 vd_, Fin.ofNat 32 va_, BitVec.ofNat 7 imm_, w, dt⟩
  | _ => none

/-- The operand field of VLiOps. -/
def VLiOps.enc (o : VLiOps) : Nat :=
  glue [(3, o.dt.code), (2, o.w.code), (7, o.imm.toNat), (5, 0), (5, o.vd.val)]

/-- VLiOps from an operand field. -/
def VLiOps.dec (n : Nat) : Option VLiOps :=
  match cut [3, 2, 7, 5, 5] n with
  | [dt_, w_, imm_, z0, vd_] => if z0 = 0 then (Width.ofCode w_).bind fun w => (ElemType.ofCode dt_).bind fun dt => some ⟨Fin.ofNat 32 vd_, BitVec.ofNat 7 imm_, w, dt⟩ else none
  | _ => none

/-- The operand field of VIota. -/
def VIota.enc (o : VIota) : Nat :=
  glue [(2, 0), (3, o.dt.code), (2, o.w.code), (10, 0), (5, o.vd.val)]

/-- VIota from an operand field. -/
def VIota.dec (n : Nat) : Option VIota :=
  match cut [2, 3, 2, 10, 5] n with
  | [z0, dt_, w_, z1, vd_] => if z0 = 0 ∧ z1 = 0 then (Width.ofCode w_).bind fun w => (ElemType.ofCode dt_).bind fun dt => some ⟨Fin.ofNat 32 vd_, w, dt⟩ else none
  | _ => none

/-- The operand field of VcntOps. -/
def VcntOps.enc (o : VcntOps) : Nat :=
  glue [(2, o.w.code), (14, 0), (6, o.sd.val)]

/-- VcntOps from an operand field. -/
def VcntOps.dec (n : Nat) : Option VcntOps :=
  match cut [2, 14, 6] n with
  | [w_, z0, sd_] => if z0 = 0 then (Width.ofCode w_).bind fun w => some ⟨Fin.ofNat 64 sd_, w⟩ else none
  | _ => none

/-- The operand field of VdfOps. -/
def VdfOps.enc (o : VdfOps) : Nat :=
  glue [(6, o.s.val), (8, o.path.toNat), (3, o.n.toNat), (5, o.va.val)]

/-- VdfOps from an operand field. -/
def VdfOps.dec (n : Nat) : Option VdfOps :=
  match cut [6, 8, 3, 5] n with
  | [s_, path_, n_, va_] => some ⟨Fin.ofNat 32 va_, BitVec.ofNat 3 n_, BitVec.ofNat 8 path_, Fin.ofNat 64 s_⟩
  | _ => none

/-- The operand field of VdstatOps. -/
def VdstatOps.enc (o : VdstatOps) : Nat :=
  glue [(5, 0), (6, o.sb.val), (5, 0), (6, o.sd.val)]

/-- VdstatOps from an operand field. -/
def VdstatOps.dec (n : Nat) : Option VdstatOps :=
  match cut [5, 6, 5, 6] n with
  | [z0, sb_, z1, sd_] => if z0 = 0 ∧ z1 = 0 then some ⟨Fin.ofNat 64 sd_, Fin.ofNat 64 sb_⟩ else none
  | _ => none

/-- The operand field of VcvtOps. -/
def VcvtOps.enc (o : VcvtOps) : Nat :=
  glue [(2, o.rnd.code), (2, o.ovf.code), (2, o.w.code), (3, o.dtt.code), (3, o.dtf.code), (5, o.va.val), (5, o.vd.val)]

/-- VcvtOps from an operand field. -/
def VcvtOps.dec (n : Nat) : Option VcvtOps :=
  match cut [2, 2, 2, 3, 3, 5, 5] n with
  | [rnd_, ovf_, w_, dtt_, dtf_, va_, vd_] => (ElemType.ofCode dtf_).bind fun dtf => (ElemType.ofCode dtt_).bind fun dtt => (Width.ofCode w_).bind fun w => (Ovf.ofCode ovf_).bind fun ovf => (Rnd.ofCode rnd_).bind fun rnd => some ⟨Fin.ofNat 32 vd_, Fin.ofNat 32 va_, dtf, dtt, w, ovf, rnd⟩
  | _ => none

/-- The operand field of VqOps. -/
def VqOps.enc (o : VqOps) : Nat :=
  glue [(1, o.sr.toNat), (2, o.ovf.code), (3, o.qf.code), (6, o.sd.val), (5, o.va.val), (5, o.vd.val)]

/-- VqOps from an operand field. -/
def VqOps.dec (n : Nat) : Option VqOps :=
  match cut [1, 2, 3, 6, 5, 5] n with
  | [sr_, ovf_, qf_, sd_, va_, vd_] => (QFmt.ofCode qf_).bind fun qf => (Ovf.ofCode ovf_).bind fun ovf => some ⟨Fin.ofNat 32 vd_, Fin.ofNat 32 va_, Fin.ofNat 64 sd_, qf, ovf, sr_ == 1⟩
  | _ => none

/-- The operand field of VdqOps. -/
def VdqOps.enc (o : VdqOps) : Nat :=
  glue [(1, 0), (2, o.ovf.code), (3, o.qf.code), (6, o.sd.val), (5, o.va.val), (5, o.vd.val)]

/-- VdqOps from an operand field. -/
def VdqOps.dec (n : Nat) : Option VdqOps :=
  match cut [1, 2, 3, 6, 5, 5] n with
  | [z0, ovf_, qf_, sd_, va_, vd_] => if z0 = 0 then (QFmt.ofCode qf_).bind fun qf => (Ovf.ofCode ovf_).bind fun ovf => some ⟨Fin.ofNat 32 vd_, Fin.ofNat 32 va_, Fin.ofNat 64 sd_, qf, ovf⟩ else none
  | _ => none

/-- The operand field of VredOps. -/
def VredOps.enc (o : VredOps) : Nat :=
  glue [(2, o.w.code), (3, o.dt.code), (6, 0), (5, o.va.val), (6, o.sd.val)]

/-- VredOps from an operand field. -/
def VredOps.dec (n : Nat) : Option VredOps :=
  match cut [2, 3, 6, 5, 6] n with
  | [w_, dt_, z0, va_, sd_] => if z0 = 0 then (ElemType.ofCode dt_).bind fun dt => (Width.ofCode w_).bind fun w => some ⟨Fin.ofNat 64 sd_, Fin.ofNat 32 va_, dt, w⟩ else none
  | _ => none

/-- The operand field of XmOps. -/
def XmOps.enc (o : XmOps) : Nat :=
  glue [(6, o.sa.val), (6, o.sd.val), (5, o.va.val), (5, o.vd.val)]

/-- XmOps from an operand field. -/
def XmOps.dec (n : Nat) : Option XmOps :=
  match cut [6, 6, 5, 5] n with
  | [sa_, sd_, va_, vd_] => some ⟨Fin.ofNat 32 vd_, Fin.ofNat 32 va_, Fin.ofNat 64 sd_, Fin.ofNat 64 sa_⟩
  | _ => none

/-- The operand field of MmaOps. -/
def MmaOps.enc (o : MmaOps) : Nat :=
  glue [(1, o.f.toNat), (9, 0), (6, 0), (6, o.d.val)]

/-- MmaOps from an operand field. -/
def MmaOps.dec (n : Nat) : Option MmaOps :=
  match cut [1, 9, 6, 6] n with
  | [f_, z0, z1, d_] => if z0 = 0 ∧ z1 = 0 then some ⟨Fin.ofNat 64 d_, f_ == 1⟩ else none
  | _ => none

/-- The operand field of MpsetOps. -/
def MpsetOps.enc (o : MpsetOps) : Nat :=
  glue [(3, o.mp.val), (7, 0), (6, o.a.val), (6, 0)]

/-- MpsetOps from an operand field. -/
def MpsetOps.dec (n : Nat) : Option MpsetOps :=
  match cut [3, 7, 6, 6] n with
  | [mp_, z0, a_, z1] => if z0 = 0 ∧ z1 = 0 then some ⟨Fin.ofNat 64 a_, Fin.ofNat 8 mp_⟩ else none
  | _ => none

/-- The operand field of MpgetOps. -/
def MpgetOps.enc (o : MpgetOps) : Nat :=
  glue [(3, o.mp.val), (7, 0), (6, 0), (6, o.d.val)]

/-- MpgetOps from an operand field. -/
def MpgetOps.dec (n : Nat) : Option MpgetOps :=
  match cut [3, 7, 6, 6] n with
  | [mp_, z0, z1, d_] => if z0 = 0 ∧ z1 = 0 then some ⟨Fin.ofNat 64 d_, Fin.ofNat 8 mp_⟩ else none
  | _ => none

/-- The operand field of AttnOps. -/
def AttnOps.enc (o : AttnOps) : Nat :=
  glue [(1, o.causal.toNat), (1, o.tree.toNat), (1, o.res.toNat), (1, o.pf.toNat), (6, o.b.val), (6, o.a.val), (6, o.d.val)]

/-- AttnOps from an operand field. -/
def AttnOps.dec (n : Nat) : Option AttnOps :=
  match cut [1, 1, 1, 1, 6, 6, 6] n with
  | [causal_, tree_, res_, pf_, b_, a_, d_] => some ⟨Fin.ofNat 64 d_, Fin.ofNat 64 a_, Fin.ofNat 64 b_, pf_ == 1, res_ == 1, tree_ == 1, causal_ == 1⟩
  | _ => none

/-- The operand field of MSOps. -/
def MSOps.enc (o : MSOps) : Nat :=
  glue [(9, o.off.toNat), (1, o.wa.toNat), (6, o.a.val), (6, o.d.val)]

/-- MSOps from an operand field. -/
def MSOps.dec (n : Nat) : Option MSOps :=
  match cut [9, 1, 6, 6] n with
  | [off_, wa_, a_, d_] => some ⟨Fin.ofNat 64 d_, Fin.ofNat 64 a_, wa_ == 1, BitVec.ofNat 9 off_⟩
  | _ => none

/-- The operand field of MROps. -/
def MROps.enc (o : MROps) : Nat :=
  glue [(2, o.sz.code), (1, o.wb.toNat), (1, o.wa.toNat), (6, o.b.val), (6, o.a.val), (6, o.d.val)]

/-- MROps from an operand field. -/
def MROps.dec (n : Nat) : Option MROps :=
  match cut [2, 1, 1, 6, 6, 6] n with
  | [sz_, wb_, wa_, b_, a_, d_] => (Esz.ofCode sz_).bind fun sz => some ⟨Fin.ofNat 64 d_, Fin.ofNat 64 a_, Fin.ofNat 64 b_, wa_ == 1, wb_ == 1, sz⟩
  | _ => none

/-- The operand field of MVOps. -/
def MVOps.enc (o : MVOps) : Nat :=
  glue [(8, o.off.toNat), (2, o.w.code), (1, o.wa.toNat), (6, o.a.val), (5, o.vd.val)]

/-- MVOps from an operand field. -/
def MVOps.dec (n : Nat) : Option MVOps :=
  match cut [8, 2, 1, 6, 5] n with
  | [off_, w_, wa_, a_, vd_] => (Width.ofCode w_).bind fun w => some ⟨Fin.ofNat 32 vd_, Fin.ofNat 64 a_, wa_ == 1, w, BitVec.ofNat 8 off_⟩
  | _ => none

/-- The operand field of MVSOps. -/
def MVSOps.enc (o : MVSOps) : Nat :=
  glue [(1, o.wa.toNat), (2, o.esz.code), (2, o.w.code), (6, o.b.val), (6, o.a.val), (5, o.vd.val)]

/-- MVSOps from an operand field. -/
def MVSOps.dec (n : Nat) : Option MVSOps :=
  match cut [1, 2, 2, 6, 6, 5] n with
  | [wa_, esz_, w_, b_, a_, vd_] => (Width.ofCode w_).bind fun w => (Esz.ofCode esz_).bind fun esz => some ⟨Fin.ofNat 32 vd_, Fin.ofNat 64 a_, Fin.ofNat 64 b_, w, esz, wa_ == 1⟩
  | _ => none

/-- The operand field of MVGOps. -/
def MVGOps.enc (o : MVGOps) : Nat :=
  glue [(1, o.wa.toNat), (2, o.esz.code), (2, o.w.code), (1, 0), (5, o.vb.val), (6, o.a.val), (5, o.vd.val)]

/-- MVGOps from an operand field. -/
def MVGOps.dec (n : Nat) : Option MVGOps :=
  match cut [1, 2, 2, 1, 5, 6, 5] n with
  | [wa_, esz_, w_, z0, vb_, a_, vd_] => if z0 = 0 then (Width.ofCode w_).bind fun w => (Esz.ofCode esz_).bind fun esz => some ⟨Fin.ofNat 32 vd_, Fin.ofNat 64 a_, Fin.ofNat 32 vb_, w, esz, wa_ == 1⟩ else none
  | _ => none

/-- The operand field of FesetOps. -/
def FesetOps.enc (op : Nat) (o : FesetOps) : Nat :=
  glue [(2, op), (1, o.wb.toNat), (1, o.wa.toNat), (6, o.b.val), (6, o.a.val), (6, 0)]

/-- FesetOps from an operand field. -/
def FesetOps.dec (n : Nat) : Option FesetOps :=
  match cut [2, 1, 1, 6, 6, 6] n with
  | [_, wb_, wa_, b_, a_, z0] => if z0 = 0 then some ⟨Fin.ofNat 64 a_, Fin.ofNat 64 b_, wa_ == 1, wb_ == 1⟩ else none
  | _ => none

/-- The operand field of ATOps. -/
def ATOps.enc (o : ATOps) : Nat :=
  glue [(2, o.sc.code), (2, o.ord.code), (6, o.b.val), (6, o.a.val), (6, o.d.val)]

/-- ATOps from an operand field. -/
def ATOps.dec (n : Nat) : Option ATOps :=
  match cut [2, 2, 6, 6, 6] n with
  | [sc_, ord_, b_, a_, d_] => (Ord.ofCode ord_).bind fun ord => (AScope.ofCode sc_).bind fun sc => some ⟨Fin.ofNat 64 d_, Fin.ofNat 64 a_, Fin.ofNat 64 b_, ord, sc⟩
  | _ => none

/-- The operand field of SyncOps. -/
def SyncOps.enc (o : SyncOps) : Nat :=
  glue [(3, o.sc.code), (6, 0), (1, o.wa.toNat), (6, o.a.val), (6, o.d.val)]

/-- SyncOps from an operand field. -/
def SyncOps.dec (n : Nat) : Option SyncOps :=
  match cut [3, 6, 1, 6, 6] n with
  | [sc_, z0, wa_, a_, d_] => if z0 = 0 then (Scope.ofCode sc_).bind fun sc => some ⟨Fin.ofNat 64 d_, Fin.ofNat 64 a_, wa_ == 1, sc⟩ else none
  | _ => none

/-- The operand field of BindOps. -/
def BindOps.enc (o : BindOps) : Nat :=
  glue [(6, o.lg.toNat), (3, 0), (1, o.wa.toNat), (6, o.a.val), (6, o.d.val)]

/-- BindOps from an operand field. -/
def BindOps.dec (n : Nat) : Option BindOps :=
  match cut [6, 3, 1, 6, 6] n with
  | [lg_, z0, wa_, a_, d_] => if z0 = 0 then some ⟨Fin.ofNat 64 d_, Fin.ofNat 64 a_, wa_ == 1, BitVec.ofNat 6 lg_⟩ else none
  | _ => none

/-- The operand field of FenceOps. -/
def FenceOps.enc (o : FenceOps) : Nat :=
  glue [(3, o.sc.code), (19, 0)]

/-- FenceOps from an operand field. -/
def FenceOps.dec (n : Nat) : Option FenceOps :=
  match cut [3, 19] n with
  | [sc_, z0] => if z0 = 0 then (Scope.ofCode sc_).bind fun sc => some ⟨sc⟩ else none
  | _ => none

/-- The operand field of TlAOps. -/
def TlAOps.enc (o : TlAOps) : Nat :=
  glue [(3, o.tl.code), (7, 0), (6, o.a.val), (6, o.d.val)]

/-- TlAOps from an operand field. -/
def TlAOps.dec (n : Nat) : Option TlAOps :=
  match cut [3, 7, 6, 6] n with
  | [tl_, z0, a_, d_] => if z0 = 0 then (Timeline.ofCode tl_).bind fun tl => some ⟨Fin.ofNat 64 d_, Fin.ofNat 64 a_, tl⟩ else none
  | _ => none

/-- The operand field of TlOps. -/
def TlOps.enc (o : TlOps) : Nat :=
  glue [(3, o.tl.code), (7, 0), (6, 0), (6, o.d.val)]

/-- TlOps from an operand field. -/
def TlOps.dec (n : Nat) : Option TlOps :=
  match cut [3, 7, 6, 6] n with
  | [tl_, z0, z1, d_] => if z0 = 0 ∧ z1 = 0 then (Timeline.ofCode tl_).bind fun tl => some ⟨Fin.ofNat 64 d_, tl⟩ else none
  | _ => none

/-- The operand field of MSZ. -/
def MSZ.enc (o : MSZ) : Nat :=
  glue [(2, o.sz.code), (7, 0), (1, o.wa.toNat), (6, o.a.val), (6, o.d.val)]

/-- MSZ from an operand field. -/
def MSZ.dec (n : Nat) : Option MSZ :=
  match cut [2, 7, 1, 6, 6] n with
  | [sz_, z0, wa_, a_, d_] => if z0 = 0 then (Esz.ofCode sz_).bind fun sz => some ⟨Fin.ofNat 64 d_, Fin.ofNat 64 a_, wa_ == 1, sz⟩ else none
  | _ => none

/-- The operand field of HsetOps. -/
def HsetOps.enc (o : HsetOps) : Nat :=
  glue [(4, o.fld.toNat), (6, 0), (6, o.a.val), (6, 0)]

/-- HsetOps from an operand field. -/
def HsetOps.dec (n : Nat) : Option HsetOps :=
  match cut [4, 6, 6, 6] n with
  | [fld_, z0, a_, z1] => if z0 = 0 ∧ z1 = 0 then some ⟨Fin.ofNat 64 a_, BitVec.ofNat 4 fld_⟩ else none
  | _ => none

/-- The operand field of HgoOps. -/
def HgoOps.enc (o : HgoOps) : Nat :=
  glue [(2, o.q.toNat), (8, 0), (6, 0), (6, o.d.val)]

/-- HgoOps from an operand field. -/
def HgoOps.dec (n : Nat) : Option HgoOps :=
  match cut [2, 8, 6, 6] n with
  | [q_, z0, z1, d_] => if z0 = 0 ∧ z1 = 0 then some ⟨Fin.ofNat 64 d_, BitVec.ofNat 2 q_⟩ else none
  | _ => none

/-- The operand field of HgetOps. -/
def HgetOps.enc (o : HgetOps) : Nat :=
  glue [(4, o.fld.toNat), (6, 0), (6, 0), (6, o.d.val)]

/-- HgetOps from an operand field. -/
def HgetOps.dec (n : Nat) : Option HgetOps :=
  match cut [4, 6, 6, 6] n with
  | [fld_, z0, z1, d_] => if z0 = 0 ∧ z1 = 0 then some ⟨Fin.ofNat 64 d_, BitVec.ofNat 4 fld_⟩ else none
  | _ => none

/-- The operand field of GrantOps. -/
def GrantOps.enc (o : GrantOps) : Nat :=
  glue [(6, o.ch.toNat), (1, o.buf.toNat), (3, 0), (6, 0), (6, 0)]

/-- GrantOps from an operand field. -/
def GrantOps.dec (n : Nat) : Option GrantOps :=
  match cut [6, 1, 3, 6, 6] n with
  | [ch_, buf_, z0, z1, z2] => if z0 = 0 ∧ z1 = 0 ∧ z2 = 0 then some ⟨buf_ == 1, BitVec.ofNat 6 ch_⟩ else none
  | _ => none

/-- The operand field of ChOps. -/
def ChOps.enc (o : ChOps) : Nat :=
  glue [(6, o.ch.toNat), (4, 0), (6, 0), (6, o.d.val)]

/-- ChOps from an operand field. -/
def ChOps.dec (n : Nat) : Option ChOps :=
  match cut [6, 4, 6, 6] n with
  | [ch_, z0, z1, d_] => if z0 = 0 ∧ z1 = 0 then some ⟨Fin.ofNat 64 d_, BitVec.ofNat 6 ch_⟩ else none
  | _ => none

/-- The operand field of MSA. -/
def MSA.enc (o : MSA) : Nat :=
  glue [(9, o.off.toNat), (1, o.wa.toNat), (6, o.a.val), (6, 0)]

/-- MSA from an operand field. -/
def MSA.dec (n : Nat) : Option MSA :=
  match cut [9, 1, 6, 6] n with
  | [off_, wa_, a_, z0] => if z0 = 0 then some ⟨Fin.ofNat 64 a_, wa_ == 1, BitVec.ofNat 9 off_⟩ else none
  | _ => none

/-- The operand field of WayOps. -/
def WayOps.enc (o : WayOps) : Nat :=
  glue [(3, o.n.toNat), (7, 0), (6, 0), (6, o.d.val)]

/-- WayOps from an operand field. -/
def WayOps.dec (n : Nat) : Option WayOps :=
  match cut [3, 7, 6, 6] n with
  | [n_, z0, z1, d_] => if z0 = 0 ∧ z1 = 0 then some ⟨Fin.ofNat 64 d_, BitVec.ofNat 3 n_⟩ else none
  | _ => none

/-- The operand field of QAOps. -/
def QAOps.enc (o : QAOps) : Nat :=
  glue [(6, o.q.toNat), (4, 0), (6, o.a.val), (6, 0)]

/-- QAOps from an operand field. -/
def QAOps.dec (n : Nat) : Option QAOps :=
  match cut [6, 4, 6, 6] n with
  | [q_, z0, a_, z1] => if z0 = 0 ∧ z1 = 0 then some ⟨Fin.ofNat 64 a_, BitVec.ofNat 6 q_⟩ else none
  | _ => none

/-- The operand field of QDOps. -/
def QDOps.enc (o : QDOps) : Nat :=
  glue [(6, o.q.toNat), (4, 0), (6, 0), (6, o.d.val)]

/-- QDOps from an operand field. -/
def QDOps.dec (n : Nat) : Option QDOps :=
  match cut [6, 4, 6, 6] n with
  | [q_, z0, z1, d_] => if z0 = 0 ∧ z1 = 0 then some ⟨Fin.ofNat 64 d_, BitVec.ofNat 6 q_⟩ else none
  | _ => none

/-- The operand field of DAX. -/
def DAX.enc (o : DAX) : Nat :=
  glue [(10, 0), (6, o.a.val), (6, o.d.val)]

/-- DAX from an operand field. -/
def DAX.dec (n : Nat) : Option DAX :=
  match cut [10, 6, 6] n with
  | [z0, a_, d_] => if z0 = 0 then some ⟨Fin.ofNat 64 d_, Fin.ofNat 64 a_⟩ else none
  | _ => none

/-- The operand field of TlbOps. -/
def TlbOps.enc (op : Nat) (o : TlbOps) : Nat :=
  glue [(2, op), (7, 0), (1, o.wa.toNat), (6, o.a.val), (6, o.d.val)]

/-- TlbOps from an operand field. -/
def TlbOps.dec (n : Nat) : Option TlbOps :=
  match cut [2, 7, 1, 6, 6] n with
  | [_, z0, wa_, a_, d_] => if z0 = 0 then some ⟨Fin.ofNat 64 d_, Fin.ofNat 64 a_, wa_ == 1⟩ else none
  | _ => none

/-- The operand field of SpaceOps. -/
def SpaceOps.enc (o : SpaceOps) : Nat :=
  glue [(8, o.sp.toNat), (1, 0), (1, o.wa.toNat), (6, o.a.val), (6, o.d.val)]

/-- SpaceOps from an operand field. -/
def SpaceOps.dec (n : Nat) : Option SpaceOps :=
  match cut [8, 1, 1, 6, 6] n with
  | [sp_, z0, wa_, a_, d_] => if z0 = 0 then some ⟨Fin.ofNat 64 d_, Fin.ofNat 64 a_, wa_ == 1, BitVec.ofNat 8 sp_⟩ else none
  | _ => none

/-- The instruction of class and opcode `op` (bits 30 to 22) with operand field `n`, before the limits of
its fields are checked (07 R143). -/
def candidate (op n : Nat) : Except DecodeErr Instr :=
  let got {α : Type} (x : Option α) (f : α → Instr) : Except DecodeErr Instr :=
    match x with
    | some o => .ok (f o)
    | none => .error .field
  match op with
  | 0x000 => if n = 0 then .ok .nop else .error .field
  | 0x001 => got (RRR.dec n) .add
  | 0x002 => got (RRR.dec n) .sub
  | 0x003 => got (RI.dec n) .addi
  | 0x004 => got (RRR.dec n) .mul
  | 0x005 => got (RRR.dec n) .mulh
  | 0x006 =>
    match n / 1 % 4 with
    | 0 => got (DivOps.dec n) .div
    | 1 => got (DivOps.dec n) .divu
    | 2 => got (DivOps.dec n) .rem
    | 3 => got (DivOps.dec n) .remu
    | _ => .error .field
  | 0x007 => got (RRR.dec n) .and
  | 0x008 => got (RRR.dec n) .or
  | 0x009 => got (RRR.dec n) .xor
  | 0x00A => got (RI.dec n) .andi
  | 0x00B => got (RI.dec n) .ori
  | 0x00C => got (RI.dec n) .xori
  | 0x00D => got (RRR.dec n) .shl
  | 0x00E => got (RRR.dec n) .shr
  | 0x00F => got (RRR.dec n) .sar
  | 0x010 => got (RI.dec n) .shli
  | 0x011 => got (RI.dec n) .shri
  | 0x012 => got (RI.dec n) .sari
  | 0x013 => got (RRR.dec n) .rotl
  | 0x014 => got (RR.dec n) .clz
  | 0x015 => got (RR.dec n) .ctz
  | 0x016 => got (RR.dec n) .popc
  | 0x017 => got (RRR.dec n) .min
  | 0x018 => got (RRR.dec n) .max
  | 0x019 => got (SelOps.dec n) .sel
  | 0x01A => got (LiOps.dec n) .li
  | 0x01B => got (LiOps.dec n) .lsi
  | 0x01C => got (CmpOps.dec n) .cmp
  | 0x01D => got (CmpiOps.dec n) .cmpi
  | 0x01E =>
    match n / 1024 % 8 with
    | 0 => got (PlogOps.dec n) .pand
    | 1 => got (PlogOps.dec n) .por
    | 2 => got (PlogOps.dec n) .pxor
    | 3 => got (PlogOps.dec n) .pandc
    | 4 => got (PlogOps.dec n) .porc
    | 5 => got (PlogOps.dec n) .pnand
    | 6 => got (PlogOps.dec n) .pnor
    | 7 => got (PlogOps.dec n) .pxnor
    | _ => .error .field
  | 0x01F => got (DOnly.dec n) .ppack
  | 0x020 => got (AOnly.dec n) .punpack
  | 0x021 => got (FRRR.dec n) .fadd
  | 0x022 => got (FRRR.dec n) .fsub
  | 0x023 => got (FRRR.dec n) .fmul
  | 0x024 => got (FRRR.dec n) .ffma
  | 0x025 => got (FRRR.dec n) .fmin
  | 0x026 => got (FRRR.dec n) .fmax
  | 0x027 => got (FcmpOps.dec n) .fcmp
  | 0x028 => got (FcvtOps.dec n) .fcvt
  | 0x029 => got (FRRR.dec n) .fdiv
  | 0x02A => got (FRR.dec n) .fsqrt
  | 0x02B => got (DK.dec n) .crd
  | 0x02C => got (AK.dec n) .cwr
  | 0x02D => got (AX.dec n) .fmtset
  | 0x02E => got (DOnly.dec n) .emsave
  | 0x02F => got (AOnly.dec n) .emload
  | 0x030 => got (RR.dec n) .emcomb
  | 0x031 => got (DOnly.dec n) .cmsave
  | 0x032 => got (AOnly.dec n) .cmload
  | 0x033 => got (BrOps.dec n) .br
  | 0x034 => got (BrOps.dec n) .call
  | 0x035 => got (AOnly.dec n) .jmp
  | 0x036 => got (AOnly.dec n) .callr
  | 0x037 => if n = 0 then .ok .ret else .error .field
  | 0x038 => got (FrameOps.dec n) .enter
  | 0x039 => got (FrameOps.dec n) .leave
  | 0x03A => got (DbnzOps.dec n) .dbnz
  | 0x03B => got (KOnly.dec n) .trap
  | 0x03C => got (KOnly.dec n) .svc
  | 0x03D => if n = 0 then .ok .rte else .error .field
  | 0x03E => got (KOnly.dec n) .brk
  | 0x03F => if n = 0 then .ok .halt else .error .field
  | 0x040 => got (RR.dec n) .tspawn
  | 0x041 => if n = 0 then .ok .texit else .error .field
  | 0x042 => if n = 0 then .ok .knext else .error .field
  | 0x043 => got (AK.dec n) .etchmark
  | 0x044 => got (DOnly.dec n) .rdcyc
  | 0x080 => got (VRR.dec n) .vadd
  | 0x081 => got (VRR.dec n) .vsub
  | 0x082 => got (VRR.dec n) .vmul
  | 0x083 => got (VRR.dec n) .vfma
  | 0x084 => got (VRR.dec n) .vfnma
  | 0x085 => got (VRR.dec n) .vmin
  | 0x086 => got (VRR.dec n) .vmax
  | 0x087 => got (VR1.dec n) .vabs
  | 0x088 => got (VR1.dec n) .vneg
  | 0x089 => got (VRR.dec n) .vand
  | 0x08A => got (VRR.dec n) .vor
  | 0x08B => got (VRR.dec n) .vxor
  | 0x08C => got (VR1.dec n) .vnot
  | 0x08D => got (VRR.dec n) .vshl
  | 0x08E => got (VRR.dec n) .vshr
  | 0x08F => got (VRR.dec n) .vsar
  | 0x090 => got (VRR.dec n) .vminu
  | 0x091 => got (VRR.dec n) .vmaxu
  | 0x092 => got (VRR.dec n) .vadds
  | 0x093 => got (VRR.dec n) .vsubs
  | 0x094 => got (VRR.dec n) .vmulh
  | 0x098 => got (VcmpOps.dec n) .vcmp
  | 0x099 => got (VRR.dec n) .vsel
  | 0x09A => got (VR1.dec n) .vmov
  | 0x09B => got (VR1.dec n) .vmovu
  | 0x09C => got (VBc.dec n) .vbcast
  | 0x09D => got (VextOps.dec n) .vext
  | 0x09E => got (VSS.dec n) .vins
  | 0x0A0 => got (VSS.dec n) .vaddsc
  | 0x0A1 => got (VSS.dec n) .vmulsc
  | 0x0A2 => got (VSS.dec n) .vfmasc
  | 0x0A4 => got (VII.dec n) .vaddi
  | 0x0A5 => got (VII.dec n) .vshli
  | 0x0A6 => got (VII.dec n) .vshri
  | 0x0A7 => got (VII.dec n) .vsari
  | 0x0A8 => got (VLiOps.dec n) .vli
  | 0x0AC => got (VRR.dec n) .vperm
  | 0x0AD => got (VSS.dec n) .vslide
  | 0x0AE => got (VIota.dec n) .viota
  | 0x0B0 => got (VcntOps.dec n) .vpopc
  | 0x0B1 => got (VcntOps.dec n) .vfirst
  | 0x0B4 => got (VdfOps.dec n) .vdefer
  | 0x0B5 => got (VdfOps.dec n) .vdrain
  | 0x0B6 => got (VdstatOps.dec n) .vdstat
  | 0x100 => got (VR1.dec n) .vexp2
  | 0x101 => got (VR1.dec n) .vlog2
  | 0x102 => got (VR1.dec n) .vrcp
  | 0x103 => got (VR1.dec n) .vrsqrt
  | 0x104 => got (VR1.dec n) .vsqrt
  | 0x105 => got (VR1.dec n) .vtanh
  | 0x106 => got (VR1.dec n) .vsigm
  | 0x107 => got (VR1.dec n) .vsint
  | 0x108 => got (VR1.dec n) .vcost
  | 0x109 => got (VR1.dec n) .vexp
  | 0x10A => got (VR1.dec n) .verf
  | 0x110 => got (VcvtOps.dec n) .vcvt
  | 0x111 => got (VqOps.dec n) .vquant
  | 0x112 => got (VdqOps.dec n) .vdequant
  | 0x113 => got (VSS.dec n) .vrng
  | 0x114 => got (VredOps.dec n) .vredsum
  | 0x115 => got (VredOps.dec n) .vredmax
  | 0x116 => got (VredOps.dec n) .vredmin
  | 0x117 => got (VredOps.dec n) .vargmax
  | 0x118 => got (VR1.dec n) .vscan
  | 0x119 => got (VRR.dec n) .vsort
  | 0x11A => got (VRR.dec n) .vmrg
  | 0x11C => got (XmOps.dec n) .smerge
  | 0x120 => got (MmaOps.dec n) .mma
  | 0x121 => got (MpsetOps.dec n) .mpset
  | 0x122 => got (MpgetOps.dec n) .mpget
  | 0x123 => got (AttnOps.dec n) .attn
  | 0x180 => got (MSOps.dec n) .ldb
  | 0x181 => got (MSOps.dec n) .ldh
  | 0x182 => got (MSOps.dec n) .ldw
  | 0x183 => got (MSOps.dec n) .ldd
  | 0x184 => got (MSOps.dec n) .ldbu
  | 0x185 => got (MSOps.dec n) .ldhu
  | 0x186 => got (MSOps.dec n) .ldwu
  | 0x187 => got (MSOps.dec n) .stb
  | 0x188 => got (MSOps.dec n) .sth
  | 0x189 => got (MSOps.dec n) .stw
  | 0x18A => got (MSOps.dec n) .std
  | 0x18B => got (MROps.dec n) .ldx
  | 0x18C => got (MROps.dec n) .stx
  | 0x190 => got (MVOps.dec n) .vld
  | 0x191 => got (MVOps.dec n) .vst
  | 0x192 => got (MVSOps.dec n) .vlds
  | 0x193 => got (MVSOps.dec n) .vsts
  | 0x194 => got (MVGOps.dec n) .vgath
  | 0x195 => got (MVGOps.dec n) .vscat
  | 0x198 => got (MSOps.dec n) .ldwf
  | 0x199 => got (MSOps.dec n) .ldtk
  | 0x19A => got (MSOps.dec n) .stwe
  | 0x19B => got (MSOps.dec n) .stfl
  | 0x19C =>
    match n / 1 % 4 with
    | 0 => got (FesetOps.dec n) .fesetEmpty
    | 1 => got (FesetOps.dec n) .fesetFull
    | _ => .error .field
  | 0x19D => got (MSOps.dec n) .feget
  | 0x1A0 => got (ATOps.dec n) .ataddW
  | 0x1A1 => got (ATOps.dec n) .ataddD
  | 0x1A2 => got (ATOps.dec n) .atminW
  | 0x1A3 => got (ATOps.dec n) .atminD
  | 0x1A4 => got (ATOps.dec n) .atmaxW
  | 0x1A5 => got (ATOps.dec n) .atmaxD
  | 0x1A6 => got (ATOps.dec n) .atminuW
  | 0x1A7 => got (ATOps.dec n) .atminuD
  | 0x1A8 => got (ATOps.dec n) .atmaxuW
  | 0x1A9 => got (ATOps.dec n) .atmaxuD
  | 0x1AA => got (ATOps.dec n) .atandW
  | 0x1AB => got (ATOps.dec n) .atandD
  | 0x1AC => got (ATOps.dec n) .atorW
  | 0x1AD => got (ATOps.dec n) .atorD
  | 0x1AE => got (ATOps.dec n) .atxorW
  | 0x1AF => got (ATOps.dec n) .atxorD
  | 0x1B0 => got (ATOps.dec n) .atxchW
  | 0x1B1 => got (ATOps.dec n) .atxchD
  | 0x1B2 => got (ATOps.dec n) .atcasW
  | 0x1B3 => got (ATOps.dec n) .atcasD
  | 0x1B4 => got (ATOps.dec n) .atfaddW
  | 0x1B5 => got (ATOps.dec n) .atfaddD
  | 0x1B8 => got (SyncOps.dec n) .acq
  | 0x1B9 => got (SyncOps.dec n) .rel
  | 0x1BA => got (BindOps.dec n) .bind
  | 0x1BB => got (BindOps.dec n) .unbind
  | 0x1BC => got (FenceOps.dec n) .fence
  | 0x1BD => got (TlAOps.dec n) .tlwait
  | 0x1BE => got (TlOps.dec n) .tlread
  | 0x1BF => got (TlOps.dec n) .tlbump
  | 0x1C0 => got (MSZ.dec n) .rld
  | 0x1C1 => got (MSZ.dec n) .rst
  | 0x1C2 => got (MVOps.dec n) .rldv
  | 0x1C3 => got (MVOps.dec n) .rstv
  | 0x1C8 => got (HsetOps.dec n) .hset
  | 0x1C9 => got (HgoOps.dec n) .hgo
  | 0x1CA => got (HgetOps.dec n) .hget
  | 0x1CB => got (GrantOps.dec n) .blygrant
  | 0x1CC => got (ChOps.dec n) .blystat
  | 0x1D0 => got (MSA.dec n) .pref
  | 0x1D1 => got (MSA.dec n) .flush
  | 0x1D2 => got (MSA.dec n) .inval
  | 0x1D3 => got (WayOps.dec n) .wayconv
  | 0x1D4 => got (DOnly.dec n) .wayrest
  | 0x1D8 => got (QAOps.dec n) .qpush
  | 0x1D9 => got (QDOps.dec n) .qpop
  | 0x1DA => got (QDOps.dec n) .qstat
  | 0x1DC => got (DAX.dec n) .watch
  | 0x1DD => got (DAX.dec n) .unwatch
  | 0x1E0 => got (MSOps.dec n) .kvopen
  | 0x1E1 => got (MSOps.dec n) .kvfork
  | 0x1E2 => got (MSOps.dec n) .kvrsv
  | 0x1E3 => got (MSOps.dec n) .kvwr
  | 0x1E4 => got (MSOps.dec n) .kvtrim
  | 0x1E5 => got (MSOps.dec n) .kvfree
  | 0x1E6 => got (MSOps.dec n) .kvclass
  | 0x1E7 => got (MSOps.dec n) .kvpin
  | 0x1E8 => got (MSOps.dec n) .kvdemote
  | 0x1E9 => got (MSOps.dec n) .kvpromote
  | 0x1EA => got (MSOps.dec n) .kvlend
  | 0x1EB => got (MSOps.dec n) .kvquery
  | 0x1F0 =>
    match n / 1 % 4 with
    | 0 => got (TlbOps.dec n) .tlbinvPage
    | 1 => got (TlbOps.dec n) .tlbinvCtx
    | 2 => got (TlbOps.dec n) .tlbinvAll
    | _ => .error .field
  | 0x1F1 => got (SpaceOps.dec n) .kvspace
  | _ => .error .reserved

/-- A slot from its 32-bit word, or why there is none (07 R145). -/
def decodeSlot (w : Nat) : Except DecodeErr Slot :=
  match candidate (w / 2 ^ 22 % 2 ^ 9) (w % 2 ^ 22) with
  | .ok i => if i.wf then .ok ⟨w / 2 ^ 31 % 2 == 1, i⟩ else .error .limits
  | .error x => .error x

/-- Class and opcode (bits 30 to 22) and operand field (bits 21 to 0) of an encoded instruction; `none` for
the steps, which have no encoding. -/
def encodeParts : Instr → Option (Nat × Nat)
  | .nop => some (0x000, 0)
  | .add o => some (0x001, o.enc)
  | .sub o => some (0x002, o.enc)
  | .addi o => some (0x003, o.enc)
  | .mul o => some (0x004, o.enc)
  | .mulh o => some (0x005, o.enc)
  | .div o => some (0x006, o.enc 0)
  | .divu o => some (0x006, o.enc 1)
  | .rem o => some (0x006, o.enc 2)
  | .remu o => some (0x006, o.enc 3)
  | .and o => some (0x007, o.enc)
  | .or o => some (0x008, o.enc)
  | .xor o => some (0x009, o.enc)
  | .andi o => some (0x00A, o.enc)
  | .ori o => some (0x00B, o.enc)
  | .xori o => some (0x00C, o.enc)
  | .shl o => some (0x00D, o.enc)
  | .shr o => some (0x00E, o.enc)
  | .sar o => some (0x00F, o.enc)
  | .shli o => some (0x010, o.enc)
  | .shri o => some (0x011, o.enc)
  | .sari o => some (0x012, o.enc)
  | .rotl o => some (0x013, o.enc)
  | .clz o => some (0x014, o.enc)
  | .ctz o => some (0x015, o.enc)
  | .popc o => some (0x016, o.enc)
  | .min o => some (0x017, o.enc)
  | .max o => some (0x018, o.enc)
  | .sel o => some (0x019, o.enc)
  | .li o => some (0x01A, o.enc)
  | .lsi o => some (0x01B, o.enc)
  | .cmp o => some (0x01C, o.enc)
  | .cmpi o => some (0x01D, o.enc)
  | .pand o => some (0x01E, o.enc 0)
  | .por o => some (0x01E, o.enc 1)
  | .pxor o => some (0x01E, o.enc 2)
  | .pandc o => some (0x01E, o.enc 3)
  | .porc o => some (0x01E, o.enc 4)
  | .pnand o => some (0x01E, o.enc 5)
  | .pnor o => some (0x01E, o.enc 6)
  | .pxnor o => some (0x01E, o.enc 7)
  | .ppack o => some (0x01F, o.enc)
  | .punpack o => some (0x020, o.enc)
  | .fadd o => some (0x021, o.enc)
  | .fsub o => some (0x022, o.enc)
  | .fmul o => some (0x023, o.enc)
  | .ffma o => some (0x024, o.enc)
  | .fmin o => some (0x025, o.enc)
  | .fmax o => some (0x026, o.enc)
  | .fcmp o => some (0x027, o.enc)
  | .fcvt o => some (0x028, o.enc)
  | .fdiv o => some (0x029, o.enc)
  | .fsqrt o => some (0x02A, o.enc)
  | .crd o => some (0x02B, o.enc)
  | .cwr o => some (0x02C, o.enc)
  | .fmtset o => some (0x02D, o.enc)
  | .emsave o => some (0x02E, o.enc)
  | .emload o => some (0x02F, o.enc)
  | .emcomb o => some (0x030, o.enc)
  | .cmsave o => some (0x031, o.enc)
  | .cmload o => some (0x032, o.enc)
  | .br o => some (0x033, o.enc)
  | .call o => some (0x034, o.enc)
  | .jmp o => some (0x035, o.enc)
  | .callr o => some (0x036, o.enc)
  | .ret => some (0x037, 0)
  | .enter o => some (0x038, o.enc)
  | .leave o => some (0x039, o.enc)
  | .dbnz o => some (0x03A, o.enc)
  | .trap o => some (0x03B, o.enc)
  | .svc o => some (0x03C, o.enc)
  | .rte => some (0x03D, 0)
  | .brk o => some (0x03E, o.enc)
  | .halt => some (0x03F, 0)
  | .tspawn o => some (0x040, o.enc)
  | .texit => some (0x041, 0)
  | .knext => some (0x042, 0)
  | .etchmark o => some (0x043, o.enc)
  | .rdcyc o => some (0x044, o.enc)
  | .vadd o => some (0x080, o.enc)
  | .vsub o => some (0x081, o.enc)
  | .vmul o => some (0x082, o.enc)
  | .vfma o => some (0x083, o.enc)
  | .vfnma o => some (0x084, o.enc)
  | .vmin o => some (0x085, o.enc)
  | .vmax o => some (0x086, o.enc)
  | .vabs o => some (0x087, o.enc)
  | .vneg o => some (0x088, o.enc)
  | .vand o => some (0x089, o.enc)
  | .vor o => some (0x08A, o.enc)
  | .vxor o => some (0x08B, o.enc)
  | .vnot o => some (0x08C, o.enc)
  | .vshl o => some (0x08D, o.enc)
  | .vshr o => some (0x08E, o.enc)
  | .vsar o => some (0x08F, o.enc)
  | .vminu o => some (0x090, o.enc)
  | .vmaxu o => some (0x091, o.enc)
  | .vadds o => some (0x092, o.enc)
  | .vsubs o => some (0x093, o.enc)
  | .vmulh o => some (0x094, o.enc)
  | .vcmp o => some (0x098, o.enc)
  | .vsel o => some (0x099, o.enc)
  | .vmov o => some (0x09A, o.enc)
  | .vmovu o => some (0x09B, o.enc)
  | .vbcast o => some (0x09C, o.enc)
  | .vext o => some (0x09D, o.enc)
  | .vins o => some (0x09E, o.enc)
  | .vaddsc o => some (0x0A0, o.enc)
  | .vmulsc o => some (0x0A1, o.enc)
  | .vfmasc o => some (0x0A2, o.enc)
  | .vaddi o => some (0x0A4, o.enc)
  | .vshli o => some (0x0A5, o.enc)
  | .vshri o => some (0x0A6, o.enc)
  | .vsari o => some (0x0A7, o.enc)
  | .vli o => some (0x0A8, o.enc)
  | .vperm o => some (0x0AC, o.enc)
  | .vslide o => some (0x0AD, o.enc)
  | .viota o => some (0x0AE, o.enc)
  | .vpopc o => some (0x0B0, o.enc)
  | .vfirst o => some (0x0B1, o.enc)
  | .vdefer o => some (0x0B4, o.enc)
  | .vdrain o => some (0x0B5, o.enc)
  | .vdstat o => some (0x0B6, o.enc)
  | .vexp2 o => some (0x100, o.enc)
  | .vlog2 o => some (0x101, o.enc)
  | .vrcp o => some (0x102, o.enc)
  | .vrsqrt o => some (0x103, o.enc)
  | .vsqrt o => some (0x104, o.enc)
  | .vtanh o => some (0x105, o.enc)
  | .vsigm o => some (0x106, o.enc)
  | .vsint o => some (0x107, o.enc)
  | .vcost o => some (0x108, o.enc)
  | .vexp o => some (0x109, o.enc)
  | .verf o => some (0x10A, o.enc)
  | .vcvt o => some (0x110, o.enc)
  | .vquant o => some (0x111, o.enc)
  | .vdequant o => some (0x112, o.enc)
  | .vrng o => some (0x113, o.enc)
  | .vredsum o => some (0x114, o.enc)
  | .vredmax o => some (0x115, o.enc)
  | .vredmin o => some (0x116, o.enc)
  | .vargmax o => some (0x117, o.enc)
  | .vscan o => some (0x118, o.enc)
  | .vsort o => some (0x119, o.enc)
  | .vmrg o => some (0x11A, o.enc)
  | .smerge o => some (0x11C, o.enc)
  | .mma o => some (0x120, o.enc)
  | .mpset o => some (0x121, o.enc)
  | .mpget o => some (0x122, o.enc)
  | .attn o => some (0x123, o.enc)
  | .ldb o => some (0x180, o.enc)
  | .ldh o => some (0x181, o.enc)
  | .ldw o => some (0x182, o.enc)
  | .ldd o => some (0x183, o.enc)
  | .ldbu o => some (0x184, o.enc)
  | .ldhu o => some (0x185, o.enc)
  | .ldwu o => some (0x186, o.enc)
  | .stb o => some (0x187, o.enc)
  | .sth o => some (0x188, o.enc)
  | .stw o => some (0x189, o.enc)
  | .std o => some (0x18A, o.enc)
  | .ldx o => some (0x18B, o.enc)
  | .stx o => some (0x18C, o.enc)
  | .vld o => some (0x190, o.enc)
  | .vst o => some (0x191, o.enc)
  | .vlds o => some (0x192, o.enc)
  | .vsts o => some (0x193, o.enc)
  | .vgath o => some (0x194, o.enc)
  | .vscat o => some (0x195, o.enc)
  | .ldwf o => some (0x198, o.enc)
  | .ldtk o => some (0x199, o.enc)
  | .stwe o => some (0x19A, o.enc)
  | .stfl o => some (0x19B, o.enc)
  | .fesetEmpty o => some (0x19C, o.enc 0)
  | .fesetFull o => some (0x19C, o.enc 1)
  | .feget o => some (0x19D, o.enc)
  | .ataddW o => some (0x1A0, o.enc)
  | .ataddD o => some (0x1A1, o.enc)
  | .atminW o => some (0x1A2, o.enc)
  | .atminD o => some (0x1A3, o.enc)
  | .atmaxW o => some (0x1A4, o.enc)
  | .atmaxD o => some (0x1A5, o.enc)
  | .atminuW o => some (0x1A6, o.enc)
  | .atminuD o => some (0x1A7, o.enc)
  | .atmaxuW o => some (0x1A8, o.enc)
  | .atmaxuD o => some (0x1A9, o.enc)
  | .atandW o => some (0x1AA, o.enc)
  | .atandD o => some (0x1AB, o.enc)
  | .atorW o => some (0x1AC, o.enc)
  | .atorD o => some (0x1AD, o.enc)
  | .atxorW o => some (0x1AE, o.enc)
  | .atxorD o => some (0x1AF, o.enc)
  | .atxchW o => some (0x1B0, o.enc)
  | .atxchD o => some (0x1B1, o.enc)
  | .atcasW o => some (0x1B2, o.enc)
  | .atcasD o => some (0x1B3, o.enc)
  | .atfaddW o => some (0x1B4, o.enc)
  | .atfaddD o => some (0x1B5, o.enc)
  | .acq o => some (0x1B8, o.enc)
  | .rel o => some (0x1B9, o.enc)
  | .bind o => some (0x1BA, o.enc)
  | .unbind o => some (0x1BB, o.enc)
  | .fence o => some (0x1BC, o.enc)
  | .tlwait o => some (0x1BD, o.enc)
  | .tlread o => some (0x1BE, o.enc)
  | .tlbump o => some (0x1BF, o.enc)
  | .rld o => some (0x1C0, o.enc)
  | .rst o => some (0x1C1, o.enc)
  | .rldv o => some (0x1C2, o.enc)
  | .rstv o => some (0x1C3, o.enc)
  | .hset o => some (0x1C8, o.enc)
  | .hgo o => some (0x1C9, o.enc)
  | .hget o => some (0x1CA, o.enc)
  | .blygrant o => some (0x1CB, o.enc)
  | .blystat o => some (0x1CC, o.enc)
  | .pref o => some (0x1D0, o.enc)
  | .flush o => some (0x1D1, o.enc)
  | .inval o => some (0x1D2, o.enc)
  | .wayconv o => some (0x1D3, o.enc)
  | .wayrest o => some (0x1D4, o.enc)
  | .qpush o => some (0x1D8, o.enc)
  | .qpop o => some (0x1D9, o.enc)
  | .qstat o => some (0x1DA, o.enc)
  | .watch o => some (0x1DC, o.enc)
  | .unwatch o => some (0x1DD, o.enc)
  | .kvopen o => some (0x1E0, o.enc)
  | .kvfork o => some (0x1E1, o.enc)
  | .kvrsv o => some (0x1E2, o.enc)
  | .kvwr o => some (0x1E3, o.enc)
  | .kvtrim o => some (0x1E4, o.enc)
  | .kvfree o => some (0x1E5, o.enc)
  | .kvclass o => some (0x1E6, o.enc)
  | .kvpin o => some (0x1E7, o.enc)
  | .kvdemote o => some (0x1E8, o.enc)
  | .kvpromote o => some (0x1E9, o.enc)
  | .kvlend o => some (0x1EA, o.enc)
  | .kvquery o => some (0x1EB, o.enc)
  | .tlbinvPage o => some (0x1F0, o.enc 0)
  | .tlbinvCtx o => some (0x1F0, o.enc 1)
  | .tlbinvAll o => some (0x1F0, o.enc 2)
  | .kvspace o => some (0x1F1, o.enc)
  | .registerWrite _ _ => none
  | .memoryRead _ _ _ => none
  | .scrubPass _ _ _ => none
  | .keyRotate _ _ _ => none
  | .channelRetire _ _ _ => none
  | .retireStripeRebuild _ _ => none
  | .hbmLinkRetrain _ _ => none
  | .t2RangeWithdrawn _ => none
  | .poolLinkFail => none
  | .l2Eviction _ _ => none
  | .wayconvDrainDone _ => none
  | .wayrestDone _ => none
  | .haulStart _ => none
  | .haulComplete _ => none
  | .belayTransferHeld _ _ _ => none
  | .wsUnseal _ _ => none
  | .wsSeal _ _ => none
  | .wsRefreshPhase _ => none
  | .feWaitGrant _ => none
  | .loadComplete _ => none
  | .scalarDivComplete _ => none
  | .xResultComplete _ => none
  | .vdrainComplete _ => none
  | .mmaComplete _ => none
  | .tlbinvComplete _ => none
  | .acqWake _ => none
  | .acqRemoteNotYet _ => none
  | .relPerform _ => none
  | .fencePerform _ => none
  | .watchdog _ => none
  | .pageWalk _ => none
  | .xfrespRetry _ _ => none
  | .xfrespFailXlate _ _ => none
  | .xfrespFailProt _ _ => none
  | .icacheFill _ => none
  | .debuggerResume _ => none
  | .remoteRequest _ => none
  | .remoteReply _ => none
  | .storeAck _ _ _ _ => none
  | .staleNotice _ _ _ => none
  | .remoteTimeout _ => none
  | .laneFail _ _ => none
  | .flitTagFail _ _ _ => none
  | .linkRekey _ _ => none
  | .fabricEnable _ => none
  | .fabricDisable _ => none
  | .incarnationNotice _ => none
  | .multicastDeliver _ => none
  | .multicastComplete _ _ => none
  | .reductionContribution _ => none
  | .reductionTimeout _ _ _ => none
  | .lendPut _ _ _ _ _ _ => none
  | .lendAck _ _ _ _ => none
  | .lendFree _ _ _ => none
  | .lendRecall _ _ => none
  | .lendGone _ _ => none
  | .lendAckTimeout _ _ => none
  | .lendingRead _ _ _ _ _ _ => none
  | .lendingReadReply _ _ _ _ _ _ _ => none
  | .frameOpen _ => none
  | .frameClose _ => none
  | .moveHold _ _ => none
  | .moveSwitch _ _ => none
  | .appendWaitResume _ => none
  | .kvOpComplete _ => none
  | .streamAssign _ => none
  | .attnPageLand _ => none
  | .attnSlotConsume _ => none
  | .attnComplete _ => none
  | .launchAccept => none
  | .taskBind _ => none
  | .taskStart _ => none
  | .swapOut _ => none
  | .taskRestore _ => none
  | .quantumExpire _ => none
  | .agePromote _ => none
  | .crossClusterEligible _ => none
  | .taskEnd _ => none
  | .counterTreeFlush _ _ _ _ => none
  | .ntfDelayExpire => none
  | .watchTrigger _ => none
  | .mailboxSubmit _ _ => none
  | .ctxCreate => none
  | .ctxDestroy => none
  | .keyNew => none
  | .keyClear => none
  | .ctxRekey => none
  | .segLoad => none
  | .segUnload => none
  | .dbgNonce _ => none
  | .dbgUnlock => none
  | .dbgLock => none
  | .arbRaise => none
  | .ctxSetetch => none
  | .inPackageLinkAuth _ _ => none
  | .offPackageLinkKeying _ _ _ _ => none
  | .getVersion => none
  | .getCapabilities => none
  | .negotiateAlgorithms => none
  | .getDigests => none
  | .getCertificate _ _ _ => none
  | .challenge _ _ => none
  | .getMeasurements _ => none
  | .getHealth => none
  | .readLog => none
  | .readJournal _ => none
  | .reset _ => none
  | .fwStage _ _ => none
  | .fwActivate => none
  | .scCmd _ => none
  | .setPowerLimit _ => none
  | .hostMemAccess _ _ _ => none
  | .hostLinkLoss => none
  | .functionLevelReset => none
  | .moduleReset => none
  | .bringUp _ _ _ => none
  | .throttle _ => none
  | .overTemperature => none
  | .criticalTemperature => none
  | .debuggerHalt _ => none
  | .t2RangeAssigned _ _ => none
  | .parked256Cycles _ => none

/-- The 32-bit word of a slot. -/
def encode (s : Slot) : Option Nat :=
  (encodeParts s.i).map fun p => s.e.toNat * 2 ^ 31 + p.1 * 2 ^ 22 + p.2

/-- The instruction the decoder reads from an instruction whose bits are `w` (the host's question): a slot is
one little-endian 32-bit word. -/
def decodeTableWord (_nbits w : Nat) : Option Instr :=
  match decodeSlot (w % 2 ^ 32) with
  | .ok sl => some sl.i
  | .error _ => none

end Sys2Proof
end

