-- ==== Sys2Proof/Machine/Fetch.lean ====
section
/-! DEFINITION. Fetching a bundle: the checks of 20 R380, the instruction cache of 23 R365, the words of a bundle and
the limits of its slots (06 R130, 07 R145). -/

namespace Sys2Proof.Machine

/-- The segment of a context whose code holds an address (23 R365). -/
def Ctx.segOf (c : Ctx) (va : Nat) : Option Seg := c.segs.find? fun g => g.base ≤ va && va < g.base + g.len

/-- The block that holds an address, if the core's instruction cache has it for the context. -/
def State.cachedBlock (s : State) (loc ctx va : Nat) : Option IBlock :=
  s.icache.find? fun b => b.loc == loc && b.ctx == ctx && b.va == va / 1024 * 1024

/-- The bytes of a code block as a table from offsets (only bytes that are not 0 are listed). -/
def blockTable (bs : List Byte) : Tbl Byte :=
  (bs.zipIdx.filter fun p => p.1 != 0).map fun p => (p.2, p.1)

/-- The bytes of block `va` of a segment as they were loaded. -/
def Seg.block (g : Seg) (va : Nat) : Tbl Byte :=
  (g.code.filter fun e => va - g.base ≤ e.1 && e.1 < va - g.base + 1024).map fun e => (e.1 - (va - g.base), e.2)

/-- Steps 1 to 3 of R380 for the block of an address: its physical address, or the trap. -/
def State.fetchTarget (s : State) (loc ctx : Nat) (sv : Bool) (va : Word) : Except Trap Nat :=
  if va.extractLsb' 48 16 != 0#16 then .error (.xl cXlate va (xinfo 1 .fetch false false false))
  else if va.toNat < 0x400000 then .error (.xl cProt va (xinfo 0 .fetch false false false))
  else
    match s.translate (.core loc) ctx sv .fetch va with
    | .error t => .error t
    | .ok (.fabric _ _) => .error (.xl cProt va (xinfo 0 .fetch true false false))
    | .ok (.phys pa) =>
      match s.place pa with
      | .node _ => .ok pa
      | .none => .error (.now cMachine (BitVec.ofNat 64 pa))
      | _ => .error (.xl cProt va (xinfo 0 .fetch false false false))

/-- Room for one more block in a core's instruction cache of 128 KiB (00 R2): a full one loses a block, freely chosen
(log 11). -/
def State.codeRoom (s : State) (loc : Nat) : State :=
  let mine := s.icache.filter fun b => b.loc == loc
  if mine.length < 128 then s
  else { s with free := s.free + 1, icache := s.icache.erase (mine.getD (Config.freeNat s.free % mine.length) ⟨0, 0, 0, []⟩) }

/-- An instruction-cache fill (23 R365): the machine with the block cached, or the trap of the fetch with the errors that the
read of the block has met (01 R20, R21). A block with a sector of another protected context is refused (23 R363). -/
def State.fillBlock (s : State) (loc ctx : Nat) (sv : Bool) (va : Word) : Except (State × Trap) State :=
  let blk := va.toNat / 1024 * 1024
  match s.fetchTarget loc ctx sv va with
  | .error t => .error (s, t)
  | .ok pa =>
    let base := pa / 1024 * 1024
    if s.anyRefused ctx base 1024 then .error (s, .xl cProt va (xinfo 0 .fetch false false false))
    else
      let (s1, code, bad) := s.homeRead ctx base 1024
      let bytes := blockTable code
      match (s.ctxOf ctx).bind fun c => c.segOf blk with
      | some g =>
        if g.block blk == bytes && !bad then
          let s2 := s1.codeRoom loc
          .ok { s2 with icache := ⟨loc, ctx, blk, bytes⟩ :: s2.icache }
        else .error (s1, .now cSegAuth (BitVec.ofNat 64 blk))
      | none => .error (s1, .now cSegAuth (BitVec.ofNat 64 blk))

/-- The block that the focused task fetches from, filled if it is not cached. Every fetch makes steps 1 to 3; a block
in the cache needs no second authentication (R380, R365). -/
def State.fetchBlock (s : State) : Except (State × Trap) (State × IBlock) :=
  let va := s.cur.pc
  match s.fetchTarget s.cur.loc s.cur.ctx s.cur.ctl.sv va with
  | .error t => .error (s, t)
  | .ok _ =>
    match s.cachedBlock s.cur.loc s.cur.ctx va.toNat with
    | some b => .ok (s, b)
    | none =>
      match s.fillBlock s.cur.loc s.cur.ctx s.cur.ctl.sv va with
      | .error t => .error t
      | .ok s1 =>
        match s1.cachedBlock s.cur.loc s.cur.ctx va.toNat with
        | some b => .ok (s1, b)
        | none => .error (s1, .now cSegAuth va)

/-- The 32-bit word at an offset of a block. -/
def blockWord (t : Tbl Byte) (off : Nat) : Nat :=
  (Tbl.get 0 t off).toNat + 256 * (Tbl.get 0 t (off + 1)).toNat + 65536 * (Tbl.get 0 t (off + 2)).toNat +
    16777216 * (Tbl.get 0 t (off + 3)).toNat

/-- The words of the bundle at an offset: up to the first with the E bit, at most `fuel`, within the block; and
whether the E bit was found (06 R130). -/
def bundleWords (t : Tbl Byte) : Nat → Nat → List Nat × Bool
  | 0, _ => ([], false)
  | fuel + 1, off =>
    if 1024 ≤ off then ([], false)
    else
      let w := blockWord t off
      if w / 2 ^ 31 = 1 then ([w], true)
      else
        let r := bundleWords t fuel (off + 4)
        (w :: r.1, r.2)

/-- The class of an instruction's slot: 0 S, 1 V, 2 X, 3 M (07 R138). -/
def slotClass (i : Instr) : Nat := ((encodeParts i).map fun p => p.1 / 128).getD 0

/-- Whether an instruction is FMTSET. -/
def isFmtset : Instr → Bool
  | .fmtset _ => true
  | _ => false

/-- How many slots of a class a bundle may hold (06 R130). -/
def classLimit : Nat → Nat
  | 0 => 2
  | 1 => 3
  | 2 => 1
  | _ => 2

/-- Whether the slots' classes obey the limits (06 R130). -/
def classesOk (is : List Instr) : Bool :=
  (List.range 4).all fun c => (is.filter fun i => slotClass i == c).length ≤ classLimit c

/-- The slot of an FMTSET that is not the first S slot (06 R129). -/
def lateFmtset (is : List Instr) : Option Nat :=
  let firstS := (is.findIdx? fun i => slotClass i == 0).getD 0
  (is.zipIdx.find? fun p => isFmtset p.1 && p.2 != firstS).map Prod.snd

/-- The instructions of a bundle's words up to the first that does not decode (07 R145). -/
def decodePrefix : List Nat → List Instr
  | [] => []
  | w :: ws =>
    match decodeSlot w with
    | .error _ => []
    | .ok sl => sl.i :: decodePrefix ws

/-- A bundle from its words: its instructions, or why it is ILLEGAL: by the first slot that does not decode or is an FMTSET out of
its place (07 R145), or as a whole (06 R130). -/
def decodeBundle (ws : List Nat) (ended : Bool) : Except (Option Nat) (List Instr) :=
  let is := decodePrefix ws
  match lateFmtset is with
  | some k => .error (some k)
  | none =>
    if is.length < ws.length then .error (some is.length)
    else if ended && classesOk is then .ok is
    else .error none

end Sys2Proof.Machine
end

