-- ==== Sys2Proof/Machine/Launch.lean ====
section
/-! DEFINITION. Launch records, loop records and tile lists: how the dispatcher reads and checks them (15 R289 to R293,
07 R153, R154), and where it places a task. -/

namespace Sys2Proof.Machine

/-! ### Reading records and the completion word -/

/-- Bytes of one page as the dispatcher reads them for a context: at their home, with the permissions of a task outside
supervisor mode; none where they cannot be read. -/
def State.recPiece (s : State) (ctx : Nat) (va : Word) (n : Nat) : Option (List Byte) :=
  if va.toNat < 0x400000 then none
  else
    match s.translate .walker ctx false .load va with
    | .ok (.phys pa) =>
      let ok := match s.place pa with
        | .node _ => !s.anyRefused ctx pa n
        | .pad .. => true
        | _ => false
      if ok && !s.anyPoison pa n then some (s.bytes pa n) else none
    | _ => none

/-- At most 64 bytes of a record, which may cross one page boundary. -/
def State.recRead (s : State) (ctx : Nat) (va : Word) (n : Nat) : Option (List Byte) :=
  let m := min n (0x10000 - va.toNat % 0x10000)
  match s.recPiece ctx va m with
  | none => none
  | some a => if m = n then some a else (s.recPiece ctx (va + BitVec.ofNat 64 m) (n - m)).map fun b => a ++ b

/-- What reading at most 64 bytes of a record does to memory: sectors are read at their homes, and a poisoned table entry is
charged (01 R21, 20 R343). -/
def State.recTouch (s : State) (ctx : Nat) (va : Word) (n : Nat) : State :=
  (cuts 3 va n).foldl (fun s p =>
    match s.translate .walker ctx false .load p.1 with
    | .ok (.phys pa) => if p.1.toNat < 0x400000 || (s.anyRefused ctx pa p.2) then s else s.touch ctx pa p.2
    | .ok (.fabric ..) => s
    | .error t => if p.1.toNat < 0x400000 then s else s.walkCharge ctx t) s

/-- Whether a completion word address can be written by its context (15 R290). -/
def State.complOk (s : State) (ctx : Nat) (va : Word) : Bool :=
  va.toNat % 8 == 0 && 0x400000 ≤ va.toNat &&
  (match s.translate .walker ctx false .store va with
   | .ok (.phys pa) =>
     (match s.place pa with
      | .node _ => !s.refused ctx pa
      | .pad .. => true
      | _ => false)
   | .ok (.fabric ..) => true
   | .error _ => false)

/-- A completion word written (15 R290, R302); address 0 means that there is none. Its DONE record, if it has one, follows once the
word has been performed (24 R373). -/
def State.putCompletion (s : State) (ctx : Nat) (va w : Word) (done : Option DoneWait := none) : State :=
  let bs : List (Option Byte) := (natLe 8 w.toNat).map some
  let then_ (s : State) : State := (done.map s.journalDone).getD s
  if va = 0 then then_ s
  else if !s.complOk ctx va then then_ (if va.toNat < 0x400000 then s else s.walkTouch ctx .store va)
  else
    match s.translate .walker ctx false .store va with
    | .ok (.phys pa) => then_ (s.physWrite ⟨ctx, 0, 0, 0⟩ pa bs)
    | .ok (.fabric m off) =>
      s.request ctx { OutReq.ofTask s.nextId m 0 0 (BitVec.ofNat 64 (m * 2 ^ 52 + off)) 0 8 true 0 with done := done } off (.store bs) false
    | .error _ => s

/-- A completion word: STATUS, DETAIL, SETID (15 R290). -/
def complWord (status detail setId : Nat) : Word :=
  BitVec.ofNat 64 (status + 2 ^ 8 * (detail % 2 ^ 24) + 2 ^ 32 * setId)

/-! ### Partitions (15 R297) -/

/-- A register of partition `p`. -/
def ptreg (p off : Nat) : Nat := ctlBase 0 + 0xA0000 + 32 * p + off

/-- PRIO of a partition: 0 is the highest. -/
def State.ptPrio (s : State) (p : Nat) : Nat := Word.get (s.mcrGet (ptreg p 8)) 0 2

/-- PREEMPT of a partition. -/
def State.ptPreempt (s : State) (p : Nat) : Bool := (s.mcrGet (ptreg p 8)).getLsbD 2

/-- EN of a partition. -/
def State.ptEnabled (s : State) (p : Nat) : Bool := (s.mcrGet (ptreg p 8)).getLsbD 3

/-- QUANTUM and AGELIM of a partition, in cycles; 0 means none. -/
def State.ptTimes (s : State) (p : Nat) : Nat × Nat :=
  let v := s.mcrGet (ptreg p 8)
  (1024 * Word.get v 16 16, 1024 * Word.get v 32 16)

/-- The slices of the clusters of a partition on a set of dies, rising (15 R292). -/
def State.clustersOf (s : State) (p : Nat) (dies : BitVec 6) : List Nat :=
  (List.range 64).filter fun n => (s.mcrGet (ptreg p 0)).getLsbD n && dies.getLsbD (sliceDie n)

/-! ### The checks of a launch (15 R290) -/

/-- STATUS and DETAIL of a refusal. -/
abbrev Refused := Nat × Nat

/-- A check of a launch. -/
def need (ok : Bool) (r : Refused) : Except Refused Unit := if ok then .ok () else .error r

/-- A refusal for a field: BAD_RECORD and its offset. -/
def badAt (off : Nat) : Refused := (3, off)

/-- A launch that has passed its checks. -/
structure Launch where
  loop : LoopRec
  spb : Nat
  spl : Nat
  seg : Nat
  ext : Vector Nat 3
  nstep : Nat
  steps : Vector (BitVec 32) 3
  loctab : Word
  compl : Word
  tag : Word
  partition : Nat
  stage : Nat
  prio : Nat
  capS : Nat
  capV : Nat
  tiles : List Tile
  elig : List Nat
  deriving DecidableEq, Repr

/-- The loop record of its bytes (07 R153). -/
def LoopRec.ofBytes (addr : Word) (b : List Byte) : LoopRec :=
  ⟨addr, fieldW b 0, fieldW b 8, fieldW b 16, field b 24 4, BitVec.ofNat 32 (field b 28 4), fieldW b 32, fieldW b 40,
    fieldW b 48, fieldW b 56⟩

/-- A tile entry of its bytes (07 R154). -/
def Tile.ofBytes (b : List Byte) : Tile :=
  ⟨field b 0 1, fieldW b 8, field b 16 4, BitVec.ofNat 32 (field b 20 4), field b 24 4, field b 28 4⟩

/-- The channel number and the buffer of a belay tile's source. -/
def Tile.belay (t : Tile) : Nat × Bool := (t.source.toNat % 64, t.source.getLsbD 6)

/-- The offset of the first field of a tile entry that breaks R291 or 18 R321, for a window of `win` bytes, a stage's die
set, and the receiving die of an earlier belay tile. -/
def Tile.bad (t : Tile) (c : Ctx) (win : Nat) (dies : BitVec 6) (die : Option Nat) : Option Nat :=
  let lims : List (Nat × Bool) := match t.kind with
    | 1 =>
      [(16, t.spoff + t.rows * t.bytes ≤ win), (24, 1 ≤ t.bytes && t.bytes ≤ 65535), (28, 1 ≤ t.rows && t.rows ≤ 65535)]
    | 2 =>
      [(8, (match c.channel t.belay.1 with
         | some ch => dies.getLsbD ch.rdie && die.all fun d => d == ch.rdie
         | none => false)),
       (16, t.spoff == 0), (20, t.stride == 0), (24, t.bytes == 0), (28, t.rows == 0)]
    | 3 =>
      [(8, t.source == 0), (16, t.spoff % 4 == 0 && t.spoff + t.rows * t.bytes ≤ win), (20, t.stride == 0),
       (24, t.bytes % 4 == 0)]
    | _ => [(0, false)]
  (lims.find? fun p => !p.2).map Prod.fst

/-- The tile list from entry `i` on: up to 8 entries, ended by one of kind 0; a list of 8 has no end mark, and what follows it is
no part of it (07 R154). -/
def State.readTiles (s : State) (c : Ctx) (at_ : Word) (win : Nat) (dies : BitVec 6) :
    Nat → Nat → Option Nat → Except Refused (List Tile)
  | 0, _, _ => .ok []
  | fuel + 1, i, die =>
    match s.recRead c.id (at_ + BitVec.ofNat 64 (32 * i)) 32 with
    | none => .error (badAt (128 + 32 * i))
    | some b =>
      let t := Tile.ofBytes b
      if t.kind = 0 then .ok []
      else
        match t.bad c win dies die with
        | some off => .error (badAt (128 + 32 * i + off))
        | none =>
          let die' := if t.kind = 2 then (c.channel t.belay.1).map Channel.rdie else die
          (s.readTiles c at_ win dies fuel (i + 1) die').map fun ts => t :: ts

/-- What reading a tile list does to memory, from entry `i` on: it ends with the entry that the check refused, `stop`, or with
that of kind 0. -/
def State.tilesTouch (s : State) (ctx : Nat) (at_ : Word) (stop : Option Nat) : Nat → Nat → State
  | 0, _ => s
  | fuel + 1, i =>
    let va := at_ + BitVec.ofNat 64 (32 * i)
    let s1 := s.recTouch ctx va 32
    if stop = some i ∨ (s.recRead ctx va 32).all (fun b => (Tile.ofBytes b).kind == 0) = true then s1
    else s1.tilesTouch ctx at_ stop fuel (i + 1)

/-- The receiving die of a tile list (18 R321). -/
def tilesDie (c : Ctx) (ts : List Tile) : Option Nat :=
  (ts.find? fun t => t.kind == 2).bind fun t => (c.channel t.belay.1).map Channel.rdie

/-- Why QUOTA refuses a set of a partition, if it does (15 R290, R297). -/
def State.quotaSpent (s : State) (ctx p : Nat) : Bool :=
  let tsq := Word.get (s.mcrGet (ptreg p 16)) 32 32
  1024 ≤ s.sets.length || 256 ≤ (s.sets.filter fun x => x.ctx == ctx).length ||
    (tsq != 0 && tsq ≤ (s.sets.filter fun x => x.partition == p).length)

/-- The part addresses of a loop record: absent, or a bundle of the segment's code (15 R290). -/
def partOk (g : Seg) (a : Word) : Bool := a == 0 || (a.toNat % 4 == 0 && g.base ≤ a.toNat && a.toNat < g.base + g.len)

/-- A launch record checked, then its loop record, its tile list, its place and, where `quota` says so, the quotas
(15 R290). -/
def State.checkLaunch (s : State) (c : Ctx) (b : List Byte) (quota : Bool) : Except Refused Launch := do
  let ex := [field b 8 2, field b 10 2, field b 12 2]
  need (field b 0 8 % 64 == 0) (badAt 0)
  need (field b 8 2 != 0) (badAt 8)
  need (field b 10 2 != 0) (badAt 10)
  need (field b 12 2 != 0) (badAt 12)
  need (ex.foldl (· * ·) 1 ≤ 2 ^ 24) (badAt 8)
  need (field b 14 2 == 0) (badAt 14)
  need (field b 16 8 == 0 || s.complOk c.id (fieldW b 16)) (badAt 16)
  match c.segs.find? fun g => g.id == field b 32 4 with
  | none => .error (4, 0)
  | some g =>
    need (field b 36 1 ≤ 8) (badAt 36)
    need (field b 37 3 == 0) (badAt 37)
    need (field b 52 4 == 0) (badAt 52)
    need (field b 56 8 % 4 == 0) (badAt 56)
    match s.recRead c.id (fieldW b 0) 64 with
    | none => .error (badAt 64)
    | some r =>
      let l := LoopRec.ofBytes (fieldW b 0) r
      let f := l.flags.toNat
      let stage := f / 2 ^ 6 % 16
      let p := f / 2 ^ 4 % 4
      need (partOk g l.prologue) (badAt 64)
      need (l.kernel != 0 && partOk g l.kernel) (badAt 72)
      need (partOk g l.epilogue) (badAt 80)
      need (f / 2 ^ 12 == 0) (badAt 92)
      let dies := c.stagemap.toList.getD stage 0
      let tiles ← if l.tiles = 0 then .ok [] else s.readTiles c l.tiles (g.spl - g.spb) dies 8 0 none
      let only : BitVec 6 := match tilesDie c tiles with
        | some d => dies &&& dieBit d
        | none => dies
      let elig := s.clustersOf p only
      need (s.ptEnabled p && !elig.isEmpty) (5, 0)
      need (!quota || !s.quotaSpent c.id p) (6, 0)
      .ok {
        loop := l
        spb := g.spb
        spl := g.spl
        seg := g.id
        ext := #v[field b 8 2, field b 10 2, field b 12 2]
        nstep := field b 36 1
        steps := #v[BitVec.ofNat 32 (field b 40 4), BitVec.ofNat 32 (field b 44 4), BitVec.ofNat 32 (field b 48 4)]
        loctab := fieldW b 56
        compl := fieldW b 16
        tag := fieldW b 24
        partition := p
        stage := stage
        prio := f / 2 ^ 10 % 4
        capS := 16 * (f % 4 + 1)
        capV := 8 * (f / 4 % 4 + 1)
        tiles := tiles
        elig := elig }

/-- What a check of a launch record reads on its way to a result: the walk of its completion word, its loop record, and its tile
entries as far as it came (15 R290). -/
def State.launchTouch (s : State) (c : Ctx) (b : List Byte) (res : Except Refused Launch) : State :=
  let early (off : Nat) : Bool := match res with
    | .error (3, k) => k ≤ off
    | .error (4, _) => 32 ≤ off
    | _ => false
  let s1 := if early 15 || field b 16 8 == 0 then s
    else match s.translate .walker c.id false .store (fieldW b 16) with
      | .error t => s.walkCharge c.id t
      | .ok _ => s
  if early 63 then s1
  else
    let s2 := s1.recTouch c.id (fieldW b 0) 64
    match s.recRead c.id (fieldW b 0) 64 with
    | none => s2
    | some r =>
      let l := LoopRec.ofBytes (fieldW b 0) r
      let stop := match res with
        | .error (3, k) => some ((k - 128) / 32)
        | _ => none
      if early 127 || l.tiles == 0 then s2 else s2.tilesTouch c.id l.tiles stop 8 0

/-- The launch record that a trigger implies (15 R289, 16 R304): extents 1, no completion word, the segment whose code
holds the kernel. -/
def State.impliedRecord (s : State) (c : Ctx) (loop : Word) : Except Refused (List Byte) :=
  match s.recRead c.id loop 64 with
  | none => .error (badAt 64)
  | some r =>
    match c.segOf (field r 8 8) with
    | none => .error (4, 0)
    | some g =>
      .ok (natLe 8 loop.toNat ++ natLe 2 1 ++ natLe 2 1 ++ natLe 2 1 ++ natLe 18 0 ++ natLe 4 g.id ++ natLe 28 0)

/-- The launch that a trigger implies, checked. -/
def State.checkImplied (s : State) (c : Ctx) (loop : Word) (quota : Bool) : Except Refused Launch :=
  match s.impliedRecord c loop with
  | .error e => .error e
  | .ok b => s.checkLaunch c b quota

/-- What checking the launch that a trigger implies reads on its way to a result. -/
def State.impliedTouch (s : State) (c : Ctx) (loop : Word) (res : Except Refused Launch) : State :=
  let s1 := s.recTouch c.id loop 64
  match s.impliedRecord c loop with
  | .error _ => s1
  | .ok b => s1.launchTouch c b res

/-! ### Placement (15 R292) -/

/-- The preferred slice: the home of the first row of a haul tile in entry 0, else a mix of the coordinate. -/
def State.preferred (s : State) (ctx : Nat) (tiles : List Tile) (x y z : Nat) : Nat :=
  let mix := (x ^^^ (x >>> 6) ^^^ (y <<< 2) ^^^ (y >>> 4) ^^^ (z <<< 4) ^^^ (z >>> 2)) % 64
  match tiles.head? with
  | some t =>
    if t.kind = 1 ∧ 0x400000 ≤ t.source.toNat then
      match s.translate .walker ctx false .load t.source with
      | .ok (.phys pa) => if (s.place pa).isNode then home pa else mix
      | _ => mix
    else mix
  | none => mix

/-- The target cluster among the eligible ones. -/
def targetOf (elig : List Nat) (p : Nat) : Nat := if elig.contains p then p else elig.getD (p % elig.length) 0

/-- The tiles of the task at an offset: the first NSTEP haul entries step with it (15 R291). -/
def stepTiles (l : Launch) (off : Nat × Nat × Nat) : List Tile :=
  let by_ : Word := BitVec.ofNat 64 off.1 * l.steps[0].signExtend 64 + BitVec.ofNat 64 off.2.1 * l.steps[1].signExtend 64 +
    BitVec.ofNat 64 off.2.2 * l.steps[2].signExtend 64
  l.tiles.zipIdx.map fun p => if p.1.kind = 1 ∧ p.2 < l.nstep then { p.1 with source := p.1.source + by_ } else p.1

/-- The task of ordinal `o` of a set (15 R291, R292; 06 R121, R136). -/
def State.newTask (s : State) (ctx : Nat) (l : Launch) (setId o wid depth id : Nat) : Task :=
  let ex := l.ext
  let off := (o % ex[0], o / ex[0] % ex[1], o / (ex[0] * ex[1]))
  let c := l.loop.coord.toNat
  let x := (c + off.1) % 2 ^ 16
  let y := (c / 2 ^ 16 + off.2.1) % 2 ^ 16
  let z := (c / 2 ^ 32 + off.2.2) % 2 ^ 16
  let tiles := stepTiles l off
  let target := targetOf l.elig (s.preferred ctx tiles x y z)
  let taskid := BitVec.ofNat 64 (o + 2 ^ 24 * (setId % 256) + 2 ^ 32 * setId)
  let regs := Regs.start
  let spl := BitVec.ofNat 64 l.spl
  { Task.blank with
    id := id
    ctx := ctx
    loc := sliceLoc target
    status := .ready
    regs := { regs with s := regs.s.set 1 (Reg.ofVal l.loop.args), sp := spl }
    ctl := { Ctl.start with
      spb := BitVec.ofNat 64 l.spb
      slim := BitVec.ofNat 64 l.spb
      spl := spl
      trip := BitVec.ofNat 64 l.loop.trip
      taskid := taskid
      coord := BitVec.ofNat 64 (x + 2 ^ 16 * y + 2 ^ 32 * z)
      part := BitVec.ofNat 64 (l.partition + 4 * l.prio)
      stage := BitVec.ofNat 64 l.stage }
    loop := l.loop
    capS := l.capS
    capV := l.capV
    prio := l.prio
    partition := l.partition
    stage := l.stage
    setId := setId
    ordinal := o
    wid := wid
    depth := depth
    readyAt := s.tick
    target := target
    elig := l.elig
    off := off
    tiles := tiles }

/-! ### The proof SYS array (19 R332, R334) -/

/-- The first record of the proof SYS array of a context of a type for which `p` holds. -/
def State.sysRecord (s : State) (c : Ctx) (type : Nat) (p : List Byte → Bool) : Option (List Byte) :=
  match s.etchCb c with
  | none => none
  | some cb =>
    (List.range cb.psysn).findSome? fun i =>
      match s.ctxRead c.id (cb.psys + BitVec.ofNat 64 (32 * i)) 32 with
      | some (r, _) => if field r 0 2 == type && p r then some r else none
      | none => none

end Sys2Proof.Machine
end

