-- ==== Sys2Proof/Machine/Watch.lean ====
section
/-! DEFINITION. Watch entries and launch mailboxes (10 R248, 16 R304 to R314): installing and removing an entry, what a
trigger does, and the creations it makes. -/

namespace Sys2Proof.Machine

/-! ### Entries -/

/-- The entry of a key. -/
def State.watchOf (s : State) (key : Nat) : Option Watch := s.watches.find? fun w => w.key == key

/-- The entries with one changed. -/
def State.updWatch (s : State) (key : Nat) (f : Watch → Watch) : State :=
  { s with watches := s.watches.map fun w => if w.key = key then f w else w }

/-- The chain depth limit (16 R304). -/
def Watch.limit (w : Watch) : Nat := if w.depth = 0 then 8 else w.depth

/-- The budget (16 R304). -/
def Watch.most (w : Watch) : Nat := if w.budget = 0 then 1 else w.budget

/-- The physical address of BASE. -/
def Watch.basePa (w : Watch) : Nat := w.frames.headD 0 + w.base.toNat % 0x10000

/-- The die of the owning table (16 R305). -/
def Watch.die (w : Watch) : Nat := sliceDie (home w.basePa)

/-- The offset in the range of a physical address that it covers. -/
def Watch.offset (w : Watch) (pa : Nat) : Nat :=
  let f := (w.frames.findIdx? fun p => p ≤ pa && pa < p + 0x10000).getD 0
  f * 0x10000 + (pa - w.frames.getD f 0) - w.base.toNat % 0x10000

/-! ### Creations (16 R308) -/

/-- A task of an entry created from a trigger, or from `count` of them, of which `x` is the latest: the implied launch goes to
the dispatcher, and LIVE rises. -/
def State.createWatch (s : State) (w : Watch) (count depth : Nat) (value : Word) (task : Nat) : State :=
  { s.updWatch w.key fun w => { w with live := w.live + 1 } with
    subs := s.subs ++ [⟨w.ctx, w.loop, .trigger ⟨w.key, w.id, w.die, count, depth, value, task, 0⟩⟩] }

/-- A task created from the oldest `n` of the triggers held: the largest depth and the latest value of them. -/
def State.createHeld (s : State) (w : Watch) (n : Nat) : State :=
  let xs := w.held.take n
  let last := (xs.getLast?.map Prod.snd).getD (0, 0)
  (s.updWatch w.key fun w => { w with held := w.held.drop n }).createWatch w n (xs.foldl (fun d x => max d x.1) 0) last.1 last.2

/-- The creation that a submission is, if it is one of an entry. -/
def Submission.creationOf (x : Submission) (key : Nat) : Option Creation :=
  match x.src with
  | .trigger c => if c.key = key then some c else none
  | _ => none

/-- The creations of an entry that the dispatcher has not taken yet. -/
def State.subsOf (s : State) (key : Nat) : Nat := (s.subs.filterMap fun x => x.creationOf key).length

/-- The creations of an entry that the dispatcher has not taken yet, changed. -/
def State.updCreations (s : State) (key : Nat) (f : Creation → Creation) : State :=
  { s with subs := s.subs.map fun x => match x.creationOf key with
    | some c => { x with src := .trigger (f c) }
    | none => x }

/-- The TRIGGER record of a proof image that the next creation of an entry takes (16 R314, 19 R334). -/
def State.nextTrigger (s : State) (w : Watch) (c : Ctx) : Option (List Byte) :=
  s.sysRecord c 0x11 fun r => field r 8 8 == w.id && field r 24 4 == (w.seq.toNat + s.subsOf w.key + 1) % 2 ^ 32

/-- One creation that PENDING owes, if there is one (16 R308, R311): all of PENDING under COALESCE, one under EACH; in proof mode
as many as the record says, once that many have arrived (16 R314). An entry in state STORM or FAILED still creates it. -/
def State.createOwed (s : State) (key : Nat) : State :=
  match s.watchOf key with
  | none => s
  | some w =>
    if w.most ≤ w.live || w.held.isEmpty then s
    else
      match s.ctxOf w.ctx with
      | none => s
      | some c =>
        if c.etch = 2 then
          match s.nextTrigger w c with
          | some r => if 0 < field r 4 4 ∧ field r 4 4 ≤ w.held.length then s.createHeld w (field r 4 4) else s
          | none => s
        else s.createHeld w (if w.mode = 0 then w.held.length else 1)

/-- Creations retried when a set of the context completes (16 R308): each entry's, within its budget. -/
def State.retryHeld (s : State) (ctx : Nat) : State :=
  s.watches.foldl (fun s w =>
    if w.ctx = ctx then (List.range (w.most - w.live)).foldl (fun s _ => s.createOwed w.key) s else s) s

/-! ### Runaway (16 R310, R311) -/

/-- The task that wrote a trigger, where it is one of the watch's context that has not ended. -/
def State.writer (s : State) (w : Watch) (x : Trigger) : Option Task :=
  if x.ctx = w.ctx ∧ x.task ≠ 0 then (s.task x.task).filter fun t => t.ctx == w.ctx && t.status != .ending else none

/-- RUNAWAY_TRIGGER (16 R311): pending on the writing task where there is one, and the supervisor is told. -/
def State.runaway (s : State) (w : Watch) (x : Trigger) : State :=
  let id := BitVec.ofNat 64 w.id
  match s.writer w x with
  | some t =>
    (s.updTask t.id fun t => { t with causes := t.causes ++ [.runaway w.id] }).record w.ctx w.die 5 cRunaway
      (t.ctl.taskid.toNat % 2 ^ 32) id 0
  | none => s.record w.ctx w.die 5 cRunaway 0 id 0

/-- `n` triggers held, the latest of them `x` (16 R308): behind those that are held, or where a creation was refused before
them. Above 65,535 the entry enters state STORM (16 R311). -/
def State.holdTriggers (s : State) (w : Watch) (x : Trigger) (n depth : Nat) (first : Bool) : State :=
  let room := 65535 - w.held.length
  let new := List.replicate (min n room) (depth, x.value, x.task)
  let s1 := s.updWatch w.key fun w => { w with held := if first then new ++ w.held else w.held ++ new }
  if room < n then (s1.updWatch w.key fun w => { w with st := .storm }).runaway w x else s1

/-! ### Triggers (16 R308, R310, R312) -/

/-- A task that has not started for the first time. -/
def Task.unstarted (t : Task) : Bool := (t.status == .ready || t.status == .bound) && t.image.isNone

/-- The set of an entry whose task has not started. -/
def State.unstartedSet (s : State) (key : Nat) : Option TaskSet :=
  s.sets.find? fun x => x.wkey == key && s.tasks.any fun t => t.ctx == x.ctx && t.setId == x.id && t.unstarted

/-- Whether a creation of an entry waits for the dispatcher. -/
def State.createdSub (s : State) (key : Nat) : Bool := s.subsOf key != 0

/-- A trigger folded into a task that has been created and not started, if there is one. -/
def State.fold (s : State) (w : Watch) (depth : Nat) (value : Word) (task : Nat) : Option State :=
  match s.unstartedSet w.key with
  | some x =>
    let s1 : State := { s with sets := s.sets.map fun y =>
      if y.ctx = x.ctx ∧ y.id = x.id then { y with count := y.count + 1, value := value } else y }
    let up (t : Task) : Task := if t.ctx = x.ctx ∧ t.setId = x.id then { t with depth := max t.depth depth } else t
    some { s1 with cur := up s1.cur, others := s1.others.map up }
  | none =>
    if s.createdSub w.key then
      some (s.updCreations w.key fun c => { c with count := c.count + 1, depth := max c.depth depth, value := value, task := task })
    else none

/-- A trigger handled by the owning watch unit (16 R308, R310, R314). -/
def State.trigger (s : State) (w : Watch) (x : Trigger) : State :=
  let d := if x.ctx = w.ctx then x.depth + 1 else 1
  if w.st != .armed then s
  else if w.limit < d then s.runaway w x
  else if ((s.ctxOf w.ctx).map Ctx.etch) = some 2 then (s.holdTriggers w x 1 d false).createOwed w.key
  else
    match if w.mode = 0 then s.fold w d x.value x.task else none with
    | some s1 => s1
    | none => if w.live < w.most then s.createWatch w 1 d x.value x.task else s.holdTriggers w x 1 d false

/-- A mailbox slot handed to the dispatcher (16 R313). -/
def State.submitSlot (s : State) (w : Watch) (pa : Nat) : State :=
  { s with subs := s.subs ++ [⟨w.ctx, w.base + BitVec.ofNat 64 (w.offset pa / 64 * 64), .mailbox w.id pa⟩] }

/-- The oldest trigger that waits for the entry of an id. -/
def State.triggerOf (s : State) (wid : Nat) : Option (Watch × Trigger) :=
  match s.watches.find? fun w => w.id == wid with
  | none => none
  | some w => (s.triggers.find? fun x => x.key == w.key).map fun x => (w, x)

/-- WATCH_TRIGGER (16 R308): the watch unit takes the oldest trigger of an entry. -/
def execWatchTrigger (wid : Nat) (s : State) : Res :=
  .next (match s.triggerOf wid with
    | some (w, x) => if w.mode = 2 then s else { s with triggers := s.triggers.erase x }.trigger w x
    | none => s)

/-- The oldest submission that waits at the watch unit of a die. -/
def State.firstSubmission (s : State) (die : Nat) : Option Trigger :=
  s.triggers.find? fun x => ((s.watchOf x.key).map fun w => w.mode == 2 && w.die == die).getD false

/-- MAILBOX_SUBMIT (16 R313, 24 R372): the oldest submission that waits at the watch unit goes to the dispatcher, if it is that of
the slot; while the journal is full it waits. -/
def execMailboxSubmit (wid slot : Nat) (s : State) : Res :=
  .next (match s.triggerOf wid with
    | some (w, x) =>
      if w.mode ≠ 2 ∨ w.offset x.value.toNat / 64 ≠ slot ∨ s.firstSubmission w.die ≠ some x ∨ s.journalFull = true then s
      else { s with triggers := s.triggers.erase x }.submitSlot w x.value.toNat
    | none => s)

/-! ### WATCH and UNWATCH (10 R248) -/

/-- The physical base of each 64 KiB page of a range, where each is mapped readable in nodes 0 to 7 (16 R304, R305). -/
def State.watchFrames (s : State) (ctx : Nat) (base : Word) (n : Nat) : Option (List Nat) :=
  let first := base.toNat / 0x10000
  let last := (base.toNat + n - 1) / 0x10000
  (List.range (last - first + 1)).mapM fun i =>
    match s.translate .walker ctx false .load (BitVec.ofNat 64 ((first + i) * 0x10000)) with
    | .ok (.phys pa) => if (s.place pa).isNode then some pa else none
    | _ => none

/-- The entry of a descriptor, or none where it breaks its limits (16 R304). -/
def State.watchEntry (s : State) (c : Ctx) (b : List Byte) (id key : Nat) : Option Watch :=
  let base := fieldW b 0
  let len := field b 8 2
  let cond := field b 10 1
  let mode := field b 11 1
  let scope := field b 12 1
  let loop := fieldW b 24
  let ok := base.toNat % 256 == 0 && base.toNat + 256 * len ≤ 2 ^ 48 && 0x400000 ≤ base.toNat && 1 ≤ len && len ≤ 4096 &&
    cond ≤ 3 && mode ≤ 2 && 1 ≤ scope && scope ≤ 4 && field b 13 1 ≤ 15 && field b 14 2 ≤ 1024 &&
    (cond != 0 || field b 16 8 == 0) && loop.toNat % 64 == 0 && (mode == 2) == (loop == 0) && (mode != 2 || cond == 0)
  if !ok then none
  else
    match s.watchFrames c.id base (256 * len) with
    | none => none
    | some frames =>
      let loopOk := mode == 2 || (match s.checkImplied c loop false with
        | .ok _ => true
        | .error _ => false)
      if loopOk then
        some ⟨id, c.id, base, len, cond, mode, scope, field b 13 1, field b 14 2, fieldW b 16, loop, frames, 0, [], .armed,
          0, key⟩
      else none

/-- The answer of a refused WATCH (10 R248). -/
def watchRefused (reason : Nat) : Word := BitVec.ofNat 64 (2 ^ 63 + reason)

/-- What the checks of a descriptor read on their way to a result: the walks of its pages, and the records that a trigger
implies (16 R304). -/
def State.watchTouch (s : State) (c : Ctx) (b : List Byte) : State :=
  let first := (fieldW b 0).toNat / 0x10000
  let last := ((fieldW b 0).toNat + 256 * min 4096 (field b 8 2) - 1) / 0x10000
  let s1 := (List.range (last - first + 1)).foldl (fun s i =>
    match s.translate .walker c.id false .load (BitVec.ofNat 64 ((first + i) * 0x10000)) with
    | .error t => s.walkCharge c.id t
    | .ok _ => s) s
  if field b 11 1 = 2 then s1 else s1.impliedTouch c (fieldW b 24) (s.checkImplied c (fieldW b 24) false)

/-- An entry installed, or the answer of the refusal: the descriptor first, then the context's count, then the table
(10 R248). -/
def State.install (s : State) (c : Ctx) (b : List Byte) : State × Word :=
  let id := lowestFree (0 :: s.watches.map Watch.id) 1025 0
  match s.watchEntry c b id s.nextId with
  | none => (s, watchRefused 3)
  | some w =>
    if 64 ≤ (s.watches.filter fun x => x.ctx == c.id).length then (s, watchRefused 2)
    else if 1024 ≤ id then (s, watchRefused 1)
    else ({ s with watches := s.watches ++ [w], nextId := s.nextId + 1 }, BitVec.ofNat 64 id)

/-- WATCH (10 R248): the descriptor is read at issue; a poisoned one installs nothing and poisons D (log 17). -/
def execWatch (o : DAX) (s : State) : Res :=
  s.slot [.srcS o.a true, .mark (.s o.d)] fun s =>
    let a := s.readS o.a
    if a.toNat % 32 ≠ 0 then trapNow cMisalign a
    else
      match s.reach .plain .load a 32 a with
      | .error e => .error e
      | .ok d =>
        if d.pa.isNone then trapNow cProt a
        else if s.mustStall d 32 then .error (.wait false)
        else
          let (s1, b, bad) := s.readDest s.me d 32
          if bad then .ok (s1.beginOpWith .load [outS o.d 0] false none true false)
          else
            let (s2, v) := (s1.watchTouch s1.myCtx b).install s1.myCtx b
            .ok (s2.beginOp .load [outS o.d v] false)

/-- Every trigger that waits for an entry handled (16 R312). -/
def State.flushTriggers (s : State) (key : Nat) : State :=
  let mine := s.triggers.filter fun x => x.key == key
  mine.foldl (fun s x =>
    match s.watchOf key with
    | some w => if w.mode = 2 then s.submitSlot w x.value.toNat else s.trigger w x
    | none => s) { s with triggers := s.triggers.filter fun x => x.key != key }

/-- UNWATCH (10 R248, 16 R311, R312): triggers that came before it are handled first; PENDING is discarded, and the creations
that the dispatcher has not taken keep their entry's count (16 R314). -/
def execUnwatch (o : DAX) (s : State) : Res :=
  s.slot [.srcS o.a true, .mark (.s o.d)] fun s =>
    match s.watches.find? fun w => w.id == (s.readS o.a).toNat && w.ctx == s.cur.ctx with
    | none => .ok (s.beginOp .load [outS o.d 1] false)
    | some w =>
      let s0 := s.flushTriggers w.key
      let s1 := s0.updCreations w.key fun c => { c with seq := ((s0.watchOf w.key).map Watch.seq).getD 0 }
      .ok ({ s1 with watches := s1.watches.filter fun x => x.key != w.key }.beginOp .load [outS o.d 0] false)

end Sys2Proof.Machine
end

