-- ==== Sys2Proof/Machine/Accept.lean ====
section
/-! DEFINITION. LAUNCH_ACCEPT: the dispatcher takes a launch submission, and accepts or refuses it (15 R289 to R293,
16 R308, R313, R314, 19 R326, R334, 24 R372). -/

namespace Sys2Proof.Machine

/-! ### Proof mode (19 R334) -/

/-- The ACCEPT record that the next acceptance of a context takes. -/
def State.nextAccept (s : State) (c : Ctx) : Option (List Byte) :=
  s.sysRecord c 0x10 fun r => field r 24 4 == (c.accSeq.toNat + 1) % 2 ^ 32

/-- The creation count of an entry, also of one that has gone (16 R314). -/
def State.creationSeq (s : State) (k : Creation) : BitVec 32 := ((s.watchOf k.key).map Watch.seq).getD k.seq

/-- The record by which a submission of a context in proof mode is accepted. -/
def State.wanted (s : State) (c : Ctx) (x : Submission) : Option (List Byte) :=
  if c.etch ≠ 2 then none
  else
    match x.src with
    | .trigger k => s.sysRecord c 0x11 fun r => field r 8 8 == k.wid && field r 24 4 == ((s.creationSeq k).toNat + 1) % 2 ^ 32
    | _ => (s.nextAccept c).filter fun r => fieldW r 8 == x.va

/-- Whether a live set of a context has the low 8 bits of an id. -/
def State.idTaken (s : State) (ctx id : Nat) : Bool := s.sets.any fun x => x.ctx == ctx && x.id % 256 == id % 256

/-- Whether the turn of the SPAWN event of a TSPAWN comes with its acceptance, which raises the same counter just before it
(19 R326, R333). -/
def State.spawnTurn (s : State) (c : Ctx) (task op : Nat) : Bool :=
  match s.task task with
  | none => true
  | some t => match (t.ops.find? fun o => o.id == op).bind fun o => s.turnOf t o.etch with
    | some n => n == (c.accSeq.toNat + 1) % 2 ^ 32
    | none => true

/-- Whether the dispatcher may take a submission now: its context's ring and, for a mailbox, the journal have room, and
in proof mode it is the next expected one, the turn of its SPAWN event has come, and its set id is free (19 R331, R333, R334;
24 R372). -/
def State.subReady (s : State) (x : Submission) : Bool :=
  match s.ctxOf x.ctx with
  | none => true
  | some c =>
    !s.etchFull c &&
    (match x.src with
     | .mailbox .. => !s.journalFull
     | .spawn task op => s.spawnTurn c task op
     | .trigger _ => true) &&
    (c.etch != 2 ||
      (match s.wanted c x with
       | some r => field r 28 4 == 0 || !s.idTaken c.id (field r 28 4)
       | none => (match x.src with
         | .trigger .. => true
         | _ => false)))

/-! ### Answers -/

/-- The acceptance counter of a context raised. -/
def Ctx.countAccept (c : Ctx) : Ctx := { c with accSeq := c.accSeq + 1 }

/-- The ACCEPT event of a launch record (19 R326). -/
def State.etchAccept (s : State) (ctx : Nat) (va value : Word) (setId : Nat) : State :=
  match s.ctxOf ctx with
  | some c => (s.etchSys ctx 0 0 0x10 va value (.unit c.accSeq) setId none).updCtx ctx Ctx.countAccept
  | none => s

/-- A TSPAWN answered: D receives the set id, or 0 (08 R184), and the event is recorded. -/
def State.answerSpawn (s : State) (task op : Nat) (va : Word) (setId : Nat) : State :=
  match s.task task with
  | none => s
  | some t =>
    match t.ops.find? fun o => o.id == op, s.ctxOf t.ctx with
    | some o, some c =>
      let (s1, div) := s.etchDone task 0x0E 0 va (BitVec.ofNat 64 setId) (.unit c.accSeq) o.etch
      (s1.updCtx t.ctx Ctx.countAccept).finishOp task { o with
        fail := div.map divFail, outs := o.outs.map fun q => { q with data := BitVec.ofNat 1024 setId } }
    | _, _ => s

/-- A creation of a watch refused (16 R308, R311): with QUOTA its triggers are held again; for any other reason the entry
fails and the supervisor is told. -/
def State.refuseTrigger (s : State) (ctx : Nat) (k : Creation) (status : Nat) : State :=
  let s1 := s.updWatch k.key fun w => { w with live := w.live - 1 }
  match s1.watchOf k.key with
  | none => s1
  | some w =>
    if status = 6 then s1.holdTriggers w ⟨k.key, k.value, ctx, k.depth, k.task⟩ k.count k.depth true
    else (s1.updWatch k.key fun w => { w with st := .failed }).record w.ctx w.die 6 0 0 (BitVec.ofNat 64 w.id) 0

/-! ### Acceptance -/

/-- The first set id from a candidate on whose low 8 bits no live set has (15 R290). -/
def State.freeSetId (s : State) (ctx : Nat) : Nat → Nat → Nat
  | 0, n => n
  | fuel + 1, n => if s.idTaken ctx n then s.freeSetId ctx fuel (n % (2 ^ 32 - 1) + 1) else n

/-- The tasks of a set put into the ready queues (15 R291, R292). -/
def State.addTasks (s : State) (ctx : Nat) (l : Launch) (setId wid depth : Nat) : State :=
  let n := l.ext[0] * l.ext[1] * l.ext[2]
  { s with
    others := s.others ++ (List.range n).map fun o => s.newTask ctx l setId o wid depth (s.nextId + o)
    nextId := s.nextId + n }

/-- A set made live (15 R290). -/
def State.addSet (s : State) (x : TaskSet) : State :=
  { s.updCtx x.ctx fun c => { c with nextSet := x.id % (2 ^ 32 - 1) + 1 } with sets := s.sets ++ [x] }

/-- LAP of a slot of a context's ring, in FLAGS. -/
def State.lapOf (s : State) (c : Ctx) (slot : Option Nat) : Nat :=
  ((s.etchCb c).map fun cb => cb.lap (slot.getD cb.head)).getD 0

/-- The tasks of a set changed. -/
def State.updSetTasks (s : State) (ctx setId : Nat) (f : Task → Task) : State :=
  { s with others := s.others.map fun t => if t.ctx = ctx ∧ t.setId = setId then f t else t }

/-- A creation of a watch accepted (16 R309, R314): its set keeps COUNT and the latest value until the task starts, and
its record's slot and number are taken now. In proof mode a value that differs from the record's diverges. -/
def State.acceptTrigger (s : State) (c : Ctx) (l : Launch) (set : TaskSet) (k : Creation) (want : Option (List Byte)) : State :=
  let seq := s.creationSeq k
  let (s1, slot) := s.etchReserve c.id k.die
  let s2 := (s1.updWatch k.key fun w => { w with seq := seq + 1 }).updCreations k.key fun y => { y with seq := seq + 1 }
  let s3 := s2.addSet { set with
    wid := k.wid, wkey := k.key, count := k.count, value := k.value, seq := seq, slot := slot, die := k.die }
  let s4 := s3.addTasks c.id l set.id k.wid k.depth
  match want with
  | some r =>
    if fieldW r 16 = k.value then s4
    else
      let got := etchBytes 0x11 (0x10 + s4.lapOf c slot) k.count (BitVec.ofNat 64 k.wid) k.value ((seq + 1).toNat) set.id
      (s4.diverged c k.die (some r) got (eventOf (some r))).updSetTasks c.id set.id fun t =>
        { t with causes := t.causes ++ [.diverge (eventOf (some r))] }
  | none => s4

/-- The set of an accepted launch. -/
def Launch.set (l : Launch) (ctx id : Nat) (launch : Word) (mailbox : Bool) : TaskSet where
  id := id
  ctx := ctx
  launch := launch
  compl := l.compl
  tag := l.tag
  seg := l.seg
  partition := l.partition
  ext := l.ext
  nstep := l.nstep
  steps := l.steps
  loctab := l.loctab
  mailbox := mailbox
  wid := 0
  wkey := 0
  count := 0
  value := 0
  seq := 0
  slot := none
  die := 0
  cl := []
  di := []
  left := l.ext[0] * l.ext[1] * l.ext[2]
  aborted := false
  tileFaults := 0

/-- The launch record of a submission as the dispatcher reads it; none where it cannot be read. -/
def State.launchBytes (s : State) (x : Submission) : Option (List Byte) :=
  match x.src with
  | .mailbox _ pa => if s.anyRefused x.ctx pa 64 || s.anyPoison pa 64 then none else some (s.bytes pa 64)
  | _ => s.recRead x.ctx x.va 64

/-- What reading the launch record of a submission does to memory, and whether it could be read. -/
def State.launchRead (s : State) (x : Submission) : State × Option (List Byte) :=
  match x.src with
  | .mailbox _ pa => (if s.anyRefused x.ctx pa 64 then s else s.touch x.ctx pa 64, s.launchBytes x)
  | _ => (s.recTouch x.ctx x.va 64, s.launchBytes x)

/-- A launch record of a submission checked (15 R290): what reading it and its records does to memory, its bytes, the result. -/
def State.checked (s : State) (c : Ctx) (x : Submission) : State × Option (List Byte) × Except Refused Launch :=
  match s.launchRead x with
  | (s1, some b) => (s1.launchTouch c b (s.checkLaunch c b true), some b, s.checkLaunch c b true)
  | (s1, none) => (s1, none, .error (badAt 0))

/-- A submission of a live context taken. -/
def State.take (s : State) (c : Ctx) (x : Submission) : State :=
  let want := s.wanted c x
  let pick : Nat := match want.map fun r => field r 28 4 with
    | some (n + 1) => n + 1
    | _ => s.freeSetId c.id 512 c.nextSet
  match x.src with
  | .trigger k =>
    let res := s.checkImplied c x.va true
    let s1 := s.impliedTouch c x.va res
    (match res with
     | .error r => s1.refuseTrigger c.id k r.1
     | .ok l => s1.acceptTrigger c l (l.set c.id pick 0 false) k want)
  | src =>
    let (s0, b, res) := s.checked c x
    let tag := (b.map fun b => fieldW b 24).getD 0
    let s1 := match src with
      | .mailbox _ pa => s0.homeWrite ⟨c.id, 0, 0, 0⟩ pa ((natLe 8 0).map some)
      | _ => s0
    let mailbox : Bool := match src with
      | .mailbox .. => true
      | _ => false
    let (s2, setId, status) := match res with
      | .error r =>
        let w := complWord r.1 r.2 0
        ((s1.putCompletion c.id ((b.map fun b => fieldW b 16).getD 0) w).etchAccept c.id x.va w 0, 0, r.1)
      | .ok l =>
        ((s1.addSet (l.set c.id pick x.va mailbox)).addTasks c.id l pick 0 0 |>.etchAccept c.id x.va
          (BitVec.ofNat 64 (2 ^ 32 * pick)) pick, pick, 0)
    match src with
    | .spawn task op => s2.answerSpawn task op x.va setId
    | _ => s2.journalPut tag x.va setId status 1

/-- The divergence report for a context in proof mode whose submissions all wait (19 R334). -/
def State.stuckAccept (s : State) (c : Ctx) : State :=
  let mine := s.subs.filter fun x => x.ctx == c.id
  match mine.head? with
  | some x =>
    if c.etch = 2 ∧ 256 ≤ mine.length ∧ (mine.all fun y => (s.wanted c y).isNone) = true then
      let want := s.nextAccept c
      s.diverged c 0 want (etchBytes 0x10 (0x10 + s.lapOf c none) 0 x.va (s.freeVal 64) ((c.accSeq.toNat + 1) % 2 ^ 32) 0)
        (eventOf want)
    else s
  | none => s

/-- LAUNCH_ACCEPT (15 R289, R290): the first submission that may be taken is accepted or refused. -/
def execLaunchAccept (s : State) : Res :=
  .next (match s.subs.find? fun x => s.subReady x with
    | none => s.ctxs.foldl (fun s c => s.stuckAccept c) s
    | some x =>
      let s1 : State := { s with subs := s.subs.erase x }
      match s.ctxOf x.ctx with
      | some c => s1.take c x
      | none => s1)

end Sys2Proof.Machine
end

