-- ==== Sys2Proof/Machine/Remote.lean ====
section
/-! DEFINITION. What the fabric brings to this module, and its ports (03 R59 to R69, R74, 23 R368). -/

namespace Sys2Proof.Machine

/-! ### Requests of other modules -/

/-- Whether a request is a posted store or a release, which an acknowledgment answers. -/
def isPosted (q : Request) : Bool :=
  match q.kind with
  | .store _ | .rel _ => true
  | _ => false

/-- The answer to a request (03 R65, R67). -/
def State.answerReq (s : State) (q : Request) (st : FabStatus) (bytes : List Byte) (bad : Bool) (seq : Nat) : State :=
  s.send (if isPosted q then .ack q.src q.id st seq
    else .reply q.src ⟨q.id, s.mid, s.incarnation, s.peerInc q.src, st, bytes, bad, seq⟩)

/-- Whether a request is an ACQ whose object holds zero (10 R232). -/
def isNotYet (q : Request) (st : FabStatus) (bytes : List Byte) (bad : Bool) : Bool :=
  q.kind == .acq && st == .ok && leNat bytes == 0 && !bad

/-- A request performed at its home, and answered (03 R65, R67); an ACQ of an object that holds zero waits there (10 R232). -/
def State.answerRemote (s : State) (q : Request) : State :=
  let (s1, st, bytes, bad, seq) := s.serve q
  if isNotYet q st bytes bad then
    { s1.updFabric fun f => { f with acqs := f.acqs ++ [(s1.nextId, q)] } with nextId := s1.nextId + 1 }
  else (if st = .access then s1.countAccess q.src else s1).answerReq q st bytes bad seq

/-- A waiting ACQ of a request tested again (10 R232). -/
def State.acqAgain (s : State) (x : Nat × Request) : State :=
  let (s1, st, bytes, bad, seq) := s.serve x.2
  if isNotYet x.2 st bytes bad then s1
  else ((if st = .access then s1.countAccess x.2.src else s1).updFabric fun f => { f with acqs := f.acqs.erase x }).answerReq x.2 st bytes bad seq

/-- Whether a request of a core comes after another of the core to a 256-byte line (03 R64, 14 R287): one for an event of the same
object, in proof mode, comes in its turn (19 R333, log 13). -/
def comesAfter (q w : Request) : Bool :=
  q.src == w.src && q.core == w.core && shareLine w.off (reqShape w.kind).1 q.off (reqShape q.kind).1 && !(q.turn.isSome && q.obj == w.obj)

/-- Whether a request must wait at this module: for its turn, or behind one before it that waits (19 R333, 14 R287). -/
def State.mustQueue (s : State) (before : List Request) (q : Request) : Bool := s.earlyTurn q || before.any (comesAfter q)

/-- REMOTE_REQUEST (03 R61, R65, R66): checked, performed and answered; one whose turn in its object's series has not come waits
(19 R333), and those of its core to its line behind it. With the fabric off it is dropped and no notice is sent (03 R60). -/
def execRemoteRequest (q : Request) (s : State) : Res :=
  .next (if !s.fabricOn then s.countDrop false
    else if !s.envOk q.src q.inc q.expect then (s.countDrop false).send (.stale q.src q.id q.inc s.incarnation)
    else if s.mustQueue s.fabric.waits q then s.updFabric fun f => { f with waits := f.waits ++ [q] }
    else s.answerRemote q)

/-- The requests that waited and whose turn has come, performed in the order of their arrival (19 R333). -/
def State.serveWaits (s : State) : State :=
  s.fabric.waits.foldl (fun s q =>
    if s.mustQueue (s.fabric.waits.takeWhile fun w => w != q) q then s
    else (s.updFabric fun f => { f with waits := f.waits.erase q }).answerRemote q) s

/-! ### Answers -/

/-- The request of this module that a module's answer names. -/
def State.asked (s : State) (id target : Nat) : Bool := s.fabric.out.any fun o => o.id == id && o.target == target

/-- REMOTE_REPLY (03 R67, R68): a load or an atomic is answered; a dropped reply is counted (03 R66). -/
def execRemoteReply (r : Reply) (s : State) : Res :=
  if !s.fabricOn || !s.envOk r.src r.inc r.expect then .next (s.countDrop false)
  else .next (if s.asked r.id r.src then s.reqDone r.id r.status r.bytes r.poison r.seq else s)

/-- STORE_ACK (03 R65): a posted store, or a release, is acknowledged or has failed. -/
def execStoreAck (env : Envelope) (id : Nat) (status : FabStatus) (seq : Nat) (s : State) : Res :=
  if !s.fabricOn || !s.envOk env.src env.inc env.expect then .next (s.countDrop false)
  else .next (if s.asked id env.src then s.reqDone id status [] false seq else s)

/-- STALE_NOTICE (03 R66): the access ends with STALE and the target's incarnation is logged; a notice for an earlier
life of this module is dropped. A member of a multicast has not performed its store; a stale lending read makes its lender lost
(03 R381). -/
def execStaleNotice (id srcInc tgtInc : Nat) (s : State) : Res :=
  if !s.fabricOn || srcInc != s.incarnation then .next (s.countDrop false)
  else
    let noted (s : State) (m : Nat) : State := s.updFabric fun f => { f with log := f.log ++ [(m, tgtInc)] }
    match s.fabric.out.find? fun o => o.id == id with
    | some o => .next (noted (s.reqDone id .stale [] false 0) o.target)
    | none => match s.fabric.mc.find? fun e => e.id == id with
      | some e => .next (noted s e.target)
      | none => match s.fabric.lends.find? fun l => l.id == id with
        | some l => .next ((noted (s.lendFailed l .stale) l.target).kvSync s)
        | none => .next s

/-- REMOTE_TIMEOUT (03 R68): no reply within FXTMO; the access ends UNREACHABLE, and for a lending read the lender is lost
(03 R381). -/
def execRemoteTimeout (id : Nat) (s : State) : Res :=
  if s.fabric.out.any fun o => o.id == id then .next (s.reqDone id .unreachable [] false 0)
  else match s.fabric.lends.find? fun l => l.id == id with
    | some l => .next ((s.lendFailed l .unreachable).kvSync s)
    | none => .next s

/-! ### Ports (03 R59, R74, R77; 23 R368) -/

/-- FXPORT of a port with some of its fields changed, where it exists. -/
def State.updPort (s : State) (die port : Nat) (f : Word → Word) : State :=
  if die < 6 ∧ port < 6 then s.mcrPut (fxport die port) (f (s.mcrGet (fxport die port))) else s

/-- A field of a register replaced. -/
def setField (v : Word) (lo n x : Nat) : Word := under (bitsAt lo n) (BitVec.ofNat 64 (x % 2 ^ n * 2 ^ lo)) v

/-- STATE and LANES of a port: 0 down, 1 training, 2 up with four lanes, 3 up and DEGRADED with three. -/
def portState (v : Word) (st : Nat) : Word := setField (setField v 0 2 st) 2 2 (if st = 2 then 3 else if st = 3 then 2 else 0)

/-- TAGERR raised by one, saturating. -/
def portTagErr (v : Word) : Word := setField v 4 16 (min 65535 (Word.get v 4 16 + 1))

/-- A port changed; where it goes down, the routes through its die change (03 R64). -/
def State.changePort (s : State) (die port : Nat) (f : Word → Word) : State :=
  let s1 := s.updPort die port f
  if 2 ≤ Word.get (s.mcrGet (fxport die port)) 0 2 ∧ Word.get (s1.mcrGet (fxport die port)) 0 2 < 2 then s1.routeLost die else s1

/-- LANE_FAIL (03 R59): a port of four lanes goes on with three; one of three goes down. -/
def execLaneFail (die port : Nat) (s : State) : Res :=
  .next (s.changePort die port fun v => match Word.get v 0 2 with
    | 2 => portState v 3
    | 3 => portState v 0
    | _ => v)

/-- FLIT_TAG_FAIL (03 R74): counted and resent; the third within 2,500,000 cycles sends the port into training. -/
def execFlitTagFail (die port : Nat) (third : Bool) (s : State) : Res :=
  .next (s.changePort die port fun v => if Word.get v 0 2 < 2 then v
    else if third then portState (portTagErr v) 1 else portTagErr v)

/-- The session number of a port raised by one. -/
def nextSession (v : Word) : Word := setField v 36 16 (Word.get v 36 16 + 1)

/-- LINK_REKEY (03 R74): a live port takes a new session key. -/
def execLinkRekey (die port : Nat) (s : State) : Res :=
  .next (s.updPort die port fun v => if Word.get v 0 2 < 2 then v else nextSession v)

/-- OFF_PACKAGE_LINK_KEYING (23 R368, 03 R77): a port that trains comes up, with all four lanes (log 109), a new session and its
peer; a failed check leaves it training and counts in TAGERR. -/
def execOffPackageLinkKeying (die port peer : Nat) (ok : Bool) (s : State) : Res :=
  .next (s.updPort die port fun v =>
    if 2 ≤ Word.get v 0 2 then v
    else if ok then setField (nextSession (portState v 2)) 52 12 peer
    else portTagErr (portState v 1))

end Sys2Proof.Machine
end

