-- ==== Sys2Proof/Machine/Matrix.lean ====
section
/-! DEFINITION. The outer-product arrays: MPSET, MPGET, MMA and its completion (05 R116, 11 R249 to R255). -/

namespace Sys2Proof.Machine

/-- The fields of the mp registers (11 R250). -/
structure MP where
  aAddr : Nat
  unf : Bool
  aStride : Nat
  bAddr : Nat
  nmaj : Bool
  ws : Bool
  bStride : Nat
  cAddr : Nat
  acc : Bool
  cStride : Nat
  m : Nat
  n : Nat
  k : Nat
  ea : Int
  eb : Int
  ih : Nat
  iw : Nat
  cin : Nat
  kh : Nat
  kw : Nat
  sh : Nat
  sw : Nat
  pt : Nat
  pl : Nat
  ow : Nat
  aScale : Nat
  bScale : Nat
  /-- A reserved field is not zero. -/
  rsv : Bool
  /-- AFMT, BFMT and CFMT (06 R127). -/
  af : Nat
  bf : Nat
  cf : Nat
  deriving DecidableEq, Repr

/-- The fields of captured mp registers and fmt. -/
def MP.ofRegs (r : Vector Word 8) (fmt : BitVec 32) : MP :=
  let f (i : Fin 8) (lo n : Nat) : Nat := (r[i].extractLsb' lo n).toNat
  { aAddr := f 0 0 48, unf := f 0 48 1 == 1, aStride := 32 * f 0 49 15
    bAddr := f 1 0 48, nmaj := f 1 48 1 == 1, ws := f 1 49 1 == 1, bStride := 32 * f 1 50 14
    cAddr := f 2 0 48, acc := f 2 48 1 == 1, cStride := 32 * f 2 49 15
    m := f 3 0 9, n := f 3 16 9, k := f 3 32 13
    ea := toSigned 8 (f 4 0 8), eb := toSigned 8 (f 4 8 8)
    ih := f 5 0 10, iw := f 5 10 10, cin := f 5 20 12, kh := f 5 32 4, kw := f 5 36 4
    sh := f 5 40 2 + 1, sw := f 5 42 2 + 1, pt := f 5 44 4, pl := f 5 48 4, ow := f 5 52 10
    aScale := f 6 0 48, bScale := f 7 0 48
    rsv := f 3 9 7 != 0 || f 3 25 7 != 0 || f 3 45 19 != 0 || f 4 16 48 != 0 || f 5 62 2 != 0 || f 6 48 16 != 0 || f 7 48 16 != 0
    af := (fmt.extractLsb' 4 4).toNat, bf := (fmt.extractLsb' 8 4).toNat, cf := (fmt.extractLsb' 12 2).toNat }

/-- The format of a code as MMA takes it. -/
def mmaFmt (c : Nat) : HFmt := (HFmt.ofCode c).getD (.int 8)

/-- Whether a code is a KD or MX format. -/
def isBlock (c : Nat) : Bool := 6 ≤ c && c ≤ 10

/-- Whether a code is a KD format. -/
def isKdCode (c : Nat) : Bool := c == 6 || c == 7

/-- Bytes that `n` elements of a row take (11 R250). -/
def rowLen (c n : Nat) : Nat :=
  if isKdCode c then n / 32 * (mmaFmt c).size
  else if c = 10 then n / 2
  else if c = 8 ∨ c = 9 then n
  else n * (mmaFmt c).size

/-- Bytes of an element of C. -/
def MP.cSize (p : MP) : Nat := if p.cf = 1 then 8 else 4

/-! ### The checks of R253 -/

/-- The first ILLEGAL row of the table of R253 that holds. -/
def MP.illegalRow (p : MP) : Option Nat :=
  let isInt (c : Nat) : Bool := c == 11
  if 12 ≤ p.af ∨ 12 ≤ p.bf ∨ p.cf = 3 then some 1
  else if isInt p.af != isInt p.bf || (isInt p.af && p.cf != 2) || (!isInt p.af && p.cf == 2) ||
      ((p.af == 3 || p.bf == 3) && p.cf != 1) then some 2
  else if p.m = 0 ∨ 256 < p.m ∨ p.n = 0 ∨ 256 < p.n ∨ p.k = 0 ∨ 4096 < p.k ∨ p.rsv = true ∨
      ((isBlock p.af || isBlock p.bf) = true ∧ p.k % 32 ≠ 0) then some 3
  else if (isBlock p.bf && p.nmaj) || (p.unf && (isBlock p.af || p.k != p.kh * p.kw * p.cin || p.ih == 0 || p.iw == 0 ||
      p.cin == 0 || p.kh == 0 || p.kw == 0 || p.ow == 0)) then some 4
  else if p.cf = 2 ∧ (p.ea ≠ 0 ∨ p.eb ≠ 0) then some 5
  else none

/-- `n` ranges of `len` bytes, `stride` bytes apart. -/
def strided (base stride len n : Nat) : List (Nat × Nat) := (List.range n).map fun i => (base + i * stride, len)

/-- The ranges of A. -/
def MP.footA (p : MP) : List (Nat × Nat) :=
  if p.unf then [(p.aAddr, rowLen p.af (p.ih * p.iw * p.cin))]
  else strided p.aAddr p.aStride (rowLen p.af p.k) p.m

/-- The ranges of B. -/
def MP.footB (p : MP) : List (Nat × Nat) :=
  if p.nmaj then strided p.bAddr p.bStride (rowLen p.bf p.n) p.k
  else strided p.bAddr p.bStride (rowLen p.bf p.k) p.n

/-- The ranges of C. -/
def MP.footC (p : MP) : List (Nat × Nat) := strided p.cAddr p.cStride (p.n * p.cSize) p.m

/-- The ranges of the scale arrays of MX operands. -/
def MP.footS (p : MP) : List (Nat × Nat) :=
  (if isBlock p.af && !isKdCode p.af then [(p.aScale, p.m * (p.k / 32))] else []) ++
    (if isBlock p.bf && !isKdCode p.bf then [(p.bScale, p.n * (p.k / 32))] else [])

/-- The ranges that must lie in the task window. -/
def MP.footPad (p : MP) : List (Nat × Nat) := p.footA ++ p.footC ++ p.footS ++ (if p.ws then [] else p.footB)

/-- The lowest byte of some ranges that lies outside the task window. -/
def Task.belowWindow (t : Task) (rs : List (Nat × Nat)) : Option Nat :=
  let lo := t.ctl.spb.toNat
  let hi := min t.ctl.spl.toNat padSize
  (rs.filterMap fun r =>
    if r.2 = 0 then none
    else if r.1 < lo ∨ hi ≤ r.1 then some r.1
    else if hi < r.1 + r.2 then some hi
    else none).foldl (fun b x => some (match b with
      | some y => min x y
      | none => x)) none

/-- Ranges cut at page boundaries. -/
def pagesOf (rs : List (Nat × Nat)) : List Nat :=
  rs.flatMap fun r => if r.2 = 0 then [] else
    r.1 :: (List.range ((r.1 % 0x10000 + r.2 - 1) / 0x10000)).map fun i => (r.1 / 0x10000 + i + 1) * 0x10000

/-- Where the pages of B lie in the weight store of the core's own die, or the failure of rows 8 and 9. -/
def State.weightPages (s : State) : List Nat → List (Nat × Nat) → Except Trap (List (Nat × Nat))
  | [], acc => .ok acc
  | va :: vs, acc =>
    let w := BitVec.ofNat 64 va
    if acc.any fun p => p.1 == va / 0x10000 then s.weightPages vs acc
    else if va < 0x400000 then .error (.now cProt w)
    else
      match s.translate (.core s.cur.loc) s.cur.ctx s.cur.ctl.sv .load w with
      | .error t => .error t
      | .ok (.phys pa) =>
        match s.place pa with
        | .weights k _ =>
          if k + 2 = dieOf s.cur.loc then s.weightPages vs ((va / 0x10000, pa / 0x10000 * 0x10000) :: acc)
          else .error (.now cProt w)
        | _ => .error (.now cProt w)
      | .ok (.fabric ..) => .error (.now cProt w)

/-- The checks of R253 in order: the pages of an operand B in the weight store, or the trap. -/
def State.mmaCheck (s : State) (p : MP) : Except Trap (List (Nat × Nat)) :=
  match p.illegalRow with
  | some r => .error (.now cIllegal (BitVec.ofNat 64 r))
  | none =>
    match [p.aAddr, p.bAddr, p.cAddr].find? fun a => a % 32 != 0 with
    | some a => .error (.now cMisalign (BitVec.ofNat 64 a))
    | none =>
      match s.cur.belowWindow p.footPad with
      | some a => .error (.now cSpBound (BitVec.ofNat 64 a))
      | none =>
        if !p.ws then .ok []
        else if dieOf s.cur.loc < 2 then .error (.now cProt (BitVec.ofNat 64 p.bAddr))
        else
          match s.weightPages (pagesOf p.footB) [] with
          | .error t => .error t
          | .ok ps => if s.wsOpen (dieOf s.cur.loc - 2) then .error (.now cProt (BitVec.ofNat 64 p.bAddr)) else .ok ps

/-! ### The computation (R116, R252, R254) -/

/-- Where a byte of the scratchpad, or of B in the weight store, lies. -/
def MmaCmd.pa (c : MmaCmd) (loc : Nat) (ws : Bool) (va : Nat) : Nat :=
  if ws then ((c.pages.find? fun p => p.1 == va / 0x10000).map fun p => p.2 + va % 0x10000).getD 0
  else padBase loc + va

/-- One element of a row of a scalar format. -/
def State.scalarElem (s : State) (at_ : Nat → Nat) (c va : Nat) : FVal × Bool :=
  let z := (mmaFmt c).size
  let bs := (List.range z).map fun i => s.byte (at_ (va + i))
  (((mmaFmt c).values bs).headD .nan, s.poisoned (at_ va))

/-- A K-major row of `k` elements at an address, with its scales (11 R250): its values and whether any granule of it is
poisoned. -/
def State.opRow (s : State) (at_ : Nat → Nat) (scale : Nat → Nat) (c va k : Nat) : List FVal × Bool :=
  let one (va : Nat) : Nat × Bool := ((s.byte (at_ va)).toNat, s.poisoned (at_ va))
  match mmaFmt c with
  | .blk b =>
    let blocks := (List.range (k / 32)).map fun i =>
      if b.isKd then
        let bs := (List.range b.bytes).map fun j => one (va + i * b.bytes + j)
        (b.unpack (bs.map Prod.fst), bs.any Prod.snd)
      else
        let n := 4 * b.elemBits
        let bs := (List.range n).map fun j => one (va + i * n + j)
        let x := scale i
        let codes := if b.elemBits = 4 then unpackNibbles (bs.map Prod.fst) else bs.map Prod.fst
        (codes.map (b.value (s.byte x).toNat 0), bs.any Prod.snd || s.poisoned x)
    (blocks.flatMap Prod.fst, blocks.any Prod.snd)
  | f =>
    let es := (List.range k).map fun i => s.scalarElem at_ c (va + i * f.size)
    (es.map Prod.fst, es.any Prod.snd)

/-- Row `m` of A formed by the unfolding unit (11 R254). -/
def State.unfolded (s : State) (at_ : Nat → Nat) (p : MP) (m : Nat) : List FVal × Bool :=
  let px := p.aStride / 32 + m
  let oy := px / p.ow
  let ox := px % p.ow
  let es := (List.range p.k).map fun k =>
    let c := k % p.cin
    let t := k / p.cin
    let iy : Int := oy * p.sh + (t / p.kw : Nat) - p.pt
    let ix : Int := ox * p.sw + (t % p.kw : Nat) - p.pl
    if 0 ≤ iy ∧ iy < p.ih ∧ 0 ≤ ix ∧ ix < p.iw then
      s.scalarElem at_ p.af (p.aAddr + (((iy.toNat * p.iw + ix.toNat) * p.cin + c) * (mmaFmt p.af).size))
    else (FVal.fin false 0 0, false)
  (es.map Prod.fst, es.any Prod.snd)

/-- Row `m` of A. -/
def State.rowA (s : State) (c : MmaCmd) (loc : Nat) (p : MP) (m : Nat) : List FVal × Bool :=
  let at_ := c.pa loc false
  if p.unf then s.unfolded at_ p m
  else s.opRow at_ (fun kb => at_ (p.aScale + m * (p.k / 32) + kb)) p.af (p.aAddr + m * p.aStride) p.k

/-- Column `n` of B. -/
def State.colB (s : State) (c : MmaCmd) (loc : Nat) (p : MP) (n : Nat) : List FVal × Bool :=
  let at_ := c.pa loc p.ws
  if p.nmaj then
    let es := (List.range p.k).map fun k => s.scalarElem at_ p.bf (p.bAddr + k * p.bStride + n * (mmaFmt p.bf).size)
    (es.map Prod.fst, es.any Prod.snd)
  else s.opRow at_ (fun kb => c.pa loc false (p.bScale + n * (p.k / 32) + kb)) p.bf (p.bAddr + n * p.bStride) p.k

/-- G, the group size of the wider of two formats (05 R116). -/
def groupSize (a b : Nat) : Nat :=
  if a = 3 ∨ b = 3 then 1
  else if a = 2 ∨ b = 2 then 4
  else if a ≤ 1 ∨ b ≤ 1 then 16
  else 32

/-- The exact sum of the products of a group (05 R116). -/
def groupSum (e : Int) (ps : List (FVal × FVal)) : FVal :=
  match ps.map fun p => (p.1.mul p.2).scale e with
  | [] => .fin false 0 0
  | x :: xs => xs.foldl (FVal.add .rne) x

/-- A dot product by groups of `g` in a floating-point accumulator format (05 R116). -/
def dotGroups (f : Fmt) (g : Nat) (e : Int) (acc : Nat) (ps : List (FVal × FVal)) : Nat :=
  (chunks g ps.length ps).foldl (fun acc grp => f.addBits .rne acc (f.round .rne (groupSum e grp))) acc

/-- The integer that a value stands for. -/
def FVal.toInt : FVal → Int
  | .fin neg m e => (if neg then -1 else 1) * ((m * 2 ^ e.toNat : Nat) : Int)
  | _ => 0

/-- One element of C (11 R252). -/
def MP.element (p : MP) (old : Nat) (a b : List FVal) : Nat :=
  let start := if p.acc then old else 0
  let ps := a.zip b
  if p.cf = 2 then intBits 32 ((start : Int) + (ps.map fun x => x.1.toInt * x.2.toInt).sum)
  else dotGroups (if p.cf = 1 then fp64 else fp32) (groupSize p.af p.bf) (p.ea + p.eb) start ps

/-! ### The instructions -/

/-- MPSET (11 R251). -/
def execMpset (o : MpsetOps) (s : State) : Res :=
  s.slot [.srcS o.a true, .write (.mp o.mp)] fun s => .ok (s.later 1 (outOf (.mp o.mp) (s.readS o.a)))

/-- MPGET (11 R251). -/
def execMpget (o : MpgetOps) (s : State) : Res :=
  s.slot [.mark (.s o.d)] fun s => .ok (s.beginOp .x [outS o.d s.cur.regs.mp[o.mp]] false)

/-- Whether an operation is an MMA. -/
def Op.isMma (o : Op) : Bool :=
  match o.kind with
  | .mma _ => true
  | _ => false

/-- MMA (11 R252 to R255): its checks, the capture of its parameters, D EMPTY and a tl.mma ticket. -/
def execMma (o : MmaOps) (s : State) : Res :=
  s.slot [.mark (.s o.d)] fun s =>
    let p := MP.ofRegs s.cur.regs.mp s.fmt
    if 4 ≤ (s.cur.ops.filter Op.isMma).length then .error (.wait false)
    else
      match s.mmaCheck p with
      | .error t => .error (.trap t)
      | .ok pages =>
        let ticket := s.cur.nextTicket 1
        let at_ (rs : List (Nat × Nat)) : List (Nat × Nat) := rs.map fun r => (padBase s.cur.loc + r.1, r.2)
        let ab := p.footA ++ (if p.ws then [] else p.footB)
        let overlap := p.footC.any fun r => overlaps ab r.1 r.2
        let b := if p.ws then p.footB.flatMap fun r => (pagesOf [r]).map fun va =>
            (((pages.find? fun x => x.1 == va / 0x10000).map fun x => x.2 + va % 0x10000).getD 0,
              min (0x10000 - va % 0x10000) (r.1 + r.2 - va)) else []
        let c : MmaCmd := ⟨s.cur.regs.mp, s.fmt, o.f, ticket, pages, at_ p.footPad ++ b, overlap⟩
        .ok ((s.setCur fun t => t.draw 1).beginOp (.mma c) [outS o.d (BitVec.ofNat 64 ticket)] false)

/-- Whether a place is in a scratchpad or an extension. -/
def Dest.inPad : Dest → Bool
  | .pad _ | .ext _ => true
  | _ => false

/-- Whether an operation is still to access a scratchpad, or to acquire: commands issued after it read their operands later
(10 R230, 11 R255, R262, log 15). -/
def Op.padPending (o : Op) : Bool :=
  o.holds ||
  (match o.kind with
   | .heldRead ps _ | .heldWrite ps _ _ => ps.any fun p => p.dst.inPad
   | .atomic c => c.dst.inPad
   | .acq d .. | .rel d .. => d.inPad
   | .feRead .. | .feWrite .. | .feSet .. | .feGet .. | .mma _ => true
   | _ => false)

/-- Whether a command of a task begun as the operation `id` still waits for an earlier access of it (11 R255, R262). -/
def Task.padBefore (t : Task) (id : Nat) : Bool := t.ops.any fun o => o.id < id && o.padPending

/-- A write of the scratchpad by the command `op` of a task. -/
def State.cmdWrite (s : State) (task op pa : Nat) (bs : List Byte) : State :=
  (s.padPut pa (bs.map some)).spoil pa bs.length task op

/-- One row of C as MMA computes it in its turn (11 R252): each element with whether it is poisoned. `a` is the row of A and `cols` the
columns of B; an element of C is read as the rows before it have left it. -/
def State.mmaRow (s : State) (t : Task) (c : MmaCmd) (p : MP) (m : Nat) (a : List FVal × Bool) (cols : List (List FVal × Bool)) :
    List (Nat × Bool) :=
  let z := p.cSize
  cols.zipIdx.map fun b =>
    let pa := padBase t.loc + p.cAddr + m * p.cStride + b.2 * z
    let bad := a.2 || b.1.2 || (p.acc && s.poisoned pa)
    let v := if c.spoiled || bad then (Config.freeBits (s.free + m * p.n + b.2) (8 * z)).toNat else p.element (s.word pa z) a.1 b.1.1
    (v, bad)

/-- The elements of C written, row after row (11 R252). Those that read a poisoned granule, and all of them where the operands were
written meanwhile or overlap, are free values. -/
def State.mmaWrite (s : State) (t : Task) (op : Op) (c : MmaCmd) : State :=
  let p := MP.ofRegs c.mp c.fmt
  let z := p.cSize
  let cols := (List.range p.n).map (s.colB c t.loc p)
  let as := (List.range p.m).map (s.rowA c t.loc p)
  let s1 := as.zipIdx.foldl (fun (s1 : State) a =>
    let base := padBase t.loc + p.cAddr + a.2 * p.cStride
    let row := s1.mmaRow t c p a.2 a.1 cols
    let s2 := s1.cmdWrite t.id op.id base (row.flatMap fun e => natLe z e.1)
    let s3 := row.zipIdx.foldl (fun (s : State) e => if e.1.2 then s.padPoison (base + e.2 * z) else s) s2
    if c.f then s3.markFull base (row.length * z) else s3) s
  { s1 with free := s.free + p.m * p.n }

/-- MMA_COMPLETE (11 R252, R255): the oldest MMA of its task, once earlier accesses to the scratchpad are done. -/
def execMmaComplete (id : Nat) (s : State) : Res :=
  match s.findOp id with
  | some (t, op) =>
    match op.kind with
    | .mma c =>
      if t.padBefore id then .next s
      else
        -- bad granules of B are charged to the context that reads them (04 R94)
        let s0 := (c.foot.filter fun r => match s.place r.1 with
          | .weights .. => true
          | _ => false).foldl (fun s r => s.touch t.ctx r.1 r.2) s
        let s1 := s0.mmaWrite t op c
        .next ((s1.finishOp t.id op).completeTicket t.id 1 c.ticket none none)
    | _ => .next s
  | none => .next s

end Sys2Proof.Machine
end

