-- ==== Sys2Proof/Machine/Attn.lean ====
section
/-! DEFINITION. ATTN: its issue, its stream through a sequence's pages, the fold, stops and completion (02 R55 to R58,
11 R256 to R262), and the replies to lending reads (02 R381). -/

namespace Sys2Proof.Machine

/-! ### The record (R257) -/

/-- The fields of an ATTN record. -/
structure AttnRec where
  layer : Nat
  h0 : Nat
  hc : Nat
  q : Nat
  gq : Nat
  qAddr : Nat
  qFmt : Nat
  oAddr : Nat
  mlAddr : Nat
  scale : Nat
  setFull : Bool
  first : Nat
  count : Nat
  parent : Nat
  s : Nat
  resume : Nat
  ring : Nat
  ringSize : Nat
  qpos0 : Nat
  deriving DecidableEq, Repr

/-- The fields of the bytes of a record. -/
def AttnRec.ofBytes (b : List Byte) : AttnRec :=
  { layer := field b 0 2, h0 := field b 2 2, hc := field b 4 2, q := field b 6 1, gq := field b 7 1
    qAddr := field b 8 6, qFmt := field b 14 1 % 16, oAddr := field b 16 8, mlAddr := field b 24 8
    scale := field b 32 4, setFull := field b 36 4 % 2 == 1, first := field b 40 4, count := field b 44 4
    parent := field b 48 6, s := field b 54 1, resume := field b 56 4, ring := field b 64 4, ringSize := field b 68 4
    qpos0 := field b 72 4 }

/-- NQ, the rows of a head. -/
def AttnRec.nq (r : AttnRec) : Nat := r.gq * r.q

/-- All rows. -/
def AttnRec.allRows (r : AttnRec) : Nat := r.hc * r.nq

/-- Bytes of a query element. -/
def AttnRec.qSize (r : AttnRec) : Nat := if r.qFmt = 2 then 4 else 2

/-- The format of a query element. -/
def AttnRec.qFloat (r : AttnRec) : Fmt :=
  match r.qFmt with
  | 0 => bf16
  | 1 => fp16
  | _ => fp32

/-- The size of a slot of the staging ring (02 R56). -/
def Space.ringSlot (p : Space) : Nat := roundUp 256 (32 + max (p.page p.nat) (p.page p.polFmt))

/-- The offset of the first bad field of a record (11 R257, 02 R57). -/
def Space.recBad (p : Space) (b : List Byte) (tree : Bool) (parents : List Byte) (lo hi : Nat) : Option Nat :=
  let r := AttnRec.ofBytes b
  let sl := p.ringSlot
  let sorted := parents.zipIdx.all fun x => x.1 == 0xFF || x.1.toNat < x.2
  ([(0, decide (r.layer < p.layers)), (2, decide (r.h0 + r.hc ≤ p.heads)), (4, 1 ≤ r.hc && r.hc ≤ p.heads), (6, 1 ≤ r.q && r.q ≤ 64),
    (7, 1 ≤ r.gq && r.gq ≤ 16 && r.nq ≤ 256), (8, r.qFmt ≤ 2 && field b 14 2 / 16 == 0),
    (32, match fp32.decode r.scale with
      | .fin .. => true
      | _ => false), (36, field b 36 4 < 2),
    (48, field b 55 1 == 0 && r.s ≤ 64 && (!tree || (r.q == r.s && sorted))), (61, zeros b 61 64),
    (64, lo ≤ r.ring && r.ring < hi), (68, 4 * sl ≤ r.ringSize && r.ringSize % sl == 0 && r.ring + r.ringSize ≤ hi),
    (76, zeros b 76 128)].find? fun x => !x.2).map Prod.fst

/-! ### Issue (R256, R257) -/

/-- The state before any block (11 R259). -/
def attnInit (rows d : Nat) : List AttnRow := List.replicate rows ⟨0xFF800000, 0, List.replicate d 0, false⟩

/-- ATTN (11 R256, R257, R262): its checks in order, D EMPTY, a tl.attn ticket, and a stream that waits for a
traverse unit. -/
def execAttn (o : AttnOps) (s : State) : Res :=
  s.slot [.srcS o.a true, .srcS o.b true, .mark (.s o.d), .illegalIf (o.causal && o.tree)] fun s =>
    let h := (s.readS o.a).toNat % 2 ^ 32
    let ra := s.readS o.b
    let mine := s.streams.filter fun x => x.task == s.cur.id
    let here := padBase s.cur.loc
    -- an access of an earlier bundle to the record comes first; of MMAs, only one that touches it (log 15)
    let first (o : Op) : Bool := match o.kind with
      | .mma c => overlaps c.foot (here + ra.toNat) 128
      | _ => o.padPending
    if 4 ≤ mine.length || s.cur.ops.any (fun o => s.earlier o && first o) then .error (.wait false)
    else
      let badHandle : Except Stop State := .error (.trap (.now cKvHandle (BitVec.ofNat 64 h)))
      match s.space (h / 2 ^ 24) with
      | none => badHandle
      | some p =>
        let lo := s.cur.ctl.spb.toNat
        let hi := min s.cur.ctl.spl.toNat padSize
        if p.ctx ≠ s.cur.ctx ∨ p.ns ≤ h % 2 ^ 24 then badHandle
        else if ra.extractLsb' 0 7 ≠ 0#7 then .error (.trap (.now cMisalign ra))
        else
          match s.cur.belowWindow [(ra.toNat, 128)] with
          | some a => .error (.trap (.now cSpBound (BitVec.ofNat 64 a)))
          | none =>
            let args := s.bytesSeen (here + ra.toNat) 128
            let r := AttnRec.ofBytes args
            let inside := o.tree && (s.cur.belowWindow [(r.parent, r.s)]).isNone
            let parents := if inside then s.bytesSeen (here + r.parent) r.s else []
            match p.recBad args o.tree parents lo hi with
            | some off => .error (.trap (.now cIllegal (BitVec.ofNat 64 off)))
            | none =>
              match [r.qAddr, r.oAddr, r.mlAddr].find? fun a => a % 32 != 0 with
              | some a => .error (.trap (.now cMisalign (BitVec.ofNat 64 a)))
              | none =>
                let n := r.allRows
                let par := if o.tree then [(r.parent, r.s)] else []
                let qr := (r.qAddr, n * p.dim * r.qSize)
                match s.cur.belowWindow ([qr, (r.oAddr, n * p.dim * 4), (r.mlAddr, n * 8)] ++ par) with
                | some a => .error (.trap (.now cSpBound (BitVec.ofNat 64 a)))
                | none =>
                  match s.etchReady 0x0D 0 (BitVec.ofNat 64 h) (.unit p.seq) none with
                  | .error e => .error e
                  | .ok _ =>
                    let ticket := s.cur.nextTicket 2
                    let id := s.nextId
                    let s1 := ({ s.setCur (fun t => t.draw 2) with nextId := id + 1 }.beginOp (.attn id)
                      [outS o.d (BitVec.ofNat 64 ticket)] false).reserveOp
                    let foot := ([(ra.toNat, 128), qr, (r.ring, r.ringSize)] ++ par).map fun x => (here + x.1, x.2)
                    let x : Stream :=
                      { id := id, task := s.cur.id, ctx := s.cur.ctx, loc := s.cur.loc, handle := h, recVa := ra, args := args
                        parents := parents, causal := o.causal, tree := o.tree, resume := o.res, prefetch := o.pf
                        ticket := ticket, op := id + 1, assigned := false, len := 0, first := 0, last := 0, block := 0
                        nextPage := 0, slotNo := 0, frame := none, opened := [], landed := [], got := []
                        asked := false, stuck := none, fault := none, key := ([], false), rows := [], saved := [], folding := none, stop := 0
                        stopBlock := 0, foot := foot, spoiled := false }
                    .ok { s1 with streams := s1.streams ++ [x] }

/-! ### Streams (R55 to R58) -/

/-- The stream of a number. -/
def State.stream (s : State) (id : Nat) : Option Stream := s.streams.find? fun x => x.id == id

/-- The space of a stream. -/
def State.streamSpace (s : State) (x : Stream) : Option Space := s.space (x.handle / 2 ^ 24)

/-- How many streams the traverse units of a die run at once (02 R55). -/
def dieStreams (die : Nat) : Nat := if die < 2 then 256 else 64

/-- The query row, the state and the address of row `k` of all rows. -/
def State.savedRow (s : State) (x : Stream) (d k : Nat) : AttnRow :=
  let r := AttnRec.ofBytes x.args
  let ml := padBase x.loc + r.mlAddr + 8 * k
  let o := padBase x.loc + r.oAddr + 4 * d * k
  ⟨s.word ml 4, s.word (ml + 4) 4, (List.range d).map fun i => s.word (o + 4 * i) 4, s.anyPoison ml 8 || s.anyPoison o (4 * d)⟩

/-- A stream that does not find its sequence open (11 R262): its event is recorded as failed (19 R326, log 99). -/
def State.notOpen (s : State) (x : Stream) (p : Option Space) (slot : Option EtchSlot) : State :=
  let (s1, d) := s.etchDone x.task 0x0D 1 (BitVec.ofNat 64 x.handle) (BitVec.ofNat 64 cKvHandle)
    ((p.map fun p => Series.unit p.seq).getD .none) slot
  let s2 := match p with
    | some p => s1.updSpace p.id fun p => { p with seq := p.seq + 1 }
    | none => s1
  let s3 := match d, s2.findOp x.op with
    | some ev, some (t, op) => s2.updOp t.id { op with fail := some (divFail ev) }
    | _, _ => s2
  s3.updStream x.id fun x => { x with assigned := true, stop := 4 }

/-- A stream that opens its sequence (02 R58): LEN is taken, and the event is recorded. -/
def State.openSeq (s : State) (x : Stream) (p : Space) (q : Seqn) (slot : Option EtchSlot) : State :=
  let r := AttnRec.ofBytes x.args
  let (s1, d) := s.etchDone x.task 0x0D 0 (BitVec.ofNat 64 x.handle) (BitVec.ofNat 64 q.len) (.unit p.seq) slot
  let s2 := s1.updSpace p.id fun p => { p with seq := p.seq + 1 }
  let s3 := match d, s2.findOp x.op with
    | some ev, some (t, op) => s2.updOp t.id { op with fail := some (divFail ev) }
    | _, _ => s2
  let start := if x.resume then r.resume else r.first
  let rows := if x.resume then (List.range r.allRows).map (s.savedRow x p.dim) else attnInit r.allRows p.dim
  s3.updStream x.id fun x => { x with
    assigned := true, len := q.len, first := start, block := start
    last := if r.count = 0 then q.nb else min q.nb (r.first + r.count)
    rows := rows
    stop := if x.tree && q.len < r.s then 3 else 0 }

/-- Whether the turn of a stream's event has come in its space's series (19 R333). -/
def State.streamTurn (s : State) (x : Stream) : Bool :=
  match s.task x.task, s.streamSpace x with
  | some t, some p => s.myTurn t ((s.findOp x.op).bind fun y => y.2.etch) (.unit p.seq)
  | _, _ => true

/-- Whether a stream is the next of its die to be assigned, of those whose turn has come, and a unit has room (02 R55, 19 R333). -/
def State.streamNext (s : State) (x : Stream) : Bool :=
  let onDie := s.streams.filter fun y => dieOf y.loc == dieOf x.loc
  ((onDie.find? fun y => !y.assigned && s.streamTurn y).map fun y => y.id) == some x.id &&
    (onDie.filter fun y => y.assigned).length < dieStreams (dieOf x.loc)

/-- STREAM_ASSIGN (02 R55, R58, 11 R262): the oldest waiting ATTN of its die gets a stream once the earlier accesses of its task
to the scratchpad are done, and opens its sequence; in proof mode in its turn in the space's series (19 R333). -/
def execStreamAssign (id : Nat) (s : State) : Res :=
  .next (match s.stream id with
    | none => s
    | some x =>
      let slot := (s.findOp x.op).bind fun y => y.2.etch
      if !s.streamNext x || ((s.task x.task).map fun t => t.padBefore x.op).getD false then s
      else
        match s.streamSpace x with
        | none => s.notOpen x none slot
        | some p =>
          let q := p.seqOf (x.handle % 2 ^ 24)
          if p.ctx ≠ x.ctx ∨ q.st ≠ 1 then s.notOpen x (some p) slot
          else s.openSeq x p q slot)

/-- Whether a stream has come to its end block. -/
def Stream.atEnd (x : Stream) : Bool := x.last ≤ x.block

/-- The bytes of the heads that a stream reads of a frame in a tier of this module: their offset in the layer, and how many. -/
def Stream.span (x : Stream) (p : Space) (fmt : Nat) : Nat × Nat :=
  let r := AttnRec.ofBytes x.args
  (2 * r.h0 * p.page fmt, 2 * r.hc * p.page fmt)

/-- The dirty bytes of the issuing context in the L1 of a stream's core written back (14 R283, log 107). -/
def State.issuerBack (s : State) (x : Stream) : State := s.flushCtx x.loc x.ctx

/-- A frame opened by a stream for its next block (02 R49, R58): READERS rises, and the bytes of its heads are taken as they
stand, so that each token is seen wholly written or wholly absent. FILL of its slot headers is the entry's, cut at the LEN that the
stream opened with (log 106). A page that is not mapped is the supervisor's to answer for (20 R346); memory of another protected
context fails the ATTN (23 R363). -/
def State.openFrame (s : State) (x : Stream) (p : Space) (e : BlockEnt) (f : Frame) : State :=
  let (off, n) := x.span p f.fmt
  let base := p.frameBase f.tier f.slot (AttnRec.ofBytes x.args).layer + BitVec.ofNat 64 off
  match if f.tier = 3 then none else s.kvStop p.ctx base n (.engine (sliceOf x.loc)) with
  | some (true, va) => s.updStream x.id fun x => { x with
      stop := 5, stopBlock := x.block, fault := some ⟨cProt, 0, va, some (2, x.ticket)⟩ }
  | some (false, va) =>
    let (s1, tok) := s.askSupervisor p.ctx (dieOf x.loc) x.task va
    s1.updStream x.id fun x => { x with stuck := some (tok, va) }
  | none =>
    let (s1, pages) := if f.tier = 3 then (s, []) else (s.issuerBack x).kvRead p.ctx base n (.engine (sliceOf x.loc))
    let s2 := s1.updSpace p.id fun p => p.updFrame e.frame fun f => { f with readers := f.readers + 1 }
    s2.updStream x.id fun x => { x with
      frame := some ⟨e.frame, f.tier, f.fmt, f.slot, min e.fill (x.len - x.block * p.tokens), f.peer, pages⟩, nextPage := 0 }

/-- The entry of a stream's next block taken as it stands (02 R49, R58, 11 R260): a cleared one is skipped, one that cannot be
streamed stops the ATTN, and an open waits while HOLD is set. -/
def State.nextBlock (s : State) (x : Stream) (p : Space) : State :=
  let i := x.handle % 2 ^ 24
  let q := p.seqOf i
  let skip : State := s.updStream x.id fun x => { x with block := x.block + 1 }
  match if q.st = 1 then q.blocks[x.block]? else none with
  | none => skip
  | some e =>
    match e.v, p.frame e.frame with
    | true, some f =>
      -- reading the entry rewrites its mirrors (02 R36)
      let s1 := s.updSpace p.id fun p => p.readEntries i x.block (x.block + 1)
      if f.hold then s
      else if f.lost then s1.stopStream x.id 2
      else if f.tier = 2 ∧ !p.srem then s1.stopStream x.id 1
      else if f.tier = 3 ∧ !s.reachable f.peer then (s1.lenderLost f.peer none).stopStream x.id 2
      else s1.openFrame x p e f
    | _, _ => s.stopStream x.id 1

/-- FRAME_OPEN (02 R49, R58, 11 R260). -/
def execFrameOpen (id : Nat) (s : State) : Res :=
  .next (match s.stream id with
    | none => s
    | some x =>
      if !x.assigned || x.stop != 0 || x.frame.isSome || x.stuck.isSome || x.atEnd then s
      else
        match s.streamSpace x with
        | none => s.updStream id fun x => { x with block := x.block + 1 }
        | some p => (s.nextBlock x p).kvSyncBy x.task s)

/-- FRAME_CLOSE (02 R49, R50): after the frame's last page has landed, or when its ATTN has stopped. -/
def execFrameClose (id : Nat) (s : State) : Res :=
  match s.stream id with
  | none => .next s
  | some x =>
    match x.frame with
    | none => .next s
    | some o =>
      let done := x.nextPage = 2 * (AttnRec.ofBytes x.args).hc
      if ¬done ∧ x.stop = 0 then .next s
      else
        let s1 := s.updStream id fun x => { x with
          frame := none, nextPage := 0
          opened := if x.stop = 0 then x.opened ++ [o.ident] else x.opened
          block := if x.stop = 0 then x.block + 1 else x.block }
        match s.streamSpace x with
        | none => .next s1
        | some p =>
          let s2 := s1.updSpace p.id fun p => p.updFrame o.ident fun f => { f with readers := f.readers - 1 }
          let s3 := match (s2.space p.id).bind fun p => p.frame o.ident with
            | some f => if f.readers = 0 ∧ f.refcnt = 0 then s2.freeFrame p.id o.ident else s2
            | none => s2
          .next (s3.kvSyncBy x.task s)

/-- Slots of a stream's ring. -/
def Stream.slots (x : Stream) (p : Space) : Nat := (AttnRec.ofBytes x.args).ringSize / p.ringSlot

/-- Where slot `k` of a stream's ring lies. -/
def Stream.slotAt (x : Stream) (p : Space) (k : Nat) : Nat := padBase x.loc + (AttnRec.ofBytes x.args).ring + k * p.ringSlot

/-- A page put into the next slot of the ring (02 R56): body with its poison, header, and the header word at +0 marked full. A
prefetch-only ATTN puts nothing there. -/
def State.landPage (s : State) (x : Stream) (p : Space) (o : Opened) (page : Pb) : State :=
  let r := AttnRec.ofBytes x.args
  let head := r.h0 + x.nextPage / 2
  let isV := x.nextPage % 2 = 1
  let next (x : Stream) : Stream := { x with nextPage := x.nextPage + 1, got := [] }
  if x.prefetch then s.updStream x.id next
  else
    let at_ := x.slotAt p x.slotNo
    let hdr := natLe 4 x.block ++ natLe 2 head ++ natLe 1 (if isV then 1 else 0) ++ natLe 1 o.fmt ++ natLe 1 o.fill ++ natLe 7 0 ++
      natLe 4 o.ident ++ natLe 12 0
    let s1 := s.cmdWrite x.task x.op (at_ + 32) (Pb.bytes page)
    let s2 := (Pb.granules page).foldl (fun s k => s.padPoison (at_ + 32 + 32 * k)) s1
    let s3 := (s2.cmdWrite x.task x.op at_ hdr).markFull at_ 4
    s3.updStream x.id fun x => { next x with
      slotNo := (x.slotNo + 1) % x.slots p
      landed := x.landed ++ [⟨x.slotNo, x.block, o.fill, o.fmt, head, isV⟩] }

/-- A piece of a borrowed page asked for (02 R381): a frame that has been lost meanwhile stops the stream. -/
def State.askPage (s : State) (x : Stream) (p : Space) (o : Opened) (off n : Nat) : State :=
  match p.frame o.ident with
  | some f =>
    if f.lost then s.stopStream x.id 2
    else (s.updStream x.id fun x => { x with asked := true }).lendingRead p (.stream x.id) o.ident f off n
  | none => s.stopStream x.id 2

/-- ATTN_PAGE_LAND (02 R55, R56): the next page of the open frame lands once a slot is free. A borrowed page is read
from the lender piece by piece (02 R381). -/
def execAttnPageLand (id : Nat) (s : State) : Res :=
  .next (match s.stream id with
    | none => s
    | some x =>
      match x.frame, s.streamSpace x with
      | some o, some p =>
        let r := AttnRec.ofBytes x.args
        let n := p.page o.fmt
        if x.stop != 0 || x.asked || 2 * r.hc ≤ x.nextPage || x.slots p ≤ x.landed.length then s
        else if o.tier ≠ 3 then s.landPage x p o ((o.pages.drop (x.nextPage * n)).take n)
        else if n ≤ x.got.length then s.landPage x p o x.got
        else
          let at_ := (2 * (r.layer * p.heads + r.h0) + x.nextPage) * n + x.got.length
          (s.askPage x p o at_ (n - x.got.length)).kvSyncBy x.task s
      | _, _ => s)

/-! ### The fold (R258, R259) -/

/-- Whether draft `i` is query token `a` or an ancestor of it. -/
def ancestor (parents : List Byte) : Nat → Nat → Nat → Bool
  | 0, _, _ => false
  | fuel + 1, i, a =>
    i == a || (match parents[a]? with
      | some b => b != 0xFF && ancestor parents fuel i b.toNat
      | none => false)

/-- Whether the key at a position takes part for query token `q` (11 R258). -/
def Stream.takesPart (x : Stream) (j q : Nat) : Bool :=
  let r := AttnRec.ofBytes x.args
  if x.causal then j ≤ r.qpos0 + q
  else if x.tree && x.len - r.s ≤ j then ancestor x.parents (r.s + 1) (j - (x.len - r.s)) q
  else true

/-- The token rows of a page up to FILL. -/
def Space.pageRows (p : Space) (fmt fill : Nat) (page : List Byte) : List (List FVal) :=
  let scale := (page.getD (p.tokens * p.dim) 0).toNat
  (List.range fill).map fun t => rowValues fmt scale (p.cut fmt t page)

/-- Whether the tokens of a page up to FILL are poisoned: what lies beyond is never read (11 R259). -/
def Space.pageBad (p : Space) (fmt fill : Nat) (page : Pb) : Bool :=
  ((List.range fill).any fun t => (p.cutBy fmt t page).any fun c => Pb.bad c) ||
    (0 < fill && isFp8 fmt && (page.getD (p.tokens * p.dim) (0, false)).2)

/-- One row of the state after one block (11 R259). -/
def foldRow (x : Stream) (t : Nat) (block : Nat) (g : Nat) (scale q : Nat) (query : List FVal) (keys vals : List (List FVal))
    (row : AttnRow) : AttnRow :=
  let neg := 0xFF800000
  let logit (tau : Nat) : Nat := match keys[tau]? with
    | some k =>
      if x.takesPart (block * t + tau) q then fp32.mulBits .rne (dotGroups fp32 g 0 0 (query.zip k)) scale else neg
    | none => neg
  let xs := (List.range t).map logit
  let mb := match xs with
    | [] => neg
    | y :: ys => ys.foldl fp32.maxBits y
  let mn := fp32.maxBits row.m mb
  if mn = neg then row
  else
    let alpha := if row.m = neg then 0 else correct fExp2 (fp32.subBits .rne row.m mn)
    let ps := xs.map fun y => if y = neg then 0
      else (bf16.conv .rne .inf (fp32.decode (correct fExp2 (fp32.subBits .rne y mn)))).bits * 2 ^ 16
    let lb := tree (fp32.addBits .rne) 0 8 ps
    let l := fp32.addBits .rne (fp32.mulBits .rne row.l alpha) lb
    let pv (d : Nat) : Nat := dotGroups fp32 16 0 0 ((ps.zip vals).map fun y => (fp32.decode y.1, y.2.getD d .nan))
    { row with m := mn, l := l, o := row.o.zipIdx.map fun y =>
        fp32.addBits .rne (fp32.mulBits .rne y.1 alpha) (pv y.2) }

/-- The rows of one head folded with its K and V pages; a poisoned page or query poisons the rows that fold it
(11 R262). -/
def State.foldHead (s : State) (x : Stream) (p : Space) (l : Landed) (key val : List Byte × Bool) : List AttnRow :=
  let r := AttnRec.ofBytes x.args
  let e := r.qSize
  let keys := p.pageRows l.fmt l.fill key.1
  let vals := p.pageRows l.fmt l.fill val.1
  let i := l.head - r.h0
  x.rows.zipIdx.map fun y =>
    if y.2 / r.nq ≠ i then y.1
    else
      let at_ := padBase x.loc + r.qAddr + y.2 * p.dim * e
      let query := (List.range p.dim).map fun d => r.qFloat.decode (s.word (at_ + d * e) e)
      let bad := key.2 || val.2 || s.anyPoison at_ (p.dim * e)
      let new := foldRow x p.tokens l.block (if r.qFmt = 2 then 4 else 16) r.scale (y.2 % r.nq % r.q) query keys vals y.1
      { new with poison := new.poison || bad }

/-- ATTN_SLOT_CONSUME (02 R56, 11 R259): the attention datapath, which takes its core's ATTNs in issue order, takes the
oldest page of the ring; a V page folds the rows of its head. The word at +0 is marked empty. -/
def execAttnSlotConsume (id : Nat) (s : State) : Res :=
  match s.stream id with
  | none => .next s
  | some x =>
    let before := s.streams.any fun y => y.loc == x.loc && y.id < x.id && !y.prefetch
    match x.landed, s.streamSpace x with
    | l :: rest, some p =>
      if before then .next s
      else
        let at_ := x.slotAt p l.slot
        let n := p.page l.fmt
        let pb := s.pbytes (at_ + 32) n
        let page := (Pb.bytes pb, p.pageBad l.fmt l.fill pb)
        let s1 : State := { s with feEmpty := insertNat (at_ / 4 * 4) s.feEmpty }
        .next (s1.updStream id fun x =>
          let x1 : Stream := { x with
            landed := rest
            saved := if x.folding = some l.block then x.saved else x.rows
            folding := some l.block }
          if l.isV then { x1 with rows := s.foldHead x1 p l x.key page } else { x1 with key := page })
    | _, _ => .next s

/-! ### Completion (R43, R260 to R262) -/

/-- The rows written to the (m, l) and o arrays: free values where the operands were written meanwhile. -/
def State.writeRows (s : State) (x : Stream) (d : Nat) : State :=
  let r := AttnRec.ofBytes x.args
  let s1 := x.rows.zipIdx.foldl (fun s y =>
    let v (i : Nat) (w : Nat) : Nat := if x.spoiled then (Config.freeBits (s.free + i) 32).toNat else w
    let ml := padBase x.loc + r.mlAddr + 8 * y.2
    let o := padBase x.loc + r.oAddr + 4 * d * y.2
    let s1 := s.cmdWrite x.task x.op ml (natLe 4 (v 0 y.1.m) ++ natLe 4 (v 1 y.1.l))
    let s2 := s1.cmdWrite x.task x.op o (y.1.o.zipIdx.flatMap fun e => natLe 4 (v (2 + e.2) e.1))
    let s3 := if y.1.poison then (s2.spreadPoison 0 ml 8).spreadPoison 0 o (4 * d) else s2
    let s4 := if r.setFull then (s3.markFull ml 8).markFull o (4 * d) else s3
    { s4 with free := s4.free + 2 + d }) s
  s1

/-- STAMP rises, and every frame that the ATTN streamed takes it as its USE (02 R43). -/
def State.stampFrames (s : State) (p : Space) (who : Nat) (ids : List Nat) : State :=
  let n := p.stamp + 1
  let s1 := s.updSpace p.id fun p => ids.foldl (fun p id => p.updFrame id fun f => { f with use := n.toNat % 2 ^ 26 }) { p with stamp := n }
  (s1.kvPut p.addrCtx who (p.addr + 112) (natLe 4 n.toNat)).1

/-- Why the ticket of a stopped ATTN fails, if it does (11 R261, R262; 20 R346). -/
def Stream.failure (x : Stream) : Option Fail :=
  let link := some (2, x.ticket)
  match x.stop with
  | 1 | 2 => if x.prefetch then none else some ⟨cKvAbsent, 0, BitVec.ofNat 64 (x.handle * 2 ^ 32 + x.stopBlock), link⟩
  | 4 => some ⟨cKvHandle, 0, BitVec.ofNat 64 x.handle, link⟩
  | 5 => x.fault
  | _ => none

/-- What an ATTN writes as it completes or stops (11 R259 to R261): its rows, +56 and +60 of its record; nothing where its
sequence was not open, or where the supervisor has failed it (log 98). -/
def State.attnWrites (s : State) (x : Stream) (p : Space) : State :=
  if 4 ≤ x.stop then s
  else
    let block := if x.stop = 0 then x.last else if x.stop = 3 then x.first else x.stopBlock
    let s1 := if x.prefetch ∨ x.stop = 3 then s else s.writeRows x p.dim
    let ra := padBase x.loc + x.recVa.toNat
    (s1.cmdWrite x.task x.op (ra + 56) (natLe 4 block)).cmdWrite x.task x.op (ra + 60) (natLe 1 x.stop)

/-- A stream that has ended: its results, its stamps, D and its ticket (11 R260 to R262). Its task sees its writes from the fill on
(14 R283). -/
def State.attnEnd (s : State) (x : Stream) (t : Task) (op : Op) : State :=
  let s1 := match s.streamSpace x with
    | none => s
    | some p => if x.stop = 4 then s else (s.attnWrites x p).stampFrames p x.task x.opened
  ((((s1.finishOp t.id { op with fail := op.fail.or x.failure }).advanceGen t.loc).completeTicket t.id 2 x.ticket x.failure
    (some op.id))).kvSyncBy x.task s

/-- ATTN_COMPLETE (11 R260 to R262): the oldest ATTN of its task, with every page consumed and no frame open, writes its
results and its ticket completes, failed if it stopped. -/
def execAttnComplete (id : Nat) (s : State) : Res :=
  .next (match s.stream id with
    | none => s
    | some x =>
      let older := s.streams.any fun y => y.task == x.task && y.id < x.id
      if !x.assigned || older || x.frame.isSome || !x.landed.isEmpty || (x.stop == 0 && !x.atEnd) then s
      else
        let gone : State := { s with streams := s.streams.filter fun y => y.id != id }
        match s.findOp x.op with
        | none => gone
        | some (t, op) => gone.attnEnd x t op)

/-! ### Replies to lending reads (02 R381) -/

/-- A lending read answered with bytes, which go to what waits for them (02 R42, R48, R381). -/
def State.lendGot (s : State) (l : LendReq) (x : Pb) : State :=
  let s1 := s.updFabric fun f => { f with lends := f.lends.filter fun y => y.id != l.id }
  if !s.lendWanted l then s1 else
  match l.by_ with
  | .stream k => s1.updStream k fun y => { y with asked := false, got := y.got ++ x }
  | .move sid id => s1.updMove sid id fun m => { m with asked := false, bytes := m.bytes ++ x }
  | .split n => s1.updKv n fun c => { c with asked := false, bytes := c.bytes ++ x }

/-- LENDING_READ_REPLY (02 R42, R48, R53, R381): the answer of the lender to a lending read that is outstanding, by its number; a
failure loses the frame or the lender. -/
def execLendingReadReply (env : Envelope) (space ident off : Nat) (status : FabStatus) (bytes : LendReply)
    (poison : List Nat) (s : State) : Res :=
  .next (if !s.ctlOk env then s.countDrop false
    else
      match s.fabric.lends.find? fun l => l.id == bytes.id && l.target == env.src && l.rspace == space && l.rident == ident && l.off == off with
      | none => s
      | some l => (if status = .ok then s.lendGot l (Pb.ofGranules bytes.data poison) else s.lendFailed l status).kvSync s)

end Sys2Proof.Machine
end

