-- ==== Sys2Proof/Machine/Memory.lean ====
section
/-! DEFINITION. The loads and stores of the M class: scalar, indexed, vector, strided, gathered and remote ones
(10 R222 to R226, R239, R240). -/

namespace Sys2Proof

/-- The size in bytes of an access size code (07 R141). -/
def Esz.bytes : Esz → Nat
  | .e8 => 1
  | .e16 => 2
  | .e32 => 4
  | .e64 => 8

namespace Machine

/-! ### Scalar loads and stores (R222, R223) -/

/-- The address of the form MS: a base and an offset of `z`-byte units (10 R222). -/
def State.msAddr (s : State) (o : MSOps) (z : Nat) : Word := s.base o.a + o.off.signExtend 64 * BitVec.ofNat 64 z

/-- A load of `z` bytes from an address into a scalar register, sign-extended where `signed`. -/
def State.loadS (s : State) (d : SReg) (va : Word) (z : Nat) (signed : Bool) : Except Stop State :=
  match s.reachAligned .plain .load va z with
  | .error e => .error e
  | .ok t => s.load (.s d) (lowMask 64) (if signed then 8 * z else 0) [⟨t, z, 0, List.replicate z true⟩]

/-- A store of the low `z` bytes of a scalar register. -/
def State.storeS (s : State) (d : SReg) (va : Word) (z : Nat) : Except Stop State :=
  match s.reachAligned .plain .store va z with
  | .error e => .error e
  | .ok t => s.store ((s.readS d).setWidth 1024) [⟨t, z, 0, List.replicate z true⟩]

/-- A scalar load of the form MS (R222). -/
def loadMS (z : Nat) (signed : Bool) (o : MSOps) (s : State) : Res :=
  s.slot (baseUse o.a o.wa ++ [.mark (.s o.d)]) fun s => s.loadS o.d (s.msAddr o z) z signed

/-- A scalar store of the form MS (R222): the store data always blocks. -/
def storeMS (z : Nat) (o : MSOps) (s : State) : Res :=
  s.slot (baseUse o.a o.wa ++ [.srcS o.d true]) fun s => s.storeS o.d (s.msAddr o z) z

/-- LDB (R222). -/
def execLdb (o : MSOps) (s : State) : Res := loadMS 1 true o s
/-- LDH (R222). -/
def execLdh (o : MSOps) (s : State) : Res := loadMS 2 true o s
/-- LDW (R222). -/
def execLdw (o : MSOps) (s : State) : Res := loadMS 4 true o s
/-- LDD (R222). -/
def execLdd (o : MSOps) (s : State) : Res := loadMS 8 false o s
/-- LDBU (R222). -/
def execLdbu (o : MSOps) (s : State) : Res := loadMS 1 false o s
/-- LDHU (R222). -/
def execLdhu (o : MSOps) (s : State) : Res := loadMS 2 false o s
/-- LDWU (R222). -/
def execLdwu (o : MSOps) (s : State) : Res := loadMS 4 false o s
/-- STB (R222). -/
def execStb (o : MSOps) (s : State) : Res := storeMS 1 o s
/-- STH (R222). -/
def execSth (o : MSOps) (s : State) : Res := storeMS 2 o s
/-- STW (R222). -/
def execStw (o : MSOps) (s : State) : Res := storeMS 4 o s
/-- STD (R222). -/
def execStd (o : MSOps) (s : State) : Res := storeMS 8 o s

/-- LDX: always zero-extended (R223). -/
def execLdx (o : MROps) (s : State) : Res :=
  s.slot (baseUse o.a o.wa ++ [.srcS o.b o.wb, .mark (.s o.d)]) fun s =>
    s.loadS o.d (s.base o.a + s.readS o.b) o.sz.bytes false

/-- STX (R223). -/
def execStx (o : MROps) (s : State) : Res :=
  s.slot (baseUse o.a o.wa ++ [.srcS o.b o.wb, .srcS o.d true]) fun s =>
    s.storeS o.d (s.base o.a + s.readS o.b) o.sz.bytes

/-! ### Vector accesses (R224) -/

/-- The address of the form MV: a base and an offset of 32-byte units (10 R224). -/
def State.mvAddr (s : State) (o : MVOps) : Word := s.base o.a + o.off.signExtend 64 * 32

/-- The lanes of a width that em selects, as bits of a vector register. -/
def lanesMask (em : BitVec 32) (w : Width) : BitVec 1024 :=
  BitVec.ofNat 1024 (packElems 32 ((List.range (w.bits / 32)).map fun i => if em.getLsbD i then 2 ^ 32 - 1 else 0))

/-- VLD (R224). -/
def execVld (o : MVOps) (s : State) : Res :=
  s.slot (baseUse o.a o.wa ++ [.srcEm, .mark (.v o.vd)]) fun s =>
    let va := s.mvAddr o
    if va.extractLsb' 0 5 ≠ 0#5 then trapNow cMisalign va
    else
      match s.reachAll .load (vecWants 8 s.em va o.w) with
      | .error e => .error e
      | .ok ps => s.load (.v o.vd) (lanesMask s.em o.w) 0 (joinPieces ps)

/-- VST (R224): the data always blocks. -/
def execVst (o : MVOps) (s : State) : Res :=
  s.slot (baseUse o.a o.wa ++ [.srcEm, .srcV o.vd true]) fun s =>
    let va := s.mvAddr o
    if va.extractLsb' 0 5 ≠ 0#5 then trapNow cMisalign va
    else
      match s.reachAll .store (vecWants 32 s.em va o.w) with
      | .error e => .error e
      | .ok ps => s.store (s.readV o.vd) (joinPieces ps)

/-! ### Strided and gathered accesses (R225, R226) -/

/-- The active elements of an access, each aligned and checked, in ascending order; `gather` refuses fabric pages. -/
def State.reachElems (s : State) (k : Acc) (gather : Bool) (z : Nat) (at_ : Nat → Word) : List Nat → Except Stop (List Piece)
  | [] => .ok []
  | i :: is =>
    match s.reachAligned .plain k (at_ i) z with
    | .error e => .error e
    | .ok (.fabric fa) =>
      if gather then trapNow cProt (at_ i)
      else
        match s.reachElems k gather z at_ is with
        | .error e => .error e
        | .ok ps => .ok (⟨.fabric fa, z, 8 * z * i, List.replicate z true⟩ :: ps)
    | .ok d =>
      match s.reachElems k gather z at_ is with
      | .error e => .error e
      | .ok ps => .ok (⟨d, z, 8 * z * i, List.replicate z true⟩ :: ps)

/-- The active elements of `z` bytes of a width. -/
def activeElems (em : BitVec 32) (z : Nat) (w : Width) : List Nat :=
  (List.range (w.bits / (8 * z))).filter fun i => active em (8 * z) i

/-- The bits of the active elements. -/
def elemsMask (em : BitVec 32) (z : Nat) (w : Width) : BitVec 1024 :=
  BitVec.ofNat 1024 (((activeElems em z w).map fun i => (2 ^ (8 * z) - 1) * 2 ^ (8 * z * i)).sum)

/-- VLDS (R225). -/
def execVlds (o : MVSOps) (s : State) : Res :=
  s.slot (baseUse o.a o.wa ++ [.srcS o.b true, .srcEm, .mark (.v o.vd)]) fun s =>
    let z := o.esz.bytes
    match s.reachElems .load false z (fun i => s.base o.a + BitVec.ofNat 64 i * s.readS o.b) (activeElems s.em z o.w) with
    | .error e => .error e
    | .ok ps => s.load (.v o.vd) (elemsMask s.em z o.w) 0 ps

/-- VSTS (R225). -/
def execVsts (o : MVSOps) (s : State) : Res :=
  s.slot (baseUse o.a o.wa ++ [.srcS o.b true, .srcEm, .srcV o.vd true]) fun s =>
    let z := o.esz.bytes
    match s.reachElems .store false z (fun i => s.base o.a + BitVec.ofNat 64 i * s.readS o.b) (activeElems s.em z o.w) with
    | .error e => .error e
    | .ok ps => s.store (s.readV o.vd) ps

/-- The address of element `i` of a gather: its offset is signed (R226). -/
def State.gatherAddr (s : State) (o : MVGOps) (i : Nat) : Word :=
  let z := 8 * o.esz.bytes
  s.base o.a + BitVec.ofInt 64 (toSigned z (elemAt (s.readV o.vb) z i))

/-- VGATH (R226). -/
def execVgath (o : MVGOps) (s : State) : Res :=
  s.slot (baseUse o.a o.wa ++ [.srcV o.vb true, .srcEm, .mark (.v o.vd)]) fun s =>
    let z := o.esz.bytes
    match s.reachElems .load true z (s.gatherAddr o) (activeElems s.em z o.w) with
    | .error e => .error e
    | .ok ps => s.load (.v o.vd) (elemsMask s.em z o.w) 0 ps

/-- VSCAT (R226). -/
def execVscat (o : MVGOps) (s : State) : Res :=
  s.slot (baseUse o.a o.wa ++ [.srcV o.vb true, .srcEm, .srcV o.vd true]) fun s =>
    let z := o.esz.bytes
    match s.reachElems .store true z (s.gatherAddr o) (activeElems s.em z o.w) with
    | .error e => .error e
    | .ok ps => s.store (s.readV o.vd) ps

/-! ### Remote loads and stores (R239, R240) -/

/-- RLD: the address is a fabric address (R239). -/
def execRld (o : MSZ) (s : State) : Res :=
  s.slot (baseUse o.a o.wa ++ [.mark (.s o.d)]) fun s =>
    let fa := s.base o.a
    let z := o.sz.bytes
    if fa.toNat % z ≠ 0 then trapNow cMisalign fa
    else s.load (.s o.d) (lowMask 64) 0 [⟨.fabric fa, z, 0, List.replicate z true⟩]

/-- RST (R239). -/
def execRst (o : MSZ) (s : State) : Res :=
  s.slot (baseUse o.a o.wa ++ [.srcS o.d true]) fun s =>
    let fa := s.base o.a
    let z := o.sz.bytes
    if fa.toNat % z ≠ 0 then trapNow cMisalign fa
    else s.store ((s.readS o.d).setWidth 1024) [⟨.fabric fa, z, 0, List.replicate z true⟩]

/-- The pieces of a vector access by fabric address. -/
def fabricPieces (ws : List Want) : List Piece := joinPieces (ws.map fun w => ⟨.fabric w.va, w.n, w.bit, w.mask⟩)

/-- RLDV (R240). -/
def execRldv (o : MVOps) (s : State) : Res :=
  s.slot (baseUse o.a o.wa ++ [.srcEm, .mark (.v o.vd)]) fun s =>
    let fa := s.mvAddr o
    if fa.extractLsb' 0 5 ≠ 0#5 then trapNow cMisalign fa
    else s.load (.v o.vd) (lanesMask s.em o.w) 0 (fabricPieces (vecWants 8 s.em fa o.w))

/-- RSTV (R240). -/
def execRstv (o : MVOps) (s : State) : Res :=
  s.slot (baseUse o.a o.wa ++ [.srcEm, .srcV o.vd true]) fun s =>
    let fa := s.mvAddr o
    if fa.extractLsb' 0 5 ≠ 0#5 then trapNow cMisalign fa
    else s.store (s.readV o.vd) (fabricPieces (vecWants 8 s.em fa o.w))

/-! ### Loads complete (R221) -/

/-- An operation whose load is performed, or whose held access is to be performed, if nothing it waits for is left. -/
def State.accessComplete (s : State) (t : Task) (op : Op) : State :=
  match op.kind with
  | .load => s.finishOp t.id op
  | .heldRead ps sext => if t.mustWait op then s else s.performLoad t op ps sext
  | .heldWrite ps x ticket => if t.mustWait op then s else (s.performStore t op.id ps x ticket).finishOp t.id op
  | _ => s

end Machine

end Sys2Proof
end

