-- ==== Sys2Proof/Machine/FullEmpty.lean ====
section
/-! DEFINITION. Full/empty words (10 R227, R228; 04 R91): the word operations, the arbiter that grants them, and the
bulk ones. -/

namespace Sys2Proof.Machine

/-! ### The arbiter -/

/-- Whether a scratchpad word is full. -/
def State.full (s : State) (pa : Nat) : Bool := !s.feEmpty.contains pa

/-- A word set full or empty. -/
def State.setFull (s : State) (pa : Nat) (full : Bool) : State :=
  { s with feEmpty := if full then eraseNat pa s.feEmpty else insertNat pa s.feEmpty }

/-- Whether an operation that is not performed yet accesses the scratchpad of a location. -/
def Op.onPad (o : Op) (l : Nat) : Bool :=
  match o.kind with
  | .feRead pa _ | .feWrite pa _ _ | .feGet pa => padLoc pa == some l
  | .feSet runs _ => runs.any fun r => padLoc r.1 == some l
  | .heldRead ps _ | .heldWrite ps _ _ => ps.any fun p => p.dst.pa.bind padLoc == some l
  | .acq d .. | .rel d .. => d.pa.bind padLoc == some l
  | .atomic c => c.dst.pa.bind padLoc == some l
  | _ => false

/-- The word at which a full/empty operation waits; a bulk one waits at its first. -/
def Op.feWord (o : Op) : Option Nat :=
  match o.kind with
  | .feRead pa _ | .feWrite pa _ _ | .feGet pa => some pa
  | .feSet runs _ => runs.head?.map Prod.fst
  | _ => none

/-- Whether every earlier access of its context to the scratchpad is performed, the condition of R227 holds, and in proof mode the
turn of its event has come (19 R333). -/
def State.grantable (s : State) (t : Task) (o : Op) : Bool :=
  (match o.feWord.bind padLoc with
   | some l => !t.heldBy o && !t.ops.any fun x => x.id < o.id && x.onPad l
   | none => false) &&
  (match o.kind with
   | .feRead pa _ => s.full pa && s.myTurn t o.etch (.word o.obj)
   | .feWrite pa _ wait => (!wait || !s.full pa) && s.myTurn t o.etch (.word o.obj)
   | _ => true)

/-- The full/empty operations that wait at a word and can be granted. -/
def State.feReady (s : State) (pa : Nat) : List (Task × Op) :=
  s.tasks.flatMap fun t => (t.ops.filter fun o => o.feWord == some pa && s.grantable t o).map fun o => (t, o)

/-- The words of a run. -/
def runWords (r : Nat × Nat) : List Nat := (List.range r.2).map fun i => r.1 + 4 * i

/-- The event of a full/empty operation in the etch log (19 R326): its divergence, if there is one. -/
def State.feEtch (s : State) (t : Task) (o : Op) (type : Nat) (w : Nat) : State × Option Word :=
  s.etchDone t.id type 8 o.obj (BitVec.ofNat 64 w) (.word o.obj) o.etch

/-- A full/empty operation granted (R227, R228). -/
def State.feGrant (s : State) (t : Task) (o : Op) : State :=
  let fin (s : State) (x : Nat) (bad : Bool) (d : Option Word) : State :=
    s.finishOp t.id { o with
      poison := bad, fail := d.map divFail, outs := o.outs.map fun q => { q with data := BitVec.ofNat 1024 x } }
  match o.kind with
  | .feRead pa take =>
    let w := s.word pa 4
    let (s1, d) := s.feEtch t o (if take then 0x07 else 0x06) w
    fin (if take then s1.setFull pa false else s1) w (s.poisoned pa) d
  | .feWrite pa w wait =>
    let s1 := ((s.padPut pa ((natLe 4 w.toNat).map some)).spoil pa 4 t.id o.id).setFull pa true
    let (s2, d) := s1.feEtch t o (if wait then 0x08 else 0x09) w.toNat
    (fin s2 0 false none).pendDiverge t.id d
  | .feSet runs full =>
    fin ((runs.flatMap runWords).foldl (fun (s : State) pa => s.setFull pa full) s) 0 false none
  | .feGet pa =>
    fin s (packElems 1 ((List.range 32).map fun i => (s.full (pa + 4 * i)).toNat)) false none
  | _ => s

/-- FE_WAIT_GRANT (R227): of the operations that wait at a word, the oldest whose condition holds is granted. -/
def execFeWaitGrant (pa : Nat) (s : State) : Res :=
  .next (match (s.feReady pa).foldl (fun (b : Option (Task × Op)) p => match b with
      | none => some p
      | some q => if p.2.id < q.2.id then some p else some q) none with
    | some (t, o) => s.feGrant t o
    | none => s)

/-! ### Issuing -/

/-- A posted full/empty operation begun last, granted at once if no older one can be. -/
def State.feTry (s : State) (id pa : Nat) : State :=
  if (s.feReady pa).all fun p => id ≤ p.2.id then
    match s.findOp id with
    | some (t, o) => if s.grantable t o then s.feGrant t o else s
    | none => s
  else s

/-- A full/empty word operation of the focused task checked (R219, R220, R227): its place and the object of its event. -/
def State.fePlace (s : State) (o : MSOps) (k : Acc) (type : Nat) (value : Option Word := none) : Except Stop (Nat × Word) :=
  match s.reachAligned .fe k (s.msAddr o 4) 4 with
  | .error e => .error e
  | .ok d =>
    let pa := d.pa.getD 0
    let off := pa - padBase 0
    let obj := s.padObject (off / 0x400000) (off % 0x400000)
    match s.etchReady type 8 obj (.word obj) none value with
    | .error e => .error e
    | .ok _ => .ok (pa, obj)

/-- LDWF and LDTK (R227). -/
def feLoad (take : Bool) (o : MSOps) (s : State) : Res :=
  s.slot (baseUse o.a o.wa ++ [.mark (.s o.d)]) fun s =>
    match s.fePlace o .load (if take then 0x07 else 0x06) with
    | .error e => .error e
    | .ok (pa, obj) =>
      .ok ((s.beginOp (.feRead pa take) (if o.d = 0 then [] else [outS o.d 0]) false).reserveOp.withObj obj)

/-- STWE and STFL (R227): posted. -/
def feStore (wait : Bool) (o : MSOps) (s : State) : Res :=
  s.slot (baseUse o.a o.wa ++ [.srcS o.d true]) fun s =>
    match s.fePlace o .store (if wait then 0x08 else 0x09) (some (((s.readS o.d).setWidth 32).setWidth 64)) with
    | .error e => .error e
    | .ok (pa, obj) =>
      let id := s.nextId
      .ok (((s.beginOp (.feWrite pa ((s.readS o.d).setWidth 32) wait) [] false).reserveOp.withObj obj).feTry id pa)

/-- LDWF (R227). -/
def execLdwf (o : MSOps) (s : State) : Res := feLoad false o s
/-- LDTK (R227). -/
def execLdtk (o : MSOps) (s : State) : Res := feLoad true o s
/-- STWE (R227). -/
def execStwe (o : MSOps) (s : State) : Res := feStore true o s
/-- STFL (R227). -/
def execStfl (o : MSOps) (s : State) : Res := feStore false o s

/-- The runs of words of a FESET through the package aperture, page by page: all in one scratchpad, or PROT at the first
word that is not (R228, log 18). -/
def State.feRuns (s : State) (l : Option Nat) : Nat → Word → Nat → Except Stop (List (Nat × Nat))
  | 0, _, _ => .ok []
  | fuel + 1, va, n =>
    if n = 0 then .ok []
    else
      let m := min n ((0x10000 - va.toNat % 0x10000) / 4)
      match s.reach .fe .store va (4 * m) va with
      | .error e => .error e
      | .ok d =>
        let pa := d.pa.getD 0
        if l.isSome && l != padLoc pa then trapNow cProt va
        else
          match s.feRuns (padLoc pa) fuel (va + BitVec.ofNat 64 (4 * m)) (n - m) with
          | .error e => .error e
          | .ok rs => .ok ((pa, m) :: rs)

/-- The runs of words of a FESET (R228): in the local window all in the task's, else the lowest byte outside fails. -/
def State.fesetRuns (s : State) (va : Word) (n : Nat) : Except Stop (List (Nat × Nat)) :=
  if va.toNat < 0x400000 then
    match s.reachLocal .fe va 4 va with
    | .error e => .error e
    | .ok d =>
      if s.cur.inWindow va (4 * n) then .ok [(d.pa.getD 0, n)]
      else
        let end_ := s.cur.ctl.spl
        match s.reachLocal .fe end_ 4 end_ with
        | .error e => .error e
        | .ok _ => trapNow cSpBound end_
  else s.feRuns none 3 va n

/-- FESET (R228). -/
def feSet (full : Bool) (o : FesetOps) (s : State) : Res :=
  s.slot (baseUse o.a o.wa ++ [.srcS o.b o.wb]) fun s =>
    let va := s.base o.a
    let n := s.readS o.b
    if va.extractLsb' 0 2 ≠ 0#2 then trapNow cMisalign va
    else if n = 0 ∨ 8192 < n.toNat then trapNow cProt n
    else
      match s.fesetRuns va n.toNat with
      | .error e => .error e
      | .ok runs =>
        .ok ((s.beginOp (.feSet runs full) [] false).feTry s.nextId ((runs.head?.map Prod.fst).getD 0))

/-- FESET.EMPTY (R228). -/
def execFesetEmpty (o : FesetOps) (s : State) : Res := feSet false o s
/-- FESET.FULL (R228). -/
def execFesetFull (o : FesetOps) (s : State) : Res := feSet true o s

/-- FEGET (R228). -/
def execFeget (o : MSOps) (s : State) : Res :=
  s.slot (baseUse o.a o.wa ++ [.mark (.s o.d)]) fun s =>
    let va := s.msAddr o 4
    if va.extractLsb' 0 7 ≠ 0#7 then trapNow cMisalign va
    else
      match s.reach .fe .load va 128 va with
      | .error e => .error e
      | .ok d =>
        .ok (s.beginOp (.feGet (d.pa.getD 0)) (if o.d = 0 then [] else [outS o.d 0]) false)

end Sys2Proof.Machine
end

