-- ==== Sys2Proof/Machine/Sync.lean ====
section
/-! DEFINITION. Atomics, acquires and releases, bindings, fences and timelines (10 R229 to R238). -/

namespace Sys2Proof

/-- Whether an order acquires (10 R230). -/
def Ord.acquires : Ord → Bool
  | .acq | .ar => true
  | _ => false

/-- Whether an order releases (10 R230). -/
def Ord.releases : Ord → Bool
  | .rel | .ar => true
  | _ => false

/-- The scope that a 2-bit scope code names (00 R6). -/
def AScope.scope : AScope → Scope
  | .cl => .cl
  | .di => .di
  | .pk => .pk
  | .sy => .sy

namespace Machine

/-! ### What releases share -/

/-- The failed posted stores up to a ticket that nothing has reported, in the order in which they failed (03 R68). -/
def Task.lostStores (t : Task) (upTo : Nat) : List FailedTicket :=
  t.tls[3].failed.filter fun f => f.ticket ≤ upTo && !f.reported

/-- A task in which the failed posted stores up to a ticket count as reported (10 R233). -/
def Task.reportStores (t : Task) (upTo : Nat) : Task :=
  t.updTl 3 fun x => { x with failed := x.failed.map fun f => if f.ticket ≤ upTo then { f with reported := true } else f }

/-- Whether tl.fabric has reached a ticket (03 R65). -/
def Task.stored (t : Task) (upTo : Nat) : Bool := decide (upTo ≤ t.tls[3].count)

/-- The posted stores that a release of the focused task at a scope waits for (03 R65). -/
def State.upTo (s : State) (sc : Scope) : Nat := if sc = .sy then s.cur.tls[3].issued else 0

/-- The trap of a release or a fence at system scope that finds a covered posted store failed (10 R233, R235). -/
def State.storeTrap (s : State) (upTo : Nat) : Option Trap :=
  match s.cur.lostStores upTo with
  | [] => none
  | f :: fs => some { Trap.now f.fail.cause f.fail.eval with
      status := f.fail.status, deferred := true, tickets := (f :: fs).map fun x => (3, x.ticket) }

/-- A covered posted store that failed after its release or fence had committed (10 R233): FABRIC becomes pending on the
task, or a TICKET_LOST record carries the address where the task has ended. -/
def State.storeLost (s : State) (t : Task) (upTo : Nat) : State :=
  match t.lostStores upTo with
  | [] => s
  | f :: _ =>
    let s1 := s.updTask t.id fun t => t.reportStores upTo
    if t.status = .ending then
      s1.record t.ctx (dieOf t.loc) 4 cFabric (t.ctl.taskid.toNat % 2 ^ 32) f.fail.eval (BitVec.ofNat 64 f.ticket)
    else s1.updTask t.id fun t => { t with causes := t.causes ++ [.fabric f.fail] }

/-- The flags of an event at a place (19 R327). -/
def syncFlags (op : Op) (d : Dest) : Nat := placeFlags d + if op.scopex then 2 else 0

/-- The operation begun last, with the object of its event and its side effect dropped or not (10 R231). -/
def State.withSync (s : State) (obj : Word) (scopex : Bool) : State :=
  s.setCur fun t => { t with ops := t.ops.map fun o =>
    if o.id + 1 = s.nextId then { o with obj := obj, scopex := scopex } else o }

/-- An operation with the value that its event observed; in proof mode a divergence fails its destination (19 R333). -/
def Op.observed (op : Op) (x : Nat) (bad : Bool) (div : Option Word) : Op :=
  { op with
    kind := .load, parks := false, poison := bad, fail := div.map divFail
    outs := op.outs.map fun o => { o with data := BitVec.ofNat 1024 x } }

/-- The copy of a line of a place that a context has in its core's L1, written back and dropped (04 R86). -/
def State.dropOwn (s : State) (t : Task) : Dest → State
  | .node pa => s.dropLines fun l => l.is t.loc (pa / 64) && l.ctx == t.ctx
  | _ => s

/-! ### When synchronising operations are performed -/

/-- Whether the turn of an operation's event has come at an object of this module (19 R333). -/
def State.objTurn (s : State) (t : Task) (op : Op) : Dest → Bool
  | .fabric _ => true
  | _ => s.myTurn t op.etch (.word op.obj)

/-- Whether a pending atomic, acquire or release of a task can be performed (10 R221, R230 to R233): a release comes after every
earlier write of its task. -/
def State.canSync (s : State) (t : Task) (op : Op) : Bool :=
  let behind := t.ops.any fun o => o.id < op.id && o.writes
  !t.mustWait op &&
  (match op.kind with
   | .atomic c => (!c.rel || (!behind && (c.sc != .sy || t.stored c.upTo))) && s.objTurn t op c.dst
   | .rel d _ upTo _ sent => !sent && (op.scopex || !behind) && t.stored upTo && s.objTurn t op d
   | .acq d _ sent => !sent && s.objTurn t op d
   | _ => true)

/-- The request that an operation at a fabric address sends: `n` bytes, with the object of its event and the turn that it awaits
at the target (19 R328, R333). -/
def State.syncReq (s : State) (t : Task) (op : Op) (fa : Word) (n : Nat) : OutReq :=
  { OutReq.ofTask s.nextId (fa.toNat / 2 ^ 52) t.id op.id fa 0 n false 0 with obj := op.obj, turn := s.turnOf t op.etch }

/-! ### Acquiring (R232) -/

/-- An ACQ of a task performed where its object holds a value other than zero, or sent where the object is remote; one that
finds zero waits there, and its task parks (06 R125, 10 R232). A poisoned object is acquired with its poison. -/
def State.acqGo (s : State) (t : Task) (op : Op) : State :=
  match op.kind with
  | .acq (.fabric fa) adv _ =>
    (s.updOp t.id { op with kind := .acq (.fabric fa) adv true }).request t.ctx (s.syncReq t op fa 8) (fa.toNat % 2 ^ 52) .acq false
  | .acq d adv _ =>
    let (s2, bs, bad) := match d with
      | .node pa => (s.dropOwn t d).homeRead t.ctx pa 8
      | d => s.readDest t.agent d 8
    if leNat bs = 0 ∧ !bad then s2.updOp t.id { op with parks := true }
    else
      let (s3, div) := s2.etchDone t.id 0x02 (syncFlags op d) op.obj (BitVec.ofNat 64 (leNat bs)) (.word op.obj) op.etch
      let s4 := s3.updOp t.id (op.observed (leNat bs) bad div)
      if adv then s4.advanceGen t.loc else s4
  | _ => s

/-- Whether an operation is an ACQ that waits at an object of this module. -/
def Op.waitsHere (o : Op) : Bool :=
  match o.kind with
  | .acq (.fabric _) .. => false
  | .acq .. => true
  | _ => false

/-- The ACQs that wait at objects of this module tested again, those of its tasks and of requests, in the order in which they
arrived (10 R232). -/
def State.wakeAcqs (s : State) : State :=
  let ids := sortBy (fun a b => decide (a ≤ b)) ((s.tasks.flatMap fun t => (t.ops.filter Op.waitsHere).map Op.id) ++ s.fabric.acqs.map Prod.fst)
  ids.foldl (fun s id =>
    match s.findOp id, s.fabric.acqs.find? fun x => x.1 == id with
    | some (t, op), _ => if s.canSync t op then s.acqGo t op else s
    | none, some x => s.acqAgain x
    | none, none => s) s

/-! ### Atomics (R229 to R231) -/

/-- An atomic at its place (10 R229): the own line is dropped, the value replaced, and an acquire advances the generation
(10 R230). -/
def State.atomicHere (s : State) (t : Task) (op : Op) (c : AtCmd) (pa : Nat) : State :=
  let (s2, old, bad) := (s.dropOwn t c.dst).atomicAt t.agent op.id pa c.op (if c.wide then 8 else 4) c.b c.e
  let (s3, div) := s2.etchDone t.id 0x01 (syncFlags op c.dst) op.obj (BitVec.ofNat 64 old) (.word op.obj) op.etch
  let s4 := s3.updOp t.id (op.observed old bad div)
  (if c.acq then s4.advanceGen t.loc else s4).wakeAcqs

/-- An atomic of a task performed (10 R230, 17 R317): a release writes back first, and one at system scope that covers a
failed posted store is not sent. -/
def State.atomicGo (s : State) (t : Task) (op : Op) (c : AtCmd) : State :=
  match if c.rel && c.sc == .sy then t.lostStores c.upTo else [] with
  | f :: _ =>
    let (s1, div) := s.etchDone t.id 0x01 (1 + syncFlags op c.dst) op.obj (BitVec.ofNat 64 f.fail.status) (syncSeries op.obj c.dst) op.etch
    (s1.updOp t.id { op with kind := .load, fail := some ((div.map divFail).getD { f.fail with link := none }) }).updTask t.id fun t =>
      t.reportStores c.upTo
  | [] =>
    let s1 := if c.rel then s.flushCtx t.loc t.ctx else s
    match c.dst with
    | .fabric fa =>
      (s1.updOp t.id { op with kind := .remote c.acq }).request t.ctx (s1.syncReq t op fa (if c.wide then 8 else 4))
        (fa.toNat % 2 ^ 52) (.atomic c.op c.wide c.b c.e c.ord c.sc) false
    | .pad pa | .ext pa | .node pa | .weights pa | .control pa => s1.atomicHere t op c pa

/-- The operation begun last performed at once, if it can be. -/
def State.syncNow (s : State) (go : State → Task → Op → State) : State :=
  match s.cur.ops.getLast? with
  | some op => if s.canSync s.cur op then go s s.cur op else s
  | none => s

/-- An atomic of the focused task (10 R229 to R231); `op` is given fmt.RND. -/
def atomic (op : BitVec 2 → AtOp) (wide : Bool) (o : ATOps) (s : State) : Res :=
  let cas : Bool := op 0 == .cas
  s.slot (baseUse o.a true ++ [.srcS o.b true] ++ (if cas then [.srcS o.d true] else []) ++ [.mark (.s o.d)] ++
      (if o.ord = .rlx then [] else [.sync])) fun s =>
    let va := s.base o.a
    match s.reachAligned .atomic .atomic va (if wide then 8 else 4) with
    | .error e => .error e
    | .ok d =>
      let cov := s.covers o.sc.scope d
      let far := d.pa.isNone
      let c : AtCmd := ⟨d, op (s.fmt.extractLsb' 0 2), wide, s.readS o.b, s.readS o.d, o.ord, o.sc,
        o.ord.acquires && cov, o.ord.releases && cov, s.upTo o.sc.scope⟩
      let obj := s.objectOf va d
      if far ∧ s.farBefore false ∧ 32 ≤ s.remoteLoads s.cur.loc then .error (.wait false)
      else
        match s.etchReady 0x01 ((if cov || o.ord == .rlx then 0 else 2) + placeFlags d) obj (syncSeries obj d) none with
        | .error e => .error e
        | .ok _ =>
          let s1 := (s.beginOp (.atomic c) (if o.d = 0 then [] else [outS o.d 0]) far).reserveOp.withSync obj
            (!cov && o.ord != .rlx)
          .ok (s1.syncNow fun s t op => s.atomicGo t op c)

/-- ATADD.W (10 R229). -/
def execAtaddW (o : ATOps) (s : State) : Res := atomic (fun _ => .add) false o s
/-- ATADD.D (10 R229). -/
def execAtaddD (o : ATOps) (s : State) : Res := atomic (fun _ => .add) true o s
/-- ATMIN.W (10 R229). -/
def execAtminW (o : ATOps) (s : State) : Res := atomic (fun _ => .min) false o s
/-- ATMIN.D (10 R229). -/
def execAtminD (o : ATOps) (s : State) : Res := atomic (fun _ => .min) true o s
/-- ATMAX.W (10 R229). -/
def execAtmaxW (o : ATOps) (s : State) : Res := atomic (fun _ => .max) false o s
/-- ATMAX.D (10 R229). -/
def execAtmaxD (o : ATOps) (s : State) : Res := atomic (fun _ => .max) true o s
/-- ATMINU.W (10 R229). -/
def execAtminuW (o : ATOps) (s : State) : Res := atomic (fun _ => .minu) false o s
/-- ATMINU.D (10 R229). -/
def execAtminuD (o : ATOps) (s : State) : Res := atomic (fun _ => .minu) true o s
/-- ATMAXU.W (10 R229). -/
def execAtmaxuW (o : ATOps) (s : State) : Res := atomic (fun _ => .maxu) false o s
/-- ATMAXU.D (10 R229). -/
def execAtmaxuD (o : ATOps) (s : State) : Res := atomic (fun _ => .maxu) true o s
/-- ATAND.W (10 R229). -/
def execAtandW (o : ATOps) (s : State) : Res := atomic (fun _ => .and) false o s
/-- ATAND.D (10 R229). -/
def execAtandD (o : ATOps) (s : State) : Res := atomic (fun _ => .and) true o s
/-- ATOR.W (10 R229). -/
def execAtorW (o : ATOps) (s : State) : Res := atomic (fun _ => .or) false o s
/-- ATOR.D (10 R229). -/
def execAtorD (o : ATOps) (s : State) : Res := atomic (fun _ => .or) true o s
/-- ATXOR.W (10 R229). -/
def execAtxorW (o : ATOps) (s : State) : Res := atomic (fun _ => .xor) false o s
/-- ATXOR.D (10 R229). -/
def execAtxorD (o : ATOps) (s : State) : Res := atomic (fun _ => .xor) true o s
/-- ATXCH.W (10 R229). -/
def execAtxchW (o : ATOps) (s : State) : Res := atomic (fun _ => .xch) false o s
/-- ATXCH.D (10 R229). -/
def execAtxchD (o : ATOps) (s : State) : Res := atomic (fun _ => .xch) true o s
/-- ATCAS.W (10 R229). -/
def execAtcasW (o : ATOps) (s : State) : Res := atomic (fun _ => .cas) false o s
/-- ATCAS.D (10 R229). -/
def execAtcasD (o : ATOps) (s : State) : Res := atomic (fun _ => .cas) true o s
/-- ATFADD.W (10 R229). -/
def execAtfaddW (o : ATOps) (s : State) : Res := atomic .fadd false o s
/-- ATFADD.D (10 R229). -/
def execAtfaddD (o : ATOps) (s : State) : Res := atomic .fadd true o s

/-! ### ACQ (R232) -/

/-- ACQ (10 R232). -/
def execAcq (o : SyncOps) (s : State) : Res :=
  s.slot (baseUse o.a o.wa ++ [.mark (.s o.d), .sync]) fun s =>
    let va := s.base o.a
    match s.reachAligned .plain .load va 8 with
    | .error e => .error e
    | .ok d =>
      let cov := s.covers o.sc d
      let far := d.pa.isNone
      let obj := s.objectOf va d
      if far ∧ s.farBefore false ∧ 32 ≤ s.remoteLoads s.cur.loc then .error (.wait false)
      else
        match s.etchReady 0x02 ((if cov then 0 else 2) + placeFlags d) obj (syncSeries obj d) none with
        | .error e => .error e
        | .ok _ =>
          let s1 := (s.beginOp (.acq d (cov && o.sc != .co) false) (if o.d = 0 then [] else [outS o.d 0]) far).reserveOp.withSync
            obj (!cov)
          .ok (s1.syncNow State.acqGo)

/-- ACQ_WAKE (10 R232): an object that an ACQ waits on is tested again, and its task wakes if it is acquired. -/
def execAcqWake (id : Nat) (s : State) : Res :=
  .next (match s.findOp id with
    | some (t, op) =>
      if !op.waitsHere || !s.canSync t op then s
      else
        let s1 := s.acqGo t op
        match s1.findOp id with
        | some (t1, op1) => if op1.kind = .load then s1.finishOp t1.id op1 else s1
        | none => s1
    | none => s)

/-- ACQ_REMOTE_NOT_YET (10 R232): FXTMO has passed for an ACQ of a request that waits at this module, which answers "not yet"; or
an ACQ of a remote object so answered is sent again. -/
def execAcqRemoteNotYet (x : NotYet) (s : State) : Res :=
  .next (match x with
    | .answer src id =>
      match s.fabric.acqs.find? fun w => w.2.src == src && w.2.id == id with
      | some w => (s.updFabric fun f => { f with acqs := f.acqs.erase w }).answerReq w.2 .ok (natLe 8 0) false 0
      | none => s
    | .again id =>
      match s.findOp id with
      | some (t, op) =>
        match op.kind with
        | .acq (.fabric _) .. => if s.canSync t op then s.acqGo t op else s
        | _ => s
      | none => s)

/-! ### REL (R233) -/

/-- A REL of a task performed (10 R233), or given up where a covered posted store has failed. -/
def State.relGo (s : State) (t : Task) (op : Op) : State :=
  match op.kind with
  | .rel d v upTo flush _ =>
    match t.lostStores upTo with
    | f :: _ =>
      let (s1, div) := s.etchDone t.id 0x03 (1 + syncFlags op d) op.obj (BitVec.ofNat 64 f.fail.status) (syncSeries op.obj d) op.etch
      ((s1.storeLost t upTo).finishOp t.id op).pendDiverge t.id div
    | [] =>
      let s1 := if flush then s.flushCtx t.loc t.ctx else s
      let bs := (natLe 8 v.toNat).map some
      match d with
      | .fabric fa =>
        (s1.updOp t.id { op with kind := .rel d v upTo flush true }).request t.ctx (s1.syncReq t op fa 8) (fa.toNat % 2 ^ 52)
          (.rel v) false
      | _ =>
        let s2 := s1.dropOwn t d
        let s3 := match d with
          | .node pa => s2.homeWrite t.agent pa bs
          | d => s2.writeDest t.agent op.id d bs
        let (s4, div) := s3.etchDone t.id 0x03 (syncFlags op d) op.obj v (.word op.obj) op.etch
        ((s4.finishOp t.id op).pendDiverge t.id div).wakeAcqs
  | _ => s

/-- REL (10 R233): its bundle commits, and the write is performed when its conditions hold. -/
def execRel (o : SyncOps) (s : State) : Res :=
  s.slot (baseUse o.a o.wa ++ [.srcS o.d true, .sync]) fun s =>
    let va := s.base o.a
    match s.reachAligned .plain .store va 8 with
    | .error e => .error e
    | .ok d =>
      let cov := s.covers o.sc d
      let obj := s.objectOf va d
      let upTo := if cov then s.upTo o.sc else 0
      match s.storeTrap upTo with
      | some t => .error (.trap t)
      | none =>
        match s.etchReady 0x03 ((if cov then 0 else 2) + placeFlags d) obj (syncSeries obj d) none (some (s.readS o.d)) with
        | .error e => .error e
        | .ok _ =>
          let s1 := (s.beginOp (.rel d (s.readS o.d) upTo (cov && o.sc != .co) false) [] false).reserveOp.withSync obj (!cov)
          .ok (s1.syncNow State.relGo)

/-- REL_PERFORM (10 R230, R233): a release that waited is performed. -/
def execRelPerform (id : Nat) (s : State) : Res :=
  .next (match s.findOp id with
    | some (t, op) =>
      if !s.canSync t op then s
      else
        match op.kind with
        | .rel .. => s.relGo t op
        | .atomic c => s.atomicGo t op c
        | _ => s
    | none => s)

/-! ### Bindings (R234) -/

/-- BIND and UNBIND: the object, then the region base must be aligned (07 R144). -/
def bindOp (o : BindOps) (f : Bind → List Bind → Except Stop (List Bind)) (s : State) : Res :=
  s.slot (baseUse o.a o.wa ++ [.srcS o.d true]) fun s =>
    let obj := s.readS o.d
    let base := s.base o.a
    if obj.extractLsb' 0 3 ≠ 0#3 then trapNow cMisalign obj
    else if base.toNat % 2 ^ o.lg.toNat ≠ 0 then trapNow cMisalign base
    else
      match f ⟨obj, base, o.lg.toNat⟩ s.cur.binds with
      | .error e => .error e
      | .ok bs => .ok (s.setCur fun t => { t with binds := bs })

/-- BIND (10 R234). -/
def execBind (o : BindOps) (s : State) : Res :=
  bindOp o (fun b bs =>
    if bs.contains b then .ok bs else if 16 ≤ bs.length then trapNow cProt 16 else .ok (bs ++ [b])) s

/-- UNBIND (10 R234). -/
def execUnbind (o : BindOps) (s : State) : Res := bindOp o (fun b bs => .ok (bs.erase b)) s

/-! ### FENCE (R235) -/

/-- A FENCE of a task performed (10 R235), once every earlier memory operation of it is; a FENCE .co once those are that access its
core's scratchpad and L1. -/
def State.fenceGo (s : State) (t : Task) (op : Op) : State :=
  match op.kind with
  | .fence upTo co =>
    if !t.stored upTo || t.ops.any (fun o => o.id < op.id && o.unperformed && (!co || o.ofCore t.loc)) then s
    else if co then s.finishOp t.id op
    else (((s.storeLost t upTo).flushCtx t.loc t.ctx).advanceGen t.loc).finishOp t.id op
  | _ => s

/-- FENCE (10 R235): its bundle commits at once. -/
def execFence (o : FenceOps) (s : State) : Res :=
  s.slot (if o.sc = .co then [] else [.sync]) fun s =>
    let upTo := s.upTo o.sc
    match s.storeTrap upTo with
    | some t => .error (.trap t)
    | none => .ok ((s.beginOp (.fence upTo (o.sc == .co)) [] false).lastGo State.fenceGo)

/-- FENCE_PERFORM (10 R235). -/
def execFencePerform (id : Nat) (s : State) : Res :=
  .next (match s.findOp id with
    | some (t, op) => s.fenceGo t op
    | none => s)

/-! ### Timelines (R236 to R238) -/

/-- The timelines as they stood before the bundle. -/
def State.preTl (s : State) (tl : Timeline) : Tl := (s.scr.tls.getD s.cur.tls)[Timeline.ix tl]

/-- TLWAIT (10 R237). -/
def execTlwait (o : TlAOps) (s : State) : Res :=
  s.slot [.srcS o.a true, .write (.s o.d), .sync] fun s =>
    let a := s.readS o.a
    let tl := s.preTl o.tl
    if tl.issued < a.toNat then trapNow cProt a
    else if tl.count < a.toNat then .error (.wait false)
    else
      match tl.unreported a.toNat with
      | some f => .error (.trap { Trap.now f.fail.cause f.fail.eval with
          status := f.fail.status, deferred := true, op := f.op, tickets := [((Timeline.ix o.tl).val, f.ticket)] })
      | none => .ok ((s.advanceGen s.cur.loc).later 1 (outS o.d (BitVec.ofNat 64 tl.count)))

/-- TLREAD (10 R236). -/
def execTlread (o : TlOps) (s : State) : Res :=
  s.slot [.write (.s o.d)] fun s => .ok (s.later 1 (outS o.d (BitVec.ofNat 64 (s.preTl o.tl).count)))

/-- TLBUMP (10 R238): the marker completes as soon as it is drawn. -/
def execTlbump (o : TlOps) (s : State) : Res :=
  s.slot [.write (.s o.d)] fun s =>
    let n := s.cur.nextTicket (Timeline.ix o.tl)
    .ok ((s.setCur fun t => (t.draw (Timeline.ix o.tl)).updTl (Timeline.ix o.tl) fun x => x.complete n none none).later 1
      (outS o.d (BitVec.ofNat 64 n)))

end Machine

end Sys2Proof
end

