-- ==== Sys2Proof/Machine/Cache.lean ====
section
/-! DEFINITION. Prefetch, flush and way conversion (10 R244, R245; 04 R87, R88), TLBs and instruction caches
(20 R344, R345; 23 R365). -/

namespace Sys2Proof.Machine

/-! ### PREF, FLUSH and INVAL (10 R244) -/

/-- The address of the form with 64-byte units (10 R244). -/
def State.lineAddr (s : State) (o : MSA) : Word := s.base o.a + o.off.signExtend 64 * 64

/-- The line that an address reaches, if it is one that an L1 may hold (04 R78); a failed check traps (10 R220). Memory control
space needs no aligned doubleword here: the alignment is not checked. -/
def State.reachLine (s : State) (va : Word) : Except Stop (Option Dest) :=
  let line (d : Dest) : Option Dest := match d with
    | .node pa => some (.node (pa / 64 * 64))
    | .weights pa => some (.weights (pa / 64 * 64))
    | _ => none
  if va.toNat < 0x400000 then (s.reachLocal .plain va 1 va).map fun _ => none
  else
    match s.translate (.core s.cur.loc) s.cur.ctx s.cur.ctl.sv .load va with
    | .error t => .error (.trap t)
    | .ok (.fabric ..) => .ok none
    | .ok (.phys pa) =>
      match s.place pa with
      | .control .. => .ok none
      | _ => (s.reachPhys .plain .load pa 1 0 va).map line

/-- Whether a stop is a failed translation or permission (20 R340). -/
def Stop.dropsHint : Stop → Bool
  | .trap t => t.cause == cXlate || t.cause == cProt
  | .wait _ => true

/-- PREF (10 R244): a hint, dropped where a translation or permission fails or an earlier access must come first (log 15). -/
def execPref (o : MSA) (s : State) : Res :=
  s.slot (baseUse o.a o.wa) fun s =>
    match s.reachLine (s.lineAddr o) with
    | .error e => if e.dropsHint then .ok s else .error e
    | .ok none => .ok s
    | .ok (some d) => if s.blocked d 64 then .ok s else .ok (s.readDest s.me d 64).1

/-- The lines of a core for a physical line and a context. -/
def L1Line.own (l : L1Line) (t : Task) (pa : Nat) : Bool := l.is t.loc (pa / 64) && l.ctx == t.ctx

/-- FLUSH and INVAL performed on the context's copy of a line (10 R244): INVAL loses its dirty bytes. -/
def State.lineCmd (s : State) (t : Task) : Cmd → State
  | .flush pa => s.dropLines fun l => l.own t pa
  | .inval pa => { s with l1 := s.l1.filter fun l => !l.own t pa }
  | _ => s

/-- The line of a FLUSH or INVAL. -/
def Cmd.line : Cmd → Option Nat
  | .flush pa | .inval pa => some pa
  | _ => none

/-- A FLUSH or INVAL that waited performed behind the earlier operations of its context (10 R221). -/
def State.lineGo (s : State) (t : Task) (op : Op) : State :=
  match op.kind with
  | .cmd c =>
    match c.line with
    | some pa => if t.ops.any fun o => o.id < op.id && o.precedes t.loc (.node pa) 64 then s else (s.lineCmd t c).finishOp t.id op
    | none => s
  | _ => s

/-- FLUSH and INVAL: performed at once, or held behind earlier operations of the context. -/
def lineOp (c : Nat → Cmd) (o : MSA) (s : State) : Res :=
  s.slot (baseUse o.a o.wa) fun s =>
    match s.reachLine (s.lineAddr o) with
    | .error e => .error e
    | .ok none => .ok s
    | .ok (some d) =>
      let c := c (d.pa.getD 0)
      .ok (if s.blocked d 64 then s.beginOp (.cmd c) [] false else s.lineCmd s.cur c)

/-- FLUSH (10 R244). -/
def execFlush (o : MSA) (s : State) : Res := lineOp .flush o s

/-- INVAL (10 R244). -/
def execInval (o : MSA) (s : State) : Res := lineOp .inval o s

/-! ### Way conversion (10 R245; 04 R87, R88) -/

/-- Bytes `a` to `b` of a core's scratchpad slot cleared, with their poison. -/
def State.clearPad (s : State) (loc a b : Nat) : State :=
  let lo := padBase loc + a
  let hi := padBase loc + b
  { s with
    mem := s.mem.filter fun c => !(lo ≤ c.1 && c.1 < hi)
    poison := s.poison.filter fun g => !(lo ≤ 32 * g && 32 * g < hi) }

/-- An operation that only brings a status. -/
def State.status (s : State) (d : SReg) (v : Nat) : State := s.beginOp .load [outS d (BitVec.ofNat 64 v)] false

/-- WAYCONV (10 R245, 04 R87): BUSY where another context owns the extension, REFUSED beyond 6 ways; behind a WAYREST of its own
context it takes its ways when that is done. -/
def execWayconv (o : WayOps) (s : State) : Res :=
  s.slot [.mark (.s o.d)] fun s =>
    let c := s.core s.cur.loc
    let n := o.n.toNat
    if 0 < c.extWays + c.converting ∧ c.extOwner ≠ s.cur.ctx then .ok (s.status o.d 2)
    else if 6 < c.extWays + comingWays (s.extOps s.cur.loc s.cur.ctx) + n then .ok (s.status o.d 1)
    else
      .ok ((s.updCore s.cur.loc fun c =>
        if c.restoring then c else { c with converting := c.converting + n, extOwner := s.cur.ctx }).beginOp (.wayconv n) [outS o.d 0] false)

/-- Lines of a set beyond the ways that are left; which of them go is free (log 11). -/
def State.excess (s : State) (loc set : Nat) : List Nat :=
  let ls := (s.l1.filter fun l => l.loc == loc && l.line % 512 == set).map L1Line.line
  let k := Config.freeNat s.free % (ls.length + 1)
  (ls.drop k ++ ls.take k).drop (s.waysOf loc)

/-- WAYCONV_DRAIN_DONE (04 R87): the lines of the converted ways are written back and dropped, and the new range reads
as zero. A conversion that a WAYREST has overtaken only ends: its range is gone (10 R245). -/
def execWayconvDrainDone (id : Nat) (s : State) : Res :=
  .next (match s.findOp id with
    | some (t, op) =>
      let n := op.converts
      let mine := s.extOps t.loc t.ctx
      if n = 0 ∨ mine.any (fun o => o.id < id) then s
      else if mine.any fun o => o.kind == .wayrest then s.finishOp t.id op
      else
        let loc := t.loc
        let gone := (List.range 512).flatMap fun set => s.excess loc set
        let s1 := s.tookFree.dropLines fun l => l.loc == loc && gone.contains l.line
        let w := (s.core loc).extWays
        ((s1.clearPad loc (padSize + 0x8000 * w) (padSize + 0x8000 * (w + n))).updCore loc fun c => { c with
          extWays := c.extWays + n, converting := c.converting - n }).finishOp t.id op
    | none => s)

/-- WAYREST (10 R245, 04 R88): from its commit on the extension is gone. -/
def execWayrest (o : DOnly) (s : State) : Res :=
  s.slot [.mark (.s o.d)] fun s =>
    let c := s.core s.cur.loc
    if c.extWays + c.converting = 0 ∨ c.extOwner ≠ s.cur.ctx then .ok (s.status o.d 0)
    else
      .ok ((s.updCore s.cur.loc fun c => { c with
        extWays := 0, converting := c.converting + c.extWays, restoring := true }).beginOp .wayrest [outS o.d 0] false)

/-- Whether an operation accesses the extension, converts ways of it or gives them back. -/
def Op.onExt (o : Op) : Bool :=
  let ext (d : Dest) : Bool := match d with
    | .ext _ => true
    | _ => false
  o.converts != 0 ||
  (match o.kind with
   | .heldRead ps _ | .heldWrite ps _ _ => ps.any fun p => ext p.dst
   | .acq d .. | .rel d .. => ext d
   | .wayrest => true
   | _ => false)

/-- WAYREST_DONE (04 R88): every outstanding access to the extension is performed; the ways return as invalid lines and
the contents are lost. What a later WAYCONV of the context converts is taken then. -/
def execWayrestDone (id : Nat) (s : State) : Res :=
  .next (match s.findOp id with
    | some (t, op) =>
      let here := s.tasks.filter fun x => x.loc == t.loc && x.ctx == t.ctx
      let later := (s.extOps t.loc t.ctx).filter fun o => id < o.id
      if op.kind ≠ .wayrest ∨ (here.any fun x => x.ops.any fun o => o.id < id && o.onExt) ∨
          (s.hauls.any fun h => h.loc == t.loc && h.ctx == t.ctx && h.id < id) then s
      else
        ((s.clearPad t.loc padSize 0x400000).updCore t.loc fun c => { c with
          converting := (later.map Op.converts).sum
          restoring := later.any fun o => o.kind == .wayrest
          extOwner := if later.isEmpty then 0 else c.extOwner }).finishOp t.id op
    | none => s)

/-! ### TLBs and instruction caches (20 R344, R345) -/

/-- Whether TLBINV of a context drops an entry (20 R345). -/
def TlbWhat.drops (w : TlbWhat) (ctx : Nat) (e : TlbEntry) : Bool :=
  match w with
  | .page va => e.ctx == ctx && e.maps va.toNat
  | .ctx => e.ctx == ctx
  | .all => true

/-- TLBINV performed after every earlier memory operation of its context (20 R345): dirty bytes are written back and the
entries of every core's and cluster's TLB dropped. -/
def State.tlbinvGo (s : State) (t : Task) (op : Op) : State :=
  match op.kind with
  | .tlbinv w none =>
    if t.unperformedBefore op.id then s
    else
      let s1 := s.flushCtx t.loc t.ctx
      { s1.updOp t.id { op with kind := .tlbinv w (some s1.nextId) } with tlb := s1.tlb.filter fun e => !w.drops t.ctx e }
  | _ => s

/-- TLBINV: supervisor only; its PROT reports no address, so the value is free (20 R345, log 12). -/
def tlbinv (what : Word → TlbWhat) (o : TlbOps) (s : State) : Res :=
  s.slot (baseUse o.a o.wa ++ [.mark (.s o.d)]) fun s =>
    if !s.cur.ctl.sv then .error s.protFree
    else .ok ((s.beginOp (.tlbinv (what (s.base o.a)) none) [outS o.d 0] false).lastGo State.tlbinvGo)

/-- TLBINV.PAGE (20 R345). -/
def execTlbinvPage (o : TlbOps) (s : State) : Res := tlbinv .page o s
/-- TLBINV.CTX (20 R345). -/
def execTlbinvCtx (o : TlbOps) (s : State) : Res := tlbinv (fun _ => .ctx) o s
/-- TLBINV.ALL (20 R345). -/
def execTlbinvAll (o : TlbOps) (s : State) : Res := tlbinv (fun _ => .all) o s

/-- Whether a place lies outside a core's own scratchpad, so that its address was translated (log 68). -/
def Dest.outside (d : Dest) (loc : Nat) : Bool :=
  match d with
  | .pad pa | .ext pa => padLoc pa != some loc
  | _ => true

/-- Whether an operation of a task at a core has an access that was translated and is not performed yet. -/
def Op.translated (o : Op) (loc : Nat) : Bool :=
  match o.kind with
  | .heldRead ps _ | .heldWrite ps _ _ => ps.any fun p => p.dst.outside loc
  | .atomic c => c.dst.outside loc
  | .acq d .. | .rel d .. => d.outside loc
  | .feRead q _ | .feWrite q _ _ | .feGet q => padLoc q != some loc
  | .feSet runs _ => runs.any fun r => padLoc r.1 != some loc
  | .cmd c => c.line.isSome
  | .mma c => !c.pages.isEmpty
  | .remote _ => true
  | _ => false

/-- The place of a synchronising operation whose event names it by its virtual address (19 R329). -/
def Op.synced (o : Op) : Bool :=
  match o.kind with
  | .atomic c => !(placeFlags c.dst == 8)
  | .acq d .. | .rel d .. => !(placeFlags d == 8)
  | _ => false

/-- Whether TLBINV of a context may have dropped the entry that an operation of a context was translated with (log 68). -/
def TlbWhat.meets (w : TlbWhat) (mine ctx : Nat) (o : Op) : Bool :=
  match w with
  | .page va => ctx == mine && !(o.synced && o.obj.toNat / 2 ^ 29 != va.toNat / 2 ^ 29)
  | .ctx => ctx == mine
  | .all => true

/-- The context of a request that has not been answered. -/
def State.reqCtx (s : State) (r : OutReq) : Option Nat :=
  match r.haul with
  | some h => (s.hauls.find? fun x => x.id == h).map Haul.ctx
  | none => (s.task r.task).map Task.ctx

/-- Whether an access that was translated before a number with an entry that TLBINV of a context dropped is not performed
yet (20 R345). -/
def State.translatedLeft (s : State) (w : TlbWhat) (ctx n : Nat) : Bool :=
  (s.tasks.any fun t => t.ops.any fun o => o.id < n && o.translated t.loc && w.meets ctx t.ctx o) ||
    s.fabric.out.any fun r => r.id < n && (w == .all || s.reqCtx r == some ctx)

/-- TLBINV_COMPLETE (20 R345): the entries are dropped and every access translated with them is performed. -/
def execTlbinvComplete (id : Nat) (s : State) : Res :=
  .next (match s.findOp id with
    | some (t, op) =>
      match op.kind with
      | .tlbinv _ none => s.tlbinvGo t op
      | .tlbinv w (some n) => if s.translatedLeft w t.ctx n then s else s.finishOp t.id op
      | _ => s
    | none => s)

/-- How many entries a TLB has (20 R344). -/
def Tlb.size : Tlb → Nat
  | .core _ => 64
  | .cluster _ => 2048

/-- An entry put into its TLB: a full one loses an entry, freely chosen (20 R344, log 11). -/
def State.tlbPut (s : State) (e : TlbEntry) : State :=
  let mine := s.tlb.filter fun x => x.tlb == e.tlb
  let s1 := if mine.length < e.tlb.size then s
    else { s with free := s.free + 1, tlb := s.tlb.erase (mine.getD (Config.freeNat s.free % mine.length) e) }
  { s1 with tlb := e :: s1.tlb }

/-- What the entry of a leaf maps (20 R343, R344). -/
def leafSpan (e : Word) (block : Bool) : Span := if block then .block else if e.getLsbD 5 then .run else .page

/-- PAGE_WALK (20 R342, R344): a miss of the focused task's core looks in its cluster's TLB, and then walks; a faulting walk is
not cached. -/
def execPageWalk (va : Word) (s : State) : Res :=
  let loc := s.cur.loc
  .next (if va.extractLsb' 48 16 ≠ 0#16 then s
    else
      match s.ctxOf s.cur.ctx with
      | none => s
      | some c =>
        if (s.tlbHit c.id va.toNat [.core loc]).isSome then s
        else match s.tlbHit c.id va.toNat [.cluster (sliceOf loc)] with
          | some e => s.tlbPut { e with tlb := .core loc }
          | none =>
            match s.walk c.ptroot va.toNat with
            | .leaf e block =>
              let x : TlbEntry := ⟨.cluster (sliceOf loc), c.id, va.toNat / 2 ^ 16, e, leafSpan e block⟩
              (s.tlbPut x).tlbPut { x with tlb := .core loc }
            | .fail .. | .hole .. => s)

/-- ICACHE_FILL (23 R365): the block of an address is fetched and authenticated for the focused task's core. -/
def execIcacheFill (va : Word) (s : State) : Res :=
  .next (if (s.cachedBlock s.cur.loc s.cur.ctx va.toNat).isSome then s
    else
      match s.fillBlock s.cur.loc s.cur.ctx s.cur.ctl.sv va with
      | .ok t => t
      | .error e => e.1)

end Sys2Proof.Machine
end

