-- ==== Sys2Proof/Machine/MemCtl.lean ====
section
/-! DEFINITION. The memory controllers and the L2 (01 R16, R20 to R30; 04 R79, R82, R83, R94): reads with errors, scrub
passes, key rotation, channel retirement, link retraining, pool ranges, evictions. -/

namespace Sys2Proof.Machine

/-! ### What memory stores (01 R9, R17 to R19) -/

/-- The key draw that a sector is stored under. -/
def Sector.draw (m : Sector) : Nat := m.key - 1

/-- The sector of an address as memory stores it: encrypted, the address of the sector being the tweak (01 R17). -/
def State.cipher (s : State) (pa : Nat) : BitVec 512 :=
  Config.xts (s.sector pa).draw (pa / 64 * 64) (lineOf (s.bytes (pa / 64 * 64) 64))

/-- The metadata word of the sector of an address: ECC, TAG and SLOT (01 R18). -/
def State.metaWord (s : State) (pa : Nat) : Word :=
  let m := s.sector pa
  let hi : BitVec 40 := BitVec.ofNat 8 m.slot ++ Config.gmac m.draw (s.cipher pa) (pa / 64 * 64) m.slot
  hi ++ Config.ecc (s.cipher pa) hi

/-- The 256-byte line of an address as memory stores it. -/
def State.storedLine (s : State) (pa : Nat) : BitVec 2048 :=
  let line := pa / 256 * 256
  s.cipher (line + 192) ++ s.cipher (line + 128) ++ s.cipher (line + 64) ++ s.cipher line

/-- Data line `j` of the stripe of a line, as memory stores it (01 R10). -/
def State.stripeData (s : State) (x : StripeLine) (j : Nat) : BitVec 2048 := s.storedLine (StripeLine.addr { x with ix := j })

/-- The XOR of some data lines of a stripe. -/
def State.xorLines (s : State) (x : StripeLine) (js : List Nat) : BitVec 2048 :=
  js.foldr (fun j acc => s.stripeData x j ^^^ acc) 0

/-- The parity line of a stripe (01 R9): the XOR of its 14 data lines. -/
def State.parityLine (s : State) (x : StripeLine) : BitVec 2048 := s.xorLines x (List.range 14)

/-- A data line rebuilt from its stripe (01 R20): the XOR of the parity line and the 13 other data lines. -/
def State.rebuiltLine (s : State) (x : StripeLine) : BitVec 2048 :=
  s.parityLine x ^^^ s.xorLines x ((List.range 14).filter fun j => j != x.ix)

/-- The session key of the link of a stack (01 R19). -/
def State.sessionKey (s : State) (die stack : Nat) : BitVec 256 :=
  Config.linkKey (4 * die + stack) (Tbl.get 0 s.linkKey (4 * die + stack))

/-! ### Errors (01 R20, R23) -/

/-- The address of a sector in a record. -/
def sectorWord (pa : Nat) : Word := BitVec.ofNat 64 (pa / 64 * 64)

/-- A corrected error at an address on a channel logged and counted (01 R20). -/
def State.corrected (s : State) (site : Nat × Nat × Nat) (slot pa : Nat) (sym : BitVec 8) : State :=
  (s.countError site.1 site.2.1 site.2.2 16).errLog site.1 1 site.2.1 site.2.2 slot sym.toNat (sectorWord pa)

/-- Whether the stripe of an address has a parity line (01 R20, R26). -/
def State.hasParity (s : State) (pa : Nat) : Bool :=
  match s.place pa with
  | .node n => n < 6 && (let x := stripeLine n pa
                         (s.outOfUse n x.stack x.half x.stripe).length < 2)
  | _ => false

/-- A check of a sector in memory with what its ECC finds (01 R20): a correctable error is corrected, logged and counted, and
the check goes on; a poisoned sector ends it; one that fails its tag, or cannot be corrected, is rebuilt from its stripe, which
succeeds where `rebuilt` says that the other lines are good and its key is still there and raises no count (log 96), or it is lost. -/
def State.eccCheck (s : State) (pa : Nat) (found : EccFound) (rebuilt : Bool) : State :=
  let site := s.memSite pa
  let slot := (s.sector pa).slot
  let s1 := match found with
    | .corrected sym => s.corrected site slot pa sym
    | _ => s
  let repaired := s1.hasParity pa && rebuilt
  let fails (type : Nat) : State :=
    if repaired then s1.errLog site.1 4 site.2.1 site.2.2 slot 0 (sectorWord pa) else s1.sectorLost pa type
  if s.t2Out pa then s
  else if slot = 255 then s1
  else if s.stale pa then s1.sectorLost pa 3
  else match found with
    | .clean | .corrected _ => s1
    | .tag => fails 3
    | .uncorrectable => fails 2

/-- An uncorrectable error of a weight store (04 R94): the 32 bytes are poisoned and UECNT rises; their reader is charged. -/
def State.weightLost (s : State) (k pa : Nat) : State :=
  let v := s.mcrGet (wsctl k)
  let s1 := s.padPoison pa
  if Word.get v 32 16 = 65535 then s1 else s1.mcrPut (wsctl k) (v + BitVec.ofNat 64 (2 ^ 32))

/-- The context that owns bytes of a core's scratchpad slot: that of the task whose window holds them, or of the converted ways. -/
def State.padOwner (s : State) (loc off : Nat) : Option Nat :=
  if off < padSize then (s.padTask loc off).map Task.ctx
  else if 0 < (s.core loc).extWays then some (s.core loc).extOwner
  else none

/-- An uncorrectable error of a scratchpad (20 R352): its granule is poisoned and charged to the owning task's context; one that no
context owns resets the module (24 R375). -/
def State.padLost (s : State) (pa : Nat) : State :=
  let off := (pa - padBase 0) % 0x400000
  match (padLoc pa).bind fun l => s.padOwner l off with
  | some c => ((s.padPoison pa).markCharged pa).note pa (some c) 0 0
  | none => s.moduleReset

/-- MEMORY_READ (01 R20, R21; 04 R94; 20 R352): a sector that no slice holds, a granule of a weight store or one of a scratchpad is
read. -/
def execMemoryRead (pa : Nat) (found : EccFound) (rebuilt : Bool) (s : State) : Res :=
  .next (match s.place pa with
    | .node _ => if (s.l2Sector pa).valid then s else s.eccCheck pa found rebuilt
    | .weights k _ => if found = .uncorrectable ∧ s.poisoned pa = false then s.weightLost k pa else s
    | .pad .. => if found = .uncorrectable ∧ s.poisoned pa = false then s.padLost pa else s
    | _ => s)

/-! ### Scrubbing and rotation (01 R23, R24) -/

/-- The corrected errors that a pass finds on a channel. -/
def correctedOn (hits : List ScrubHit) (chan : Nat) : Nat :=
  (hits.filter fun h => h.channel == chan && (match h.found with
    | .corrected _ => true
    | _ => false)).length

/-- A channel over the threshold becomes SUSPECT, and is retired where AUTORET says so (01 R23). -/
def State.suspect (s : State) (die stack chan n : Nat) : State :=
  let v := s.mcrGet (ctlBase die + stack * 0x10000 + 0x200)
  if n ≤ Word.get v 8 8 ∨ 2 ≤ s.chanState die stack chan then s
  else
    let s1 := s.putChan die stack chan 1
    if v.getLsbD 16 && (s1.retireRefused die stack chan).isNone then s1.retire die stack chan else s1

/-- A line without data that a pass finds in error (01 R23, log 101): the parity or the reserve line of the stripe of an address. No
data is lost, and nobody is charged. -/
def State.spareCheck (s : State) (site : Nat × Nat × Nat) (pa : Nat) : EccFound → State
  | .clean => s
  | .corrected sym => s.corrected site 0xFF pa sym
  | .tag | .uncorrectable => s.errLog site.1 4 site.2.1 site.2.2 0xFF 0 (sectorWord pa)

/-- Whether a channel holds the parity or the reserve line of the stripe of an address of tier T0 (01 R10, R26). -/
def State.spareChannel (s : State) (pa chan : Nat) : Bool :=
  match s.place pa with
  | .node n =>
    let x := stripeLine n pa
    let out := s.outOfUse n x.stack x.half x.stripe
    n < 6 && chan / 16 == x.half &&
      !((List.range 14).map fun j => lineChannel x.stripe ((x.stripe + 2 + j) % 16) out).contains (chan % 16)
  | _ => false

/-- Whether an error that a pass over a controller finds is on a channel in service, at a line that this channel holds. -/
def State.scrubs (s : State) (die stack : Nat) (h : ScrubHit) : Bool :=
  let site := s.memSite h.pa
  site.1 == die && site.2.1 == stack && (s.place h.pa).isNode && s.chanState die stack h.channel != 3 &&
    (site.2.2 == h.channel || s.spareChannel h.pa h.channel)

/-- An error that a pass over a controller finds. -/
def State.scrubFound (s : State) (die stack : Nat) (h : ScrubHit) : State :=
  if !s.scrubs die stack h then s
  else if (s.memSite h.pa).2.2 = h.channel then s.eccCheck h.pa h.found h.rebuilt
  else s.spareCheck (die, stack, h.channel) h.pa h.found

/-- The sectors at a controller that are written and meet a condition, by address. -/
def State.sectorsAt (s : State) (die stack : Nat) (p : Nat → Sector → Bool) : List Nat :=
  (s.sectors.filter fun e => p (64 * e.1) e.2 && (s.memSite (64 * e.1)).1 == die && (s.memSite (64 * e.1)).2.1 == stack).map fun e =>
    64 * e.1

/-- A sector re-encrypted under another slot (01 R24): one whose old key is gone fails its tag and is poisoned. -/
def State.rekeySector (s : State) (pa new : Nat) : State :=
  if s.stale pa then s.sectorLost pa 3 else s.putSector pa ⟨new, (s.key new).key + 1⟩

/-- The stripes of a half-stack (01 R9). -/
def stripes : Nat := 8388608

/-- The stripe of an address that a rotation counts by (01 R10, R14, R24): tier T1, which has none, is counted in 32 rows (log 101). -/
def State.stripeOf (s : State) (pa : Nat) : Nat :=
  match s.place pa with
  | .node n => if n < 6 then (stripeLine n pa).stripe else (pa - 0x010000000000) / 256 / 24 / 32
  | _ => 0

/-- The rotation that a pass carries out, if one is running (01 R24), as far as the stripe `upTo`: HMROTF is the frontier, and the
last stripe ends it. -/
def State.rotate (s : State) (die stack upTo : Nat) : State :=
  let v := s.mcrGet (hmrot die stack)
  let from_ := (s.mcrGet (hmrot die stack + 8)).toNat
  if !v.getLsbD 17 then s
  else
    let old := Word.get v 0 8
    let s1 := (s.sectorsAt die stack fun pa m => m.slot == old && from_ ≤ s.stripeOf pa && s.stripeOf pa < upTo).foldl
      (fun s pa => s.rekeySector pa (Word.get v 8 8)) s
    if upTo < stripes then s1.mcrPut (hmrot die stack + 8) (BitVec.ofNat 64 (max from_ upTo))
    else ((s1.mcrPut (hmrot die stack) ((v &&& ~~~(bitsAt 17 1)) ||| bitsAt 18 1)).mcrPut (hmrot die stack + 8) 0).errLog die 9
      stack 0xFF old 0 0

/-- A pass over every row of a stack or an LPDDR controller, at its end (01 R23). -/
def State.scrubEnd (s : State) (die stack : Nat) (hits : List ScrubHit) : State :=
  let reg := ctlBase die + stack * 0x10000 + 0x200
  let mine := hits.filter (s.scrubs die stack)
  let s1 := hits.foldl (fun s h => s.scrubFound die stack h) s
  let s2 := (s1.sectorsAt die stack fun pa _ => s1.stale pa).foldl (fun s pa => s.sectorLost pa 3) s1
  let s3 := ((List.range 32).foldl (fun s c => s.suspect die stack c (correctedOn mine c)) s2).rotate die stack stripes
  let v := s3.mcrGet reg
  (s3.mcrPut reg (under (bitsAt 48 16) (BitVec.ofNat 64 ((Word.get v 48 16 + 1) % 65536 * 2 ^ 48)) v)).errLog die 6 stack 0xFF 0 0 0

/-- SCRUB_PASS (01 R23, R24, log 101): a pass of a stack or an LPDDR controller comes to a stripe. Short of the last, its
rotation has come so far; after the last the pass ends, with the errors that it has found, the sectors whose key is gone among
them. An interval of 0 stops the scrubber. -/
def execScrubPass (die stack : Nat) (x : ScrubSpan) (s : State) : Res :=
  .next (if 6 ≤ die ∨ hasBlock die stack = false ∨ Word.get (s.mcrGet (ctlBase die + stack * 0x10000 + 0x200)) 0 8 = 0 then s
    else if x.upTo < stripes then s.rotate die stack x.upTo
    else s.scrubEnd die stack x.hits)

/-! ### Retirement and links (01 R19, R26 to R28) -/

/-- The last stripe rebuilt (01 R26): the half-stack changes mode; the second retirement asks for service. -/
def State.retireDone (s : State) (r : Retire) : State :=
  let half := r.chan / 16
  let mode := s.halfMode r.die r.stack half + 1
  let st := s.mcrGet (hmstat r.die r.stack)
  let st1 := under (bitsAt (2 * half) 2) (BitVec.ofNat 64 (mode * 2 ^ (2 * half))) st ||| (if mode = 2 then bitsAt 4 1 else 0)
  let v := s.mcrGet (hmret r.die r.stack)
  { ((s.putChan r.die r.stack r.chan 3).mcrPut (hmstat r.die r.stack) st1).mcrPut (hmret r.die r.stack)
      ((v &&& ~~~(bitsAt 6 1)) ||| bitsAt 7 1) with
    retiring := s.retiring.filter fun x => x != r, retired := s.retired ++ [r] }.errLog r.die 8 r.stack r.chan 0 0 0

/-- RETIRE_STRIPE_REBUILD (01 R26, R27): the stripe at the frontier is rebuilt. -/
def execRetireStripeRebuild (die stack : Nat) (s : State) : Res :=
  .next (match s.retiring.find? fun r => r.die == die && r.stack == stack with
    | none => s
    | some r =>
      let f := (s.mcrGet (hmret die stack + 8)).toNat
      if f + 1 < stripes then s.mcrPut (hmret die stack + 8) (BitVec.ofNat 64 (f + 1)) else s.retireDone r)

/-- HBM_LINK_RETRAIN (01 R19): the link of a stack trains again under a new session key; RETRAIN wraps (log 96). -/
def execHbmLinkRetrain (die stack : Nat) (s : State) : Res :=
  .next (if 6 ≤ die ∨ hasBlock die stack = false ∨ stack = 4 then s
    else
      let v := s.mcrGet (hmstat die stack)
      let link := 4 * die + stack
      let s1 : State := { s with linkKey := Tbl.put 0 s.linkKey link (Tbl.get 0 s.linkKey link + 1) }
      (s1.mcrPut (hmstat die stack)
        (under (bitsAt 6 16) (BitVec.ofNat 64 ((Word.get v 6 16 + 1) % 65536 * 2 ^ 6)) v)).errLog die 5 stack 0xFF 0 0 0)

/-! ### Tier T2 (01 R16) -/

/-- T2_RANGE_ASSIGNED (01 R16): a range placed at a 1 GiB-aligned base of the window, clear of the others; it
replaces a withdrawn one (log 101). -/
def execT2RangeAssigned (base size : Nat) (s : State) : Res :=
  let live := s.t2.filter fun r => !r.withdrawn
  let ok := base % 2 ^ 30 == 0 && 0x040000000000 ≤ base && 0 < size && base + size ≤ 0x080000000000 && live.length < 16 &&
    !live.any fun r => meet r.base r.size base size
  .next (if ok then { s with t2 := (s.t2.filter fun r => !meet r.base r.size base size) ++ [⟨base, size, false⟩] } else s)

/-- A record of a lost range. -/
def State.rangeLost (s : State) (base : Nat) : State := s.errLog 1 10 5 0 0 0 (BitVec.ofNat 64 base)

/-- T2_RANGE_WITHDRAWN (01 R16): the fabric manager withdraws a range. -/
def execT2RangeWithdrawn (base : Nat) (s : State) : Res :=
  let gone : List T2Range := s.t2.map fun (r : T2Range) => if r.base = base then { r with withdrawn := true } else r
  let s1 : State := { s with t2 := gone }
  .next (if s.t2.any fun r => r.base == base && !r.withdrawn then s1.rangeLost base else s)

/-- POOL_LINK_FAIL (01 R16): every placed range is out of reach. -/
def execPoolLinkFail (s : State) : Res :=
  .next (if s.board.poolUp then
      (s.t2.filter fun r => !r.withdrawn).foldl (fun s r => s.rangeLost r.base)
        { s with board := { s.board with poolUp := false } }
    else s)

/-! ### Evictions (04 R82, R83) -/

/-- L2_EVICTION (04 R82, R83): a line leaves its home slice; `bad` are the numbers of the dirty sectors with an uncorrectable
error. -/
def execL2Eviction (pa : Nat) (bad : List Nat) (s : State) : Res :=
  .next (if (s.place pa).isNode then s.evictLine (pa / 256) bad else s)

end Sys2Proof.Machine
end

