-- ==== Sys2Proof/Machine/Sha.lean ====
section
/-! DEFINITION. SHA-256, which the specification names (23 R364 to R369) and FIPS 180-4 defines (log 26). -/

namespace Sys2Proof.Machine.Sha

/-- The round constants. -/
def roundConstants : List (BitVec 32) :=
  [0x428A2F98, 0x71374491, 0xB5C0FBCF, 0xE9B5DBA5, 0x3956C25B, 0x59F111F1, 0x923F82A4, 0xAB1C5ED5,
    0xD807AA98, 0x12835B01, 0x243185BE, 0x550C7DC3, 0x72BE5D74, 0x80DEB1FE, 0x9BDC06A7, 0xC19BF174,
    0xE49B69C1, 0xEFBE4786, 0x0FC19DC6, 0x240CA1CC, 0x2DE92C6F, 0x4A7484AA, 0x5CB0A9DC, 0x76F988DA,
    0x983E5152, 0xA831C66D, 0xB00327C8, 0xBF597FC7, 0xC6E00BF3, 0xD5A79147, 0x06CA6351, 0x14292967] ++
  [0x27B70A85, 0x2E1B2138, 0x4D2C6DFC, 0x53380D13, 0x650A7354, 0x766A0ABB, 0x81C2C92E, 0x92722C85,
    0xA2BFE8A1, 0xA81A664B, 0xC24B8B70, 0xC76C51A3, 0xD192E819, 0xD6990624, 0xF40E3585, 0x106AA070,
    0x19A4C116, 0x1E376C08, 0x2748774C, 0x34B0BCB5, 0x391C0CB3, 0x4ED8AA4A, 0x5B9CCA4F, 0x682E6FF3,
    0x748F82EE, 0x78A5636F, 0x84C87814, 0x8CC70208, 0x90BEFFFA, 0xA4506CEB, 0xBEF9A3F7, 0xC67178F2]

/-- The eight working words. -/
structure Hash where
  (a b c d e f g h : BitVec 32)
  deriving DecidableEq, Repr

/-- The initial hash value. -/
def Hash.init : Hash :=
  ⟨0x6A09E667, 0xBB67AE85, 0x3C6EF372, 0xA54FF53A, 0x510E527F, 0x9B05688C, 0x1F83D9AB, 0x5BE0CD19⟩

/-- Rotation to the right. -/
def rotr (x : BitVec 32) (n : Nat) : BitVec 32 := x.rotateRight n

/-- The next word of the message schedule, from the sixteen before it, oldest first. -/
def schedule (w : List (BitVec 32)) : BitVec 32 :=
  let g (i : Nat) : BitVec 32 := w.getD i 0
  let s0 := rotr (g 1) 7 ^^^ rotr (g 1) 18 ^^^ g 1 >>> 3
  let s1 := rotr (g 14) 17 ^^^ rotr (g 14) 19 ^^^ g 14 >>> 10
  s1 + g 9 + s0 + g 0

/-- One round. -/
def round (x : Hash) (k w : BitVec 32) : Hash :=
  let t1 := x.h + (rotr x.e 6 ^^^ rotr x.e 11 ^^^ rotr x.e 25) + ((x.e &&& x.f) ^^^ (~~~x.e &&& x.g)) + k + w
  let t2 := (rotr x.a 2 ^^^ rotr x.a 13 ^^^ rotr x.a 22) + ((x.a &&& x.b) ^^^ (x.a &&& x.c) ^^^ (x.b &&& x.c))
  ⟨t1 + t2, x.a, x.b, x.c, x.d + t1, x.e, x.f, x.g⟩

/-- The rounds of one block: the constants still to come, and the sixteen latest schedule words. -/
def rounds : List (BitVec 32) → List (BitVec 32) → Hash → Hash
  | [], _, x => x
  | k :: ks, w, x => rounds ks (w.drop 1 ++ [schedule w]) (round x k (w.headD 0))

/-- The big-endian words of some bytes. -/
def words : Nat → List Byte → List (BitVec 32)
  | 0, _ => []
  | n + 1, bs =>
    let g (i : Nat) : BitVec 32 := (bs.getD i 0).setWidth 32
    (g 0 <<< 24 ||| g 1 <<< 16 ||| g 2 <<< 8 ||| g 3) :: words n (bs.drop 4)

/-- The hash after one 64-byte block. -/
def block (x : Hash) (bs : List Byte) : Hash :=
  let y := rounds roundConstants (words 16 bs) x
  ⟨x.a + y.a, x.b + y.b, x.c + y.c, x.d + y.d, x.e + y.e, x.f + y.f, x.g + y.g, x.h + y.h⟩

/-- The hash after `n` blocks. -/
def blocks : Nat → List Byte → Hash → Hash
  | 0, _, x => x
  | n + 1, bs, x => blocks n (bs.drop 64) (block x (bs.take 64))

/-- A number as `n` big-endian bytes. -/
def beBytes (n x : Nat) : List Byte := (natLe n x).reverse

/-- The message followed by its padding and its length. -/
def pad (bs : List Byte) : List Byte :=
  bs ++ 0x80 :: List.replicate ((119 - bs.length % 64) % 64) 0 ++ beBytes 8 (8 * bs.length)

/-- SHA-256 of some bytes. -/
def sha256 (bs : List Byte) : List Byte :=
  let m := pad bs
  let x := blocks (m.length / 64) m Hash.init
  [x.a, x.b, x.c, x.d, x.e, x.f, x.g, x.h].flatMap fun w => beBytes 4 w.toNat

end Sys2Proof.Machine.Sha
end

