-- ==== Sys2Proof/Machine/Security.lean ====
section
/-! DEFINITION. The security controller: its queue and its commands (23 R358 to R367), and the tear-down of a context. -/

namespace Sys2Proof.Machine

/-! ### Command blocks (R358, R359) -/

/-- Status codes of a command. -/
abbrev scOk : Nat := 1
abbrev scBadArgs : Nat := 2
abbrev scBadSig : Nat := 3
abbrev scRollback : Nat := 4
abbrev scBusy : Nat := 5
abbrev scNoSlot : Nat := 6
abbrev scDenied : Nat := 7

/-- Whether `n` bytes from a physical address lie in nodes 0 to 6. -/
def State.inTables (s : State) (pa n : Nat) : Bool :=
  let ok (a : Nat) : Bool := match s.place a with
    | .node k => k < 7
    | _ => false
  ok pa && ok (pa + n - 1)

/-- The bytes of a command; none of a block that the controller cannot read (log 28). -/
def State.scBytes (s : State) : ScEntry → List Byte
  | .block pa => if s.inTables pa 64 then (s.outsideBytes pa 64).getD [] else []
  | .port bs => bs

/-- A block read at its home (01 R20). -/
def State.scTouch (s : State) : ScEntry → State
  | .block pa => if s.inTables pa 64 then s.outsideTouch pa 64 else s
  | .port _ => s

/-- Whether a command block names a command and its zero fields are zero. -/
def scFormed (b : List Byte) : Bool := 1 ≤ field b 0 2 && field b 0 2 ≤ 12 && field b 3 1 == 0 && field b 40 24 == 0

/-- A command that ends: its number and RESULT are written, then STATUS; a command of the management port is answered
there. -/
def State.scEnd (s : State) (e : ScEntry) (st : Nat) (result : Word) : State :=
  let n := (s.sec.seq + 1) % 2 ^ 32
  let s1 : State := { s with sec := { s.sec with queue := s.sec.queue.drop 1, seq := n } }
  match e with
  | .block pa =>
    if s1.inTables pa 64 then
      let s2 := s1.outsideWrite (pa + 4) ((natLe 4 n).map some)
      let s3 := s2.outsideWrite (pa + 32) ((natLe 8 result.toNat).map some)
      s3.outsideWrite (pa + 2) ((natLe 1 st).map some)
    else s1
  | .port _ => { s1 with board := { s1.board with sent := s1.board.sent ++ [.scDone st result] } }

/-- What a command answers: the machine and its RESULT, or the status of a refusal. -/
abbrev ScRes := Except Nat (State × Word)

/-- Argument `i` of a block. -/
def scArg (b : List Byte) (i : Nat) : Nat := field b (8 + 8 * i) 8

/-- The command at the head of the queue performed, if it is `op`; a malformed block is answered with BAD_ARGS. `reads` is what the
command reads, at its home (01 R20). RESULT of a refused command is a free value. -/
def State.scCommand (s : State) (op : Nat) (f : State → List Byte → ScRes) (reads : State → List Byte → State := fun s _ => s) : Res :=
  match s.sec.queue with
  | [] => .next s
  | e :: _ =>
    let s := s.scTouch e
    let b := s.scBytes e
    if !scFormed b then .next (s.tookFree.scEnd e scBadArgs (s.freeVal 64))
    else if field b 0 2 ≠ op then .next s
    else
      let s := reads s b
      match f s b with
      | .ok r => .next (r.1.scEnd e scOk r.2)
      | .error st => .next (s.tookFree.scEnd e st (s.freeVal 64))

/-- The security controller changed. -/
def State.updSec (s : State) (f : Sec → Sec) : State := { s with sec := f s.sec }

/-! ### Creation of a context (R362, 20 R347) -/

/-- The limits of a descriptor's own fields. -/
def State.descOk (s : State) (d : List Byte) : Bool :=
  let f := field d
  1 ≤ f 0 2 && f 0 2 ≤ 255 && f 4 1 ≤ 254 && f 5 1 < 32 && f 5 1 / 8 % 4 < 3 && f 6 2 == 0 &&
    (f 8 8 % 512 == 0 && s.inTables (f 8 8) 512) && s.inTables (f 16 8) 512 &&
    ((List.range 16).all fun i => f (24 + i) 1 < 64) && s.inTables (f 40 8) (max 1 (32 * f 48 1)) && f 48 1 ≤ 64 &&
    f 49 7 == 0 && f 64 8 % 64 == 0 && 1 ≤ f 72 4 && f 76 4 == 0 && s.inTables (f 80 8) 1024 && f 88 8 % 64 == 0 &&
    f 96 1 ≤ 15 && f 97 7 == 0 && (f 104 8 % 65536 == 0 && s.inTables (f 104 8) 1) && 1 ≤ f 112 4 &&
    (f 116 4 % 65536 == 0 && 0x350000 ≤ f 116 4) && f 132 4 == 0 && s.inTables (f 136 8) 4096 &&
    (f 144 8 == 0 || f 144 8 % 64 == 0 && s.inTables (f 144 8) 128) && f 152 104 == 0

/-- The limits of an export table (03 R61): the fields that it marks zero are among them (log 102). -/
def exportsOk (es : List (ExportEntry × Nat)) : Bool :=
  let used := es.filter fun e => e.1.len != 0
  (used.all fun e => e.1.wbase % 65536 == 0 && e.1.len % 65536 == 0 && e.1.vbase % 65536 == 0 && e.1.perm < 16 && e.2 == 0) &&
    decide (used.Pairwise fun a b => ¬(meet a.1.wbase a.1.len b.1.wbase b.1.len = true))

/-- An entry of a queue map keeps its limits (20 R347). -/
def queueMapOk (e : List Byte) : Bool :=
  field e 0 2 / 2 ^ 11 % 16 == 0 && field e 2 2 == 0 &&
    (field e 0 2 < 2 ^ 15 || field e 0 2 / 256 % 8 < 6 && field e 8 8 % 64 == 0)

/-- A multicast group entry keeps its limits (03 R70). -/
def groupOk (w : Word) : Bool :=
  !w.getLsbD 24 ||
    w.toNat / 2 ^ 25 == 0 && (List.range 3).all fun i => Word.get w (8 * i) 4 ≤ Word.get w (8 * i + 4) 4

/-- A belay buffer at the creation of its context (18 R319): every sending die holds its permit. -/
def BelayBuf.fresh (sdies : BitVec 6) : BelayBuf := ⟨sdies, false, Vector.replicate 6 0, Vector.replicate 6 0, [], 0, 0⟩

/-- The channel that an entry of a belay table describes (18 R318). -/
def channelOf (n : Nat) (e : List Byte) : Channel where
  n := n
  ping := fieldW e 0
  pong := fieldW e 8
  size := field e 16 4
  sdies := BitVec.ofNat 6 (field e 20 1)
  rdie := field e 21 1
  cmds := field e 22 1
  radd := field e 23 1 / 2 % 2 == 1
  xfers := 0
  bufs := Vector.replicate 2 (BelayBuf.fresh (BitVec.ofNat 6 (field e 20 1)))

/-- Whether a buffer of a context translates wholly into the node of a die (18 R318): the local window is not translated
(20 R342). -/
def State.bufferOk (s : State) (root va size die : Nat) : Bool :=
  0x400000 ≤ va && (List.range (size / 65536 + 2)).all fun i =>
    let a := (va / 65536 + i) * 65536
    let at_ := max va a
    va + size ≤ at_ ||
      (at_ < 2 ^ 48 && match s.walk root at_ with
        | .leaf e block => match leafTarget e block at_ with
          | .phys pa => s.place pa == .node die
          | .fabric .. => false
        | .fail .. | .hole .. => false)

/-- The limits of an entry of a belay table (18 R318). -/
def State.channelOk (s : State) (root : Nat) (e : List Byte) : Bool :=
  let c := channelOf 0 e
  let f := field e
  f 0 8 % 256 == 0 && f 8 8 % 256 == 0 && c.size % 256 == 0 && 256 ≤ c.size && c.size ≤ 2 ^ 28 && f 20 1 < 64 &&
    c.sdies != 0 && c.rdie < 6 && !c.sdies.getLsbD c.rdie && 1 ≤ c.cmds && c.cmds ≤ 64 && f 23 1 < 4 && f 24 8 == 0 &&
    s.bufferOk root (f 0 8) c.size c.rdie && s.bufferOk root (f 8 8) c.size c.rdie

/-- Whether no two buffers of a context overlap. -/
def buffersApart (cs : List Channel) : Bool :=
  decide ((cs.flatMap fun c => [(c.ping.toNat, c.size), (c.pong.toNat, c.size)]).Pairwise fun a b => ¬(meet a.1 a.2 b.1 b.2 = true))

/-- The context that a descriptor describes. -/
def ctxOfDesc (d : List Byte) (addr : Nat) (unlocked : Bool) (channels : List Channel) (mcg : List Word) : Ctx :=
  let f := field d
  { Ctx.supervisor with
    id := f 0 2
    addr := addr
    fctx := f 2 2
    keyslot := f 4 1
    prot := f 5 1 / 2 % 2 == 1
    dbgx := f 5 1 / 2 % 2 == 1
    dbgunl := unlocked
    etch := f 5 1 / 8 % 4
    ptroot := f 8 8
    exptab := f 16 8
    stagemap := Vector.ofFn fun (i : Fin 16) => BitVec.ofNat 6 (f (24 + i.val) 1)
    etchcb := fieldW d 56
    bqring := fieldW d 64
    bqcap := f 72 4
    qmap := f 80 8
    fring := fieldW d 88
    frk := f 96 1
    imgbase := f 104 8
    imgn := f 112 4
    imgsz := f 116 4
    tvec := fieldW d 120
    wdint := f 128 4
    segtab := f 136 8
    channels := channels
    mcg := Vector.ofFn fun (i : Fin 16) => mcg.getD i.val 0 }

/-- The bytes of a descriptor that lies in the tables and can be read. -/
def State.descAt (s : State) (pa : Nat) : Option (List Byte) :=
  if pa % 64 ≠ 0 ∨ s.inTables pa 256 = false then none else (s.outsideBytes pa 256).filter s.descOk

/-- The tables that a descriptor names: address and size. -/
def descTables (d : List Byte) : List (Nat × Nat) :=
  let f := field d
  [(f 16 8, 512), (f 40 8, 32 * f 48 1), (f 80 8, 1024)] ++ if f 144 8 = 0 then [] else [(f 144 8, 128)]

/-- The machine while the limits of a new context are checked, which hold for it as if it were live. -/
def State.tryCtx (s : State) (c : Ctx) : State := { s with ctxs := (s.ctxs.filter fun x => x.id != c.id) ++ [c] }

/-- The context that a descriptor in memory creates, if it and the tables it names can be read and keep every limit. -/
def State.readDesc (s : State) (pa : Nat) : Option Ctx :=
  match s.descAt pa with
  | none => none
  | some d =>
    let f := field d
    match (descTables d).mapM fun t => s.outsideBytes t.1 t.2 with
    | some (et :: bt :: qt :: mt) =>
      let exps := (chunks 32 16 et).map fun b =>
        ((⟨field b 0 8, field b 8 8, field b 16 8, field b 24 1⟩ : ExportEntry), field b 25 7)
      let mcg := mt.flatMap fun b => (chunks 8 16 b).map fun b => fieldW b 0
      let bely := ((chunks 32 (f 48 1) bt).zipIdx).filter fun e => field e.1 23 1 % 2 == 1
      let c := ctxOfDesc d pa s.sec.unlocked (bely.map fun e => channelOf e.2 e.1) mcg
      if exportsOk exps && (mcg.all groupOk) && ((chunks 16 64 qt).all queueMapOk) &&
          (bely.all fun e => s.channelOk c.ptroot e.1) && buffersApart c.channels &&
          (if c.etchcb = 0 then c.etch == 0 else (s.tryCtx c).etchCbOk c.id c.etchcb) then some c
      else none
    | _ => none

/-- A descriptor, the tables that it names, and its etch control block read at their homes (01 R20). -/
def State.descTouch (s : State) (pa : Nat) : State :=
  if pa % 64 ≠ 0 ∨ s.inTables pa 256 = false then s
  else
    let s1 := s.outsideTouch pa 256
    match s1.descAt pa with
    | none => s1
    | some d =>
      let s2 := (descTables d).foldl (fun s t => s.outsideTouch t.1 t.2) s1
      let c := ctxOfDesc d pa s.sec.unlocked [] []
      if c.etchcb = 0 then s2 else { (s2.tryCtx c).etchTouch c with ctxs := s2.ctxs }

/-- An entry of the log that measurement 5 covers (R369), with the number of the command that is being performed and DBGUNL as it was
at the context's creation. -/
def State.scLog (s : State) (c : Ctx) (hash : List Byte) : State :=
  s.updSec fun x => { x with log := x.log ++ [⟨x.seq + 1, c.id, c.prot, c.dbgunl, hash⟩] }

/-- FLAGS of a context's descriptor in memory: VALID, PROTECTED, DBGX, etch mode. -/
def State.putFlags (s : State) (c : Ctx) : State :=
  s.outsideWrite (c.addr + 5) ((natLe 1 (1 + 2 * c.prot.toNat + 4 * c.dbgx.toNat + 8 * c.etch)).map some)

/-- CTX_CREATE (R362, R366). -/
def execCtxCreate (s : State) : Res :=
  s.scCommand 1 (reads := fun s b => s.descTouch (scArg b 0)) fun s b =>
    match s.readDesc (scArg b 0) with
    | none => .error scBadArgs
    | some c =>
      if (s.ctxOf c.id).isSome then .error scNoSlot
      else if !(s.key c.keyslot).assigned || (s.key c.keyslot).owner != c.id then .error scDenied
      else
        let s1 : State := { s with
          ctxs := s.ctxs ++ [c], fabric := { s.fabric with gone := s.fabric.gone.filter fun f => f != c.fctx } }
        .ok ((s1.putFlags c).scLog c [], BitVec.ofNat 64 c.id)

/-! ### Tear-down (R362) -/

/-- CONTEXT_GONE for the launches of a context that nobody has taken yet, and the ACCEPT records of mailbox
submissions, which wait for room in the journal (15 R301, 24 R372). -/
def State.goneSubs (s : State) (ctx : Nat) : State :=
  (s.subs.filter fun x => x.ctx == ctx).foldl (fun s x =>
    let rec_ : Option (List Byte) := match x.src with
      | .mailbox _ pa => some (s.bytes pa 64)
      | .spawn .. => s.recRead ctx x.va 64
      | .trigger _ => none
    match rec_ with
    | none => s
    | some b =>
      let s1 := s.putCompletion ctx (fieldW b 16) (complWord 2 0 0)
      match x.src with
      | .mailbox .. => s1.journalDone ⟨fieldW b 24, x.va, 0, complWord 2 0 0, true⟩
      | _ => s1) s

/-- CONTEXT_GONE for the live sets of a context, and the DONE records of those that came from a mailbox. -/
def State.goneSets (s : State) (ctx : Nat) : State :=
  (s.sets.filter fun x => x.ctx == ctx).foldl (fun s x =>
    let w := complWord 2 0 x.id
    s.putCompletion ctx x.compl w (x.doneWait w)) s

/-- The KV spaces of a context torn down (R362, 11 R270): borrowed frames are given back; the borrower of a receiving space, and
those of frames lent out, are told that they are gone (02 R52). -/
def State.goneSpaces (s : State) (ctx : Nat) : State :=
  (s.spaces.filter fun p => p.ctx == ctx).foldl (fun s p =>
    let peers := ((if p.credit != 0 && !p.lend then [p.peer] else []) ++ (p.frames.filter fun e => e.2.lentOut).map fun e => e.2.peer).eraseDups
    -- the streams have stopped: no frame has a reader left, and those that only waited for one go first
    let s1 := s.updSpace p.id fun p => { p with frames := p.frames.map fun e => (e.1, { e.2 with readers := 0 }) }
    let idle := (p.frames.filter fun e => e.2.refcnt == 0).map Prod.fst
    let s2 := idle.foldl (fun s id => s.freeFrame p.id id) s1
    let s3 := match s2.space p.id with
      | some q => s2.spaceDown 0 q
      | none => s2
    peers.foldl (fun s m => s.control m (.lendGone m (some p.id))) s3) s

/-- The dirty sectors of a context in a line of its home slice written to memory; the line keeps them clean (04 R82). -/
def State.cleanLine (s : State) (ctx : Nat) (l : L2Line) : State :=
  (l.dirtyOnes.filter fun e => e.2.1 == ctx).foldl (fun s e =>
    let pa := 256 * l.line + 64 * e.1
    (s.writeSector pa ctx e.2.2 false).putL2 pa ⟨true, false, 0, e.2.2⟩) s

/-- What the caches hold of a context goes to memory under its key slot, and its copies are dropped. -/
def State.goneCaches (s : State) (ctx : Nat) : State :=
  let s1 := s.dropLines fun l => l.ctx == ctx
  let s2 := s1.l2.foldl (fun s l => s.cleanLine ctx l) s1
  { s2 with
    icache := s2.icache.filter fun b => b.ctx != ctx
    tlb := s2.tlb.filter fun e => e.ctx != ctx
    cores := s2.cores.foldl (fun m e => if e.2.extOwner = ctx ∧ ctx ≠ 0 then
      Tbl.put Core.init m e.1 { e.2 with extOwner := 0, extWays := 0, converting := 0, restoring := false } else m) s2.cores }

/-- The tear-down of a live context (R362, 04 R101, 09 R204, 10 R247, 11 R262, R271, 15 R301, 16 R312, 18 R324). -/
def State.tearDown (s : State) (ctx : Nat) : State :=
  let mine := (s.tasks.filter fun t => t.ctx == ctx).map Task.id
  let s1 := ((s.goneSubs ctx).goneSets ctx).dropHaulsOf ctx
  let s2 : State := { s1 with
    subs := s1.subs.filter fun x => x.ctx != ctx
    sets := s1.sets.filter fun x => x.ctx != ctx
    watches := s1.watches.filter fun w => w.ctx != ctx
    triggers := s1.triggers.filter fun t => !s1.watches.any fun w => w.key == t.key && w.ctx == ctx
    queues := s1.queues.filter fun q => q.ctx != ctx
    streams := s1.streams.filter fun x => x.ctx != ctx
    kvcmds := s1.kvcmds.filter fun c => c.ctx != ctx
    fabric := { s1.fabric with
      out := s1.fabric.out.filter fun o => o.haul.isSome || o.task == 0 || !mine.contains o.task
      held := s1.fabric.held.filter fun h => h.ctx != ctx
      gone := (((s1.ctxOf ctx).map Ctx.fctx).toList ++ s1.fabric.gone).eraseDups } }
  let s3 := (s2.goneSpaces ctx).goneCaches ctx
  { s3 with
    cur := if s3.cur.ctx = ctx then Task.blank else s3.cur
    others := s3.others.filter fun t => t.ctx != ctx
    ctxs := s3.ctxs.filter fun c => c.id != ctx }

/-- CTX_DESTROY (R362); a context that is not live, or the supervisor's own, is DENIED (log 28). -/
def execCtxDestroy (s : State) : Res :=
  s.scCommand 2 fun s b =>
    let id := scArg b 0
    if id = 0 ∨ (s.ctxOf id).isNone then .error scDenied else .ok (s.tearDown id, 0)

/-! ### Keys (R360, R361) -/

/-- A key slot changed. -/
def State.putKey (s : State) (k : Nat) (x : KeySlot) : State := s.updSec fun y => { y with keys := Tbl.put KeySlot.init y.keys k x }

/-- KEY_NEW (R360): the keys are the next draw of the random source (log 9). -/
def execKeyNew (s : State) : Res :=
  s.scCommand 3 fun s b =>
    let k := scArg b 0
    if k < 1 ∨ 254 < k ∨ 255 < scArg b 1 then .error scBadArgs
    else if (s.key k).assigned then .error scBusy
    else
      let v := (s.key k).ver + 1
      .ok ((s.putKey k ⟨true, scArg b 1, v, s.free + 2⟩).tookFree, v.setWidth 64)

/-- Whether a rotation pass that runs names a key slot (01 R24). -/
def State.rotates (s : State) (k : Nat) : Bool :=
  (List.range 6).any fun die => (List.range 5).any fun stack =>
    let v := s.mcrGet (hmrot die stack)
    hasBlock die stack && v.getLsbD 17 && (Word.get v 0 8 == k || Word.get v 8 8 == k)

/-- KEY_CLEAR (R360). -/
def execKeyClear (s : State) : Res :=
  s.scCommand 4 fun s b =>
    let k := scArg b 0
    let x := s.key k
    if 254 < k then .error scBadArgs
    else if (s.ctxs.any fun c => c.keyslot == k) || s.rotates k || (s.ctxs.any fun c => x.assigned && c.id == x.owner && c.prot) then
      .error scBusy
    else .ok (s.putKey k { x with assigned := false, key := 0 }, 0)

/-- CTX_REKEY (R361). -/
def execCtxRekey (s : State) : Res :=
  s.scCommand 5 fun s b =>
    let k := s.key (scArg b 1)
    if (s.ctxOf (scArg b 0)).isNone || 254 < scArg b 1 || !k.assigned || k.owner != scArg b 0 then .error scDenied
    else .ok (s.updCtx (scArg b 0) fun c => { c with keyslot := scArg b 1 }, 0)

/-! ### Program segments (R364, R365) -/

/-- Bytes of a context's memory as the controller reads them, page by page, and whether any is poisoned; none where they
cannot be read. -/
def State.ctxBytes (s : State) (ctx : Nat) : Nat → Nat → Nat → Option (List Byte × Bool)
  | 0, _, _ => some ([], false)
  | fuel + 1, va, n =>
    if n = 0 then some ([], false)
    else
      let m := min n (65536 - va % 65536)
      match s.ctxRead ctx (BitVec.ofNat 64 va) m with
      | none => none
      | some p => (s.ctxBytes ctx fuel (va + m) (n - m)).map fun q => (p.1 ++ q.1, p.2 || q.2)

/-- A segment header. -/
structure SegHead where
  id : Nat
  signed : Bool
  base : Nat
  len : Nat
  spb : Nat
  spl : Nat
  sv : Nat
  hash : List Byte
  key : List Byte
  sig : List Byte
  msg : List Byte
  deriving DecidableEq, Repr

/-- A header as it lies in memory, if its fields keep their limits. -/
def segHead (b : List Byte) (id : Nat) : Option SegHead :=
  let f := field b
  let ok := f 0 4 == id && f 4 4 < 2 && f 8 8 % 1024 == 0 && 0x400000 ≤ f 8 8 && f 8 8 < 2 ^ 48 && f 16 4 % 1024 == 0 &&
    1024 ≤ f 16 4 && f 16 4 ≤ 2 ^ 26 && f 20 4 % 256 == 0 && f 24 4 % 256 == 0 && f 20 4 < f 24 4 && f 24 4 ≤ 0x300000 &&
    72 + f 64 4 + f 68 4 ≤ 8192 && 72 + f 64 4 + f 68 4 ≤ b.length
  if ok then
    some ⟨id, f 4 4 == 1, f 8 8, f 16 4, f 20 4, f 24 4, f 28 4, (b.drop 32).take 32, (b.drop 72).take (f 64 4),
      (b.drop (72 + f 64 4)).take (f 68 4), b.take 64⟩
  else none

/-- The header at an address of a context: its second page is read only where the header reaches it. -/
def State.readHead (s : State) (ctx va id : Nat) : Option SegHead :=
  if va % 4096 ≠ 0 then none
  else
    match s.ctxBytes ctx 2 va 72 with
    | none => none
    | some (b, bad) =>
      let n := min 8192 (72 + field b 64 4 + field b 68 4)
      if bad then none
      else match s.ctxBytes ctx 2 va n with
        | some (b, false) => segHead b id
        | _ => none

/-- The entry of the segment table (R364); where the tag array lies is a free value. -/
def segEntry (g : Seg) (tags : Word) : List Byte :=
  natLe 4 g.id ++ natLe 1 1 ++ natLe 1 g.signed.toNat ++ natLe 2 0 ++ natLe 8 g.base ++ natLe 4 g.len ++ natLe 4 g.spb ++
    natLe 4 g.spl ++ natLe 4 g.load ++ natLe 8 tags.toNat ++ natLe 4 g.sv ++ natLe 20 0

/-- The segments of a context changed. -/
def State.updSegs (s : State) (ctx : Nat) (f : List Seg → List Seg) : State := s.updCtx ctx fun c => { c with segs := f c.segs }

/-- The tags of a segment's code blocks, one for each 1 KiB, under the `key`-th draw of the key source (R364). -/
def segTags (key ctx load base : Nat) (code : List Byte) : List (BitVec 128) :=
  (chunks 1024 (code.length / 1024) code).zipIdx.map fun p =>
    Config.gmacTag key (BitVec.ofNat 96 (ctx * 2 ^ 80 + load * 2 ^ 48 + (base / 1024 + p.2) % 2 ^ 38)) p.1

/-- Where the controller keeps the tag array of a segment (R364 gives no place): a free value among the addresses of nodes 0 to 6,
64-byte aligned (log 113). -/
def State.tagArray (s : State) : Nat := (s.freeVal 41).toNat * 64

/-- A segment that has passed its checks, loaded: the next draw of the key source gives its GMAC key, its tags are written, then its
entry. -/
def State.addSeg (s : State) (c : Ctx) (h : SegHead) (code : List Byte) : State :=
  let ix := ((List.range 64).find? fun i => !c.segs.any fun g => g.ix == i).getD 0
  let n := (s.sec.loadNo + 1) % 2 ^ 32
  let key := s.free + 2
  let g : Seg := ⟨ix, h.id, h.signed, h.base, h.len, h.spb, h.spl, n, h.sv, blockTable code, key, segTags key c.id n h.base code⟩
  let s1 := ((s.updSec fun x => { x with loadNo := n }).updSegs c.id fun l => l ++ [g]).tookFree
  let s2 := if s1.inTables s1.tagArray (16 * g.tags.length) then
      s1.outsideWrite s1.tagArray ((g.tags.flatMap fun t => natLe 16 t.toNat).map some) else s1
  (s2.tookFree.outsideWrite (c.segtab + 64 * ix) ((segEntry g (BitVec.ofNat 64 s1.tagArray)).map some)).scLog c h.hash

/-- The checks of SEG_LOAD before the code is read (R364): the context and its header, or the status of the refusal. -/
def State.segCheck (s : State) (b : List Byte) : Except Nat (Ctx × SegHead) :=
  match s.ctxOf (scArg b 0 % 2 ^ 16) with
  | none => .error scDenied
  | some c =>
    match (if 2 ^ 48 ≤ scArg b 0 ∨ 4 ≤ scArg b 2 then none else s.readHead c.id (scArg b 1) (scArg b 0 / 2 ^ 16)) with
    | none => .error scBadArgs
    | some h =>
      if !h.signed && c.prot then .error scDenied
      else if h.signed && Sha.sha256 h.key != s.sec.ownerKeys.toList.getD (scArg b 2) [] then .error scBadSig
      else if h.signed && !Config.signatureOk h.msg h.key h.sig then .error scBadSig
      else .ok (c, h)

/-- What SEG_LOAD reads: the header, and the code where the checks before it pass (01 R20). -/
def State.segTouch (s : State) (b : List Byte) : State :=
  let ctx := scArg b 0 % 2 ^ 16
  let va := BitVec.ofNat 64 (scArg b 1)
  let s1 := if scArg b 1 % 4096 = 0 then s.ctxTouch ctx va 72 else s
  let s2 := match if scArg b 1 % 4096 = 0 then s1.ctxRead ctx va 72 else none with
    | some (h, false) => s1.ctxTouch ctx va (min 8192 (72 + field h 64 4 + field h 68 4))
    | _ => s1
  match s2.segCheck b with
  | .ok (c, h) => s2.ctxTouch c.id (BitVec.ofNat 64 h.base) h.len
  | .error _ => s2

/-- SEG_LOAD (R364): the checks in their order. -/
def execSegLoad (s : State) : Res :=
  s.scCommand 6 (reads := State.segTouch) fun s b =>
    match s.segCheck b with
    | .error st => .error st
    | .ok (c, h) =>
      match s.ctxBytes c.id 1026 h.base h.len with
      | none => .error scBadSig
      | some (code, bad) =>
        if bad || Sha.sha256 code != h.hash then .error scBadSig
        else if c.segs.any fun g => g.id == scArg b 0 / 2 ^ 16 then .error scBusy
        else if 64 ≤ c.segs.length then .error scNoSlot
        else .ok (s.addSeg c h code, BitVec.ofNat 64 ((s.sec.loadNo + 1) % 2 ^ 32))

/-- SEG_UNLOAD (R365). -/
def execSegUnload (s : State) : Res :=
  s.scCommand 7 fun s b =>
    let id := scArg b 0 / 2 ^ 16
    match s.ctxOf (scArg b 0 % 2 ^ 16) with
    | none => .error scDenied
    | some c =>
      match c.segs.find? fun g => g.id == id with
      | none => .error scBadArgs
      | some g =>
        if s.sets.any fun x => x.ctx == c.id && x.seg == id then .error scBusy
        else
          let s1 := s.updSegs c.id fun l => l.filter fun x => x.id != id
          let s2 : State := { s1 with icache := s1.icache.filter fun k => !(k.ctx == c.id && g.base ≤ k.va && k.va < g.base + g.len) }
          .ok (s2.outsideWrite (c.segtab + 64 * g.ix) ((natLe 64 0).map some), 0)

/-! ### Debug (R366) -/

/-- DBG_NONCE (R366): `nonce` is what the controller's random source gives. -/
def execDbgNonce (nonce : Word) (s : State) : Res :=
  s.scCommand 8 fun s _ => .ok (s.updSec fun x => { x with nonce := some nonce }, nonce)

/-- DBG_UNLOCK (R366). Each nonce serves one attempt, one that fails included. -/
def execDbgUnlock (s : State) : Res :=
  s.scCommand 9
    (reads := fun s b =>
      let s1 := s.updSec fun x => { x with nonce := none }
      if s.inTables (scArg b 0) Config.tokenLength then s1.outsideTouch (scArg b 0) Config.tokenLength else s1)
    fun t b =>
      let pa := scArg b 0
      if !t.inTables pa Config.tokenLength then .error scBadArgs
      else match t.outsideBytes pa Config.tokenLength with
        | none => .error scBadSig
        | some tok =>
          if !Config.tokenOk tok then .error scBadSig
          else if Config.tokenId tok ≠ Config.deviceId ∨ s.sec.nonce ≠ some (Config.tokenNonce tok) then .error scDenied
          else .ok (t.updSec fun x => { x with unlocked := true, admits := Config.tokenMask tok }, 0)

/-- DBG_LOCK (R366). -/
def execDbgLock (s : State) : Res := s.scCommand 10 fun s _ => .ok (s.updSec fun x => { x with unlocked := false }, 0)

/-! ### The anti-rollback counter (R367) -/

/-- The number of the lowest pair that has neither bit blown. -/
def Sec.nextPair (x : Sec) : Nat := x.fuses.findIdx fun p => !p.1 && !p.2

/-- Whether the command at the head of the queue is ARB_RAISE with a target that is not refused, and has bits left to blow: its
argument. -/
def State.raising (s : State) : Option Nat :=
  match s.sec.queue with
  | [] => none
  | e :: _ =>
    let b := s.scBytes e
    let n := scArg b 0
    let unused := (s.sec.fuses.filter fun p => !p.1 && !p.2).length
    if scFormed b && field b 0 2 == 11 && (s.sec.blowing.isSome || (s.sec.arb < n && n ≤ s.sec.arb + unused)) then some n else none

/-- One fuse bit blown: the second of the pair that is half done, else the first of the lowest unused pair. -/
def Sec.blow (x : Sec) : Sec :=
  match x.blowing with
  | some i => { x with fuses := x.fuses.set i (true, true), blowing := none }
  | none => { x with fuses := x.fuses.set x.nextPair (true, false), blowing := some x.nextPair }

/-- ARB_RAISE (R367): one bit after the other, each in a step of its own, until ARB equals the target; then the command ends. -/
def execArbRaise (s : State) : Res :=
  match s.raising with
  | some _ => .next (s.updSec Sec.blow)
  | none =>
    s.scCommand 11 fun s b =>
      if scArg b 0 ≠ s.sec.arb then .error scRollback else .ok (s, BitVec.ofNat 64 (scArg b 0))

/-! ### The etch mode (19 R325) -/

/-- CTX_SETETCH (19 R325). -/
def execCtxSetetch (s : State) : Res :=
  s.scCommand 12 (reads := fun s b => ((s.ctxOf (scArg b 0)).map s.etchTouch).getD s) fun s b =>
    let id := scArg b 0
    let mode := scArg b 1
    if s.sets.any fun x => x.ctx == id then .error scBusy
    else if 2 < mode then .error scBadArgs
    else match s.ctxOf id with
      | none => .error scDenied
      | some c =>
        if (if c.etchcb = 0 then mode != 0 else !s.etchCbOk id c.etchcb) then .error scBadArgs
        else
          let s1 := s.updCtx id fun c => { c with etch := mode }
          .ok (if id = 0 then s1 else s1.putFlags { c with etch := mode }, BitVec.ofNat 64 c.etch)

end Sys2Proof.Machine
end

