-- ==== Sys2Proof/Machine/Board.lean ====
section
/-! DEFINITION. The management port, attestation, the host port, reset, bring-up and throttling (23 R368, R369; 24). -/

namespace Sys2Proof.Machine

/-- A message that leaves the module through the management port or the host port. -/
def State.emit (s : State) (m : OutMsg) : State := { s with board := { s.board with sent := s.board.sent ++ [m] } }

/-- The board changed. -/
def State.updBoard (s : State) (f : Board → Board) : State := { s with board := f s.board }

/-! ### Attestation (23 R369) -/

/-- The facts that a measurement covers. -/
def State.facts (s : State) (index : Nat) : List Byte :=
  match index with
  | 1 => Config.bootRom
  | 2 => s.board.fwImage ++ natLe 1 s.board.fwRunning
  | 3 => natLe 1 s.sec.arb ++ natLe 1 s.sec.wasted ++ natLe 1 s.sec.unlocked.toNat
  | 4 => s.sec.ownerKeys.toList.flatten
  | _ => s.sec.log.flatMap fun e => natLe 4 e.seq ++ natLe 2 e.ctx ++ natLe 1 e.prot.toNat ++ natLe 1 e.unlocked.toNat ++ e.codeHash

/-- A measurement: a SHA-256 digest. -/
def State.measurement (s : State) (index : Nat) : List Byte := Sha.sha256 (Config.measured index (s.facts index))

/-- GET_VERSION (23 R369): SPDM 1.3. -/
def execGetVersion (s : State) : Res := .next (s.emit .version)

/-- GET_CAPABILITIES (23 R369). -/
def execGetCapabilities (s : State) : Res := .next (s.emit .capabilities)

/-- NEGOTIATE_ALGORITHMS (23 R369): ECDSA on NIST P-256, and SHA-256. -/
def execNegotiateAlgorithms (s : State) : Res := .next (s.emit .algorithms)

/-- GET_DIGESTS (23 R369): the digest of the certificate chain of slot 0. -/
def execGetDigests (s : State) : Res := .next (s.emit (.digests [Sha.sha256 Config.certificate]))

/-- GET_CERTIFICATE (23 R369): bytes of the chain of slot 0, the only slot. -/
def execGetCertificate (slot off len : Nat) (s : State) : Res :=
  .next (s.emit (if slot = 0 then .certificate ((Config.certificate.drop off).take len) else .done false))

/-- CHALLENGE (23 R369): the nonce signed with the device key. -/
def execChallenge (slot : Nat) (nonce : List Byte) (s : State) : Res :=
  .next (s.emit (if slot = 0 then .challenge nonce (Config.sign 0 nonce) else .done false))

/-- GET_MEASUREMENTS (23 R369): one of the five, or with index 255 all of them, signed. -/
def execGetMeasurements (index : Nat) (s : State) : Res :=
  let ix := if index = 255 then [1, 2, 3, 4, 5] else [1, 2, 3, 4, 5].filter fun i => i == index
  let d := ix.map fun i => (i, s.measurement i)
  .next (s.emit (if ix.isEmpty then .done false else .measurements d (Config.sign 1 (d.flatMap fun e => natLe 1 e.1 ++ e.2))))

/-! ### Management messages (24 R376) -/

/-- SVCREQ of a stack (01 R28). -/
def State.svcreq (s : State) (die stack : Nat) : Bool := (s.mcrGet (hmstat die stack)).getLsbD 4

/-- GET_HEALTH (24 R376); the temperatures are free values. -/
def execGetHealth (s : State) : Res :=
  let req := (List.range 6).flatMap fun die => ((List.range 5).filter fun k => hasBlock die k).map fun k => s.svcreq die k
  .next (s.tookFree.emit (.health s.board.mainRail s.board.svcStop (s.freeVal 64) req s.sec.arb s.sec.unlocked))

/-- READ_LOG (24 R376, 01 R30): the records, and the counters kept at the last reset with those of now. -/
def execReadLog (s : State) : Res :=
  .next (s.emit (.errlog (s.board.records.map Prod.snd) (s.board.counters ++ s.mcr.filter fun e => isCountReg e.1) s.board.criticals))

/-- READ_JOURNAL (24 R376): the records that the ring still holds, from a sequence number on; a slot holds the record of a number
where it can be read and its own number and kind say so. -/
def execReadJournal (seq : Nat) (s : State) : Res :=
  if !s.board.mainRail then .next (s.emit .notPowered)
  else
    let head := s.jget 0x10 0 32
    let size := s.journalSize
    let base := s.jget 0x00 12 36 * 4096
    let s1 := if s.journalOn then s.outsideTouch base (32 * size) else s
    let old := (List.range size).filterMap fun i =>
      let n := (head + 2 ^ 32 - (size - 1 - i)) % 2 ^ 32
      if 2 ^ 31 ≤ (n + 2 ^ 32 - seq) % 2 ^ 32 then none
      else (s1.outsideBytes (base + 32 * ((n + 2 ^ 32 - 1) % 2 ^ 32 % size)) 32).filter fun b =>
        field b 24 4 == n && (field b 21 1 == 1 || field b 21 1 == 2)
    .next (s1.emit (.journal (if s.journalOn then old else [])))

/-- FW_STAGE (24 R376, 23 R367): an image with its security version kept in the board's flash. -/
def execFwStage (version : Nat) (image : List Byte) (s : State) : Res :=
  .next ((s.updBoard fun b => { b with fwStaged := some (version, image), fwArmed := false }).emit (.done true))

/-- FW_ACTIVATE (24 R376, 23 R367): the staged image is to run from the next reset. -/
def execFwActivate (s : State) : Res :=
  .next ((s.updBoard fun b => { b with fwArmed := b.fwStaged.isSome }).emit (.done s.board.fwStaged.isSome))

/-- SC_CMD (24 R376): a command block for the security controller. -/
def execScCmd (block : List Byte) (s : State) : Res :=
  .next (if !s.board.mainRail then s.emit .notPowered
    else if block.length = 64 ∧ s.sec.queue.length < 16 then s.scEnqueue (.port block)
    else s.emit (.done false))

/-- SET_POWER_LIMIT (24 R376): 1,000 W to 3,800 W. -/
def execSetPowerLimit (watts : Nat) (s : State) : Res :=
  .next (if 1000 ≤ watts ∧ watts ≤ 3800 then (s.updBoard fun b => { b with powerLimit := watts }).emit (.done true)
    else s.emit (.done false))

/-! ### Reset and bring-up (24 R375 to R378) -/

/-- MODULE_RESET (24 R375). -/
def execModuleReset (s : State) : Res := .next (if s.board.mainRail then s.moduleReset else s)

/-- The main rail switched off: what a reset discards, and everything that the rail powers. -/
def State.powerOff (s : State) : State :=
  let r := s.moduleReset
  { r with
    mem := []
    sectors := []
    charged := []
    mcr := Tbl.put 0 [] fxid (r.mcrGet fxid)
    logSeq := Vector.replicate 6 0
    ctxs := []
    sec := { r.sec with keys := r.sec.keys.map fun e => (e.1, { e.2 with assigned := false }) }
    board := { r.board with mainRail := false, bringing := false } }

/-- RESET (24 R376): a module reset, or the main rail off until BRING_UP. -/
def execReset (powerCycle : Bool) (s : State) : Res :=
  .next ((if !s.board.mainRail then s else if powerCycle then s.powerOff else s.moduleReset).emit (.done true))

/-- The repair map applied (24 R378): the spare of a cluster stands in for the first core of it that the map came to name; the
locations of the others are never placed. -/
def repaired (map : List Nat) : Tbl Core :=
  map.foldl (fun m loc =>
    if (map.takeWhile fun x => x != loc).any fun x => x / 16 == loc / 16 then Tbl.put Core.init m loc { Core.init with failed := true }
    else m) []

/-- Steps 1 and 2 of bring-up (24 R377): the firmware is chosen, and slot 0 is assigned; the repair map has taken in the cores that
failed since. Until the later steps are past the module is in the service-required state. -/
def State.powerUp (s : State) (failedCores : List Nat) : State :=
  { s with
    sec := { s.sec with
      keys := Tbl.put KeySlot.init s.sec.keys 0 ⟨true, 0, (s.key 0).ver, if (s.key 0).key = 0 then 1 else (s.key 0).key⟩ }
    board := { s.board.booted s.sec.arb with
      mainRail := true, bringing := false, svcStop := true, hostUp := false, poolUp := false
      repair := (s.board.repair ++ failedCores).eraseDups } }

/-- Step 3 of bring-up past: every in-package link is trained with a new session key (01 R19, 23 R368). -/
def State.linksTrained (s : State) : State :=
  { s with
    linkKey := linkNos.foldl (fun t n => Tbl.put 0 t n (Tbl.get 0 s.linkKey n + 1)) s.linkKey
    board := { s.board with linksDown := [] } }

/-- BRING_UP (24 R377): the steps after the main rail comes up, or after a module reset (24 R375); a failure of the links or of the
stacks stops it in the service-required state. -/
def execBringUp (linksOk stacksOk : Bool) (failedCores : List Nat) (s : State) : Res :=
  .next (if s.board.mainRail && !s.board.svcStop && !s.board.bringing then s
    else
      let up := s.powerUp failedCores
      if !linksOk then up
      else if !stacksOk then up.linksTrained
      else
        let up := up.linksTrained
        { up with
          mcr := linksUp.foldl (fun m e => Tbl.put 0 m e.1 e.2) up.mcr
          cores := repaired up.board.repair
          ctxs := [Ctx.supervisor]
          board := { up.board with svcStop := false, hostUp := true, poolUp := true, sent := up.board.sent ++ [.ready] } })

/-- LINKUP of the stack that an in-package link joins, if it joins one (01 R28). -/
def State.setLinkUp (s : State) (link : Nat) (up : Bool) : State :=
  if link ∈ linkNos then
    s.mcrPut (hmstat (link / 4) (link % 4)) (under (bitsAt 5 1) (if up then bitsAt 5 1 else 0) (s.mcrGet (hmstat (link / 4) (link % 4))))
  else s

/-- IN_PACKAGE_LINK_AUTH (23 R368): a failed proof holds the link down, and while the module is being brought up it stops bring-up in
the service-required state; a proof that passes on a link held down brings it up with a new session key (log 114). -/
def execInPackageLinkAuth (link : Nat) (ok : Bool) (s : State) : Res :=
  let down : State := { s with board := { s.board with linksDown := insertNat link s.board.linksDown } }
  .next (if ok then
      if s.board.linksDown.contains link then
        { s with
          linkKey := Tbl.put 0 s.linkKey link (Tbl.get 0 s.linkKey link + 1)
          board := { s.board with linksDown := eraseNat link s.board.linksDown } }.setLinkUp link (s.board.mainRail && !s.board.svcStop)
      else s
    else if s.board.mainRail && !s.board.bringing && !s.board.svcStop then down.setLinkUp link false
    else down.updBoard fun b => { b with mainRail := true, bringing := false, svcStop := true })

/-! ### Power (24 R379) -/

/-- THROTTLE (24 R379): the core clock of a die falls by one step of 2.5 %, down to 40 %. -/
def execThrottle (die : Nat) (s : State) : Res :=
  .next (if h : die < 6 then s.updBoard fun b => { b with clock := b.clock.set die (max 16 (b.clock[die] - 1)) } else s)

/-- OVER_TEMPERATURE (24 R379): the floor on every die. -/
def execOverTemperature (s : State) : Res := .next (s.updBoard fun b => { b with clock := Vector.replicate 6 16 })

/-- CRITICAL_TEMPERATURE (24 R379): a module reset, and its cause in the log. -/
def execCriticalTemperature (s : State) : Res :=
  .next (if s.board.mainRail then s.moduleReset.updBoard fun b => { b with criticals := b.criticals + 1 } else s)

/-! ### The host (24 R370, R374) -/

/-- What a host read of at most one sector answers: all ones where a protected context owns it (23 R363); the `k`-th free value from
here on where the sector has failed its tag or is poisoned (01 R20, log 115). -/
def State.hostBytes (s : State) (k pa n : Nat) : List Byte × Bool :=
  if s.refused 0 pa then (List.replicate n 0xFF, false)
  else if s.anyPoison pa n then (natLe n (Config.freeBits (s.free + k) (8 * n)).toNat, true)
  else (s.bytes pa n, false)

/-- The addresses and sizes into which sectors cut `n` bytes. -/
def sectorCuts : Nat → Nat → Nat → List (Nat × Nat)
  | 0, _, _ => []
  | fuel + 1, pa, n =>
    if n = 0 then [] else (pa, min n (64 - pa % 64)) :: sectorCuts fuel (pa + min n (64 - pa % 64)) (n - min n (64 - pa % 64))

/-- A CXL.mem access to nodes 0 to 6 at its home, or an aligned 8-byte access through BAR0 (24 R370, 23 R363). A write to a protected
context's sector is dropped. -/
def State.hostMem (s : State) (pa len : Nat) (write : Option (List Byte)) : State :=
  let n := (write.map List.length).getD len
  match s.place pa with
  | .control .. =>
    if pa % 8 ≠ 0 ∨ n ≠ 8 then s
    else match write with
      | some bs => (s.regWrite pa (BitVec.ofNat 64 (leNat bs))).emit .hostWritten
      | none => s.emit (.hostRead (natLe 8 (s.regRead pa).toNat) false)
  | _ =>
    if n = 0 || !s.inTables pa n then s
    else match write with
      | some bs => (s.outsideWrite pa (bs.map some)).emit .hostWritten
      | none =>
        let s1 := s.outsideTouch pa n
        let r := (sectorCuts (n / 64 + 2) pa n).zipIdx.map fun c => s1.hostBytes c.2 c.1.1 c.1.2
        { s1 with free := s1.free + r.length }.emit (.hostRead (r.flatMap Prod.fst) (r.any Prod.snd))

/-- The bytes of the MSI-X table (24 R370). -/
def Board.msixBytes (b : Board) : List Byte := b.msix.toList.flatMap fun e => natLe 16 e.toNat

/-- Bytes of the MSI-X table written. -/
def Board.putMsix (b : Board) (off : Nat) (bs : List Byte) : Board :=
  let all := b.msixBytes.take off ++ bs ++ b.msixBytes.drop (off + bs.length)
  { b with msix := Vector.ofFn fun i => BitVec.ofNat 128 (leNat ((all.drop (16 * i.val)).take 16)) }

/-- HOST_MEM_ACCESS (24 R370): the host reads or writes through its port: memory and BAR0, the MSI-X table, or the configuration space,
of which the spec gives no contents (log 115). -/
def execHostMemAccess (at_ : HostAddr) (len : Nat) (write : Option (List Byte)) (s : State) : Res :=
  .next (if !s.board.hostUp then s
    else match at_, write with
      | .mem pa, w => s.hostMem pa len w
      | .msix off, some bs => if off + bs.length ≤ 1024 then (s.updBoard fun b => b.putMsix off bs).emit .hostWritten else s
      | .msix off, none => if off + len ≤ 1024 then s.emit (.hostRead ((s.board.msixBytes.drop off).take len) false) else s
      | .config _, some _ => s.emit .hostWritten
      | .config _, none => s.tookFree.emit (.hostRead (natLe len (s.freeVal (8 * len)).toNat) false))

/-- HOST_LINK_LOSS (24 R374): the module runs on. -/
def execHostLinkLoss (s : State) : Res := .next (s.updBoard fun b => { b with hostUp := false })

/-- FUNCTION_LEVEL_RESET (24 R374): NTFC and NTFH are cleared, contexts are not touched; the host link is up again. -/
def execFunctionLevelReset (s : State) : Res :=
  .next (((s.mcrPut (jreg 0x60) 0).mcrPut (jreg 0x50) 0).updBoard fun b => { b with ntfSince := 0, hostUp := b.mainRail && !b.svcStop && !b.bringing })

end Sys2Proof.Machine
end

