-- ==== Sys2Proof/Machine/Queue.lean ====
section
/-! DEFINITION. The queues (10 R246, R247), and the completions of loads, divisions and X results (06 R124; 10 R221;
09 R206). -/

namespace Sys2Proof.Machine

/-! ### Queues -/

/-- An entry of a queue map (20 R347): the on-chip queue and its die, the quota in spilled entries, and the base of the ring. -/
structure QMapEntry where
  chip : Nat
  die : Nat
  quota : Nat
  ring : Word
  deriving DecidableEq, Repr

/-- What a context maps a queue number onto, if it maps it; a poisoned entry maps nothing (log 116). -/
def State.qmapOf (s : State) (c : Ctx) (n : Nat) : Option QMapEntry :=
  let b := s.bytes (c.qmap + 16 * n) 16
  if field b 0 2 / 2 ^ 15 % 2 = 1 ∧ s.anyPoison (c.qmap + 16 * n) 16 = false then some ⟨field b 0 1, field b 1 1 % 8, field b 4 4, fieldW b 8⟩ else none

/-- The trap of a queue number that the focused context does not map; an entry that is poisoned is charged (01 R20, R21). -/
def State.noQueue {α : Type} (s : State) (n : Nat) : Except Stop α :=
  let pa := s.myCtx.qmap + 16 * n
  .error (.trap { Trap.now cProt (BitVec.ofNat 64 n) with walk := if s.anyPoison pa 16 then some pa else none })

/-- The queue that an entry of a context's map names; one nothing has used is empty. -/
def State.queueOf (s : State) (ctx : Nat) (m : QMapEntry) : Queue :=
  (s.queues.find? fun q => q.ctx == ctx && q.die == m.die && q.chip == m.chip).getD ⟨ctx, m.die, m.chip, [], [], 0⟩

/-- The machine with a queue changed. -/
def State.putQueue (s : State) (q : Queue) : State :=
  { s with queues := q :: s.queues.filter fun x => !(x.ctx == q.ctx && x.die == q.die && x.chip == q.chip) }

/-- The slots of the ring of a queue number that its spilled entries hold (10 R247). -/
def Queue.slotsOf (q : Queue) (n : Nat) : List Nat := (q.entries.filter fun e => e.n == n).filterMap QEntry.slot

/-- How many entries a queue holds on chip. -/
def Queue.onChip (q : Queue) : Nat := (q.entries.filter fun e => e.slot.isNone).length

/-- The queue numbers of a context's pushes that have not been performed. -/
def State.pushing (s : State) (ctx : Nat) : List Nat :=
  (s.tasks.filter fun t => t.ctx == ctx).flatMap fun t => t.ops.filterMap fun o => match o.kind with
    | .cmd (.qpush n _) => some n
    | _ => none

/-- Whether one more push to a queue number of a context would exceed its quota (10 R247): every push that has not been performed
may spill. -/
def State.quotaFull (s : State) (c : Ctx) (m : QMapEntry) (n : Nat) : Bool :=
  let q := s.queueOf c.id m
  let coming := s.pushing c.id
  let same := coming.filter fun k => ((s.qmapOf c k).map fun x => x.die == m.die && x.chip == m.chip).getD false
  Config.queueDepth ≤ q.entries.length + same.length && m.quota ≤ (q.slotsOf n).length + coming.count n

/-- A K10 field that names a queue. -/
def queueK (n : Nat) : Word := BitVec.ofNat 64 n

/-- The bytes of a spilled entry in its ring (log 63). -/
def queueSlot (v : Word) : List Byte := natLe 8 v.toNat ++ natLe 56 0

/-- A value appended to a queue (10 R247): where the on-chip queue is full, or entries are spilled already, the spill engine writes
it to the ring of its number; one whose slot cannot be written stays on chip (log 100). -/
def State.enqueue (s : State) (a : Agent) (m : QMapEntry) (n : Nat) (v : Word) : State :=
  let q := s.queueOf a.ctx m
  let k := freeSlotOf (q.slotsOf n)
  let put (s : State) (slot : Option Nat) : State :=
    s.putQueue { q with entries := q.entries ++ [⟨v, false, n, slot⟩], seq := q.seq + 1 }
  if q.entries.length = q.onChip ∧ q.onChip < Config.queueDepth then put s none
  else match s.ringPut a m.ring k (queueSlot v) with
    | some s1 => put s1 (some k)
    | none => put (s.ctxMiss a.ctx (ringSlot m.ring k) 64) none

/-- A spilled entry of a context read back (10 R247). -/
def State.fetchEntry (s : State) (ctx : Nat) (e : QEntry) : State × QEntry :=
  match e.slot, (s.ctxOf ctx).bind fun c => s.qmapOf c e.n with
  | some k, some m =>
    let r := s.ringGet ctx m.ring k
    (r.1, { e with v := fieldW r.2.1 0, bad := r.2.2, slot := none })
  | _, _ => (s, { e with slot := none })

/-- Spilled entries of a queue return in their order as its on-chip part has room (10 R247). -/
def State.refill (s : State) (ctx : Nat) (room : Nat) : List QEntry → State × List QEntry
  | [] => (s, [])
  | e :: es =>
    if room = 0 then (s, e :: es)
    else
      let (s1, x) := s.fetchEntry ctx e
      let (s2, rest) := s1.refill ctx (room - 1) es
      (s2, x :: rest)

/-- A QPUSH of a task performed (10 R246): a release at package scope, behind every earlier access of its context, in its turn
(19 R333). -/
def State.qpushGo (s : State) (t : Task) (op : Op) : State :=
  match op.kind with
  | .cmd (.qpush n v) =>
    match (s.ctxOf t.ctx).bind fun c => s.qmapOf c n with
    | none => s.finishOp t.id op
    | some m =>
      let q := s.queueOf t.ctx m
      if t.unperformedBefore op.id || !s.myTurn t op.etch (.unit q.seq) then s
      else
        let (s1, div) := (s.flushCtx t.loc t.ctx).etchDone t.id 0x04 0 op.obj v (.unit q.seq) op.etch
        ((s1.enqueue t.agent m n v).finishOp t.id op).pendDiverge t.id div
  | _ => s

/-- QPUSH (10 R246, R247): it waits at issue while its quota is spent. -/
def execQpush (o : QAOps) (s : State) : Res :=
  s.slot [.srcS o.a true, .sync] fun s =>
    let n := o.q.toNat
    match s.qmapOf s.myCtx n with
    | none => s.noQueue n
    | some m =>
      if s.quotaFull s.myCtx m n then .error (.wait false)
      else
        match s.etchReady 0x04 0 (queueK n) (.unit (s.queueOf s.cur.ctx m).seq) none (some (s.readS o.a)) with
        | .error e => .error e
        | .ok _ =>
          .ok (((s.beginOp (.cmd (.qpush n (s.readS o.a))) [] false).reserveOp.withObj (queueK n)).lastGo State.qpushGo)

/-- The waiting QPOPs of a queue whose operations are still there. -/
def State.waitersOf (s : State) (q : Queue) : List (Nat × Nat) := q.waiters.filter fun w => (s.findOp w.2).isSome

/-- Whether the turn of a waiting QPOP has come in the series of its queue (19 R333). -/
def State.popTurn (s : State) (q : Queue) (w : Nat × Nat) : Bool :=
  match s.findOp w.2 with
  | some (t, op) => s.myTurn t op.etch (.unit q.seq)
  | none => false

/-- A QPOP of a task that no earlier operation holds back reaches the queue (10 R246, R247). It is served behind those that
reached the queue before it and whose turn has come (19 R333): the oldest entry leaves, and the generation advances. On an empty
queue its task parks (06 R125). -/
def State.qpopGo (s : State) (t : Task) (op : Op) : State :=
  match op.kind with
  | .qpop n =>
    match (s.ctxOf t.ctx).bind fun c => s.qmapOf c n with
    | none => s
    | some m =>
      let q := s.queueOf t.ctx m
      if t.heldBy op then s
      else
        let ws := s.waitersOf q
        let ws := if ws.contains (t.id, op.id) then ws else ws ++ [(t.id, op.id)]
        match q.entries with
        | [] => (s.putQueue { q with waiters := ws }).updOp t.id { op with parks := true }
        | e :: es =>
          if ws.find? (s.popTurn q) ≠ some (t.id, op.id) then s.putQueue { q with waiters := ws }
          else
            let (s1, x) := if e.slot.isSome then s.fetchEntry t.ctx e else (s, e)
            let keep := es.takeWhile fun y => y.slot.isNone
            let (s2, rest) := s1.refill t.ctx (Config.queueDepth - keep.length) (es.drop keep.length)
            let s3 := s2.putQueue { q with entries := keep ++ rest, waiters := ws.erase (t.id, op.id), seq := q.seq + 1 }
            let (s4, div) := s3.etchDone t.id 0x05 0 op.obj x.v (.unit q.seq) op.etch
            (s4.updOp t.id (op.observed x.v.toNat x.bad div)).advanceGen t.loc
  | _ => s

/-- QPOP (10 R246): an acquire at package scope. -/
def execQpop (o : QDOps) (s : State) : Res :=
  s.slot [.mark (.s o.d), .sync] fun s =>
    let n := o.q.toNat
    match s.qmapOf s.myCtx n with
    | none => s.noQueue n
    | some m =>
      match s.etchReady 0x05 0 (queueK n) (.unit (s.queueOf s.cur.ctx m).seq) none with
      | .error e => .error e
      | .ok _ =>
        .ok (((s.beginOp (.qpop n) (if o.d = 0 then [] else [outS o.d 0]) false).reserveOp.withObj (queueK n)).lastGo State.qpopGo)

/-- QSTAT (10 R246): the entries held, and the spill entries that the quota still allows. -/
def execQstat (o : QDOps) (s : State) : Res :=
  s.slot [.mark (.s o.d)] fun s =>
    let n := o.q.toNat
    match s.qmapOf s.myCtx n with
    | none => s.noQueue n
    | some m =>
      let q := s.queueOf s.cur.ctx m
      let v := q.entries.length % 2 ^ 32 + (m.quota - (q.slotsOf n).length) * 2 ^ 32
      .ok (s.beginOp .load (if o.d = 0 then [] else [outS o.d (BitVec.ofNat 64 v)]) false)

/-! ### Completions -/

/-- A command that waited performed, if it can be (10 R221). -/
def State.cmdGo (s : State) (t : Task) (op : Op) (c : Cmd) : State :=
  match c with
  | .qpush .. => s.qpushGo t op
  | .grant .. => s.grantGo t op
  | .hgo _ => s.hgoGo t op
  | .flush _ | .inval _ => s.lineGo t op

/-- LOAD_COMPLETE (10 R221): the data of an operation arrives, or an access or a command that was held is performed. -/
def execLoadComplete (id : Nat) (s : State) : Res :=
  .next (match s.findOp id with
    | some (t, op) =>
      match op.kind with
      | .qpop _ => s.qpopGo t op
      | .cmd c => s.cmdGo t op c
      | .spawn .. => s.spawnGo t op
      | _ => s.accessComplete t op
    | none => s)

/-- An operation of one kind ended. -/
def State.completeKind (s : State) (id : Nat) (kind : OpKind) : State :=
  match s.findOp id with
  | some (t, op) => if op.kind = kind then s.finishOp t.id op else s
  | none => s

/-- SCALAR_DIV_COMPLETE (08 R159, R167). -/
def execScalarDivComplete (id : Nat) (s : State) : Res := .next (s.completeKind id .div)

/-- X_RESULT_COMPLETE (09 R206): X results complete in issue order within their context. -/
def execXResultComplete (id : Nat) (s : State) : Res :=
  .next (match s.findOp id with
    | some (t, _) => if t.ops.any fun o => o.id < id && o.kind == .x then s else s.completeKind id .x
    | none => s)

/-- VDRAIN_COMPLETE (09 R200). -/
def execVdrainComplete (id : Nat) (s : State) : Res := .next (s.completeKind id .drain)

end Sys2Proof.Machine
end

