-- ==== Sys2Proof/Machine/Tasks.lean ====
section
/-! DEFINITION. Tasks from their ready queue to their end: binding, tiles and start, ends and the counter tree, and the
events that only time brings (15 R294 to R302, 18 R321, R322, 20 R351). -/

namespace Sys2Proof.Machine

/-! ### Fitting (15 R294) -/

/-- The tasks on a core. -/
def State.onCore (s : State) (loc : Nat) : List Task := s.tasks.filter fun t => t.resident && t.loc == loc

/-- Whether two windows overlap. -/
def Task.overlaps (t u : Task) : Bool :=
  max t.ctl.spb.toNat u.ctl.spb.toNat < min t.ctl.spl.toNat u.ctl.spl.toNat

/-- Whether a task fits beside the tasks of a core. -/
def Task.fitsWith (t : Task) (on : List Task) : Bool :=
  on.length < 2 && on.all fun u => t.capS + u.capS ≤ 96 && t.capV + u.capV ≤ 48 && !t.overlaps u

/-- Whether SPQ of its partition has room for a task's window (15 R297). -/
def State.spqRoom (s : State) (t : Task) : Bool :=
  let q := Word.get (s.mcrGet (ptreg t.partition 16)) 0 32
  let held := ((s.tasks.filter fun u => u.resident && u.partition == t.partition).map fun u =>
    u.ctl.spl.toNat - u.ctl.spb.toNat).sum
  q == 0 || held + (t.ctl.spl.toNat - t.ctl.spb.toNat) ≤ q * 2 ^ 20

/-- The live sets with a task, or an end not passed up, at a place. -/
def State.setsAt (s : State) (here : Task → Bool) (ends : TaskSet → Bool) : List TaskSet :=
  s.sets.filter fun x => ends x || s.tasks.any fun t => t.resident && t.ctx == x.ctx && t.setId == x.id && here t

/-- Whether the counter tree has room for a task's set at a cluster and its die (15 R302). -/
def State.treeRoom (s : State) (t : Task) (slice : Nat) : Bool :=
  let die := sliceDie slice
  let ok (xs : List TaskSet) (n : Nat) : Bool := xs.length < n || xs.any fun x => x.ctx == t.ctx && x.id == t.setId
  ok (s.setsAt (fun u => sliceOf u.loc == slice) fun x => Tbl.get 0 x.cl slice != 0) 64 &&
    ok (s.setsAt (fun u => dieOf u.loc == die) fun x => Tbl.get 0 x.di die != 0 ||
      x.cl.any fun e => sliceDie e.1 == die && e.2 != 0) 256

/-- The lowest core of a cluster on which a task fits. -/
def State.fitIn (s : State) (t : Task) (slice : Nat) : Option Nat :=
  ((List.range 16).map fun k => sliceLoc slice + k).find? fun loc => !(s.core loc).failed && t.fitsWith (s.onCore loc)

/-- Whether a task waits in a ready queue. -/
def Task.ready (t : Task) : Bool := t.status == .ready || (t.status == .saved && t.latched)

/-- The clusters to which a ready task may be bound, its target first: once it has waited long, the other eligible ones of the
die as the partition stands (15 R297, R300). -/
def State.bindable (s : State) (t : Task) : List Nat :=
  t.target ::
    if t.crossOk then (s.clustersOf t.partition ((1 : BitVec 6) <<< sliceDie t.target)).filter fun c => c != t.target else []

/-- The cluster and the core to which a ready task is bound, if it can be: the first cluster with a fitting issue context
(15 R294, R300). -/
def State.bindSlice (s : State) (t : Task) : Option (Nat × Nat) :=
  let on (c : Nat) : Option (Nat × Nat) := (s.fitIn t c).map fun l => (c, l)
  ((s.bindable t).findSome? on).filter fun p => s.spqRoom t && s.treeRoom t p.1 && !s.ringFull t.ctx

/-- The partition priority of a ready task, for binding and victims (15 R300). -/
def State.rank (s : State) (t : Task) : Nat := if t.aged then 0 else s.ptPrio t.partition

/-- Whether a ready task is bound before another (15 R294). -/
def State.bindsBefore (s : State) (t u : Task) : Bool :=
  let key (t : Task) : List Nat := [s.rank t, if t.aged then 0 else t.prio, t.readyAt, t.id]
  match (key t).zip (key u) |>.find? fun p => p.1 != p.2 with
  | some (a, b) => a < b
  | none => true

/-- The ready tasks in the order of binding. -/
def State.readyOrder (s : State) : List Task := sortBy s.bindsBefore (s.tasks.filter Task.ready)

/-! ### Binding and preparation (15 R294, R295) -/

/-- A dispatcher decision recorded (15 R303, 19 R326). -/
def State.decision (s : State) (t : Task) (type value : Nat) : State :=
  match s.ctxOf t.ctx with
  | some c =>
    (s.etchSys t.ctx (dieOf t.loc) 0 type t.ctl.taskid (BitVec.ofNat 64 value) (.unit c.decSeq) 0 none).updCtx t.ctx
      fun c => { c with decSeq := c.decSeq + 1 }
  | none => s

/-- Words of a core's scratchpad set empty. -/
def State.setEmpty (s : State) (pa n : Nat) : State :=
  (List.range n).foldl (fun s i => s.setFull (pa + 4 * i) false) s

/-- The location of a bound task written into its location table (15 R295); where the page cannot be written it is not
(log 21). -/
def State.putLoc (s : State) (t : Task) (loctab : Word) : State :=
  let va := loctab + BitVec.ofNat 64 (4 * t.ordinal)
  let bs : List (Option Byte) := (natLe 4 t.loc).map some
  if loctab = 0 ∨ va.toNat < 0x400000 then s
  else
    match s.translate .walker t.ctx false .store va with
    | .ok (.phys pa) =>
      (match s.place pa with
       | .node _ => if s.refused t.ctx pa then s else s.homeWrite t.agent pa bs
       | .pad .. => s.padWrite pa bs
       | _ => s)
    | .ok (.fabric m off) =>
      s.request t.ctx (OutReq.ofTask s.nextId m 0 0 (BitVec.ofNat 64 (m * 2 ^ 52 + off)) 0 4 true 0) off (.store bs) false
    | .error e => s.walkCharge t.ctx e

/-- The haul that loads a tile of a bound task: a dense copy of bytes at cluster scope (15 R291, R295). -/
def Task.tileHaul (t : Task) (x : Tile) (id : Nat) : Haul where
  id := id
  task := t.id
  ctx := t.ctx
  loc := t.loc
  q := 0
  fields := #v[x.source, t.ctl.spb + BitVec.ofNat 64 x.spoff, BitVec.ofNat 64 (x.bytes + 2 ^ 16 * x.rows),
    x.stride.signExtend 64, BitVec.ofNat 64 x.bytes, 0, 187, 0, 0, 0, 1]
  ticket := 0
  depth := t.depth
  rnd := 0
  srkey := 0
  srctr := 0
  mcstat := 0
  st := .pending
  row := 0
  fault := none
  tile := some t.id
  k := 0
  order := id
  eng := none
  sv := false
  got := []
  convx := false

/-- The haul tiles of a bound task issued (15 R295). -/
def State.issueTiles (s : State) (t : Task) : State :=
  let hs := (t.tiles.filter fun x => x.kind == 1).zipIdx.map fun p => t.tileHaul p.1 (s.nextId + p.2)
  { s.updTask t.id fun t => { t with tilesLeft := hs.map Haul.id } with
    hauls := s.hauls ++ hs, nextId := s.nextId + hs.length }

/-- The set of a task. -/
def State.setOf (s : State) (t : Task) : Option TaskSet := s.sets.find? fun x => x.ctx == t.ctx && x.id == t.setId

/-- The scratchpad address and the words of a fewait range. -/
def Task.feRange (t : Task) (x : Tile) : Nat × Nat :=
  (padBase t.loc + t.ctl.spb.toNat + x.spoff, x.rows * x.bytes / 4)

/-- A new task prepared: its fewait ranges empty, its location published, its tiles issued (15 R295). -/
def State.prepare (s : State) (t : Task) : State :=
  let s1 := (t.tiles.filter fun x => x.kind == 3).foldl (fun s x => s.setEmpty (t.feRange x).1 (t.feRange x).2) s
  (s1.putLoc t (((s.setOf t).map TaskSet.loctab).getD 0)).issueTiles t

/-- A task bound to an issue context of a core, and the decision recorded (15 R303). A saved one waits there for its image
(log 22). -/
def State.bindTo (s : State) (t : Task) (loc : Nat) : State :=
  let t1 : Task := { t with
    status := .bound, loc := loc, parkedAt := s.tick, parkedLong := false, aged := false, crossOk := false }
  let s1 := (s.updTask t.id fun _ => t1).decision t1 0x12 loc
  if t.image.isSome then s1 else s1.prepare t1

/-! ### Victims (15 R299, 18 R324) -/

/-- Whether a bound task waits only for a belay buffer (18 R324). -/
def State.waitsBelay (s : State) (t : Task) : Bool :=
  t.status == .bound && t.image.isNone &&
    (t.tiles.any fun x => x.kind == 2 && (match (s.ctxOf t.ctx).bind fun c => c.channel x.belay.1 with
      | some ch => !(ch.bufs[bufIx x.belay.2]).held
      | none => true))

/-- The lowest free slot of a context's image pool (20 R350). -/
def State.freeImage (s : State) (c : Ctx) : Option Nat :=
  freeBelow ((s.tasks.filter fun t => t.ctx == c.id).filterMap Task.image) c.imgn

/-- Whether a slot of the image pool of a task's context is free. -/
def State.hasImage (s : State) (t : Task) : Bool := (((s.ctxOf t.ctx).bind fun c => s.freeImage c)).isSome

/-- Whether a waiting task fits where a victim leaves. -/
def State.freedFor (s : State) (x v : Task) : Bool :=
  x.fitsWith ((s.onCore v.loc).filter fun u => u.id != v.id)

/-- The first of some tasks in an order. -/
def firstBy (le : Task → Task → Bool) (ts : List Task) : Option Task := (sortBy le ts).head?

/-- The parked task to be swapped out for a waiting one, but for those taken: the longest parked, then the lower location
(15 R299). -/
def State.parkedVictim (s : State) (x : Task) (taken : List Nat) : Option Task :=
  firstBy (fun t u => t.parkedAt < u.parkedAt || (t.parkedAt == u.parkedAt && t.loc ≤ u.loc)) (s.tasks.filter fun v =>
    v.resident && sliceOf v.loc == x.target && v.parkedLong && s.rank x ≤ s.ptPrio v.partition && s.freedFor x v &&
      !taken.contains v.id && ((v.status == .parked && s.hasImage v) || s.waitsBelay v))

/-- Whether a task is asked to give its issue context up, and has not left it yet. -/
def Task.asked (t : Task) : Bool := t.preempt && (t.status == .running || t.status == .stopped)

/-- The running task to be pre-empted for a waiting one, but for those taken: the lowest priority, then the most recently
started (15 R299). One stopped at its KNEXT runs until it is saved. -/
def State.runningVictim (s : State) (x : Task) (taken : List Nat) : Option Task :=
  firstBy (fun t u => s.ptPrio u.partition < s.ptPrio t.partition ||
      (s.ptPrio u.partition == s.ptPrio t.partition && u.startedAt ≤ t.startedAt)) (s.tasks.filter fun v =>
    (v.status == .running || v.status == .stopped) && sliceOf v.loc == x.target && s.ptPreempt v.partition && s.rank x < s.ptPrio v.partition &&
      s.freedFor x v && !taken.contains v.id && s.hasImage v)

/-- The ready tasks of a target cluster that find no issue context, in the order of binding. -/
def State.stuckIn (s : State) (slice : Nat) : List Task :=
  s.readyOrder.filter fun t => t.target == slice && (s.fitIn t slice).isNone

/-- The task that is asked already to leave its issue context to a waiting one (15 R299). -/
def State.askedFor (s : State) (x : Task) : Option Task := s.tasks.find? fun v => v.asked && v.preemptFor == some x.id

/-- The victims of waiting tasks, each with a victim of its own (15 R299): whether it is a parked one, and the victim. -/
def State.victimsBut (s : State) : List Task → List Nat → List (Task × Bool × Task)
  | [], _ => []
  | x :: xs, taken =>
    match s.askedFor x, s.parkedVictim x taken, s.runningVictim x taken with
    | some v, _, _ => (x, false, v) :: s.victimsBut xs taken
    | none, some v, _ => (x, true, v) :: s.victimsBut xs (v.id :: taken)
    | none, none, some v => (x, false, v) :: s.victimsBut xs (v.id :: taken)
    | none, none, none => s.victimsBut xs taken

/-- The victims of some waiting tasks: a task asked already for one of them is left to it. -/
def State.victims (s : State) (xs : List Task) : List (Task × Bool × Task) :=
  s.victimsBut xs (xs.filterMap fun x => (s.askedFor x).map Task.id)

/-- The pre-emptions that the waiting tasks of a cluster ask for (15 R299). -/
def State.askPreempt (s : State) (slice : Nat) : State :=
  ((s.victims (s.stuckIn slice)).filter fun p => !p.2.1).foldl (fun s p =>
    s.updTask p.2.2.id fun t => { t with preempt := true, preemptFor := some p.1.id }) s

/-- TASK_BIND (15 R294, R299, R300): the first ready task that fits in a cluster is bound there; where none does, a
running task may be asked to give its issue context up. -/
def execTaskBind (slice : Nat) (s : State) : Res :=
  let ok (t : Task) : Option (Task × Nat) :=
    match s.bindSlice t with
    | some (c, loc) => if c = slice then some (t, loc) else none
    | none => none
  .next (match s.readyOrder.findSome? ok with
    | some (t, loc) => s.bindTo t loc
    | none => s.askPreempt slice)

/-! ### Start (15 R295, 08 R182, 18 R321, 19 R333) -/

/-- Whether everything that a bound task waits for is there. -/
def State.startable (s : State) (t : Task) : Bool :=
  t.status == .bound && t.image.isNone && t.tilesLeft.isEmpty && !s.waitsBelay t &&
    (t.tiles.all fun x => x.kind != 3 || (runWords (t.feRange x)).all s.full)

/-- The transfers that a starting task claims (18 R321). -/
def State.claimsOf (s : State) (t : Task) : List (Nat × Bool × Nat) :=
  (t.tiles.filter fun x => x.kind == 2).filterMap fun x =>
    ((s.ctxOf t.ctx).bind fun c => c.channel x.belay.1).map fun ch => (ch.n, x.belay.2, (ch.bufs[bufIx x.belay.2]).xfer.toNat)

/-- The records of a task in the proof task array: the first and the end (19 R332, R333). -/
def State.proofStream (s : State) (c : Ctx) (taskWord : Nat) : Nat × Nat :=
  match s.etchCb c with
  | none => (0, 0)
  | some cb =>
    ((List.range cb.pidxn).findSome? fun i =>
      match s.ctxRead c.id (cb.pidx + BitVec.ofNat 64 (16 * i)) 16 with
      | some (b, _) => if field b 0 4 = taskWord then some (field b 8 4, field b 8 4 + field b 12 4) else none
      | none => none).getD (0, 0)

/-- The first part of a task (08 R182); one with nothing to run ends. -/
def Task.firstPart (t : Task) : Task :=
  if t.loop.prologue ≠ 0 then { t with part := .prologue, pc := t.loop.prologue }
  else if t.loop.trip ≠ 0 then { t with part := .kernel, pc := t.loop.kernel }
  else if t.loop.epilogue ≠ 0 then { t with part := .epilogue, pc := t.loop.epilogue }
  else t.ended false

/-- A task with what its context gives it at a start or restore (20 R347). -/
def Task.fromCtx (t : Task) (c : Ctx) : Task :=
  { t with ctl := { t.ctl with tvec := c.tvec, wdint := BitVec.ofNat 64 c.wdint, wdcnt := 0 } }

/-- c.TRIGCNT of a task of a watch (16 R309). -/
def trigcnt (x : TaskSet) (depth : Nat) : Word :=
  if x.wid = 0 then 0 else BitVec.ofNat 64 (x.count % 2 ^ 32 + 2 ^ 32 * depth + 2 ^ 36 * x.wid)

/-- TASK_START (15 R295): an acquire; the task claims the transfers it waited for and begins its first part. -/
def execTaskStart (id : Nat) (s : State) : Res :=
  .next (match s.task id with
    | none => s
    | some t =>
      if !s.startable t then s
      else
        match s.ctxOf t.ctx, s.setOf t with
        | some c, some x =>
          let s1 := (s.advanceGen t.loc).etchTrigger x
          let p := if c.etch = 2 then s.proofStream c (t.ctl.taskid.toNat % 2 ^ 32) else (0, 0)
          let t1 : Task := { t.fromCtx c with
            status := .running, claims := s.claimsOf t, etchCursor := p.1, etchEnd := p.2, startedAt := s.tick, parkedAt := 0 }
          let t2 : Task := { t1 with ctl := { t1.ctl with trigcnt := trigcnt x t.depth } }
          s1.updTask id fun _ => t2.firstPart
        | _, _ => s)

/-! ### Ends (15 R302, 18 R322, 20 R341) -/

/-- Whether an operation of a task must be performed before the task's end; the others are discarded (08 R183). -/
def Op.lasts (o : Op) : Bool :=
  match o.kind with
  | .heldWrite .. | .atomic _ | .rel .. | .feSet .. | .feWrite .. | .wayconv _ | .wayrest | .tlbinv .. | .endCount |
    .cmd _ | .spawn .. | .remote _ => true
  | _ => false

/-- Whether a task that has ended has everything behind it that its report waits for (15 R302). -/
def State.quiet (s : State) (t : Task) : Bool :=
  t.status == .ending && t.tls.all (fun l => l.count == l.issued) && t.posted.isEmpty && !t.ops.any Op.lasts &&
    !(s.hauls.any fun h => h.tile == some t.id) && !s.ringFull t.ctx

/-- The failed tickets that no TLWAIT reported, written to the fault ring (20 R341). -/
def State.lostTickets (s : State) (t : Task) : State :=
  t.tls.toList.foldl (fun s l => (l.failed.filter fun f => !f.reported).foldl (fun s f =>
    s.record t.ctx (dieOf t.loc) 4 f.fail.cause (t.ctl.taskid.toNat % 2 ^ 32) f.fail.eval (BitVec.ofNat 64 f.ticket)) s) s

/-- Where the doubleword of loop record +56 lies, if the task can reach it. -/
def State.doneDest (s : State) (t : Task) : Option Dest :=
  let va := t.loop.done
  if va.toNat % 8 ≠ 0 then none
  else if va.toNat < 0x400000 then
    if t.ctl.spb.toNat ≤ va.toNat ∧ va.toNat < t.ctl.spl.toNat then some (.pad (padBase t.loc + va.toNat)) else none
  else
    match s.translate .walker t.ctx false .atomic va with
    | .ok (.phys pa) =>
      (match s.place pa with
       | .node _ => if s.refused t.ctx pa then none else some (.node pa)
       | .pad .. => some (.pad pa)
       | _ => none)
    | .ok (.fabric m off) => some (.fabric (BitVec.ofNat 64 (m * 2 ^ 52 + off)))
    | .error _ => none

/-- Whether the turn of the atomic that counts a task's end has come (19 R333). -/
def State.countTurn (s : State) (t : Task) : Bool :=
  t.loop.done == 0 || ((s.doneDest t).map fun d => s.nextTurn t (syncSeries (s.objectOf t.loop.done d) d)).getD true

/-- An end counted at the doubleword of loop record +56: `atadd.d.rel.sy` of 1, an ATOMIC event of the task (19 R326), whose failure
makes the set ABORTED. -/
def State.countEnd (s : State) (t : Task) : State :=
  let s1 := s.updTask t.id fun t => { t with counted := true }
  if t.loop.done = 0 then s1
  else
    match s.doneDest t with
    | none => (if t.loop.done.toNat < 0x400000 then s1 else s1.walkTouch t.ctx .atomic t.loop.done).updTask t.id fun t =>
        { t with aborted := true }
    | some (.fabric fa) =>
      let (s2, slot) := s1.takeLate t.id 0x01 4 t.loop.done
      let op : Op := ⟨s2.nextId, .endCount, [], none, false, false, false, false, 0, false, slot, t.loop.done⟩
      let s3 := { s2.updTask t.id fun t => { t with ops := t.ops ++ [op] } with nextId := s2.nextId + 1 }
      let o : OutReq := { OutReq.ofTask s3.nextId (fa.toNat / 2 ^ 52) t.id op.id fa 0 8 false 0 with
        obj := op.obj, turn := s3.turnOf t slot }
      s3.request t.ctx o (fa.toNat % 2 ^ 52) (.atomic .add true 1 0 .rel .sy) false
    | some d =>
      let (s2, old, _) := s1.atomicAt t.agent 0 (d.pa.getD 0) .add 8 1 0
      let obj := s1.objectOf t.loop.done d
      (s2.etchLate t.id 0x01 (placeFlags d) obj (BitVec.ofNat 64 old) (.word obj)).1

/-- The first claimed transfer of a task that is still held as it claimed it (18 R322): its channel, and whether it is in the pong
buffer. -/
def State.claimLeft (s : State) (t : Task) : Option (Channel × Bool) :=
  t.claims.findSome? fun k =>
    match (s.ctxOf t.ctx).bind fun c => c.channel k.1 with
    | some ch => if (ch.bufs[bufIx k.2.1]).held && (ch.bufs[bufIx k.2.1]).xfer.toNat == k.2.2 then some (ch, k.2.1) else none
    | none => none

/-- The end of a task counted by the watch that created it (16 R308, R312). -/
def State.watchEnded (s : State) (key : Nat) : State :=
  if key = 0 then s else (s.updWatch key fun w => { w with live := w.live - 1 }).createOwed key

/-- A task gone: its issue context and its window are free, and its cluster counts its end (15 R302). -/
def State.release (s : State) (t : Task) : State :=
  let key := ((s.setOf t).map TaskSet.wkey).getD 0
  let slice := sliceOf t.loc
  let s1 : State := { s with
    cur := if s.cur.id = t.id then Task.blank else s.cur
    others := s.others.filter fun u => u.id != t.id
    queues := s.queues.map fun q => { q with waiters := q.waiters.filter fun w => w.1 != t.id }
    sets := s.sets.map fun x =>
      if x.ctx = t.ctx ∧ x.id = t.setId then
        { x with cl := Tbl.put 0 x.cl slice (Tbl.get 0 x.cl slice + 1), aborted := x.aborted || t.aborted }
      else x }
  s1.watchEnded key

/-- One step of the end of a task that is quiet (15 R302): it writes back; each claimed transfer that is left is granted back, in
its turn (18 R322, 19 R333); its lost tickets are reported and its end is counted; then it reports. -/
def State.endStep (s : State) (t : Task) : State :=
  match if t.counted then none else s.claimLeft t with
  | some (ch, pong) =>
    if s.nextTurn t (.unit (ch.bufs[bufIx pong]).seq) then (s.flushCtx t.loc t.ctx).autoGrant t.id t.ctx ch pong else s
  | none =>
    if !t.counted && !s.countTurn t then s
    else
      let s1 := if t.counted then s else ((s.lostTickets t).flushCtx t.loc t.ctx).countEnd t
      match s1.task t.id with
      | none => s1
      | some t1 => if t1.ops.any Op.lasts || s1.ringFull t.ctx then s1 else ((s1.etchLeft t1).decision t1 0x16 0).release t1

/-- TASK_END (15 R302): once every ticket is complete, a task that has ended takes the steps of its end. -/
def execTaskEnd (id : Nat) (s : State) : Res :=
  .next (match s.task id with
    | none => s
    | some t => if s.quiet t then s.endStep t else s)

/-- A set with every end counted: its completion word, its DONE record, and the retry of creations that a quota held
(15 R302, 16 R308, 24 R372). -/
def State.completeSet (s : State) (x : TaskSet) : State :=
  let w := if x.aborted then complWord 8 0 x.id
    else if x.tileFaults ≠ 0 then complWord 7 (min x.tileFaults (2 ^ 24 - 1)) x.id
    else complWord 1 0 x.id
  ({ s with sets := s.sets.filter fun y => !(y.ctx == x.ctx && y.id == x.id) }.putCompletion x.ctx x.compl w (x.doneWait w)).retryHeld x.ctx

/-- COUNTER_TREE_FLUSH (15 R302): a cluster passes the ends that it has counted for a set to its die, or a die passes them
to the module. -/
def execCounterTreeFlush (ctx set die : Nat) (cluster : Option Nat) (s : State) : Res :=
  .next (match s.sets.find? fun x => x.ctx == ctx && x.id == set with
    | none => s
    | some x =>
      let put (y : TaskSet) : State := { s with sets := s.sets.map fun z => if z.ctx = ctx ∧ z.id = set then y else z }
      match cluster with
      | some c =>
        let slice := sliceBase die + c
        let n := Tbl.get 0 x.cl slice
        if n = 0 ∨ sliceDie slice ≠ die then s
        else put { x with cl := Tbl.put 0 x.cl slice 0, di := Tbl.put 0 x.di die (Tbl.get 0 x.di die + n) }
      | none =>
        let n := Tbl.get 0 x.di die
        let y := { x with di := Tbl.put 0 x.di die 0, left := x.left - n }
        if n = 0 then s else if y.left = 0 then (put y).completeSet y else put y)

/-! ### What time brings (log 4) -/

/-- A task changed if a condition on it holds. -/
def State.timed (s : State) (id : Nat) (ok : Task → Bool) (f : Task → Task) : Res :=
  .next (match s.task id with
    | some t => if ok t then s.updTask id f else s
    | none => s)

/-- Whether a ready task of a priority that the quantum of a running one yields to waits for its cluster (15 R300). -/
def State.yields (s : State) (t : Task) : Bool :=
  s.ptPreempt t.partition && (s.ptTimes t.partition).1 != 0 &&
    s.tasks.any fun x => x.ready && x.target == sliceOf t.loc && s.rank x ≤ s.ptPrio t.partition

/-- QUANTUM_EXPIRE (15 R300): a running task has used its quantum up, so it is pre-empted at its next KNEXT. -/
def execQuantumExpire (id : Nat) (s : State) : Res :=
  s.timed id (fun t => t.status == .running && s.yields t && s.hasImage t) fun t => { t with preempt := true }

/-- AGE_PROMOTE (15 R300): a ready task has waited for AGELIM. -/
def execAgePromote (id : Nat) (s : State) : Res :=
  s.timed id (fun t => t.ready && (s.ptTimes t.partition).2 != 0) fun t => { t with aged := true }

/-- CROSS_CLUSTER_ELIGIBLE (15 R300): a ready task has waited for 4,096 cycles. -/
def execCrossClusterEligible (id : Nat) (s : State) : Res := s.timed id Task.ready fun t => { t with crossOk := true }

/-- PARKED_256_CYCLES (15 R299, 18 R324): a task has been parked, or bound and waiting for a belay buffer, for 256
cycles. -/
def execParked256Cycles (id : Nat) (s : State) : Res :=
  s.timed id (fun t => t.status == .parked || s.waitsBelay t) fun t => { t with parkedLong := true }

/-- The machine with a task in the focus. -/
def State.focus (s : State) (id : Nat) : State :=
  if s.cur.id = id then s
  else
    match s.others.find? fun t => t.id == id with
    | some t =>
      let rest := s.others.filter fun u => u.id != id
      { s with cur := t, others := if s.cur.id = 0 then rest else rest ++ [s.cur] }
    | none => s

/-- Whether the watchdog of a task has expired (20 R351). -/
def Task.wdExpired (t : Task) : Bool :=
  (t.status == .running || t.status == .parked) && t.ctl.wdint != 0 && !t.ctl.wdcnt.ult t.ctl.wdint && !t.ctl.intrap

/-- The focused task takes WATCHDOG at the bundle that it would issue next (20 R351, R353); its count restarts. -/
def State.barks (s : State) : State :=
  (s.takeTrap (.now cWatchdog s.cur.ctl.wdcnt) 0).setCtl fun c => { c with wdcnt := 0 }

/-- WATCHDOG (20 R351). -/
def execWatchdog (id : Nat) (s : State) : Res :=
  .next (match s.task id with
    | some t => if t.wdExpired then ((s.focus id).barks).focus s.cur.id else s
    | none => s)

end Sys2Proof.Machine
end

