-- ==== Sys2Proof/Machine/Swap.lean ====
section
/-! DEFINITION. Task images: saving a victim, and restoring it on another core (15 R298 to R301, 20 R350, 04 R88). -/

namespace Sys2Proof.Machine

/-! ### The image (20 R350) -/

/-- `n` bytes of bits, the first bit lowest. -/
def bitBytes (n : Nat) (f : Nat → Bool) : List Byte :=
  (List.range n).map fun j => BitVec.ofNat 8 ((List.range 8).foldl (fun m i => m + (f (8 * j + i)).toNat * 2 ^ i) 0)

/-- Bytes filled up with zeros to a length. -/
def padTo (n : Nat) (bs : List Byte) : List Byte := bs.take n ++ List.replicate (n - bs.length) 0

/-- A 64-bit word as bytes. -/
def wordBytes (w : Word) : List Byte := natLe 8 w.toNat

/-- The state code of a register: 00 FULL, 01 EMPTY, 10 FAILED, 11 POISONED; and its failure. -/
def Reg.code {w : Nat} (x : Reg w) : Nat × Option Fail :=
  match x.st with
  | .full => (0, none)
  | .empty .. => (1, none)
  | .failed f .. => (2, some f)
  | .poisoned => (3, none)

/-- The states of s0 to s63, v0 to v31 and em. -/
def Regs.codes (r : Regs) : List (Nat × Option Fail) :=
  r.s.toList.map Reg.code ++ r.v.toList.map Reg.code ++ [r.em.code]

/-- The words for the bind table: 16 entries of three words, bit 8 of the third set in an entry in use (log 23). -/
def bindWords (bs : List Bind) : List Word :=
  (List.range 16).flatMap fun i => match bs[i]? with
    | some b => [b.obj, b.base, BitVec.ofNat 64 (256 + b.lg)]
    | none => [0, 0, 0]

/-- The words for the failed tickets of the timelines (log 23). -/
def failedWords (tls : List Tl) : List Word :=
  tls.zipIdx.flatMap fun p => p.1.failed.map fun f =>
    BitVec.ofNat 64 (f.ticket % 2 ^ 40 + 2 ^ 40 * f.fail.status + 2 ^ 48 * f.fail.cause + 2 ^ 56 * f.reported.toNat + 2 ^ 60 * p.2)

/-- The mask of a result in 16 bytes: a bit for each byte of a vector register, and the mask itself of a narrower one (log 23). -/
def Out.maskBytes (o : Out) : List Byte :=
  match o.dst with
  | .v _ => bitBytes 16 fun i => o.mask.getLsbD (8 * i)
  | _ => natLe 16 o.mask.toNat

/-- A held or pending result in 160 bytes: its register, its remaining count with bit 62 set where a handler holds it aside and
bit 63 set in an entry in use, its mask and its value (20 R350; log 23). -/
def Pend.image (aside : Bool) (p : Pend) : List Byte :=
  natLe 8 p.out.dst.num ++ natLe 8 (p.rem + 2 ^ 62 * aside.toNat + 2 ^ 63) ++ p.out.maskBytes ++ natLe 128 p.out.data.toNat

/-- Bytes of an image before its window: its place in each part that R350 leaves open is the model's (log 23). -/
def Task.imageHead (t : Task) (ways : Nat) : List Byte :=
  let c := t.ctl
  let r := t.regs
  let wb := c.spl.toNat - c.spb.toNat
  let flags := c.intrap.toNat + 2 * c.sv.toNat + 4 * (t.status == .parked || !t.awaits.isEmpty).toNat + 8 * (t.status == .halted).toNat
  let codes := r.codes
  let head := wordBytes c.taskid ++ natLe 4 t.setId ++ natLe 4 flags ++ wordBytes t.loop.addr ++ natLe 4 wb ++
    natLe 1 ways ++ natLe 4 t.etchCursor
  let states := bitBytes 32 (fun i => (codes.getD (i / 2) (0, none)).1 / 2 ^ (i % 2) % 2 == 1) ++
    codes.flatMap fun k => match k.2 with
      | some f => natLe 1 f.cause ++ natLe 1 f.status
      | none => natLe 2 0
  let words : List Word := [r.sp, r.lk, r.p.setWidth 64, r.em.val.setWidth 64, r.cm.setWidth 64, r.fmt.setWidth 64] ++
    r.mp.toList ++ (t.tls.toList.flatMap fun l => [BitVec.ofNat 64 l.count, BitVec.ofNat 64 l.issued]) ++
    [c.status, c.cause, c.epc, c.eval, c.tvec, c.slim, c.spb, c.spl, c.iter, c.trip, c.taskid, c.coord, c.part, c.stage,
      c.srkey, c.srctr, c.wdint, c.trigcnt, c.mcstat, c.kvstat, c.xinfo, BitVec.ofNat 64 c.psv.toNat, c.wdcnt] ++
    c.sscr.toList ++ t.shadow.toList ++ bindWords t.binds ++ [BitVec.ofNat 64 t.biv.length] ++ failedWords t.tls.toList
  let results := (t.held.flatMap (Pend.image true)) ++ t.pend.flatMap (Pend.image false)
  let evals := codes.flatMap fun k => wordBytes ((k.2.map Fail.eval).getD 0)
  padTo 0x100 head ++ r.s.toList.flatMap (fun x => wordBytes x.val) ++ padTo 0x100 states ++
    r.v.toList.flatMap (fun x => natLe 128 x.val.toNat) ++ padTo 0x400 (words.flatMap wordBytes) ++ padTo 0x1400 results ++
    padTo 0x400 evals

/-- The parts of an image after its head: offsets of the full/empty bits, the poison bits and the extension, for a window
of `wb` bytes. -/
def imageParts (wb : Nat) : Nat × Nat × Nat := (0x3000 + wb, 0x3000 + wb + wb / 32, 0x3000 + wb + wb / 32 + wb / 256)

/-- The physical address and the length of a task's window. -/
def Task.window (t : Task) : Nat × Nat := (padBase t.loc + t.ctl.spb.toNat, t.ctl.spl.toNat - t.ctl.spb.toNat)

/-- The image of a task as it is saved. -/
def State.imageBytes (s : State) (t : Task) (ways : Nat) : List Byte :=
  let (pa, wb) := t.window
  t.imageHead ways ++ s.bytes pa wb ++ bitBytes (wb / 32) (fun i => s.full (pa + 4 * i)) ++
    bitBytes (wb / 256) (fun i => s.poisoned (pa + 32 * i)) ++ s.bytes (padBase t.loc + padSize) (0x8000 * ways)

/-! ### Saving (15 R298, R299) -/

/-- Whether an operation holds a task on its core: it accesses its window, or the core's ways. -/
def Op.pins (t : Task) (o : Op) : Bool :=
  let (lo, n) := t.window
  let mine (d : Dest) : Bool := match d with
    | .pad pa => meet lo n pa 8
    | .ext _ => true
    | _ => false
  match o.kind with
  | .mma _ | .attn _ | .wayconv _ | .wayrest | .feSet .. | .feGet _ | .feRead .. | .feWrite .. | .heldRead .. |
    .heldWrite .. | .cmd _ => true
  | .atomic c => mine c.dst
  | .acq d .. | .rel d .. => mine d
  | _ => false

/-- Whether a task can be saved now: its MMA and ATTN commands, its hauls into its window, and the operations that access
its scratchpad are complete (15 R298; log 24), and the etch ring has room. -/
def State.savable (s : State) (t : Task) : Bool :=
  !t.ops.any (Op.pins t) &&
    !(s.hauls.any fun h => h.task == t.id && !Shadow.net h.fields && !Shadow.belay h.fields && !Shadow.dfab h.fields &&
      h.fields[1].toNat < 0x400000) &&
    !(s.kvcmds.any fun c => c.task == t.id && !c.performed && (c.kind == .kwr || c.kind == .kquery)) &&
    !s.ringFull t.ctx

/-- A task saved into slot `k` of its context's image pool: its bivouac entries go to the ring (09 R204), its context's dirty bytes
are written back, and its issue context and window are free. Converted ways go with it unless another task of its context stays on the core. -/
def State.save (s : State) (t : Task) (c : Ctx) (k : Nat) : State :=
  let s1 := (s.spillTask t).flushCtx t.loc t.ctx
  let core := s1.core t.loc
  let alone := !(s1.onCore t.loc).any fun u => u.id != t.id && u.ctx == t.ctx
  let ways := if core.extOwner = t.ctx ∧ alone = true then core.extWays else 0
  let s2 := s1.unitWrite t.agent (c.imgbase + k * c.imgsz) ((s1.imageBytes t ways).map some)
  let s3 := if ways = 0 then s2
    else (s2.clearPad t.loc padSize 0x400000).updCore t.loc fun c => { c with extWays := 0, extOwner := 0 }
  let pre := t.status == .stopped
  let s4 := s3.updTask t.id fun t => { t with
    status := .saved, image := some k, savedWays := ways, preempt := false, preemptFor := none, parkedLong := false, latched := pre
    readyAt := if pre then s.tick else t.readyAt }
  s4.decision t (if pre then 0x14 else 0x13) t.loc

/-- The tile hauls of a task dropped, with what they asked of the fabric. -/
def State.dropTiles (s : State) (t : Task) : State :=
  let mine := (s.hauls.filter fun h => h.tile == some t.id).map Haul.id
  { s with
    hauls := s.hauls.filter fun h => !mine.contains h.id
    fabric := { s.fabric with out := s.fabric.out.filter fun o => !mine.any fun id => o.haul == some id } }

/-- A bound task that waited for a belay buffer put back into its ready queue; its tiles are loaded again (18 R324). -/
def State.unbind (s : State) (t : Task) : State :=
  (s.dropTiles t).updTask t.id fun t => { t with status := .ready, parkedLong := false, tilesLeft := [] }

/-- Whether a pre-emption that was asked for still has a reason (15 R299, R300). -/
def State.preemptStands (s : State) (t : Task) : Bool :=
  s.yields t || (s.ptPreempt t.partition &&
    s.tasks.any fun x => x.ready && x.target == sliceOf t.loc && s.rank x < s.ptPrio t.partition)

/-- The issue context that a victim frees given to the task that it was freed for, where the ring has room for the decision
(19 R331). -/
def State.giveTo (s : State) (x : Option Task) (loc : Nat) : State :=
  match x with
  | some x => if x.fitsWith (s.onCore loc) && s.spqRoom x && s.treeRoom x (sliceOf loc) && !s.ringFull x.ctx then s.bindTo x loc else s
  | none => s

/-- The waiting task that a stopped one leaves its issue context to: the one that the pre-emption was asked for while it
still waits for a context, else the first one waiting that fits there (15 R299, R300). -/
def State.heirOf (s : State) (t : Task) : Option Task :=
  let xs := (s.stuckIn (sliceOf t.loc)).filter fun x => s.freedFor x t
  (xs.find? fun x => t.preemptFor == some x.id).or xs.head?

/-- A task stopped at its KNEXT that goes on where it is. -/
def Task.keeps (t : Task) : Task := { t with status := .running, preempt := false, preemptFor := none }

/-- SWAP_OUT (15 R298 to R301, 18 R324): a parked victim, or a task stopped at its KNEXT, is saved, and its issue context
goes to the task that waits for it. -/
def execSwapOut (id : Nat) (s : State) : Res :=
  .next (match s.task id with
    | none => s
    | some t =>
      let slice := sliceOf t.loc
      let forWhom := ((s.victims (s.stuckIn slice)).find? fun p => p.2.1 && p.2.2.id == id).map fun p => p.1
      match t.status with
      | .bound => if forWhom.isSome && s.waitsBelay t then (s.unbind t).giveTo forWhom t.loc else s
      | .parked =>
        (match forWhom, (s.ctxOf t.ctx).bind fun c => (s.freeImage c).map fun k => (c, k) with
         | some x, some (c, k) => if s.savable t then (s.save t c k).giveTo (some x) t.loc else s
         | _, _ => s)
      | .stopped =>
        if !s.preemptStands t then s.updTask id Task.keeps
        else
          (match (s.ctxOf t.ctx).bind fun c => (s.freeImage c).map fun k => (c, k) with
           | some (c, k) =>
             if s.savable t then
               (s.save t c k).giveTo (s.heirOf t) t.loc
             else s
           | none => s.updTask id Task.keeps)
      | _ => s)

/-! ### Restoring (15 R299, 20 R350) -/

/-- Whether the converted ways of an image can be converted on a core (04 R88). -/
def State.waysFree (s : State) (t : Task) : Bool :=
  t.savedWays == 0 || ((s.core t.loc).extWays + (s.core t.loc).converting == 0)

/-- The images of saved tasks that a step has changed written again: what arrives for a swapped-out task lands in its image
(06 R133, 20 R350, R353). -/
def State.refreshImages (s old : State) : State :=
  s.tasks.foldl (fun s t =>
    match t.image, old.task t.id, s.ctxOf t.ctx with
    | some k, some u, some c =>
      let bs := ((t.imageHead t.savedWays).zip (u.imageHead u.savedWays)).map fun p => if p.1 = p.2 then none else some p.1
      if u.image = some k ∧ bs.any Option.isSome then s.unitWrite t.agent (c.imgbase + k * c.imgsz) bs else s
    | _, _, _ => s) s

/-- The poisoned granules of `n` bytes of an image charged to its context, each once (20 R350, 01 R21). -/
def State.chargeImage (s : State) (ctx pa n : Nat) : State :=
  (List.range (n / 32)).foldl (fun s i => if s.poisoned (pa + 32 * i) then s.chargeOnce ctx (pa + 32 * i) else s) s

/-- An image that is read: the machine, the context that it belongs to, and where it begins. -/
structure Image where
  s : State
  ctx : Nat
  base : Nat

/-- Bytes of an image. -/
def Image.bytes (m : Image) (off n : Nat) : List Byte := m.s.unitBytes m.ctx (m.base + off) n

/-- A number in an image. -/
def Image.nat (m : Image) (off n : Nat) : Nat := leNat (m.bytes off n)

/-- Whether any of some bytes of an image is poisoned. -/
def Image.bad (m : Image) (off n : Nat) : Bool := m.s.anyPoison (m.base + off) n

/-- Word `i` of the special and control registers of an image (log 23). -/
def Image.word (m : Image) (i : Nat) : Word := BitVec.ofNat 64 (m.nat (0x1400 + 8 * i) 8)

/-- The state code and the failure of the register of number `i` in an image. -/
def Image.code (m : Image) (i : Nat) : Nat × Fail :=
  (m.nat (0x300 + i / 4) 1 / 4 ^ (i % 4) % 4,
    ⟨m.nat (0x320 + 2 * i) 1, m.nat (0x321 + 2 * i) 1, BitVec.ofNat 64 (m.nat (0x2C00 + 8 * i) 8), none⟩)

/-- A register as an image has it (20 R350). What the image has no place for is kept beside it (log 23): the producers of an EMPTY
register, and of a FAILED one its producer and the value after. One read from a poisoned granule is POISONED, but for an EMPTY
one. -/
def Image.reg {w : Nat} (m : Image) (x : Reg w) (i off n : Nat) : Reg w :=
  let val := BitVec.ofNat w (m.nat off n)
  let (k, f) := m.code i
  let st : RState w :=
    if k = 1 then match x.st with
      | .empty n b f p => .empty n b f p
      | _ => .empty 0 val none false
    else if m.bad (0x300 + i / 4) 1 || m.bad off n then .poisoned
    else if k = 2 then match x.st with
      | .failed g op after => .failed { f with link := g.link } op after
      | _ => .failed f 0 val
    else if k = 3 then .poisoned
    else .full
  ⟨val, st⟩

/-- A register that has no poison. -/
def Reg.unpoisoned {w : Nat} (x : Reg w) : Reg w := if x.st = .poisoned then ⟨x.val, .full⟩ else x

/-- The register files as an image has them; em has no poison (06 R121). -/
def Image.regs (m : Image) (r : Regs) : Regs :=
  { s := r.s.mapIdx fun i x => if i = 0 then x else m.reg x i (0x100 + 8 * i) 8
    v := r.v.mapIdx fun i x => m.reg x (64 + i) (0x400 + 128 * i) 128
    em := (m.reg r.em 96 0x1418 4).unpoisoned
    p := (m.word 2).setWidth 8 ||| 1
    cm := (m.word 4).setWidth 32
    fmt := (m.word 5).setWidth 32
    sp := m.word 0
    lk := m.word 1
    mp := Vector.ofFn fun i => m.word (6 + i) }

/-- The held or pending result in place `i` of an image, if there is one: whether it is held aside, and the result. -/
def Image.result (m : Image) (i : Nat) : Option (Bool × Pend) :=
  let off := 0x1800 + 160 * i
  let k := m.nat (off + 8) 8
  if k / 2 ^ 63 = 0 then none
  else (Dst.ofNum (m.nat off 8)).map fun d =>
    let bits := m.nat (off + 16) 16
    let mask := match d with
      | .v _ => BitVec.ofNat 1024 (packElems 8 ((List.range 128).map fun j => if bits.testBit j then 255 else 0))
      | _ => BitVec.ofNat 1024 bits
    (k / 2 ^ 62 % 2 = 1, ⟨k % 2 ^ 32, d, mask, BitVec.ofNat 1024 (m.nat (off + 32) 128)⟩)

/-- The held and the pending results of an image; those beyond its 32 places are kept beside it (log 23). -/
def Image.results (m : Image) (t : Task) : List Pend × List Pend :=
  let ps := (List.range 32).filterMap m.result
  ((ps.filter Prod.fst).map Prod.snd ++ t.held.drop 32,
    (ps.filter fun p => !p.1).map Prod.snd ++ t.pend.drop (32 - t.held.length))

/-- The timelines of a task as an image has them: its counts, and the failed tickets in its 15 places. A ticket's c.EVAL, its
producer, tickets completed ahead and the failed tickets beyond are kept beside it (log 23). -/
def Image.tls (m : Image) (t : Task) : Vector Tl 6 :=
  let ws := ((List.range 15).map fun i => (m.word (113 + i)).toNat).filter (· ≠ 0)
  let beyond := (t.tls.toList.zipIdx.flatMap fun p => p.1.failed.map fun f => (p.2, f.ticket)).drop 15
  t.tls.mapIdx fun i l =>
    { l with
      count := m.nat (0x1470 + 16 * i) 8
      issued := m.nat (0x1478 + 16 * i) 8
      failed := ((ws.filter fun w => w / 2 ^ 60 = i).map fun w =>
          let g := l.failed.find? fun f => f.ticket % 2 ^ 40 = w % 2 ^ 40
          { ticket := (g.map FailedTicket.ticket).getD (w % 2 ^ 40)
            fail := ⟨w / 2 ^ 48 % 256, w / 2 ^ 40 % 256, (g.map fun f => f.fail.eval).getD 0, g.bind fun f => f.fail.link⟩
            op := g.bind FailedTicket.op
            reported := w / 2 ^ 56 % 2 = 1 : FailedTicket }) ++
        l.failed.filter fun f => beyond.contains (i, f.ticket) }

/-- The bind table of an image. -/
def Image.binds (m : Image) : List Bind :=
  (List.range 16).filterMap fun i =>
    let k := (m.word (66 + 3 * i)).toNat
    if k / 256 = 0 then none else some ⟨m.word (64 + 3 * i), m.word (65 + 3 * i), k % 256⟩

/-- The control registers that a program writes as an image has them, the task's own identity and bounds as they are kept beside
it (log 23). -/
def Image.ctl (m : Image) (c : Ctl) : Ctl :=
  let status := m.word 26
  { c with
    sv := status.getLsbD 0, scopex := status.getLsbD 1, convx := status.getLsbD 2, intrap := status.getLsbD 3
    cause := m.word 27, epc := m.word 28, eval := m.word 29
    slim := m.word 31, iter := m.word 34, srkey := m.word 40, srctr := m.word 41
    mcstat := m.word 44, kvstat := m.word 45, xinfo := m.word 46
    psv := (m.word 47).getLsbD 0
    sscr := Vector.ofFn fun i => m.word (49 + i) }

/-- The bit `i` of bytes from an offset of an image. -/
def Image.bit (m : Image) (off i : Nat) : Bool := (m.nat (off + i / 8) 1).testBit (i % 8)

/-- Bytes of an image put into a core's scratchpad slot, poisoned where the image is. -/
def State.fromImage (s : State) (m : Image) (off dst n : Nat) : State :=
  let s1 := s.padWrite dst ((m.bytes off n).map some)
  (List.range (n / 32)).foldl (fun s i =>
    if m.bad (off + 32 * i) 32 then s.padPoison (dst + 32 * i) else s.clearPoison (dst + 32 * i)) s1

/-- The window of a task taken from its image: bytes, full/empty bits and poison bits. -/
def State.windowBack (s : State) (t : Task) (m : Image) : State :=
  let (pa, wb) := t.window
  let (fe, psn, _) := imageParts wb
  let s1 := s.fromImage m 0x3000 pa wb
  let s2 := (List.range (wb / 4)).foldl (fun s i => s.setFull (pa + 4 * i) (m.bit fe i)) s1
  (List.range (wb / 32)).foldl (fun s i => if m.bit psn i then s.padPoison (pa + 32 * i) else s) s2

/-- The converted ways of an image converted on its new core: the lines of the ways are written back and dropped, and the
extension is as it was saved (04 R87, R88). -/
def State.waysBack (s : State) (t : Task) (m : Image) : State :=
  if t.savedWays = 0 then s
  else
    let s1 := s.updCore t.loc fun c => { c with extWays := t.savedWays, extOwner := t.ctx }
    let gone := (List.range 512).flatMap fun set => s1.excess t.loc set
    let s2 := s1.tookFree.dropLines fun l => l.loc == t.loc && gone.contains l.line
    s2.fromImage m (imageParts t.window.2).2.2 (padBase t.loc + padSize) (0x8000 * t.savedWays)

/-- TASK_RESTORE (15 R299, 20 R350): a bound task goes on from its image. A poisoned granule of it makes POISONED
registers or poisoned granules, and is charged to its context. -/
def execTaskRestore (id : Nat) (s : State) : Res :=
  .next (match s.task id with
    | none => s
    | some t =>
      match t.image, s.ctxOf t.ctx with
      | some k, some c =>
        if t.status != .bound || !s.waysFree t || s.etchFull c then s
        else
          let base := c.imgbase + k * c.imgsz
          let n := (imageParts t.window.2).2.2 + 0x8000 * t.savedWays
          let s0 := s.unitTouch c.id base n
          let m : Image := ⟨s0, c.id, base⟩
          let s2 := (((s0.windowBack t m).waysBack t m).advanceGen t.loc).chargeImage c.id base n
          let (held, pend) := m.results t
          (s2.updTask id fun t => { t with
            status := .running, regs := m.regs t.regs, image := none, latched := false, savedWays := 0, awaits := []
            held := held, pend := pend, tls := m.tls t, binds := m.binds, etchCursor := m.nat 29 4
            shadow := Vector.ofFn fun i => m.word (53 + i)
            startedAt := s.tick, parkedAt := 0
            ctl := { m.ctl t.ctl with tvec := c.tvec, wdcnt := 0 } }).decision t 0x15 t.loc
      | _, _ => s)

end Sys2Proof.Machine
end

