-- ==== Sys2Proof/Machine/Background.lean ====
section
/-! DEFINITION. What the machine's own units do while no bundle can issue: the events that may come next, in the order in
which they are tried (log 1); what the end of a step adds: dropped writes charged, changed peers noticed, time passed. -/

namespace Sys2Proof.Machine

/-! ### Loop-back (03 R62) -/

/-- Something that may happen next: what it does to the machine. -/
abbrev Event := State → Res

/-- The event that a packet of this module for itself is. -/
def State.loopEvent (s : State) (p : Envelope × Packet) : Option Event :=
  let me (m : Nat) (i : Event) : Option Event := if m = s.mid then some i else none
  match p.2 with
  | .request m q => me m (execRemoteRequest q)
  | .reply m r => me m (execRemoteReply r)
  | .ack m id st seq => me m (execStoreAck p.1 id st seq)
  | .stale m id a b => me m (execStaleNotice id a b)
  | .multicast m _ q => me m fun s => .next (s.multicastOwn q)
  | _ => none

/-- The first packet for this module itself, with the machine that no longer holds it. -/
def State.loopback (s : State) : Option (Event × State) :=
  match s.fabric.sent.find? fun p => (s.loopEvent p).isSome with
  | some p => (s.loopEvent p).map fun i => (i, s.updFabric fun f => { f with sent := f.sent.erase p })
  | none => none

/-! ### Candidates -/

/-- The event that completes an operation or performs it. -/
def Op.event (o : Op) : List Event :=
  match o.kind with
  | .div => [execScalarDivComplete o.id]
  | .x => [execXResultComplete o.id]
  | .drain => [execVdrainComplete o.id]
  | .mma _ => [execMmaComplete o.id]
  | .attn _ => []
  | .kv n => [execKvOpComplete n, execAppendWaitResume n]
  | .tlbinv .. => [execTlbinvComplete o.id]
  | .acq .. => [execAcqWake o.id, execAcqRemoteNotYet (.again o.id)]
  | .rel .. => [execRelPerform o.id]
  | .fence .. => [execFencePerform o.id]
  | .atomic _ => [execRelPerform o.id, execLoadComplete o.id]
  | .feRead pa _ => [execFeWaitGrant pa, execLoadComplete o.id]
  | .feWrite pa .. => [execFeWaitGrant pa, execLoadComplete o.id]
  | .wayconv _ => [execWayconvDrainDone o.id]
  | .wayrest => [execWayrestDone o.id]
  | _ => [execLoadComplete o.id]

/-- The events of a task's life. -/
def State.taskEvents (s : State) (t : Task) : List Event :=
  (t.ops.flatMap Op.event) ++
    match t.status with
    | .ready => (s.bindable t).map execTaskBind
    | .bound => [execTaskStart t.id, execTaskRestore t.id]
    | .running => if t.wdExpired then [execWatchdog t.id] else []
    | .parked => (if t.wdExpired then [execWatchdog t.id] else []) ++ [execSwapOut t.id]
    | .stopped => [execSwapOut t.id]
    | .halted => []
    | .saved => if t.latched then (s.bindable t).map execTaskBind else []
    | .ending => [execTaskEnd t.id]

/-- The events of the haul engines and the belay channels. -/
def State.haulEvents (s : State) : List Event :=
  (s.hauls.flatMap fun h => [execHaulStart h.engine, execHaulComplete h.id]) ++
    s.ctxs.flatMap fun c => c.channels.flatMap fun ch => [execBelayTransferHeld c.id ch.n false, execBelayTransferHeld c.id ch.n true]

/-- The events of the cairn controllers and the traverse units. -/
def State.kvEvents (s : State) : List Event :=
  (s.streams.flatMap fun x => [execStreamAssign x.id, execFrameOpen x.id, execAttnPageLand x.id, execAttnSlotConsume x.id, execFrameClose x.id,
    execAttnComplete x.id]) ++
    (s.spaces.flatMap fun p => p.moves.flatMap fun m => [execMoveHold p.id m.ident, execMoveSwitch p.id m.ident]) ++
    s.kvcmds.flatMap fun c => [execKvOpComplete c.n, execAppendWaitResume c.n]

/-- The events of the dispatcher and the watch units. -/
def State.launchEvents (s : State) : List Event :=
  (s.triggers.filterMap fun t => (s.watches.find? fun w => w.key == t.key).map fun w =>
    if w.mode = 2 then execMailboxSubmit w.id (w.offset t.value.toNat / 64) else execWatchTrigger w.id) ++
    (if s.subs.isEmpty then [] else [execLaunchAccept]) ++
    s.sets.flatMap fun x => (x.cl.map fun e => execCounterTreeFlush x.ctx x.id (sliceDie e.1) (some (e.1 - sliceBase (sliceDie e.1)))) ++
      x.di.map fun e => execCounterTreeFlush x.ctx x.id e.1 none

/-- The event of the command at the head of the security controller's queue. -/
def State.scEvents (s : State) : List Event :=
  match s.sec.queue with
  | [] => []
  | e :: _ =>
    match field (s.scBytes e) 0 2 with
    | 1 => [execCtxCreate]
    | 2 => [execCtxDestroy]
    | 3 => [execKeyNew]
    | 4 => [execKeyClear]
    | 5 => [execCtxRekey]
    | 6 => [execSegLoad]
    | 7 => [execSegUnload]
    | 8 => [execDbgNonce (s.freeVal 64)]
    | 9 => [execDbgUnlock]
    | 10 => [execDbgLock]
    | 11 => [execArbRaise]
    | _ => [execCtxSetetch]

/-- The events of the memory controllers: rebuilds of retired channels, and passes that rotate a key. -/
def State.memEvents (s : State) : List Event :=
  (s.retiring.map fun r => execRetireStripeRebuild r.die r.stack) ++
    ((List.range 6).flatMap fun die => (List.range 5).filterMap fun k =>
      if hasBlock die k && (s.mcrGet (hmrot die k)).getLsbD 17 then some (execScrubPass die k ⟨stripes, []⟩) else none)

/-- What may happen next inside the machine, in the order in which it is tried. -/
def State.candidates (s : State) : List Event :=
  s.tasks.flatMap s.taskEvents ++ s.kvEvents ++ s.haulEvents ++ s.launchEvents ++ s.scEvents ++ s.memEvents

/-! ### The end of a step -/

/-- The die whose unit meets an error at an address. -/
def State.ueDie (s : State) (pa : Nat) : Nat :=
  match s.place pa with
  | .weights k _ => 2 + k
  | .pad l _ => dieOf l
  | _ => (s.memSite pa).1

/-- An error that was met counted and recorded at its controller, where its kind has a record (01 R20, R30). -/
def State.logFound (s : State) (x : Found) : State :=
  if x.type = 0 then s
  else
    let site := s.memSite x.pa
    (s.countError site.1 site.2.1 site.2.2 32).errLog site.1 x.type site.2.1 site.2.2 x.slot 0 (BitVec.ofNat 64 x.pa)

/-- Errors recorded and charged to their contexts in the order in which they were met (01 R21, 20 R352); one that is charged to a
context that is not live resets the module, and with it the rest are forgotten (24 R375). -/
def State.chargeAll (s : State) : List Found → State
  | [] => s
  | x :: xs =>
    let s1 := s.logFound x
    match x.owner with
    | none => s1.chargeAll xs
    | some c => if (s1.ctxOf c).isNone then s1.chargeUe c 0 x.pa else (s1.chargeUe c (s1.ueDie x.pa) x.pa).chargeAll xs

/-- The errors that a step has met, and those that recording them meets; `fuel` bounds how often. -/
def State.chargeFound : Nat → State → State
  | 0, s => s
  | fuel + 1, s => if s.found.isEmpty then s else State.chargeFound fuel (State.chargeAll { s with found := [] } s.found)

/-- The modules with which frames are lent either way. -/
def State.partners (s : State) : List Nat :=
  (s.spaces.flatMap fun p => (p.frames.filter fun e => e.2.lentOut || (e.2.lentIn && !e.2.lost)).map fun e => e.2.peer).eraseDups

/-- The entries of the peer table that a step changed for such modules: their earlier lives are lost (02 R53). -/
def State.noticePeers (s old : State) : State :=
  (s.partners.filter fun m => s.peerInc m != old.peerInc m).foldl (fun s m => ((s.borrowerLost m).lenderLost m none).kvSync s) s

/-- Whether an operation is a command that waits for the supervisor (20 R346). -/
def State.heldOp (s : State) (o : Op) : Bool :=
  match o.kind with
  | .attn x => s.streams.any fun y => y.id == x && y.stuck.isSome
  | .kv n => s.kvcmds.any fun c => c.n == n && c.stuck.isSome
  | _ => false

/-- Whether the incomplete commands of a task up to a ticket of a timeline all wait for the supervisor (20 R346). -/
def State.heldTickets (s : State) (t : Task) (tl n : Nat) : Bool :=
  let all (l : List Bool) : Bool := !l.isEmpty && l.all id
  match tl with
  | 0 => all ((s.hauls.filter fun h => h.task == t.id && h.ticket ≤ n).map fun h => match h.st with
    | .waiting _ => true
    | _ => false)
  | 2 => all ((s.streams.filter fun x => x.task == t.id && x.ticket ≤ n).map fun x => x.stuck.isSome)
  | 4 => all ((s.kvcmds.filter fun c => c.task == t.id && c.ticket ≤ n).map fun c => c.stuck.isSome)
  | _ => false

/-- Whether a task waits only for commands that wait for the supervisor (20 R346, R351): parked for their registers, or in a TLWAIT
for their tickets. -/
def State.onlyHeld (s : State) (t : Task) : Bool :=
  match t.status, t.stalled with
  | .parked, _ =>
    let need := t.ops.filter fun o => o.outs.any fun x => t.awaits.contains x.dst
    !need.isEmpty && need.all s.heldOp
  | .running, some (pc, tl, n) => t.pc == pc && s.heldTickets t tl n
  | _, _ => false

/-- Whether the cycles of a step count for a task's watchdog (20 R351). -/
def State.counts (s : State) (t : Task) : Bool :=
  (t.status == .running || t.status == .parked) && !t.ctl.intrap && !s.onlyHeld t

/-- The cycles of a step counted by a task's watchdog. -/
def State.countTask (s : State) (t : Task) : Task :=
  if s.counts t then { t with ctl := { t.ctl with wdcnt := t.ctl.wdcnt + BitVec.ofNat 64 (Config.stepCycles (s.tick * 1024 + t.loc)) } } else t

/-- Time passes (log 4): the step is counted, and the cores that hold tasks count cycles. -/
def State.passTime (s : State) : State :=
  let locs := ((s.tasks.filter fun t => t.id != 0 && (t.status == .running || t.status == .parked || t.status == .halted)).map
    Task.loc).eraseDups
  let s1 := locs.foldl (fun s loc => s.updCore loc fun c =>
    { c with cycles := c.cycles + BitVec.ofNat 64 (Config.stepCycles (s.tick * 1024 + loc)) }) s
  { s1 with
    cur := s.countTask s1.cur
    others := s1.others.map s.countTask
    tick := s1.tick + 1 }

/-- No bundle is being executed. -/
def State.settled (s : State) : State := { s with scr := Scratch.clean }

/-- What the end of a step that began at `old` adds. -/
def State.stepEnd (s old : State) : State :=
  let s1 := (s.settled.noticePeers old).sendHeld.seeTails.serveWaits.wakeAcqs
  ((State.chargeFound 16 s1).refreshImages old).passTime

end Sys2Proof.Machine
end

