-- ==== Sys2Proof/Machine/Debug.lean ====
section
/-! DEFINITION. The debugger (23 R366, 08 R180): halting and resuming tasks of the contexts that debug admits, and their registers,
images and memory. -/

namespace Sys2Proof.Machine

/-- Whether the debugger may act on a context (23 R366): debug is unlocked, the token admits the context, and it lacks
DBGX. -/
def State.debugs (s : State) (ctx : Nat) : Bool :=
  s.sec.unlocked && !((s.ctxOf ctx).map Ctx.dbgx).getD true &&
    (s.sec.admits == BitVec.allOnes 256 || s.sec.admits.getLsbD ctx)

/-- The task of an id, where the debugger may act on its context. -/
def State.debugTask (s : State) (id : Nat) : Option Task := (s.task id).filter fun t => s.debugs t.ctx

/-- The bits of a register of a task, how many there are, and whether it is POISONED. -/
def State.debugValue (s : State) (t : Task) (d : Dst) : BitVec 1024 × Nat × Bool :=
  let r := t.regs
  match d with
  | .s i => ((r.s[i]).val.setWidth 1024, 8, (r.s[i]).st == .poisoned)
  | .v i => ((r.v[i]).val, 128, (r.v[i]).st == .poisoned)
  | .em => (r.em.val.setWidth 1024, 4, false)
  | .p i => (if r.p.getLsbD i.val then 1 else 0, 1, false)
  | .cm => (r.cm.setWidth 1024, 4, false)
  | .fmt => (r.fmt.setWidth 1024, 4, false)
  | .sp => (r.sp.setWidth 1024, 8, false)
  | .lk => (r.lk.setWidth 1024, 8, false)
  | .mp k => (r.mp[k].setWidth 1024, 8, false)
  | .convx => (if t.ctl.convx then 1 else 0, 1, false)
  | .cr k => (({ s with cur := t }.readCtl k).setWidth 1024, 8, false)
  | .shadow k => ((t.shadow.toList.getD k 0).setWidth 1024, 8, false)

/-- A register that the debugger writes: FULL, unless a producer is outstanding for it, which will fill it. -/
def Reg.debugPut {w : Nat} (x : Reg w) (v : BitVec 1024) : Reg w :=
  match x.st with
  | .empty .. => { x with val := v.setWidth w }
  | _ => Reg.ofVal (v.setWidth w)

/-- A register of a task written by the debugger. -/
def Task.debugPut (t : Task) (d : Dst) (v : BitVec 1024) : Task :=
  let r := t.regs
  match d with
  | .s i => if i = 0 then t else { t with regs := { r with s := r.s.set i (r.s[i].debugPut v) } }
  | .v i => { t with regs := { r with v := r.v.set i (r.v[i].debugPut v) } }
  | .em => { t with regs := { r with em := r.em.debugPut v } }
  | .convx => { t with ctl := { t.ctl with convx := v.getLsbD 0 } }
  | d => t.land ⟨d, BitVec.allOnes 1024, v⟩

/-- Where bytes of an image of a context that the debugger may act on lie. -/
def State.debugImage (s : State) (ctx image off n : Nat) : Option Nat :=
  match s.ctxOf ctx with
  | some c => if s.debugs ctx && image < c.imgn && off + n ≤ c.imgsz then some (c.imgbase + image * c.imgsz + off) else none
  | none => none

/-- DEBUGGER_HALT (08 R180, 23 R366): a debugger halts a task of a context that it may debug, or reads or writes registers, images
or memory of such a context, its memory with the context's own translation. -/
def execDebuggerHalt (x : DebugReq) (s : State) : Res :=
  .next (match x with
    | .halt id =>
      match s.debugTask id with
      | some t => if t.status == .running || t.status == .parked then s.updTask id fun t => { t with status := .halted } else s
      | none => s
    | .readReg id n =>
      match s.debugTask id, Dst.ofNum n with
      | some t, some d =>
        let (v, len, bad) := s.debugValue t d
        s.emit (.debug (natLe len v.toNat) bad)
      | _, _ => s
    | .writeReg id n v =>
      match s.debugTask id, Dst.ofNum n with
      | some _, some d => s.updTask id fun t => t.debugPut d v
      | _, _ => s
    | .readMem ctx va n =>
      if !s.debugs ctx then s
      else
        let s1 := s.ctxTouch ctx va n
        match s1.ctxRead ctx va n with
        | some (bs, bad) => s1.emit (.debug bs bad)
        | none => s1
    | .writeMem ctx va bs => if s.debugs ctx then s.ctxPut ctx va bs else s
    | .readImage ctx k off n =>
      match s.debugImage ctx k off n with
      | some pa =>
        let (s1, bs, bad) := s.homeRead ctx pa n
        s1.emit (.debug bs bad)
      | none => s
    | .writeImage ctx k off bs =>
      match s.debugImage ctx k off bs.length with
      | some pa => s.homeWrite ⟨ctx, 0, 0, 0⟩ pa (bs.map some)
      | none => s)

/-- DEBUGGER_RESUME (08 R180, 23 R366): a halted task goes on at the bundle at pc. -/
def execDebuggerResume (id : Nat) (s : State) : Res :=
  s.timed id (fun t => t.status == .halted && s.debugs t.ctx) fun t => { t with status := .running }

end Sys2Proof.Machine
end

