-- ==== Sys2Proof/Machine/Dispatch.lean ====
section
/-! DEFINITION. One arm per instruction: each calls its meaning. -/

namespace Sys2Proof.Machine

/-- The meaning of an instruction at a state. -/
def exec (i : Instr) (s : State) : Host.Outcome State Fault Refusal :=
  match i with
  | .nop => Sys2Proof.Machine.execNop s
  | .add o => Sys2Proof.Machine.execAdd o s
  | .sub o => Sys2Proof.Machine.execSub o s
  | .addi o => Sys2Proof.Machine.execAddi o s
  | .mul o => Sys2Proof.Machine.execMul o s
  | .mulh o => Sys2Proof.Machine.execMulh o s
  | .div o => Sys2Proof.Machine.execDiv o s
  | .divu o => Sys2Proof.Machine.execDivu o s
  | .rem o => Sys2Proof.Machine.execRem o s
  | .remu o => Sys2Proof.Machine.execRemu o s
  | .and o => Sys2Proof.Machine.execAnd o s
  | .or o => Sys2Proof.Machine.execOr o s
  | .xor o => Sys2Proof.Machine.execXor o s
  | .andi o => Sys2Proof.Machine.execAndi o s
  | .ori o => Sys2Proof.Machine.execOri o s
  | .xori o => Sys2Proof.Machine.execXori o s
  | .shl o => Sys2Proof.Machine.execShl o s
  | .shr o => Sys2Proof.Machine.execShr o s
  | .sar o => Sys2Proof.Machine.execSar o s
  | .shli o => Sys2Proof.Machine.execShli o s
  | .shri o => Sys2Proof.Machine.execShri o s
  | .sari o => Sys2Proof.Machine.execSari o s
  | .rotl o => Sys2Proof.Machine.execRotl o s
  | .clz o => Sys2Proof.Machine.execClz o s
  | .ctz o => Sys2Proof.Machine.execCtz o s
  | .popc o => Sys2Proof.Machine.execPopc o s
  | .min o => Sys2Proof.Machine.execMin o s
  | .max o => Sys2Proof.Machine.execMax o s
  | .sel o => Sys2Proof.Machine.execSel o s
  | .li o => Sys2Proof.Machine.execLi o s
  | .lsi o => Sys2Proof.Machine.execLsi o s
  | .cmp o => Sys2Proof.Machine.execCmp o s
  | .cmpi o => Sys2Proof.Machine.execCmpi o s
  | .pand o => Sys2Proof.Machine.execPand o s
  | .por o => Sys2Proof.Machine.execPor o s
  | .pxor o => Sys2Proof.Machine.execPxor o s
  | .pandc o => Sys2Proof.Machine.execPandc o s
  | .porc o => Sys2Proof.Machine.execPorc o s
  | .pnand o => Sys2Proof.Machine.execPnand o s
  | .pnor o => Sys2Proof.Machine.execPnor o s
  | .pxnor o => Sys2Proof.Machine.execPxnor o s
  | .ppack o => Sys2Proof.Machine.execPpack o s
  | .punpack o => Sys2Proof.Machine.execPunpack o s
  | .fadd o => Sys2Proof.Machine.execFadd o s
  | .fsub o => Sys2Proof.Machine.execFsub o s
  | .fmul o => Sys2Proof.Machine.execFmul o s
  | .ffma o => Sys2Proof.Machine.execFfma o s
  | .fmin o => Sys2Proof.Machine.execFmin o s
  | .fmax o => Sys2Proof.Machine.execFmax o s
  | .fcmp o => Sys2Proof.Machine.execFcmp o s
  | .fcvt o => Sys2Proof.Machine.execFcvt o s
  | .fdiv o => Sys2Proof.Machine.execFdiv o s
  | .fsqrt o => Sys2Proof.Machine.execFsqrt o s
  | .crd o => Sys2Proof.Machine.execCrd o s
  | .cwr o => Sys2Proof.Machine.execCwr o s
  | .fmtset o => Sys2Proof.Machine.execFmtset o s
  | .emsave o => Sys2Proof.Machine.execEmsave o s
  | .emload o => Sys2Proof.Machine.execEmload o s
  | .emcomb o => Sys2Proof.Machine.execEmcomb o s
  | .cmsave o => Sys2Proof.Machine.execCmsave o s
  | .cmload o => Sys2Proof.Machine.execCmload o s
  | .br o => Sys2Proof.Machine.execBr o s
  | .call o => Sys2Proof.Machine.execCall o s
  | .jmp o => Sys2Proof.Machine.execJmp o s
  | .callr o => Sys2Proof.Machine.execCallr o s
  | .ret => Sys2Proof.Machine.execRet s
  | .enter o => Sys2Proof.Machine.execEnter o s
  | .leave o => Sys2Proof.Machine.execLeave o s
  | .dbnz o => Sys2Proof.Machine.execDbnz o s
  | .trap o => Sys2Proof.Machine.execTrap o s
  | .svc o => Sys2Proof.Machine.execSvc o s
  | .rte => Sys2Proof.Machine.execRte s
  | .brk o => Sys2Proof.Machine.execBrk o s
  | .halt => Sys2Proof.Machine.execHalt s
  | .tspawn o => Sys2Proof.Machine.execTspawn o s
  | .texit => Sys2Proof.Machine.execTexit s
  | .knext => Sys2Proof.Machine.execKnext s
  | .etchmark o => Sys2Proof.Machine.execEtchmark o s
  | .rdcyc o => Sys2Proof.Machine.execRdcyc o s
  | .vadd o => Sys2Proof.Machine.execVadd o s
  | .vsub o => Sys2Proof.Machine.execVsub o s
  | .vmul o => Sys2Proof.Machine.execVmul o s
  | .vfma o => Sys2Proof.Machine.execVfma o s
  | .vfnma o => Sys2Proof.Machine.execVfnma o s
  | .vmin o => Sys2Proof.Machine.execVmin o s
  | .vmax o => Sys2Proof.Machine.execVmax o s
  | .vabs o => Sys2Proof.Machine.execVabs o s
  | .vneg o => Sys2Proof.Machine.execVneg o s
  | .vand o => Sys2Proof.Machine.execVand o s
  | .vor o => Sys2Proof.Machine.execVor o s
  | .vxor o => Sys2Proof.Machine.execVxor o s
  | .vnot o => Sys2Proof.Machine.execVnot o s
  | .vshl o => Sys2Proof.Machine.execVshl o s
  | .vshr o => Sys2Proof.Machine.execVshr o s
  | .vsar o => Sys2Proof.Machine.execVsar o s
  | .vminu o => Sys2Proof.Machine.execVminu o s
  | .vmaxu o => Sys2Proof.Machine.execVmaxu o s
  | .vadds o => Sys2Proof.Machine.execVadds o s
  | .vsubs o => Sys2Proof.Machine.execVsubs o s
  | .vmulh o => Sys2Proof.Machine.execVmulh o s
  | .vcmp o => Sys2Proof.Machine.execVcmp o s
  | .vsel o => Sys2Proof.Machine.execVsel o s
  | .vmov o => Sys2Proof.Machine.execVmov o s
  | .vmovu o => Sys2Proof.Machine.execVmovu o s
  | .vbcast o => Sys2Proof.Machine.execVbcast o s
  | .vext o => Sys2Proof.Machine.execVext o s
  | .vins o => Sys2Proof.Machine.execVins o s
  | .vaddsc o => Sys2Proof.Machine.execVaddsc o s
  | .vmulsc o => Sys2Proof.Machine.execVmulsc o s
  | .vfmasc o => Sys2Proof.Machine.execVfmasc o s
  | .vaddi o => Sys2Proof.Machine.execVaddi o s
  | .vshli o => Sys2Proof.Machine.execVshli o s
  | .vshri o => Sys2Proof.Machine.execVshri o s
  | .vsari o => Sys2Proof.Machine.execVsari o s
  | .vli o => Sys2Proof.Machine.execVli o s
  | .vperm o => Sys2Proof.Machine.execVperm o s
  | .vslide o => Sys2Proof.Machine.execVslide o s
  | .viota o => Sys2Proof.Machine.execViota o s
  | .vpopc o => Sys2Proof.Machine.execVpopc o s
  | .vfirst o => Sys2Proof.Machine.execVfirst o s
  | .vdefer o => Sys2Proof.Machine.execVdefer o s
  | .vdrain o => Sys2Proof.Machine.execVdrain o s
  | .vdstat o => Sys2Proof.Machine.execVdstat o s
  | .vexp2 o => Sys2Proof.Machine.execVexp2 o s
  | .vlog2 o => Sys2Proof.Machine.execVlog2 o s
  | .vrcp o => Sys2Proof.Machine.execVrcp o s
  | .vrsqrt o => Sys2Proof.Machine.execVrsqrt o s
  | .vsqrt o => Sys2Proof.Machine.execVsqrt o s
  | .vtanh o => Sys2Proof.Machine.execVtanh o s
  | .vsigm o => Sys2Proof.Machine.execVsigm o s
  | .vsint o => Sys2Proof.Machine.execVsint o s
  | .vcost o => Sys2Proof.Machine.execVcost o s
  | .vexp o => Sys2Proof.Machine.execVexp o s
  | .verf o => Sys2Proof.Machine.execVerf o s
  | .vcvt o => Sys2Proof.Machine.execVcvt o s
  | .vquant o => Sys2Proof.Machine.execVquant o s
  | .vdequant o => Sys2Proof.Machine.execVdequant o s
  | .vrng o => Sys2Proof.Machine.execVrng o s
  | .vredsum o => Sys2Proof.Machine.execVredsum o s
  | .vredmax o => Sys2Proof.Machine.execVredmax o s
  | .vredmin o => Sys2Proof.Machine.execVredmin o s
  | .vargmax o => Sys2Proof.Machine.execVargmax o s
  | .vscan o => Sys2Proof.Machine.execVscan o s
  | .vsort o => Sys2Proof.Machine.execVsort o s
  | .vmrg o => Sys2Proof.Machine.execVmrg o s
  | .smerge o => Sys2Proof.Machine.execSmerge o s
  | .mma o => Sys2Proof.Machine.execMma o s
  | .mpset o => Sys2Proof.Machine.execMpset o s
  | .mpget o => Sys2Proof.Machine.execMpget o s
  | .attn o => Sys2Proof.Machine.execAttn o s
  | .ldb o => Sys2Proof.Machine.execLdb o s
  | .ldh o => Sys2Proof.Machine.execLdh o s
  | .ldw o => Sys2Proof.Machine.execLdw o s
  | .ldd o => Sys2Proof.Machine.execLdd o s
  | .ldbu o => Sys2Proof.Machine.execLdbu o s
  | .ldhu o => Sys2Proof.Machine.execLdhu o s
  | .ldwu o => Sys2Proof.Machine.execLdwu o s
  | .stb o => Sys2Proof.Machine.execStb o s
  | .sth o => Sys2Proof.Machine.execSth o s
  | .stw o => Sys2Proof.Machine.execStw o s
  | .std o => Sys2Proof.Machine.execStd o s
  | .ldx o => Sys2Proof.Machine.execLdx o s
  | .stx o => Sys2Proof.Machine.execStx o s
  | .vld o => Sys2Proof.Machine.execVld o s
  | .vst o => Sys2Proof.Machine.execVst o s
  | .vlds o => Sys2Proof.Machine.execVlds o s
  | .vsts o => Sys2Proof.Machine.execVsts o s
  | .vgath o => Sys2Proof.Machine.execVgath o s
  | .vscat o => Sys2Proof.Machine.execVscat o s
  | .ldwf o => Sys2Proof.Machine.execLdwf o s
  | .ldtk o => Sys2Proof.Machine.execLdtk o s
  | .stwe o => Sys2Proof.Machine.execStwe o s
  | .stfl o => Sys2Proof.Machine.execStfl o s
  | .fesetEmpty o => Sys2Proof.Machine.execFesetEmpty o s
  | .fesetFull o => Sys2Proof.Machine.execFesetFull o s
  | .feget o => Sys2Proof.Machine.execFeget o s
  | .ataddW o => Sys2Proof.Machine.execAtaddW o s
  | .ataddD o => Sys2Proof.Machine.execAtaddD o s
  | .atminW o => Sys2Proof.Machine.execAtminW o s
  | .atminD o => Sys2Proof.Machine.execAtminD o s
  | .atmaxW o => Sys2Proof.Machine.execAtmaxW o s
  | .atmaxD o => Sys2Proof.Machine.execAtmaxD o s
  | .atminuW o => Sys2Proof.Machine.execAtminuW o s
  | .atminuD o => Sys2Proof.Machine.execAtminuD o s
  | .atmaxuW o => Sys2Proof.Machine.execAtmaxuW o s
  | .atmaxuD o => Sys2Proof.Machine.execAtmaxuD o s
  | .atandW o => Sys2Proof.Machine.execAtandW o s
  | .atandD o => Sys2Proof.Machine.execAtandD o s
  | .atorW o => Sys2Proof.Machine.execAtorW o s
  | .atorD o => Sys2Proof.Machine.execAtorD o s
  | .atxorW o => Sys2Proof.Machine.execAtxorW o s
  | .atxorD o => Sys2Proof.Machine.execAtxorD o s
  | .atxchW o => Sys2Proof.Machine.execAtxchW o s
  | .atxchD o => Sys2Proof.Machine.execAtxchD o s
  | .atcasW o => Sys2Proof.Machine.execAtcasW o s
  | .atcasD o => Sys2Proof.Machine.execAtcasD o s
  | .atfaddW o => Sys2Proof.Machine.execAtfaddW o s
  | .atfaddD o => Sys2Proof.Machine.execAtfaddD o s
  | .acq o => Sys2Proof.Machine.execAcq o s
  | .rel o => Sys2Proof.Machine.execRel o s
  | .bind o => Sys2Proof.Machine.execBind o s
  | .unbind o => Sys2Proof.Machine.execUnbind o s
  | .fence o => Sys2Proof.Machine.execFence o s
  | .tlwait o => Sys2Proof.Machine.execTlwait o s
  | .tlread o => Sys2Proof.Machine.execTlread o s
  | .tlbump o => Sys2Proof.Machine.execTlbump o s
  | .rld o => Sys2Proof.Machine.execRld o s
  | .rst o => Sys2Proof.Machine.execRst o s
  | .rldv o => Sys2Proof.Machine.execRldv o s
  | .rstv o => Sys2Proof.Machine.execRstv o s
  | .hset o => Sys2Proof.Machine.execHset o s
  | .hgo o => Sys2Proof.Machine.execHgo o s
  | .hget o => Sys2Proof.Machine.execHget o s
  | .blygrant o => Sys2Proof.Machine.execBlygrant o s
  | .blystat o => Sys2Proof.Machine.execBlystat o s
  | .pref o => Sys2Proof.Machine.execPref o s
  | .flush o => Sys2Proof.Machine.execFlush o s
  | .inval o => Sys2Proof.Machine.execInval o s
  | .wayconv o => Sys2Proof.Machine.execWayconv o s
  | .wayrest o => Sys2Proof.Machine.execWayrest o s
  | .qpush o => Sys2Proof.Machine.execQpush o s
  | .qpop o => Sys2Proof.Machine.execQpop o s
  | .qstat o => Sys2Proof.Machine.execQstat o s
  | .watch o => Sys2Proof.Machine.execWatch o s
  | .unwatch o => Sys2Proof.Machine.execUnwatch o s
  | .kvopen o => Sys2Proof.Machine.execKvopen o s
  | .kvfork o => Sys2Proof.Machine.execKvfork o s
  | .kvrsv o => Sys2Proof.Machine.execKvrsv o s
  | .kvwr o => Sys2Proof.Machine.execKvwr o s
  | .kvtrim o => Sys2Proof.Machine.execKvtrim o s
  | .kvfree o => Sys2Proof.Machine.execKvfree o s
  | .kvclass o => Sys2Proof.Machine.execKvclass o s
  | .kvpin o => Sys2Proof.Machine.execKvpin o s
  | .kvdemote o => Sys2Proof.Machine.execKvdemote o s
  | .kvpromote o => Sys2Proof.Machine.execKvpromote o s
  | .kvlend o => Sys2Proof.Machine.execKvlend o s
  | .kvquery o => Sys2Proof.Machine.execKvquery o s
  | .tlbinvPage o => Sys2Proof.Machine.execTlbinvPage o s
  | .tlbinvCtx o => Sys2Proof.Machine.execTlbinvCtx o s
  | .tlbinvAll o => Sys2Proof.Machine.execTlbinvAll o s
  | .kvspace o => Sys2Proof.Machine.execKvspace o s
  | .registerWrite pa v => Sys2Proof.Machine.execRegisterWrite pa v s
  | .memoryRead pa found rebuilt => Sys2Proof.Machine.execMemoryRead pa found rebuilt s
  | .scrubPass die stack x => Sys2Proof.Machine.execScrubPass die stack x s
  | .keyRotate die stack v => Sys2Proof.Machine.execKeyRotate die stack v s
  | .channelRetire die stack v => Sys2Proof.Machine.execChannelRetire die stack v s
  | .retireStripeRebuild die stack => Sys2Proof.Machine.execRetireStripeRebuild die stack s
  | .hbmLinkRetrain die stack => Sys2Proof.Machine.execHbmLinkRetrain die stack s
  | .t2RangeWithdrawn base => Sys2Proof.Machine.execT2RangeWithdrawn base s
  | .poolLinkFail => Sys2Proof.Machine.execPoolLinkFail s
  | .l2Eviction pa bad => Sys2Proof.Machine.execL2Eviction pa bad s
  | .wayconvDrainDone id => Sys2Proof.Machine.execWayconvDrainDone id s
  | .wayrestDone id => Sys2Proof.Machine.execWayrestDone id s
  | .haulStart slice => Sys2Proof.Machine.execHaulStart slice s
  | .haulComplete h => Sys2Proof.Machine.execHaulComplete h s
  | .belayTransferHeld ctx ch pong => Sys2Proof.Machine.execBelayTransferHeld ctx ch pong s
  | .wsUnseal k v => Sys2Proof.Machine.execWsUnseal k v s
  | .wsSeal k v => Sys2Proof.Machine.execWsSeal k v s
  | .wsRefreshPhase k => Sys2Proof.Machine.execWsRefreshPhase k s
  | .feWaitGrant pa => Sys2Proof.Machine.execFeWaitGrant pa s
  | .loadComplete id => Sys2Proof.Machine.execLoadComplete id s
  | .scalarDivComplete id => Sys2Proof.Machine.execScalarDivComplete id s
  | .xResultComplete id => Sys2Proof.Machine.execXResultComplete id s
  | .vdrainComplete id => Sys2Proof.Machine.execVdrainComplete id s
  | .mmaComplete id => Sys2Proof.Machine.execMmaComplete id s
  | .tlbinvComplete id => Sys2Proof.Machine.execTlbinvComplete id s
  | .acqWake id => Sys2Proof.Machine.execAcqWake id s
  | .acqRemoteNotYet id => Sys2Proof.Machine.execAcqRemoteNotYet id s
  | .relPerform id => Sys2Proof.Machine.execRelPerform id s
  | .fencePerform id => Sys2Proof.Machine.execFencePerform id s
  | .watchdog task => Sys2Proof.Machine.execWatchdog task s
  | .pageWalk va => Sys2Proof.Machine.execPageWalk va s
  | .xfrespRetry die v => Sys2Proof.Machine.execXfrespRetry die v s
  | .xfrespFailXlate die v => Sys2Proof.Machine.execXfrespFailXlate die v s
  | .xfrespFailProt die v => Sys2Proof.Machine.execXfrespFailProt die v s
  | .icacheFill va => Sys2Proof.Machine.execIcacheFill va s
  | .debuggerResume task => Sys2Proof.Machine.execDebuggerResume task s
  | .remoteRequest q => Sys2Proof.Machine.execRemoteRequest q s
  | .remoteReply r => Sys2Proof.Machine.execRemoteReply r s
  | .storeAck env id status seq => Sys2Proof.Machine.execStoreAck env id status seq s
  | .staleNotice id srcInc tgtInc => Sys2Proof.Machine.execStaleNotice id srcInc tgtInc s
  | .remoteTimeout id => Sys2Proof.Machine.execRemoteTimeout id s
  | .laneFail die port => Sys2Proof.Machine.execLaneFail die port s
  | .flitTagFail die port third => Sys2Proof.Machine.execFlitTagFail die port third s
  | .linkRekey die port => Sys2Proof.Machine.execLinkRekey die port s
  | .fabricEnable v => Sys2Proof.Machine.execFabricEnable v s
  | .fabricDisable v => Sys2Proof.Machine.execFabricDisable v s
  | .incarnationNotice env => Sys2Proof.Machine.execIncarnationNotice env s
  | .multicastDeliver q => Sys2Proof.Machine.execMulticastDeliver q s
  | .multicastComplete h done => Sys2Proof.Machine.execMulticastComplete h done s
  | .reductionContribution c => Sys2Proof.Machine.execReductionContribution c s
  | .reductionTimeout ctx group k => Sys2Proof.Machine.execReductionTimeout ctx group k s
  | .lendPut env space ident peerSpace fmt bytes => Sys2Proof.Machine.execLendPut env space ident peerSpace fmt bytes s
  | .lendAck env space ident lender => Sys2Proof.Machine.execLendAck env space ident lender s
  | .lendFree env space ident => Sys2Proof.Machine.execLendFree env space ident s
  | .lendRecall env ident => Sys2Proof.Machine.execLendRecall env ident s
  | .lendGone env space => Sys2Proof.Machine.execLendGone env space s
  | .lendAckTimeout space ident => Sys2Proof.Machine.execLendAckTimeout space ident s
  | .lendingRead env id space ident off len => Sys2Proof.Machine.execLendingRead env id space ident off len s
  | .lendingReadReply env space ident off status bytes poison => Sys2Proof.Machine.execLendingReadReply env space ident off status bytes poison s
  | .frameOpen stream => Sys2Proof.Machine.execFrameOpen stream s
  | .frameClose stream => Sys2Proof.Machine.execFrameClose stream s
  | .moveHold space ident => Sys2Proof.Machine.execMoveHold space ident s
  | .moveSwitch space ident => Sys2Proof.Machine.execMoveSwitch space ident s
  | .appendWaitResume id => Sys2Proof.Machine.execAppendWaitResume id s
  | .kvOpComplete id => Sys2Proof.Machine.execKvOpComplete id s
  | .streamAssign stream => Sys2Proof.Machine.execStreamAssign stream s
  | .attnPageLand stream => Sys2Proof.Machine.execAttnPageLand stream s
  | .attnSlotConsume stream => Sys2Proof.Machine.execAttnSlotConsume stream s
  | .attnComplete stream => Sys2Proof.Machine.execAttnComplete stream s
  | .launchAccept => Sys2Proof.Machine.execLaunchAccept s
  | .taskBind slice => Sys2Proof.Machine.execTaskBind slice s
  | .taskStart task => Sys2Proof.Machine.execTaskStart task s
  | .swapOut task => Sys2Proof.Machine.execSwapOut task s
  | .taskRestore task => Sys2Proof.Machine.execTaskRestore task s
  | .quantumExpire task => Sys2Proof.Machine.execQuantumExpire task s
  | .agePromote task => Sys2Proof.Machine.execAgePromote task s
  | .crossClusterEligible task => Sys2Proof.Machine.execCrossClusterEligible task s
  | .taskEnd task => Sys2Proof.Machine.execTaskEnd task s
  | .counterTreeFlush ctx set die cluster => Sys2Proof.Machine.execCounterTreeFlush ctx set die cluster s
  | .ntfDelayExpire => Sys2Proof.Machine.execNtfDelayExpire s
  | .watchTrigger wid => Sys2Proof.Machine.execWatchTrigger wid s
  | .mailboxSubmit wid slot => Sys2Proof.Machine.execMailboxSubmit wid slot s
  | .ctxCreate => Sys2Proof.Machine.execCtxCreate s
  | .ctxDestroy => Sys2Proof.Machine.execCtxDestroy s
  | .keyNew => Sys2Proof.Machine.execKeyNew s
  | .keyClear => Sys2Proof.Machine.execKeyClear s
  | .ctxRekey => Sys2Proof.Machine.execCtxRekey s
  | .segLoad => Sys2Proof.Machine.execSegLoad s
  | .segUnload => Sys2Proof.Machine.execSegUnload s
  | .dbgNonce nonce => Sys2Proof.Machine.execDbgNonce nonce s
  | .dbgUnlock => Sys2Proof.Machine.execDbgUnlock s
  | .dbgLock => Sys2Proof.Machine.execDbgLock s
  | .arbRaise => Sys2Proof.Machine.execArbRaise s
  | .ctxSetetch => Sys2Proof.Machine.execCtxSetetch s
  | .inPackageLinkAuth link ok => Sys2Proof.Machine.execInPackageLinkAuth link ok s
  | .offPackageLinkKeying die port peer ok => Sys2Proof.Machine.execOffPackageLinkKeying die port peer ok s
  | .getVersion => Sys2Proof.Machine.execGetVersion s
  | .getCapabilities => Sys2Proof.Machine.execGetCapabilities s
  | .negotiateAlgorithms => Sys2Proof.Machine.execNegotiateAlgorithms s
  | .getDigests => Sys2Proof.Machine.execGetDigests s
  | .getCertificate slot off len => Sys2Proof.Machine.execGetCertificate slot off len s
  | .challenge slot nonce => Sys2Proof.Machine.execChallenge slot nonce s
  | .getMeasurements index => Sys2Proof.Machine.execGetMeasurements index s
  | .getHealth => Sys2Proof.Machine.execGetHealth s
  | .readLog => Sys2Proof.Machine.execReadLog s
  | .readJournal seq => Sys2Proof.Machine.execReadJournal seq s
  | .reset powerCycle => Sys2Proof.Machine.execReset powerCycle s
  | .fwStage version image => Sys2Proof.Machine.execFwStage version image s
  | .fwActivate => Sys2Proof.Machine.execFwActivate s
  | .scCmd block => Sys2Proof.Machine.execScCmd block s
  | .setPowerLimit watts => Sys2Proof.Machine.execSetPowerLimit watts s
  | .hostMemAccess at_ len write => Sys2Proof.Machine.execHostMemAccess at_ len write s
  | .hostLinkLoss => Sys2Proof.Machine.execHostLinkLoss s
  | .functionLevelReset => Sys2Proof.Machine.execFunctionLevelReset s
  | .moduleReset => Sys2Proof.Machine.execModuleReset s
  | .bringUp linksOk stacksOk failedCores => Sys2Proof.Machine.execBringUp linksOk stacksOk failedCores s
  | .throttle die => Sys2Proof.Machine.execThrottle die s
  | .overTemperature => Sys2Proof.Machine.execOverTemperature s
  | .criticalTemperature => Sys2Proof.Machine.execCriticalTemperature s
  | .debuggerHalt x => Sys2Proof.Machine.execDebuggerHalt x s
  | .t2RangeAssigned base size => Sys2Proof.Machine.execT2RangeAssigned base size s
  | .parked256Cycles task => Sys2Proof.Machine.execParked256Cycles task s

end Sys2Proof.Machine
end

