-- ==== Sys2Proof/Machine/Bundle.lean ====
section
/-! DEFINITION. A bundle executed as a whole (06 R134, 07 R145), and what a step does: an event of the agenda, a change of
focus, or a bundle of the focused task (log 1). -/

namespace Sys2Proof.Machine

/-- A result of `exec` carried on. -/
def andThen (r : Res) (f : State → Res) : Res :=
  match r with
  | .next s => f s
  | .fault x => .fault x
  | .refused x => .refused x

/-- The slots of a bundle executed in a phase, from slot `k` on; it ends early at a slot that waits. What a slot has performed is
seen by the ACQs that wait before the next one is (10 R232). -/
def runSlots : List Instr → Nat → State → Res
  | [], _, s => .next s
  | i :: is, k, s =>
    andThen (exec i { s with scr := { s.scr with slot := k } }) fun t =>
      if t.scr.waiting.isSome then .next t else runSlots is (k + 1) (if t.scr.ph = .run then t.wakeAcqs else t)

/-- A bundle of several slots (06 R134): its checks on the machine before it, then its slots in order; a trap or a wait
leaves nothing of it. -/
def runBundle (is : List Instr) (s : State) : Res :=
  andThen (runSlots is 0 { s with scr := { s.scr with ph := .collect } }) fun c =>
    let s0 : State := { s with scr := { s.scr with ph := .whole } }
    match s0.issue c.scr.uses with
    | some (.trap x, k) => .next (s0.takeTrap x k)
    | some (.wait p, _) => .next (s0.waitAt c.scr.uses p)
    | none =>
      andThen (runSlots is 0 { s with scr := { s.scr with ph := .run, tls := some s.cur.tls, biv := some s.cur.biv, first := some s.nextId } }) fun t =>
        match t.scr.waiting, t.scr.trapped with
        | some p, _ => .next (s0.waitAt c.scr.uses p)
        | none, some (x, k) => .next (s0.takeTrap x k)
        | none, none => .next t.commit

/-- A decoded bundle executed; one of a single slot is that instruction (log 6). -/
def execBundle (is : List Instr) (s : State) : Res :=
  match is with
  | [i] => exec i s
  | is => runBundle is s

/-- What an instruction uses, as it notes it when a bundle is checked (06 R134). -/
def State.usesOf (s : State) (i : Instr) : List Use :=
  match exec i { s with scr := { s.scr with ph := .collect, uses := [] } } with
  | .next t => t.scr.uses.headD []
  | _ => []

/-- The slot that an ILLEGAL bundle names (07 R145): the first of its slots, up to the one `bad` that does not decode, that is
ILLEGAL for its registers or its mode; else `bad`; 0 for a bundle that is ILLEGAL as a whole. -/
def State.illegalSlot (s : State) (ws : List Nat) (bad : Option Nat) : Nat :=
  (((decodePrefix ws).take (bad.getD ws.length)).findIdx? fun i => (s.usesOf i).any s.cur.illegal).getD (bad.getD 0)

/-- The focused task issues its next bundle, and answers with the scratch of that bundle (06 R134, 20 R380). -/
def issueBundle (s : State) : Res :=
  match s.fetchBlock with
  | .error (s1, t) => .next (s1.takeTrap t 0)
  | .ok (s1, b) =>
    let (ws, ended) := bundleWords b.bytes 8 (s1.cur.pc.toNat % 1024)
    let s2 : State := { s1 with scr := { Scratch.clean with encs := ws.map (BitVec.ofNat 64), slots := ws.length } }
    if s1.cur.pc.toNat % 4 ≠ 0 then .next (s2.takeTrap (.now cMisalign s1.cur.pc) 0)
    else
      match decodeBundle ws ended with
      | .error bad => .next (s2.takeTrap (.now cIllegal (s2.enc (s2.illegalSlot ws bad))) (s2.illegalSlot ws bad))
      | .ok is => execBundle is s2

/-! ### What happens next (log 1) -/

/-- The first event of a list that changes the machine; the machine as it is where none does. -/
def tryEvents : List Event → State → Res
  | [], s => .next s
  | i :: is, s =>
    match i s with
    | .next t => if t = s then tryEvents is s else .next t
    | r => r

/-- The machine's units go on: a packet that comes back, or the first event that changes anything. -/
def background (s : State) : Res :=
  match s.loopback with
  | some (i, s1) => i s1
  | none => tryEvents s.candidates s

/-- Another running task takes the focus. -/
def State.nextTask (s : State) : Option State :=
  (s.others.find? fun t => t.status == .running).map fun t => s.focus t.id

/-- The timeline and the ticket for which a TLWAIT of the bundle that waits is held up (10 R237, 20 R351), if one is. -/
def State.tlStall (s : State) : Option (Word × Nat × Nat) :=
  (decodePrefix (s.scr.encs.map BitVec.toNat)).findSome? fun i => match i with
    | .tlwait o =>
      if (s.cur.tls[Timeline.ix o.tl]).count < (s.readS o.a).toNat then some (s.cur.pc, (Timeline.ix o.tl).val, (s.readS o.a).toNat) else none
    | _ => none

/-- A bundle that waits: the machine as it then is, with no bundle being executed. -/
def State.held (s : State) : State := (s.setCur fun t => { t with stalled := s.tlStall }).settled

/-- The focused task issues; where its bundle waits, the machine's units go on, and where they cannot, another running
task takes the focus. -/
def issueOrWait (s : State) : Res :=
  if s.cur.wdExpired then .next s.barks
  else
    andThen (issueBundle s) fun t =>
      if t.scr.waiting.isNone then .next t
      else
        let u := t.held
        andThen (background u) fun v => .next (if v = u then (u.nextTask).getD u else v)

/-- What the next step does: the head of the agenda, the next change of focus, the focused task's bundle, another task's
turn, or what the machine's own units do. -/
def stepBody (s : State) : Res :=
  match s.agenda with
  | i :: is => exec i { s with agenda := is }
  | [] =>
    match s.turn with
    | id :: ids => .next ({ s with turn := ids }.focus id)
    | [] =>
      if s.cur.status = .running then issueOrWait s
      else match s.nextTask with
        | some t => .next t
        | none => background s

end Sys2Proof.Machine
end

