-- ==== Sys2Proof/Machine/Step.lean ====
section
/-! DEFINITION. One step of the machine, and a word where its next fetch finds it. -/

namespace Sys2Proof.Machine

/-- One step of the machine. -/
def step (s : State) : Res := andThen (stepBody s) fun t => .next (t.stepEnd s)

/-! ### A word where the next fetch finds it -/

/-- Where `withFetchWord` places its word: the pc, or, where a bundle of two words cannot be fetched from there, the
lowest code address. -/
def State.fetchPc (s : State) : Word :=
  if s.cur.pc.extractLsb' 48 16 = 0#16 ∧ 0x400000 ≤ s.cur.pc.toNat ∧ s.cur.pc.toNat % 4 = 0 ∧ s.cur.pc.toNat % 1024 < 1020 then s.cur.pc
  else 0x400000

/-- A running task in the focus, of a live context, that may fetch at its pc, and whose instruction cache holds the word
there: nothing stands on the agenda, no watchdog has expired. A word without the E bit is followed by a NOP that ends
its bundle (log 29). -/
def State.withFetchWord (s : State) (_nbits w : Nat) : State :=
  let pc := s.fetchPc
  let blk := pc.toNat / 1024 * 1024
  let word (n : Nat) : List Byte := natLe 4 n
  let code := List.replicate (pc.toNat % 1024) 0 ++ word (w % 2 ^ 32) ++ (if w / 2 ^ 31 % 2 = 1 then [] else word (2 ^ 31))
  { s with
    agenda := []
    turn := []
    ctxs := if (s.ctxOf s.cur.ctx).isSome then s.ctxs else s.ctxs ++ [{ Ctx.supervisor with id := s.cur.ctx }]
    tlb := ⟨.core s.cur.loc, s.cur.ctx, pc.toNat / 2 ^ 16, 0x20000016, .page⟩ :: s.tlb
    icache := ⟨s.cur.loc, s.cur.ctx, blk, blockTable code⟩ ::
      s.icache.filter fun b => !(b.loc == s.cur.loc && b.ctx == s.cur.ctx && b.va == blk)
    scr := Scratch.clean
    cur := { s.cur with pc := pc, status := .running, ctl := { s.cur.ctl with wdcnt := if s.cur.wdExpired then 0 else s.cur.ctl.wdcnt } } }

end Sys2Proof.Machine
end

