-- ==== Sys2Proof/Safety.lean ====
section
/-! DEFINITION. The terms in which claims speak: a machine at which an instruction issues and executes, the machine one
bundle on, what a run must never do, and what two machines have in common. -/

namespace Sys2Proof.Machine

/-! ### Safe runs -/

/-- The machine goes on: it neither faults nor refuses. -/
def GoesOn (r : Res) : Prop := ∃ t, r = .next t

/-- A run of `n` steps in which every step answers a next state. -/
def SafeFor : Nat → State → Prop
  | 0, _ => True
  | n + 1, s => ∃ t, step s = .next t ∧ SafeFor n t

/-! ### Issue (06 R124, R125, R134) -/

/-- No bundle is being executed: a single instruction that executes now is alone in its bundle (log 6). -/
abbrev State.Fresh (s : State) : Prop := s.scr = { Scratch.clean with encs := s.scr.encs }

/-- A register number lies within the caps of its task (06 R122). -/
def Task.inCaps (t : Task) : Dst → Bool
  | .s r => r.val < t.capS
  | .v r => r.val < t.capV
  | _ => true

/-- A register has no recorded cause (06 R124). -/
def Cond.unfailed : Cond → Bool
  | .failed .. => false
  | _ => true

/-- Nothing that a use asks for is missing: the registers lie in the caps, sources are FULL, written registers are neither
EMPTY nor FAILED, marked registers are not FAILED, no deferred cause is pending at a synchronisation, fmt and mode allow
it. -/
def State.readyFor (s : State) : Use → Bool
  | .srcS r _ => s.cur.inCaps (.s r) && s.cur.cond (.s r) == .ok
  | .srcV r _ => s.cur.inCaps (.v r) && s.cur.cond (.v r) == .ok
  | .srcEm => s.cur.cond .em == .ok
  | .write d => s.cur.inCaps d && s.cur.cond d != .empty && (s.cur.cond d).unfailed
  | .mark d => s.cur.inCaps d && (s.cur.cond d).unfailed
  | .f8 => (s.fmt.extractLsb' 2 2).toNat < 2
  | .fmtset a => !s.cur.ctl.intrap && (s.readS a).extractLsb' 14 18 == 0#18
  | .illegalIf c => !c
  | .sync => s.deferred.isNone
  | .lanes _ | .sto | .ctl => true

/-- A bundle of one slot that uses `us` issues at once. -/
abbrev State.Ready (s : State) (us : List Use) : Prop := s.Fresh ∧ ∀ u ∈ us, s.readyFor u = true

/-- An instruction that the decoder accepts issues at once, alone in its bundle: every source it names is FULL, no
destination of it is EMPTY or FAILED, its registers lie in the caps of its task. -/
abbrev State.Issues (s : State) (i : Instr) : Prop := i.wf = true ∧ s.Ready (s.usesOf i)

/-- An instruction executes: alone in its bundle it has the effect `t`, and the bundle commits (06 R134). -/
def Executes (i : Instr) (s t : State) : Prop := exec i s = .next t.commit

/-- An instruction raises a trap of its own: nothing of its bundle commits (06 R134, 20 R337). -/
def Raises (i : Instr) (s : State) (x : Trap) : Prop := exec i s = .next (s.takeTrap x 0)

/-- The machine one bundle of one slot on: results whose count ends have landed, control is at the next bundle
(06 R131, R134). -/
def State.moved (s : State) : State := { s with cur := { s.cur.advance with pc := s.cur.pc + 4 } }

/-- A task `n` bundle boundaries on (06 R131). -/
def Task.advanceBy (t : Task) : Nat → Task
  | 0 => t
  | n + 1 => (t.advanceBy n).advance

/-! ### What two machines have in common -/

/-- Everything but the focused task's registers, its pending results and its pc is the same. -/
def State.SameButRegs (s t : State) : Prop :=
  { t with cur := { t.cur with regs := s.cur.regs, pend := s.cur.pend, pc := s.cur.pc } } = s

end Sys2Proof.Machine
end

