-- ==== Sys2Proof/Certificates/Slice0/Obligations.lean ====
section
/-! DEFINITION. The statements about the machine that the provers are to prove or to refute. In them `s.Issues i` says that
an instruction issues at once, alone in its bundle, and `Executes i s t` that it answers the commit of its effect `t`. -/

open Sys2Proof Sys2Proof.Machine

namespace Sys2Proof.Claims

/-- Rows of 08 R157: instruction, latency, result. -/
def aluRows : List ((RRR → Instr) × Nat × (Word → Word → Word)) := [
  (.add, 1, fun a b => a + b),
  (.sub, 1, fun a b => a - b),
  (.mul, 3, fun a b => a * b),
  (.mulh, 3, fun a b => BitVec.ofInt 64 (a.toInt * b.toInt / 2 ^ 64)),
  (.and, 1, fun a b => a &&& b),
  (.or, 1, fun a b => a ||| b),
  (.xor, 1, fun a b => a ^^^ b),
  (.shl, 1, fun a b => a <<< (b.toNat % 64)),
  (.shr, 1, fun a b => a >>> (b.toNat % 64)),
  (.sar, 1, fun a b => a.sshiftRight (b.toNat % 64)),
  (.rotl, 1, fun a b => a.rotateLeft (b.toNat % 64)),
  (.min, 1, fun a b => if a.toInt ≤ b.toInt then a else b),
  (.max, 1, fun a b => if b.toInt ≤ a.toInt then a else b)]

/-- Rows of 08 R160: instruction and result. -/
def countRows : List ((RR → Instr) × (Word → Nat)) := [
  (.clz, fun a => if a = 0 then 64 else 63 - a.toNat.log2),
  (.ctz, fun a => ((List.range 64).find? fun i => a.getLsbD i).getD 64),
  (.popc, fun a => (List.range 64).countP fun i => a.getLsbD i)]

/-- Rows of 08 R158: instruction and result from the register and the immediate field. -/
def immRows : List ((RI → Instr) × (Word → BitVec 9 → Word)) := [
  (.addi, fun a i => a + i.signExtend 64),
  (.andi, fun a i => a &&& i.signExtend 64),
  (.ori, fun a i => a ||| i.signExtend 64),
  (.xori, fun a i => a ^^^ i.signExtend 64),
  (.shli, fun a i => a <<< i.toNat),
  (.shri, fun a i => a >>> i.toNat),
  (.sari, fun a i => a.sshiftRight i.toNat)]

/-- Rows of 08 R159: instruction and result. -/
def divRows : List ((DivOps → Instr) × (Word → Word → Word)) := [
  (.div, fun a b => if b = 0 then BitVec.allOnes 64 else BitVec.ofInt 64 (a.toInt.tdiv b.toInt)),
  (.divu, fun a b => if b = 0 then BitVec.allOnes 64 else BitVec.ofNat 64 (a.toNat / b.toNat)),
  (.rem, fun a b => if b = 0 then a else BitVec.ofInt 64 (a.toInt.tmod b.toInt)),
  (.remu, fun a b => if b = 0 then a else BitVec.ofNat 64 (a.toNat % b.toNat))]

/-- Rows of 08 R163: instruction and result. -/
def plogRows : List ((PlogOps → Instr) × (Bool → Bool → Bool)) := [
  (.pand, fun a b => a && b),
  (.por, fun a b => a || b),
  (.pxor, fun a b => a != b),
  (.pandc, fun a b => a && !b),
  (.porc, fun a b => a || !b),
  (.pnand, fun a b => !(a && b)),
  (.pnor, fun a b => !(a || b)),
  (.pxnor, fun a b => a == b)]

/-- The conditions of 08 R162 on operands of `w` bits. -/
def intCond {w : Nat} (cc : CcI) (x y : BitVec w) : Prop :=
  match cc with
  | .eq => x = y
  | .ne => x ≠ y
  | .lt => x.toInt < y.toInt
  | .ge => y.toInt ≤ x.toInt
  | .ltu => x.toNat < y.toNat
  | .geu => y.toNat ≤ x.toNat
  | .bit => x &&& y ≠ 0

/-- Rows of 08 R165: instruction and result from the format, the rounding mode and the operands. -/
def fpRows : List ((FRRR → Instr) × (Fmt → Rm → Nat → Nat → Nat)) := [
  (.fadd, fun f m a b => f.round m ((f.decode a).add m (f.decode b))),
  (.fsub, fun f m a b => f.round m ((f.decode a).add m (f.decode b).neg)),
  (.fmul, fun f m a b => f.round m ((f.decode a).mul (f.decode b))),
  (.fmin, fun f _ a b => f.round .rne ((f.decode a).minNum (f.decode b))),
  (.fmax, fun f _ a b => f.round .rne ((f.decode a).maxNum (f.decode b)))]

/-- The conditions of 08 R166. -/
def fpCond (cc : CcF) (x y : FVal) : Bool :=
  match cc with
  | .eq => x.eqv y
  | .ne => !x.eqv y
  | .lt => x.lt y
  | .le => x.lt y || x.eqv y
  | .un => x.isNan || y.isNan
  | .or => !(x.isNan || y.isNan)

/-- The conditions of 09 R194 on two elements: those of the format for an FP type, else of integers; a condition that a type does not
have never holds. -/
def vecCond (cc : CcV) (dt : ElemType) (a b : Nat) : Prop :=
  match dt.fmt 0 with
  | some f =>
    let x := f.decode a
    let y := f.decode b
    match cc with
    | .eq => x.eqv y = true
    | .ne => x.eqv y = false
    | .lt => x.lt y = true
    | .le => x.lt y = true ∨ x.eqv y = true
    | .un => x.isNan = true ∨ y.isNan = true
    | .ord => x.isNan = false ∧ y.isNan = false
    | .ltu | .leu => False
  | none =>
    let x := BitVec.ofNat dt.bits a
    let y := BitVec.ofNat dt.bits b
    match cc with
    | .eq => x = y
    | .ne => x ≠ y
    | .lt => x.toInt < y.toInt
    | .le => x.toInt ≤ y.toInt
    | .ltu => x.toNat < y.toNat
    | .leu => x.toNat ≤ y.toNat
    | .un | .ord => False

/-- What each state of a source register makes of an instruction whose other registers are ready (06 R124, R125): where the register
is EMPTY the bundle waits, its task parking where the register's producer parks, or raises REG_EMPTY where its wait bit is 0 and
no destination makes it wait; POISONED and FAILED raise. -/
def sourceRules (i : Instr) (s : State) (a : SReg) (w destFree : Bool) : Prop :=
  let c := s.cur.cond (.s a)
  (c = .empty → w = true → exec i s = .next (s.waitAt [s.usesOf i] (s.cur.parksFor (.s a)))) ∧
  (c = .empty → w = false → destFree = true → Raises i s (.now cRegEmpty (BitVec.ofNat 64 a.val))) ∧
  (c = .poisoned → Raises i s (.now cPoison (BitVec.ofNat 64 a.val))) ∧
  ∀ f op, c = .failed f op → Raises i s ⟨f.cause, f.eval, f.status, true, none, some op, f.link.toList, none, false, none, none⟩

/-- A register that a fixed-latency result is for is ready: neither EMPTY nor FAILED. -/
def destReady (s : State) (d : SReg) : Bool := s.cur.cond (.s d) != .empty && (s.cur.cond (.s d)).unfailed

/-- A register that a producer marks EMPTY is ready: it is not FAILED. -/
def markReady (s : State) (d : SReg) : Bool := (s.cur.cond (.s d)).unfailed

/-- No register of a task waits for more results than the operations that it has outstanding will deliver (06 R124). -/
def emptyCounted (t : Task) : Prop :=
  let due (d : Dst) : Nat := (t.ops.flatMap Op.outs).countP fun o => o.dst == d
  (∀ (r : SReg) n b f p, (t.regs.s[r]).st = .empty n b f p → n ≤ due (.s r)) ∧
  (∀ (r : VReg) n b f p, (t.regs.v[r]).st = .empty n b f p → n ≤ due (.v r)) ∧
  ∀ n b f p, t.regs.em.st = .empty n b f p → n ≤ due .em

/-- A register is EMPTY for `n` producers only if `n` outstanding operations of its task have it among their results; every
operation has a number of its own, below the next one. -/
def producersOutstanding (s : State) : Prop :=
  (∀ t ∈ s.cur :: s.others, emptyCounted t ∧ ∀ op ∈ t.ops, op.id < s.nextId) ∧
  ((s.cur :: s.others).flatMap fun t => t.ops.map Op.id).Nodup

/-- Rows of 09 R191 with a rule for FP and one for INT: instruction, result in a format, result of signed integers. -/
def vecArithRows : List ((VRR → Instr) × (Fmt → Rm → Nat → Nat → Nat) × (Int → Int → Int)) := [
  (.vadd, fun f m a b => f.round m ((f.decode a).add m (f.decode b)), fun a b => a + b),
  (.vsub, fun f m a b => f.round m ((f.decode a).add m (f.decode b).neg), fun a b => a - b),
  (.vmul, fun f m a b => f.round m ((f.decode a).mul (f.decode b)), fun a b => a * b),
  (.vmin, fun f _ a b => f.round .rne ((f.decode a).minNum (f.decode b)), fun a b => if a ≤ b then a else b),
  (.vmax, fun f _ a b => f.round .rne ((f.decode a).maxNum (f.decode b)), fun a b => if b ≤ a then a else b)]

/-- An integer within the signed range of `z` bits. -/
def clamped (z : Nat) (x : Int) : Int :=
  if x < -2 ^ (z - 1) then -2 ^ (z - 1) else if 2 ^ (z - 1) ≤ x then 2 ^ (z - 1) - 1 else x

/-- Rows of 09 R191 on the bits of an element, whatever the type says of their meaning. -/
def vecBitRows : List ((VRR → Instr) × (∀ z : Nat, BitVec z → BitVec z → BitVec z)) := [
  (.vand, fun _ a b => a &&& b),
  (.vor, fun _ a b => a ||| b),
  (.vxor, fun _ a b => a ^^^ b),
  (.vshl, fun z a b => a <<< (b.toNat % z)),
  (.vshr, fun z a b => a >>> (b.toNat % z)),
  (.vsar, fun z a b => a.sshiftRight (b.toNat % z)),
  (.vminu, fun _ a b => if a.toNat ≤ b.toNat then a else b),
  (.vmaxu, fun _ a b => if b.toNat ≤ a.toNat then a else b),
  (.vadds, fun z a b => BitVec.ofInt z (clamped z (a.toInt + b.toInt))),
  (.vsubs, fun z a b => BitVec.ofInt z (clamped z (a.toInt - b.toInt))),
  (.vmulh, fun z a b => BitVec.ofInt z (a.toInt * b.toInt / 2 ^ z))]

/-- Element `i` of a vector register as a bit vector. -/
def lane (x : VWord) (z i : Nat) : BitVec z := BitVec.ofNat z (elemAt x z i)

/-- The elements of a masked instruction, `f` telling each one's result. -/
def masked (s : State) (vd : VReg) (w : Width) (dt : ElemType) (f : Nat → Nat) : Out :=
  vecOut vd dt.bits (w.bits / dt.bits) (fun i => s.em.getLsbD (i * dt.bits / 32)) f

/-- The latency of vector arithmetic: four bundles for FP, two for INT (09 R190). -/
def vecLatency (dt : ElemType) : Nat := if dt.isFp then 4 else 2

/-- An arithmetic result of two elements: in the format of an FP type, else modulo 2^z (09 R190). -/
def arith (dt : ElemType) (m : Rm) (fp : Fmt → Rm → Nat → Nat → Nat) (int : Int → Int → Int) (a b : Nat) : Nat :=
  match dt.fmt 0 with
  | some f => fp f m a b
  | none => (BitVec.ofInt dt.bits (int (BitVec.ofNat dt.bits a).toInt (BitVec.ofNat dt.bits b).toInt)).toNat

/-- `d + a × b`, or `d − a × b`, with one rounding (09 R191). -/
def mulAdd (dt : ElemType) (m : Rm) (neg : Bool) (a b d : Nat) : Nat :=
  match dt.fmt 0 with
  | some f => if neg then f.fnmaBits m a b d else f.fmaBits m a b d
  | none =>
    let x (n : Nat) : Int := (BitVec.ofNat dt.bits n).toInt
    (BitVec.ofInt dt.bits (if neg then x d - x a * x b else x d + x a * x b)).toNat

/-- Rows of 09 R205: instruction and the FP32 result of an FP32 operand. -/
def specialRows : List ((VR1 → Instr) × (Nat → Nat)) := [
  (.vexp2, fun x => fp32.round .rne (fExp2 (fp32.decode x))),
  (.vlog2, fun x => fp32.round .rne (fLog2 (fp32.decode x))),
  (.vrcp, fun x => fp32.divBits .rne 0x3F800000 x),
  (.vrsqrt, fun x => fp32.round .rne (fRsqrt (fp32.decode x))),
  (.vsqrt, fun x => fp32.sqrtBits .rne x),
  (.vtanh, faithfulOdd 5 fTanh),
  (.vsigm, faithful 6 fSigm),
  (.vsint, faithful 7 fSint),
  (.vcost, faithful 8 fCost),
  (.vexp, faithful 9 fExp),
  (.verf, faithfulOdd 10 fErf)]

/-- Rows of 10 R222: a load, its size in bytes, whether it sign-extends. -/
def loadRows : List ((MSOps → Instr) × Nat × Bool) := [
  (.ldb, 1, true), (.ldh, 2, true), (.ldw, 4, true), (.ldd, 8, false),
  (.ldbu, 1, false), (.ldhu, 2, false), (.ldwu, 4, false)]

/-- Rows of 10 R222: a store and its size in bytes. -/
def storeRows : List ((MSOps → Instr) × Nat) := [(.stb, 1), (.sth, 2), (.stw, 4), (.std, 8)]

/-- The address of a scalar access: sp for base code 0, and an offset in units of the access (06 R123, 10 R222). -/
def msAddr (s : State) (o : MSOps) (z : Nat) : Word :=
  (if o.a = 0 then s.cur.regs.sp else s.readS o.a) + o.off.signExtend 64 * BitVec.ofNat 64 z

/-- The address of a vector access: a base and an offset in units of 32 bytes (10 R224). -/
def mvAddr (s : State) (o : MVOps) : Word :=
  (if o.a = 0 then s.cur.regs.sp else s.readS o.a) + o.off.signExtend 64 * 32

/-- One aligned element as a piece of an access. -/
def whole (d : Dest) (z : Nat) : List Piece := [⟨d, z, 0, List.replicate z true⟩]

/-- The core may send the remote pieces (03 R67, R65). -/
def maySend (s : State) (store : Bool) (ps : List Piece) : Prop :=
  let n := (ps.filter Piece.remote).length
  n = 0 ∨ s.farBefore store = false ∨
    (if store then s.remoteStores s.cur.loc + n ≤ 64 else s.remoteLoads s.cur.loc + n ≤ 32)

/-- `n` bytes from an address lie in the task window, which lies in the scratchpad (04 R89). -/
def inOwnWindow (s : State) (va : Word) (n : Nat) : Prop :=
  s.cur.ctl.spb.toNat ≤ va.toNat ∧ va.toNat + n ≤ s.cur.ctl.spl.toNat ∧ va.toNat + n ≤ padSize

/-- The focused task has nothing outstanding, and no other task bears its number or the next operation's. -/
def idle (s : State) : Prop :=
  s.cur.ops = [] ∧ ∀ t ∈ s.others, t.id ≠ s.cur.id ∧ ∀ op ∈ t.ops, op.id ≠ s.nextId

/-- The trap of a queue number that the context of the focused task does not map: PROT with the number, and a poisoned entry of the
queue map to be charged. -/
def unmapped (s : State) (n : Nat) : Trap :=
  let pa := s.myCtx.qmap + 16 * n
  { Trap.now cProt (BitVec.ofNat 64 n) with walk := if s.anyPoison pa 16 then some pa else none }

/-- The context of the focused task keeps no etch log. -/
def noLog (s : State) : Prop := ∀ c, s.ctxOf s.cur.ctx = some c → c.etch = 0

/-- No posted store of the focused task has failed, and none is on its way. -/
def storesDone (s : State) : Prop := s.cur.tls[3].failed = [] ∧ s.cur.tls[3].issued ≤ s.cur.tls[3].count

/-- Rows of 10 R229: an atomic, what it computes under a rounding mode, whether it is on 8 bytes. -/
def atomicRows : List ((ATOps → Instr) × (BitVec 2 → AtOp) × Bool) := [
  (.ataddW, fun _ => .add, false), (.ataddD, fun _ => .add, true),
  (.atminW, fun _ => .min, false), (.atminD, fun _ => .min, true),
  (.atmaxW, fun _ => .max, false), (.atmaxD, fun _ => .max, true),
  (.atminuW, fun _ => .minu, false), (.atminuD, fun _ => .minu, true),
  (.atmaxuW, fun _ => .maxu, false), (.atmaxuD, fun _ => .maxu, true),
  (.atandW, fun _ => .and, false), (.atandD, fun _ => .and, true),
  (.atorW, fun _ => .or, false), (.atorD, fun _ => .or, true),
  (.atxorW, fun _ => .xor, false), (.atxorD, fun _ => .xor, true),
  (.atxchW, fun _ => .xch, false), (.atxchD, fun _ => .xch, true),
  (.atcasW, fun _ => .cas, false), (.atcasD, fun _ => .cas, true),
  (.atfaddW, .fadd, false), (.atfaddD, .fadd, true)]

/-- The new value of an atomic on `w` bits (10 R229); `none` where nothing is written. -/
def atomicValue {w : Nat} (op : AtOp) (old b e : BitVec w) : Option (BitVec w) :=
  match op with
  | .add => some (old + b)
  | .min => some (if old.toInt ≤ b.toInt then old else b)
  | .max => some (if b.toInt ≤ old.toInt then old else b)
  | .minu => some (if old.toNat ≤ b.toNat then old else b)
  | .maxu => some (if b.toNat ≤ old.toNat then old else b)
  | .and => some (old &&& b)
  | .or => some (old ||| b)
  | .xor => some (old ^^^ b)
  | .xch => some b
  | .cas => if old = e then some b else none
  | .fadd r =>
    let f := if w = 64 then fp64 else fp32
    some (BitVec.ofNat w (f.round (.ofRnd r) ((f.decode old.toNat).add (.ofRnd r) (f.decode b.toNat))))

/-- Rows of 11 R264 to R269: a KV instruction of the handle form and its command. -/
def kvRows : List ((MSOps → Instr) × KvKind) := [
  (.kvopen, .kopen), (.kvfork, .kfork), (.kvrsv, .krsv), (.kvwr, .kwr), (.kvtrim, .ktrim), (.kvfree, .kfree),
  (.kvclass, .kclass), (.kvpin, .kpin), (.kvdemote, .kdemote), (.kvpromote, .kpromote), (.kvlend, .klend),
  (.kvquery, .kquery)]

/-- Rows of 20 R345: a TLBINV and what it drops for an address operand. -/
def tlbRows : List ((TlbOps → Instr) × (Word → TlbWhat)) :=
  [(.tlbinvPage, .page), (.tlbinvCtx, fun _ => .ctx), (.tlbinvAll, fun _ => .all)]

/-- The address of a line operation: a base and an offset in units of 64 bytes (10 R244). -/
def lineAddr (s : State) (o : MSA) : Word :=
  (if o.a = 0 then s.cur.regs.sp else s.readS o.a) + o.off.signExtend 64 * 64

/-- The command at the head of the security controller's queue, read at its home, is well formed, and of number `op` (23 R358,
R359). -/
def atHead (s : State) (op : Nat) (e : ScEntry) (b : List Byte) : Prop :=
  s.sec.queue.head? = some e ∧ (s.scTouch e).scBytes e = b ∧ scFormed b = true ∧ field b 0 2 = op

end Sys2Proof.Claims

open Sys2Proof.Claims

/-! ### Scalar instructions (08) -/

/-- 08 R157, R160: each register instruction of the integer unit completes, and its result, a function of the 64-bit
operands alone, is a result for D after the latency of its row. 08 R158: each immediate instruction completes with
its result for the next bundle; a shift immediate from 64 to 511 is no instruction. 08 R159: a division issues with D marked EMPTY, as
an operation that fills it with the quotient or remainder, rounded toward zero, when it completes; a zero divisor gives all ones, or
the dividend as the remainder, and no trap. -/
def Obligations.IntegerRegisterResults : Prop :=
  ((∀ row ∈ aluRows, ∀ (s : State) (o : RRR), s.Issues (row.1 o) →
    Executes (row.1 o) s (s.later row.2.1 (outS o.d (row.2.2 (s.readS o.a) (s.readS o.b))))) ∧
  ∀ row ∈ countRows, ∀ (s : State) (o : RR), s.Issues (row.1 o) →
    Executes (row.1 o) s (s.later 1 (outS o.d (BitVec.ofNat 64 (row.2 (s.readS o.a)))))) ∧
  (∀ row ∈ immRows, ∀ (s : State) (o : RI), s.Issues (row.1 o) →
    Executes (row.1 o) s (s.later 1 (outS o.d (row.2 (s.readS o.a) o.imm)))) ∧
  (∀ o : RI, 64 ≤ o.imm.toNat → (Instr.shli o).wf = false ∧ (Instr.shri o).wf = false ∧ (Instr.sari o).wf = false) ∧
  (∀ row ∈ divRows, ∀ (s : State) (o : DivOps), s.Issues (row.1 o) →
    Executes (row.1 o) s (s.beginOp .div [outS o.d (row.2 (s.readS o.a) (s.readS o.b))] false)) ∧
  ∀ (s : State) (id : Nat) (t : Task) (op : Op), s.findOp id = some (t, op) → op.kind = .div →
    exec (.scalarDivComplete id) s = .next (s.finishOp t.id op)

/-- 08 R161, R181, R186: SEL, LI and LSI build values; RDCYC reads the cycle count of its core; NOP has no effect. 08
R162, R163, R164: a compare writes its predicate with its condition on operands of 64 bits, or of 32 in the `.w`
form; PLOG combines two predicates; PPACK and PUNPACK move all of them, PUNPACK writing p1 to p7. -/
def Obligations.CompareSelectAndConstantResults : Prop :=
  ((∀ (s : State) (o : SelOps), s.Issues (.sel o) →
    Executes (.sel o) s (s.later 1 (outS o.d (if s.readP o.p != o.n then s.readS o.a else s.readS o.b)))) ∧
  (∀ (s : State) (o : LiOps), s.Issues (.li o) → Executes (.li o) s (s.later 1 (outS o.d (o.imm.signExtend 64)))) ∧
  (∀ (s : State) (o : LiOps), s.Issues (.lsi o) →
    Executes (.lsi o) s (s.later 1 (outS o.d (s.readS o.d * 2 ^ 16 + o.imm.setWidth 64)))) ∧
  (∀ (s : State) (o : DOnly), s.Issues (.rdcyc o) →
    Executes (.rdcyc o) s (s.later 1 (outS o.d (s.core s.cur.loc).cycles))) ∧
  ∀ s : State, s.Issues .nop → Executes .nop s s) ∧
  ((∀ (s : State) (o : CmpOps), s.Issues (.cmp o) →
    ∃ b : Bool, Executes (.cmp o) s (s.later 1 (outP o.pd b)) ∧
      (b = true ↔
        if o.w32 then intCond o.cc ((s.readS o.a).setWidth 32) ((s.readS o.b).setWidth 32)
        else intCond o.cc (s.readS o.a) (s.readS o.b))) ∧
  (∀ (s : State) (o : CmpiOps), s.Issues (.cmpi o) →
    ∃ b : Bool, Executes (.cmpi o) s (s.later 1 (outP o.pd b)) ∧
      (b = true ↔ intCond o.cc (s.readS o.a) (o.imm.signExtend 64))) ∧
  (∀ row ∈ plogRows, ∀ (s : State) (o : PlogOps), s.Issues (row.1 o) →
    Executes (row.1 o) s (s.later 1 (outP o.pd (row.2 (s.readP o.pa) (s.readP o.pb))))) ∧
  (∀ (s : State) (o : DOnly), s.Issues (.ppack o) →
    ∃ x : Word, Executes (.ppack o) s (s.later 1 (outS o.d x)) ∧
      (∀ p : PReg, x.getLsbD p.val = s.readP p) ∧ x.toNat < 256) ∧
  ∀ (s : State) (o : AOnly), s.Issues (.punpack o) →
    Executes (.punpack o) s
      (s.laterAll 1 ([1, 2, 3, 4, 5, 6, 7].map fun p : PReg => outP p ((s.readS o.a).getLsbD p.val))))

/-- 08 R165, R166, R167: the scalar floating-point instructions complete; the exact result on the operands' low bits is
rounded once in the mode of fmt, the bits above the value are 0, a compare writes its predicate after four bundles,
and FDIV and FSQRT mark D EMPTY. 08 R168: FCVT converts under its overflow policy; where the policy handles an
overflow, CONVX is set at commit; under policy `.trap` it raises FP_TRAP and D keeps its value. -/
def Obligations.ScalarFloatingPointResults : Prop :=
  ((∀ row ∈ fpRows, ∀ (s : State) (o : FRRR), s.Issues (row.1 o) →
    Executes (row.1 o) s (s.later 4 (outS o.d
      (BitVec.ofNat 64 (row.2 o.f.fmt s.rm (s.readS o.a).toNat (s.readS o.b).toNat))))) ∧
  (∀ (s : State) (o : FRRR), s.Issues (.ffma o) →
    Executes (.ffma o) s (s.later 4 (outS o.d
      (BitVec.ofNat 64 (o.f.fmt.fmaBits s.rm (s.readS o.a).toNat (s.readS o.b).toNat (s.readS o.d).toNat))))) ∧
  (∀ (s : State) (o : FcmpOps), s.Issues (.fcmp o) →
    Executes (.fcmp o) s (s.later 4 (outP o.pd
      (fpCond o.cc (o.f.fmt.decode (s.readS o.a).toNat) (o.f.fmt.decode (s.readS o.b).toNat))))) ∧
  (∀ (s : State) (o : FRRR), s.Issues (.fdiv o) →
    Executes (.fdiv o) s (s.beginOp .div
      [outS o.d (BitVec.ofNat 64 (o.f.fmt.divBits s.rm (s.readS o.a).toNat (s.readS o.b).toNat))] false)) ∧
  ∀ (s : State) (o : FRR), s.Issues (.fsqrt o) →
    Executes (.fsqrt o) s (s.beginOp .div
      [outS o.d (BitVec.ofNat 64 (o.f.fmt.sqrtBits s.rm (s.readS o.a).toNat))] false)) ∧
  (∀ (s : State) (o : FcvtOps), s.Issues (.fcvt o) →
    let c := cvtScalar o.src o.dst s.rm o.ovf (s.readS o.a).toNat
    let t := s.later 4 (outS o.d (BitVec.ofNat 64 c.bits))
    (c.ovf = false → Executes (.fcvt o) s t) ∧
    (c.ovf = true → o.ovf ≠ .trap → Executes (.fcvt o) s { t with scr := { t.scr with convx := true } }) ∧
    (c.ovf = true → o.ovf = .trap → Raises (.fcvt o) s (.now cFpTrap 0)))

/-- 08 R169, R170, R171: CRD reads and CWR writes a control register that the mode allows, fmt changes five bundles on,
em and cm move to and from scalar registers. -/
def Obligations.ControlRegisterAndMaskResults : Prop :=
  (∀ (s : State) (o : DK), s.Issues (.crd o) → (ctlSupervisor o.k.toNat = true → s.cur.ctl.sv = true) → o.k.toNat ≠ 0x013 →
    Executes (.crd o) s (s.later 1 (outS o.d (s.readCtl o.k.toNat)))) ∧
  (∀ (s : State) (o : DK), s.Issues (.crd o) → o.k.toNat = 0x013 →
    Executes (.crd o) s (s.later 1 (outS o.d s.wsref)).tookFree) ∧
  (∀ (s : State) (o : AK), s.Issues (.cwr o) → ctlReadOnly o.k.toNat = false →
    (ctlSupervisor o.k.toNat = true ∨ o.k.toNat = 0x012 → s.cur.ctl.sv = true) →
    Executes (.cwr o) s (s.later 1 (outOf (cwrDst o.k.toNat) (s.readS o.a)))) ∧
  (∀ (s : State) (o : AX), s.Issues (.fmtset o) →
    Executes (.fmtset o) s (s.later 5 (outOf .fmt ((s.readS o.a).setWidth 32)))) ∧
  (∀ (s : State) (o : DOnly), s.Issues (.emsave o) → Executes (.emsave o) s (s.later 1 (outS o.d (s.em.setWidth 64)))) ∧
  (∀ (s : State) (o : AOnly), s.Issues (.emload o) →
    Executes (.emload o) s (s.later 1 (outOf .em ((s.readS o.a).setWidth 32)))) ∧
  (∀ (s : State) (o : RR), s.Issues (.emcomb o) →
    Executes (.emcomb o) s ((s.later 1 (outS o.d (s.em.setWidth 64))).later 1
      (outOf .em (s.em &&& s.cur.regs.cm &&& (s.readS o.a).setWidth 32)))) ∧
  (∀ (s : State) (o : DOnly), s.Issues (.cmsave o) →
    Executes (.cmsave o) s (s.later 1 (outS o.d (s.cur.regs.cm.setWidth 64)))) ∧
  ∀ (s : State) (o : AOnly), s.Issues (.cmload o) →
    Executes (.cmload o) s (s.later 1 (outOf .cm ((s.readS o.a).setWidth 32)))

/-- 08 R172 to R175: a transfer whose condition holds sends control to its target once its bundle has committed; a call
writes lk with the next bundle address; DBNZ counts down; a misaligned register target raises MISALIGN with the
target in c.EVAL. 08 R176, R177: ENTER stores lk at the new stack pointer, which it lowers by its frame, at once or, where an
earlier access of its context must come first, behind that; LEAVE loads
lk from the stack pointer, the bytes that lower slots of its bundle are still to store included, and raises it again; sp must be
16-byte aligned, the frame must lie above c.SLIM and in the task window, and the granule must not be poisoned. That c.EVAL of
LEAVE's POISON is free, and that its MISALIGN and SP_BOUND report sp, is the model's choice (log 12). -/
def Obligations.TransferResults : Prop :=
  ((∀ (s : State) (o : BrOps), s.Issues (.br o) →
    Executes (.br o) s (if s.readP o.p != o.n then s.goto (s.cur.pc + 4 * o.off.signExtend 64) else s)) ∧
  (∀ (s : State) (o : BrOps), s.Issues (.call o) →
    Executes (.call o) s
      (if s.readP o.p != o.n then (s.goto (s.cur.pc + 4 * o.off.signExtend 64)).later 1 (outOf .lk (s.cur.pc + 4)) else s)) ∧
  (∀ (s : State) (o : AOnly), s.Issues (.jmp o) →
    ((s.readS o.a).toNat % 4 = 0 → Executes (.jmp o) s (s.goto (s.readS o.a))) ∧
    ((s.readS o.a).toNat % 4 ≠ 0 → Raises (.jmp o) s (.now cMisalign (s.readS o.a)))) ∧
  (∀ (s : State) (o : AOnly), s.Issues (.callr o) →
    ((s.readS o.a).toNat % 4 = 0 →
      Executes (.callr o) s ((s.later 1 (outOf .lk (s.cur.pc + 4))).goto (s.readS o.a))) ∧
    ((s.readS o.a).toNat % 4 ≠ 0 → Raises (.callr o) s (.now cMisalign (s.readS o.a)))) ∧
  (∀ s : State, s.Issues .ret →
    (s.cur.regs.lk.toNat % 4 = 0 → Executes .ret s (s.goto s.cur.regs.lk)) ∧
    (s.cur.regs.lk.toNat % 4 ≠ 0 → Raises .ret s (.now cMisalign s.cur.regs.lk))) ∧
  ∀ (s : State) (o : DbnzOps), s.Issues (.dbnz o) →
    let d := s.readS o.d - 1
    let t := s.later 1 (outS o.d d)
    Executes (.dbnz o) s (if d = 0 then t else t.goto (s.cur.pc + 4 * o.off.signExtend 64))) ∧
  ((∀ (s : State) (o : FrameOps), s.Issues (.enter o) →
    let size := o.imm.toNat * 16
    let new := s.cur.regs.sp - BitVec.ofNat 64 size
    (s.cur.regs.sp.toNat % 16 ≠ 0 → Raises (.enter o) s (.now cMisalign s.cur.regs.sp)) ∧
    (s.cur.regs.sp.toNat % 16 = 0 → s.cur.regs.sp.toNat < size ∨ new.toNat < s.cur.ctl.slim.toNat →
      Raises (.enter o) s (.now cStackLimit new)) ∧
    (s.cur.regs.sp.toNat % 16 = 0 → size ≤ s.cur.regs.sp.toNat → s.cur.ctl.slim.toNat ≤ new.toNat →
      (¬ (s.cur.ctl.spb.toNat ≤ new.toNat ∧ new.toNat + 8 ≤ s.cur.ctl.spl.toNat) →
        Raises (.enter o) s (.now cSpBound new)) ∧
      (s.cur.ctl.spb.toNat ≤ new.toNat → new.toNat + 8 ≤ s.cur.ctl.spl.toNat →
        let pa := padBase s.cur.loc + new.toNat
        (s.blocked (.pad pa) 8 = false → Executes (.enter o) s
          ((s.padWrite pa ((natLe 8 s.cur.regs.lk.toNat).map some)).later 1 (outOf .sp new))) ∧
        (s.blocked (.pad pa) 8 = true → Executes (.enter o) s
          ((s.beginOp (.heldWrite (whole (.pad pa) 8) (s.cur.regs.lk.setWidth 1024) 0) [] false).later 1 (outOf .sp new)))))) ∧
  ∀ (s : State) (o : FrameOps), s.Issues (.leave o) →
    let size := o.imm.toNat * 16
    let sp := s.cur.regs.sp
    let pa := padBase s.cur.loc + sp.toNat
    (sp.toNat % 16 ≠ 0 → Raises (.leave o) s (.now cMisalign sp)) ∧
    (sp.toNat % 16 = 0 → ¬ (s.cur.ctl.spb.toNat ≤ sp.toNat ∧ sp.toNat + 8 ≤ s.cur.ctl.spl.toNat ∧
      sp.toNat + size ≤ s.cur.ctl.spl.toNat) → Raises (.leave o) s (.now cSpBound sp)) ∧
    (sp.toNat % 16 = 0 → s.cur.ctl.spb.toNat ≤ sp.toNat → sp.toNat + 8 ≤ s.cur.ctl.spl.toNat →
      sp.toNat + size ≤ s.cur.ctl.spl.toNat → s.mustStall (.pad pa) 8 = false →
      (s.poisoned pa = true → Raises (.leave o) s (.now cPoison (s.freeVal 64))) ∧
      (s.poisoned pa = false → Executes (.leave o) s ((s.later 1 (outOf .lk (BitVec.ofNat 64 (leNat (s.bytesSeen pa 8))))).later 1
        (outOf .sp (sp + BitVec.ofNat 64 size)))) ∧
      ((∀ op ∈ s.cur.ops, s.earlier op = true) → leNat (s.bytesSeen pa 8) = s.word pa 8)))

/-- 08 R178, R179, R180, R182, R183: TRAP, SVC and BRK commit and then enter the handler with their cause; RTE and HALT
have their effect in supervisor mode; KNEXT ends a part or iteration and TEXIT the task, once their bundle commits.
08 R184, R185: TSPAWN marks D EMPTY and hands the record's address to the dispatcher, after a release behind the
earlier writes of its context; a record that is not 64-byte aligned raises MISALIGN; ETCHMARK leaves its record in the log where the log has room and, in proof
mode, the next record is that MARK. -/
def Obligations.SystemTransfers : Prop :=
  ((∀ (s : State) (o : KOnly), s.Issues (.trap o) → Executes (.trap o) s (s.thenDo (.trap cTrap 0 (o.k.setWidth 64)))) ∧
  (∀ (s : State) (o : KOnly), s.Issues (.svc o) → Executes (.svc o) s (s.thenDo (.trap cSvc 0 (o.k.setWidth 64)))) ∧
  (∀ (s : State) (o : KOnly), s.Issues (.brk o) → Executes (.brk o) s (s.thenDo (.trap cBreak 0 (o.k.setWidth 64)))) ∧
  (∀ s : State, s.Issues .rte → s.cur.ctl.sv = true → Executes .rte s (s.thenDo .rte)) ∧
  (∀ s : State, s.Issues .halt → s.cur.ctl.sv = true → Executes .halt s (s.thenDo .halt)) ∧
  (∀ s : State, s.Issues .texit → Executes .texit s (s.thenDo .texit)) ∧
  ∀ s : State, s.Issues .knext → Executes .knext s (s.thenDo .knext)) ∧
  ((∀ (s : State) (o : RR), s.Issues (.tspawn o) → (s.readS o.a).toNat % 64 = 0 →
    s.etchReady 0x0E 0 (s.readS o.a) .none none = .ok () →
    Executes (.tspawn o) s (((s.beginOp (.spawn (s.readS o.a) false) [outS o.d 0] false).reserveOp).lastGo State.spawnGo)) ∧
  (∀ (s : State) (t : Task) (op : Op) (va : Word), op.kind = .spawn va false →
    (∀ o ∈ t.ops, o.id < op.id → o.holds = false ∧ o.writes = false) →
    ∃ u : State, s.spawnGo t op = { u with subs := u.subs ++ [⟨t.ctx, va, .spawn t.id op.id⟩] } ∧
      u = (s.flushCtx t.loc t.ctx).updOp t.id { op with kind := .spawn va true }) ∧
  (∀ (s : State) (o : RR), s.Issues (.tspawn o) → (s.readS o.a).toNat % 64 ≠ 0 →
    Raises (.tspawn o) s (.now cMisalign (s.readS o.a))) ∧
  ∀ (s : State) (o : AK), s.Issues (.etchmark o) → s.etchReady 0x0F 0 (o.k.setWidth 64) .none (some (s.readS o.a)) = .ok () →
    Executes (.etchmark o) s
      (s.etchDone s.cur.id 0x0F 0 (o.k.setWidth 64) (s.readS o.a) .none none).1)

/-! ### Registers, bundles and traps (06, 20) -/

/-- 06 R131, R132: a fixed-latency result with latency `n` leaves its register as it was for `n - 1` bundle boundaries
and is there after the `n`-th, in a scalar register other than s0 and in every vector register that no producer
holds EMPTY; a vector result changes the bits of its lanes alone. 06 R121: s0 reads 0 after any result, and p0 reads
true. -/
def Obligations.ResultsLandAfterTheirLatency : Prop :=
  ((∀ (t : Task) (d : SReg) (x : Word) (n : Nat), d ≠ 0 → 1 ≤ n → (∀ p ∈ t.pend, p.out.dst ≠ .s d) →
    t.cond (.s d) ≠ .empty →
    let u : Task := { t with pend := t.pend ++ [⟨n, outS d x⟩] }
    (∀ k < n, (u.advanceBy k).readS d = t.readS d) ∧ (u.advanceBy n).readS d = x) ∧
  ∀ (t : Task) (d : VReg) (m x : VWord) (n : Nat), 1 ≤ n → (∀ p ∈ t.pend, p.out.dst ≠ .v d) → t.cond (.v d) ≠ .empty →
    let u : Task := { t with pend := t.pend ++ [⟨n, ⟨.v d, m, x⟩⟩] }
    (∀ k < n, ((u.advanceBy k).regs.v[d]).val = t.regs.v[d].val) ∧
    ∀ i : Fin 1024, ((u.advanceBy n).regs.v[d]).val.getLsbD i = if m.getLsbD i then x.getLsbD i else t.regs.v[d].val.getLsbD i) ∧
  ((∀ (t : Task) (o : Out), (t.land o).readS 0 = 0) ∧ ∀ s : State, s.readP 0 = true ∧ s.readS 0 = 0)

/-- 06 R134, 08 R172: a bundle of one slot that goes straight on moves the machine one bundle: results whose count ends
land, the pc rises by 4, and nothing else changes; one that transfers control differs in the pc alone. 06 R121,
R124, R131, R134: the frame of the instructions whose effect is a result. A bundle of one slot with a result of
latency 1 changes the machine as the bundle boundary does and its destination register; one of a longer latency
leaves that result pending; one that begins an operation marks its destinations EMPTY; no byte of memory, no other
task and no special register changes, but what results that were pending before change. A result that lands changes its
destination alone; one for a control register may change those that CWR of its number changes. -/
def Obligations.CommitMovesOneBundle : Prop :=
  (∀ s : State, s.Fresh → s.commit = s.moved ∧
    ∀ a : Word, (s.goto a).commit = { s.moved with cur := { s.moved.cur with pc := a } }) ∧
  ((∀ (s : State) (o : Out), s.Fresh → (s.later 1 o).commit = s.moved.setCur fun t => t.land o) ∧
  (∀ (s : State) (o : Out) (n : Nat), s.Fresh → 2 ≤ n →
    (s.later n o).commit = s.moved.setCur fun t => { t with pend := t.pend ++ [⟨n - 1, o⟩] }) ∧
  (∀ s : State, s.moved.mem = s.mem ∧ s.moved.others = s.others ∧ s.moved.cur.ops = s.cur.ops ∧
    (s.cur.pend = [] → s.SameButRegs s.moved ∧ s.moved.cur.regs = s.cur.regs)) ∧
  (∀ (s : State) (kind : OpKind) (outs : List Out) (parks : Bool), let t := s.beginOp kind outs parks
    t.mem = s.mem ∧ t.others = s.others ∧ t.cur.ctl = s.cur.ctl ∧ t.cur.tls = s.cur.tls ∧ t.cur.pc = s.cur.pc ∧
      (∀ r : SReg, (∀ o ∈ outs, o.dst ≠ .s r) → t.cur.regs.s[r] = s.cur.regs.s[r]) ∧
      (∀ r : VReg, (∀ o ∈ outs, o.dst ≠ .v r) → t.cur.regs.v[r] = s.cur.regs.v[r]) ∧
      t.cur.regs.p = s.cur.regs.p ∧ t.cur.regs.cm = s.cur.regs.cm ∧ t.cur.regs.fmt = s.cur.regs.fmt ∧
      t.cur.regs.sp = s.cur.regs.sp ∧ t.cur.regs.lk = s.cur.regs.lk ∧ t.cur.regs.mp = s.cur.regs.mp) ∧
  ∀ (t : Task) (o : Out), let u := t.land o
    (∀ r : SReg, o.dst ≠ .s r → (∀ k, o.dst ≠ .cr k) → u.regs.s[r] = t.regs.s[r]) ∧
    (∀ r : VReg, o.dst ≠ .v r → (∀ k, o.dst ≠ .cr k) → u.regs.v[r] = t.regs.v[r]) ∧
    (∀ r : PReg, o.dst ≠ .p r → (∀ k, o.dst ≠ .cr k) → u.regs.p.getLsbD r.val = t.regs.p.getLsbD r.val) ∧
    (o.dst ≠ .em → u.regs.em = t.regs.em) ∧ (o.dst ≠ .cm → u.regs.cm = t.regs.cm) ∧ (o.dst ≠ .fmt → u.regs.fmt = t.regs.fmt) ∧
    (o.dst ≠ .sp → (∀ k, o.dst ≠ .cr k) → u.regs.sp = t.regs.sp) ∧ (o.dst ≠ .lk → (∀ k, o.dst ≠ .cr k) → u.regs.lk = t.regs.lk) ∧
    (∀ k : Fin 8, o.dst ≠ .mp k → u.regs.mp[k] = t.regs.mp[k]) ∧
    (o.dst ≠ .convx → (∀ k, o.dst ≠ .cr k) → u.ctl = t.ctl) ∧ (∀ k : Fin 11, o.dst ≠ .shadow k.val → u.shadow[k] = t.shadow[k]) ∧
    u.binds = t.binds ∧ u.ops = t.ops ∧ u.tls = t.tls ∧ u.pc = t.pc ∧ u.status = t.status)

/-- 06 R122, R124, R125, R136: for every instruction of the integer unit, the register, immediate, count and division forms, a
register beyond the caps is ILLEGAL. A source that is EMPTY makes the bundle wait where its wait bit is 1: nothing changes but the
note that it waits, and its task parks where the register's producer parks (R125). It raises REG_EMPTY with the register's number
where its wait bit is 0; a POISONED source raises POISON and a FAILED one its recorded cause, deferred. -/
def Obligations.SourceChecks : Prop :=
  (∀ row ∈ aluRows, ∀ (s : State) (o : RRR), s.Fresh →
    (s.cur.capS ≤ o.a.val ∨ s.cur.capS ≤ o.b.val ∨ s.cur.capS ≤ o.d.val → Raises (row.1 o) s (.now cIllegal (s.enc 0))) ∧
    (o.a.val < s.cur.capS → o.b.val < s.cur.capS → o.d.val < s.cur.capS →
      (s.cur.cond (.s o.b) = .ok → destReady s o.d = true ∨ o.d = o.a → sourceRules (row.1 o) s o.a o.wa (destReady s o.d)) ∧
      (s.cur.cond (.s o.a) = .ok → destReady s o.d = true ∨ o.d = o.b → sourceRules (row.1 o) s o.b o.wb (destReady s o.d)))) ∧
  (∀ row ∈ immRows, ∀ (s : State) (o : RI), s.Fresh →
    (s.cur.capS ≤ o.a.val ∨ s.cur.capS ≤ o.d.val → Raises (row.1 o) s (.now cIllegal (s.enc 0))) ∧
    (o.a.val < s.cur.capS → o.d.val < s.cur.capS → destReady s o.d = true ∨ o.d = o.a →
      sourceRules (row.1 o) s o.a o.wa (destReady s o.d))) ∧
  (∀ row ∈ countRows, ∀ (s : State) (o : RR), s.Fresh →
    (s.cur.capS ≤ o.a.val ∨ s.cur.capS ≤ o.d.val → Raises (row.1 o) s (.now cIllegal (s.enc 0))) ∧
    (o.a.val < s.cur.capS → o.d.val < s.cur.capS → destReady s o.d = true ∨ o.d = o.a →
      sourceRules (row.1 o) s o.a o.wa (destReady s o.d))) ∧
  ∀ row ∈ divRows, ∀ (s : State) (o : DivOps), s.Fresh →
    (s.cur.capS ≤ o.a.val ∨ s.cur.capS ≤ o.b.val ∨ s.cur.capS ≤ o.d.val → Raises (row.1 o) s (.now cIllegal (s.enc 0))) ∧
    (o.a.val < s.cur.capS → o.b.val < s.cur.capS → o.d.val < s.cur.capS →
      (s.cur.cond (.s o.b) = .ok → markReady s o.d = true ∨ o.d = o.a → sourceRules (row.1 o) s o.a o.wa true) ∧
      (s.cur.cond (.s o.a) = .ok → markReady s o.d = true ∨ o.d = o.b → sourceRules (row.1 o) s o.b o.wb true))

/-- 06 R124, as a step keeps it: a register is EMPTY for `n` producers only if `n` outstanding operations of its task have it among
their results, and no two operations bear one number. So a register that is EMPTY is so for an operation that is outstanding. It
holds at reset. -/
def Obligations.EmptyRegistersHaveProducers : Prop :=
  (∀ s t : State, producersOutstanding s → step s = .next t → producersOutstanding t) ∧ producersOutstanding State.reset

/-- 06 R124: a producer marks its destination EMPTY; when its operation ends the register holds the result and is FULL,
or POISONED, or it is FAILED with the value it held before; raising the cause makes it FULL again. 06 R124: a
register with two outstanding producers stays EMPTY until both have completed, and is FAILED if either of them
failed and the cause has not been raised before. -/
def Obligations.RegisterStates : Prop :=
  (∀ (w : Nat) (x : Reg w) (o : Out), (∀ n b f p, x.st ≠ .empty n b f p) →
    (x.mark).cond = .empty ∧
    x.mark.fill o .data = ⟨merge x.val o, .full⟩ ∧
    x.mark.fill o .poison = ⟨merge x.val o, .poisoned⟩ ∧
    ∀ (f : Fail) (op : Nat), f.link = none →
      (x.mark.fill o (.fail f op)).cond = .failed f op ∧ (x.mark.fill o (.fail f op)).raised op = ⟨x.val, .full⟩) ∧
  (∀ (w : Nat) (x : Reg w) (o1 o2 : Out) (e1 : Ending), (∀ n b f p, x.st ≠ .empty n b f p) →
    (x.mark.mark.fill o1 e1).cond = .empty ∧
    ((x.mark.mark.fill o1 .data).fill o2 .data).val = merge (merge x.val o1) o2 ∧
    ∀ (f : Fail) (op : Nat),
      ((x.mark.mark.fill o1 (.fail f op)).fill o2 .data).cond = .failed f op ∧
      ((x.mark.mark.fill o1 .data).fill o2 (.fail f op)).cond = .failed f op ∧
      (((x.mark.mark.fill o1 (.fail f op)).raised op).fill o2 .data).cond = .ok)

/-- 20 R337: a trap enters the handler: c.EPC holds the faulting bundle, c.CAUSE the code and the slot, c.EVAL the
value, PSV the mode; SV and INTRAP are set, control is at c.TVEC, pending results are held aside, where no bundle
boundary touches them, and nothing else of the machine changes but the model's count of free values. 20 R339: a
cause raised in a handler, or in a context without one, ends the task, after a TASK_ABORT record with the cause and
the first c.EPC; the other tasks stay as they are. -/
def Obligations.TrapEntry : Prop :=
  ((∀ (s : State) (c : Nat) (e : Word) (k : Nat), s.cur.ctl.intrap = false → s.myCtx.tvec ≠ 0 → s.cur.status = .running →
    s.takeTrap (.now c e) k =
      { s with
        free := s.free + 1
        cur := { s.cur with
          pc := s.cur.ctl.tvec, held := s.cur.pend, pend := []
          ctl := { s.cur.ctl with
            epc := s.cur.pc, cause := BitVec.ofNat 64 (c + k * 2 ^ 16), eval := e, psv := s.cur.ctl.sv, sv := true,
            intrap := true } } }) ∧
  ∀ t : Task, t.advance.held = t.held) ∧
  (∀ (s : State) (c : Nat) (e : Word) (k : Nat), s.cur.ctl.intrap = true ∨ s.myCtx.tvec = 0 →
    let epc := if s.cur.ctl.intrap then s.cur.ctl.epc else s.cur.pc
    s.takeTrap (.now c e) k =
      ({ s with free := s.free + 1 }.record s.cur.ctx (dieOf s.cur.loc) 1 c (s.cur.ctl.taskid.toNat % 2 ^ 32) 0 epc).setCur
        fun t => t.ended true)

/-- 08 R178, 20 R337: TRAP, SVC and BRK commit and enter the handler, in supervisor mode, with their code in c.CAUSE,
the number in c.EVAL and the next bundle address in c.EPC. -/
def Obligations.SvcEntersTheHandler : Prop :=
  ∀ row ∈ ([(Instr.trap, 0x14), (Instr.svc, 0x13), (Instr.brk, 0x12)] : List ((KOnly → Instr) × Nat)),
    ∀ (s : State) (o : KOnly), s.Issues (row.1 o) → s.cur.ctl.intrap = false → s.myCtx.tvec ≠ 0 →
    ∃ t, exec (row.1 o) s = .next t ∧ t.cur.pc = s.cur.ctl.tvec ∧ t.cur.ctl.epc = s.cur.pc + 4 ∧
      t.cur.ctl.cause = BitVec.ofNat 64 row.2 ∧ t.cur.ctl.eval = o.k.setWidth 64 ∧ t.cur.ctl.psv = s.cur.ctl.sv ∧
      t.cur.ctl.sv = true ∧ t.cur.ctl.intrap = true ∧ t.cur.regs = s.cur.regs ∧ t.mem = s.mem

/-- 08 R179, 20 R339: a handler that does nothing but RTE returns the program to the bundle that trapped, in its mode,
with its registers and with the pending results it had. -/
def Obligations.ReturnFromTrap : Prop :=
  ∀ (s : State) (c : Nat) (e : Word), s.Fresh → s.cur.ctl.intrap = false → s.myCtx.tvec ≠ 0 → s.cur.status = .running →
    (∀ p ∈ s.cur.pend, p.rem ≠ 0) →
    ∃ u, exec .rte (s.takeTrap (.now c e) 0) = .next u ∧ u.cur.pc = s.cur.pc ∧ u.cur.pend = s.cur.pend ∧
      u.cur.held = [] ∧ u.cur.regs = s.cur.regs ∧ u.cur.ctl.sv = s.cur.ctl.sv ∧ u.cur.ctl.intrap = false ∧ u.mem = s.mem

/-- 06 R136, 08 R169, R179, R180: outside supervisor mode a supervisor register, a write of c.WDINT, RTE and HALT raise
PROT (with a value in c.EVAL that no rule states, log 12), and a write of a read-only register does in either mode;
in supervisor mode an unassigned number and an RTE outside a handler are ILLEGAL. 06 R136: what CRD reads of the
registers that CWR may write is what was written, but for the fields that stay: SCOPEX and CONVX clear where ones
are written, and the reserved bits of c.MCSTAT read 0. -/
def Obligations.PrivilegeAndReadOnly : Prop :=
  ((∀ (s : State) (o : DK), s.Issues (.crd o) → s.cur.ctl.sv = false → ctlSupervisor o.k.toNat = true →
    Raises (.crd o) s (.now cProt (s.freeVal 64))) ∧
  (∀ (s : State) (o : AK), s.Issues (.cwr o) → s.cur.ctl.sv = false → ctlSupervisor o.k.toNat = true ∨ o.k.toNat = 0x012 →
    Raises (.cwr o) s (.now cProt (s.freeVal 64))) ∧
  (∀ (s : State) (o : AK), s.Issues (.cwr o) → ctlReadOnly o.k.toNat = true →
    Raises (.cwr o) s (.now cProt (s.freeVal 64))) ∧
  (∀ s : State, s.Issues .rte → s.cur.ctl.sv = false → Raises .rte s (.now cProt (s.freeVal 64))) ∧
  (∀ s : State, s.Issues .halt → s.cur.ctl.sv = false → Raises .halt s (.now cProt (s.freeVal 64))) ∧
  (∀ s : State, s.Fresh → s.cur.ctl.sv = true → s.cur.ctl.intrap = false → Raises .rte s (.now cIllegal (s.enc 0))) ∧
  (∀ (s : State) (o : DK), s.Fresh → s.cur.ctl.sv = true → 0x108 ≤ o.k.toNat → Raises (.crd o) s (.now cIllegal (s.enc 0))) ∧
  ∀ (s : State) (o : AK), s.Fresh → s.cur.ctl.sv = true → 0x108 ≤ o.k.toNat → Raises (.cwr o) s (.now cIllegal (s.enc 0))) ∧
  ((∀ (s : State) (k : Nat) (v : Word), k ∈ [0x004, 0x005, 0x010, 0x011, 0x012, 0x103, 0x104, 0x105, 0x106] →
    (s.setCur fun t => t.writeCtl k v).readCtl k = v) ∧
  (∀ (s : State) (v : Word),
    let r := (s.setCur fun t => t.writeCtl 0x016 v).readCtl 0x016
    ∀ i : Fin 64, r.getLsbD i = (v.getLsbD i && (i.val == 0 || (5 ≤ i.val && i.val < 48)))) ∧
  (∀ (s : State) (v : Word),
    let c := (s.setCur fun t => t.writeCtl 0x000 v).cur.ctl
    c.sv = s.cur.ctl.sv ∧ c.intrap = s.cur.ctl.intrap ∧ c.scopex = (s.cur.ctl.scopex && !v.getLsbD 1) ∧
      c.convx = (s.cur.ctl.convx && !v.getLsbD 2)) ∧
  ∀ (s : State) (k : Nat) (v : Word), ctlReadOnly k = true → s.setCur (fun t => t.writeCtl k v) = s)

/-- 08 R182: KNEXT goes on to the kernel while iterations are left, else to the epilogue or the end, and counts the
iterations in c.ITER. -/
def Obligations.KnextParts : Prop :=
  ∀ t : Task, t.preempt = false →
    (t.part = .prologue → t.ctl.trip ≠ 0 →
      t.knext.pc = t.loop.kernel ∧ t.knext.part = .kernel ∧ t.knext.ctl.iter = t.ctl.iter) ∧
    (t.part = .prologue → t.ctl.trip = 0 → t.loop.epilogue ≠ 0 → t.knext.pc = t.loop.epilogue ∧ t.knext.part = .epilogue) ∧
    (t.part = .kernel → t.ctl.iter + 1 ≠ t.ctl.trip →
      t.knext.pc = t.loop.kernel ∧ t.knext.part = .kernel ∧ t.knext.ctl.iter = t.ctl.iter + 1) ∧
    (t.part = .kernel → t.ctl.iter + 1 = t.ctl.trip → t.loop.epilogue ≠ 0 →
      t.knext.pc = t.loop.epilogue ∧ t.knext.part = .epilogue ∧ t.knext.ctl.iter = t.ctl.trip) ∧
    (t.knextEnds = true → t.knext.status = .ending) ∧
    t.knext.regs = t.regs

/-! ### Vector and special-function instructions (09) -/

/-- 06 R126, 09 R189: a masked result changes exactly the elements that em enables, each to the low bits of its result;
every other element, and every bit above the width, keeps its value. -/
def Obligations.MaskedResultsWriteTheirLanes : Prop :=
  ∀ (vd : VReg) (z n : Nat) (act : Nat → Bool) (f : Nat → Nat) (v : VWord), 0 < z → z * n ≤ 1024 →
    let x := vecOut vd z n act f
    x.dst = .v vd ∧
    (∀ i < n, elemAt (merge v x) z i = if act i then f i % 2 ^ z else elemAt v z i) ∧
    ∀ k, z * n ≤ k → (merge v x).getLsbD k = v.getLsbD k

/-- 09 R190, R191: element-wise arithmetic and logic of two vector registers. 09 R191, R192: multiply-adds into VD, with
a vector or a scalar second factor, and the other scalar-operand forms. 09 R191, R193, R195: the unary and immediate
forms and the moves. The magnitude of the most negative integer is that integer again. -/
def Obligations.VectorArithmeticResults : Prop :=
  ((∀ row ∈ vecArithRows, ∀ (s : State) (o : VRR), s.Issues (row.1 o) →
    Executes (row.1 o) s (s.later (vecLatency o.dt) (masked s o.vd o.w o.dt fun i =>
      arith o.dt s.rm row.2.1 row.2.2 (elemAt (s.readV o.va) o.dt.bits i) (elemAt (s.readV o.vb) o.dt.bits i)))) ∧
  ∀ row ∈ vecBitRows, ∀ (s : State) (o : VRR), s.Issues (row.1 o) →
    Executes (row.1 o) s (s.later 2 (masked s o.vd o.w o.dt fun i =>
      (row.2 o.dt.bits (lane (s.readV o.va) o.dt.bits i) (lane (s.readV o.vb) o.dt.bits i)).toNat))) ∧
  ((∀ (s : State) (o : VRR), s.Issues (.vfma o) →
    Executes (.vfma o) s (s.later (vecLatency o.dt) (masked s o.vd o.w o.dt fun i =>
      mulAdd o.dt s.rm false (elemAt (s.readV o.va) o.dt.bits i) (elemAt (s.readV o.vb) o.dt.bits i)
        (elemAt (s.readV o.vd) o.dt.bits i)))) ∧
  (∀ (s : State) (o : VRR), s.Issues (.vfnma o) →
    Executes (.vfnma o) s (s.later (vecLatency o.dt) (masked s o.vd o.w o.dt fun i =>
      mulAdd o.dt s.rm true (elemAt (s.readV o.va) o.dt.bits i) (elemAt (s.readV o.vb) o.dt.bits i)
        (elemAt (s.readV o.vd) o.dt.bits i)))) ∧
  (∀ (s : State) (o : VSS), s.Issues (.vfmasc o) →
    Executes (.vfmasc o) s (s.later (vecLatency o.dt) (masked s o.vd o.w o.dt fun i =>
      mulAdd o.dt s.rm false (elemAt (s.readV o.va) o.dt.bits i) ((s.readS o.s).toNat % 2 ^ o.dt.bits)
        (elemAt (s.readV o.vd) o.dt.bits i)))) ∧
  (∀ (s : State) (o : VSS), s.Issues (.vaddsc o) →
    Executes (.vaddsc o) s (s.later (vecLatency o.dt) (masked s o.vd o.w o.dt fun i =>
      arith o.dt s.rm (fun f m a b => f.round m ((f.decode a).add m (f.decode b))) (fun a b => a + b)
        (elemAt (s.readV o.va) o.dt.bits i) ((s.readS o.s).toNat % 2 ^ o.dt.bits)))) ∧
  ∀ (s : State) (o : VSS), s.Issues (.vmulsc o) →
    Executes (.vmulsc o) s (s.later (vecLatency o.dt) (masked s o.vd o.w o.dt fun i =>
      arith o.dt s.rm (fun f m a b => f.round m ((f.decode a).mul (f.decode b))) (fun a b => a * b)
        (elemAt (s.readV o.va) o.dt.bits i) ((s.readS o.s).toNat % 2 ^ o.dt.bits)))) ∧
  ((∀ (s : State) (o : VR1), s.Issues (.vabs o) →
    Executes (.vabs o) s (s.later (vecLatency o.dt) (masked s o.vd o.w o.dt fun i =>
      match o.dt.fmt 0 with
      | some f => f.round .rne (f.decode (elemAt (s.readV o.va) o.dt.bits i)).abs
      | none =>
        let a := lane (s.readV o.va) o.dt.bits i
        (if a.toInt < 0 then -a else a).toNat))) ∧
  (∀ (s : State) (o : VR1), s.Issues (.vneg o) →
    Executes (.vneg o) s (s.later (vecLatency o.dt) (masked s o.vd o.w o.dt fun i =>
      match o.dt.fmt 0 with
      | some f => f.round .rne (f.decode (elemAt (s.readV o.va) o.dt.bits i)).neg
      | none => (-lane (s.readV o.va) o.dt.bits i).toNat))) ∧
  (∀ (s : State) (o : VR1), s.Issues (.vnot o) →
    Executes (.vnot o) s (s.later 2 (masked s o.vd o.w o.dt fun i => (~~~lane (s.readV o.va) o.dt.bits i).toNat))) ∧
  (∀ (s : State) (o : VR1), s.Issues (.vmov o) →
    Executes (.vmov o) s (s.later 2 (masked s o.vd o.w o.dt fun i => elemAt (s.readV o.va) o.dt.bits i))) ∧
  (∀ (s : State) (o : VR1), s.Issues (.vmovu o) →
    ∃ x, Executes (.vmovu o) s (s.later 2 x) ∧ x.dst = .v o.vd ∧ ∀ (v : VWord) (k : Nat), k < 1024 →
      (merge v x).getLsbD k = if k < o.w.bits then (s.readV o.va).getLsbD k else v.getLsbD k) ∧
  (∀ (s : State) (o : VII), s.Issues (.vaddi o) →
    Executes (.vaddi o) s (s.later 2 (masked s o.vd o.w o.dt fun i =>
      (lane (s.readV o.va) o.dt.bits i + BitVec.ofInt _ o.imm.toInt).toNat))) ∧
  (∀ (s : State) (o : VII), s.Issues (.vshli o) →
    Executes (.vshli o) s (s.later 2 (masked s o.vd o.w o.dt fun i => (lane (s.readV o.va) o.dt.bits i <<< o.imm.toNat).toNat))) ∧
  (∀ (s : State) (o : VII), s.Issues (.vshri o) →
    Executes (.vshri o) s (s.later 2 (masked s o.vd o.w o.dt fun i => (lane (s.readV o.va) o.dt.bits i >>> o.imm.toNat).toNat))) ∧
  (∀ (s : State) (o : VII), s.Issues (.vsari o) →
    Executes (.vsari o) s (s.later 2 (masked s o.vd o.w o.dt fun i =>
      ((lane (s.readV o.va) o.dt.bits i).sshiftRight o.imm.toNat).toNat))) ∧
  ∀ (s : State) (o : VLiOps), s.Issues (.vli o) →
    ∃ x : Nat, Executes (.vli o) s (s.later (vecLatency o.dt) (masked s o.vd o.w o.dt fun _ => x)) ∧
      match o.dt.fmt 0 with
      | some f => (f.decode x).eqv (.ofInt o.imm.toInt) = true
      | none => (BitVec.ofNat o.dt.bits x).toInt = o.imm.toInt)

/-- 09 R194, R195, R198: VCMP writes the bits of cm below W/32, a lane's bit telling whether the condition holds of each element of
the lane, an inactive lane getting 0 or, with ACC, keeping its bit; VSEL chooses by cm; VPOPC counts and VFIRST finds the lanes that cm and em select. 09 R196, R197: broadcasts,
element access with indices modulo the number of elements, and permutes. -/
def Obligations.VectorCompareAndPermuteResults : Prop :=
  ((∀ (s : State) (o : VcmpOps), s.Issues (.vcmp o) →
    let z := o.dt.bits
    let holds (l : Nat) : Prop := ∀ j < max 1 (32 / z),
      vecCond o.cc o.dt (elemAt (s.readV o.va) z (32 * l / z + j)) (elemAt (s.readV o.vb) z (32 * l / z + j))
    ∃ x, Executes (.vcmp o) s (s.later 2 x) ∧ x.dst = .cm ∧ ∀ l < 32,
      let old := s.cur.regs.cm.getLsbD l
      let new := (merge s.cur.regs.cm x).getLsbD l
      (o.w.bits / 32 ≤ l → new = old) ∧
      (l < o.w.bits / 32 → s.em.getLsbD l = true →
        (o.acc = true → (new = true ↔ old = true ∧ holds l)) ∧ (o.acc = false → (new = true ↔ holds l))) ∧
      (l < o.w.bits / 32 → s.em.getLsbD l = false → new = (o.acc && old))) ∧
  (∀ (s : State) (o : VRR), s.Issues (.vsel o) →
    Executes (.vsel o) s (s.later 2 (masked s o.vd o.w o.dt fun i =>
      if s.cur.regs.cm.getLsbD (i * o.dt.bits / 32) then elemAt (s.readV o.va) o.dt.bits i
      else elemAt (s.readV o.vb) o.dt.bits i))) ∧
  (∀ (s : State) (o : VcntOps), s.Issues (.vpopc o) →
    Executes (.vpopc o) s (s.later 2 (outS o.sd (BitVec.ofNat 64
      ((List.range (o.w.bits / 32)).countP fun l => s.em.getLsbD l && s.cur.regs.cm.getLsbD l))))) ∧
  ∀ (s : State) (o : VcntOps), s.Issues (.vfirst o) →
    Executes (.vfirst o) s (s.later 2 (outS o.sd
      (match (List.range (o.w.bits / 32)).find? fun l => s.em.getLsbD l && s.cur.regs.cm.getLsbD l with
        | some l => BitVec.ofNat 64 l
        | none => BitVec.allOnes 64)))) ∧
  ((∀ (s : State) (o : VBc), s.Issues (.vbcast o) →
    Executes (.vbcast o) s (s.later 3 (masked s o.vd o.w o.dt fun _ => (s.readS o.s).toNat % 2 ^ o.dt.bits))) ∧
  (∀ (s : State) (o : VextOps), s.Issues (.vext o) →
    let x := lane (s.readV o.va) o.dt.bits ((s.readS o.sb).toNat % (o.w.bits / o.dt.bits))
    Executes (.vext o) s (s.later 3 (outS o.sd (if o.dt.isInt then x.signExtend 64 else x.setWidth 64)))) ∧
  (∀ (s : State) (o : VSS), s.Issues (.vins o) →
    let n := o.w.bits / o.dt.bits
    let r : SReg := ⟨o.va.val, by omega⟩
    Executes (.vins o) s (s.later 3 (vecOut o.vd o.dt.bits n (fun i => i == (s.readS r).toNat % n)
      fun _ => (s.readS o.s).toNat % 2 ^ o.dt.bits))) ∧
  (∀ (s : State) (o : VRR), s.Issues (.vperm o) →
    Executes (.vperm o) s (s.later 3 (masked s o.vd o.w o.dt fun i =>
      elemAt (s.readV o.va) o.dt.bits (elemAt (s.readV o.vb) o.dt.bits i % (o.w.bits / o.dt.bits))))) ∧
  (∀ (s : State) (o : VSS), s.Issues (.vslide o) →
    Executes (.vslide o) s (s.later 3 (masked s o.vd o.w o.dt fun i =>
      let j : Int := i + (s.readS o.s).toInt
      if 0 ≤ j ∧ j < (o.w.bits / o.dt.bits : Nat) then elemAt (s.readV o.va) o.dt.bits j.toNat else 0))) ∧
  ∀ (s : State) (o : VIota), s.Issues (.viota o) →
    Executes (.viota o) s (s.later 3 (masked s o.vd o.w o.dt fun i =>
      if o.dt.isInt then i else (o.dt.conv 0 .rne .sat (.ofInt i)).bits)))

/-- 09 R201, R202, R203: VDEFER appends one entry for each lane that em and cm select, and drops those lanes from em; it
raises PROT, with the entries held, where the context would exceed BQCAP; of the core's entries beyond 1,024 the oldest are spilled: each goes, as its 64 bytes, to the
lowest free slot of its context's ring, or stays where its slot cannot be written (which slot, and that, are log 100);
VDRAIN takes up to 32 entries of its tag, oldest first, those that were spilled fetched back, and marks its destinations,
its count and em EMPTY; VDSTAT counts. -/
def Obligations.BivouacResults : Prop :=
  (∀ (s : State) (o : VdfOps), s.Issues (.vdefer o) →
    let sel := (List.range 32).filter fun l => s.em.getLsbD l && s.cur.regs.cm.getLsbD l
    let held := ((s.tasks.filter fun t => t.ctx == s.cur.ctx).map fun t => t.biv.length).sum
    let new : List BivEntry := sel.map fun l => ⟨o.path.toNat, ((s.readS o.s).toNat + l) % 2 ^ 32,
      (List.range (o.n.toNat + 1)).map fun k =>
        BitVec.ofNat 32 (elemAt (s.readV ⟨(o.va.val + k) % 32, by omega⟩) 32 l), false, s.nextId + l, none⟩
    (held + sel.length ≤ s.myCtx.bqcap →
      let t : State := { s.setCur fun t => { t with biv := t.biv ++ new } with nextId := s.nextId + 32 }
      Executes (.vdefer o) s ((t.spillExcess s.cur.loc).later 2 (outOf .em (s.em &&& ~~~s.cur.regs.cm)))) ∧
    (s.myCtx.bqcap < held + sel.length → Raises (.vdefer o) s (.now cProt (BitVec.ofNat 64 held)))) ∧
  (∀ (s : State) (loc : Nat), let xs := s.bivAt loc
    s.spillExcess loc = (xs.take (xs.length - 1024)).foldl (fun s x => s.spillBiv x.1 x.2) s ∧
      xs.Pairwise (fun x y => x.2 ≤ y.2) ∧
      ∀ id n, (id, n) ∈ xs ↔ ∃ t ∈ s.tasks, t.loc = loc ∧ t.id = id ∧ ∃ e ∈ t.biv, e.n = n ∧ e.slot = none) ∧
  (∀ (s : State) (t : Task) (c : Ctx) (e : BivEntry), s.task t.id = some t → s.ctxOf t.ctx = some c →
    (t.biv.find? fun x => x.n == e.n && x.slot.isNone) = some e →
    let k := freeSlotOf (s.bivSlots t.ctx)
    let put := s.ringPut ⟨t.ctx, t.depth, t.id, t.loc⟩ c.bqring k (e.bytes (t.ctl.taskid.toNat % 2 ^ 32))
    (∀ u, put = some u → s.spillBiv t.id e.n = u.updTask t.id fun t => { t with
      biv := t.biv.map fun x => if x.n = e.n then { x with words := [], slot := some k } else x }) ∧
    (put = none → (s.spillBiv t.id e.n).cur.biv = s.cur.biv ∧ (s.spillBiv t.id e.n).others = s.others)) ∧
  (∀ (s : State) (o : VdfOps), s.Issues (.vdrain o) →
    let mine := (s.cur.biv.filter fun e => e.tag == o.path.toNat).take 32
    let got := (s.fetchBiv s.myCtx mine).2
    ((∀ e ∈ mine, e.slot = none) → s.fetchBiv s.myCtx mine = (s, mine)) ∧ got.length = mine.length ∧
    ∃ outs rest, Executes (.vdrain o) s
        (((s.fetchBiv s.myCtx mine).1.beginOpWith .drain outs false none (got.any BivEntry.poison) false).setCur fun t =>
          { t with biv := rest }) ∧
      rest.filter (fun e => e.tag != o.path.toNat) = s.cur.biv.filter (fun e => e.tag != o.path.toNat) ∧
      rest.filter (fun e => e.tag == o.path.toNat) = (s.cur.biv.filter fun e => e.tag == o.path.toNat).drop 32 ∧
      outs.length = o.n.toNat + 4 ∧
      outs[o.n.toNat + 2]? = some (outS o.s (BitVec.ofNat 64 got.length)) ∧
      outs[o.n.toNat + 3]? = some (outOf .em (BitVec.ofNat 32 (2 ^ got.length - 1))) ∧
      outs[o.n.toNat + 1]? = some (vecOut ⟨(o.va.val + (o.n.toNat + 1)) % 32, by omega⟩ 32 32
        (fun i => decide (i < got.length)) fun i => (got[i]?.map BivEntry.ix).getD 0) ∧
      ∀ j ≤ o.n.toNat, outs[j]? = some (vecOut ⟨(o.va.val + j) % 32, by omega⟩ 32 32 (fun i => decide (i < got.length))
        fun i => (got[i]?.map fun e => (e.words.getD j 0).toNat).getD 0)) ∧
  ∀ (s : State) (o : VdstatOps), s.Issues (.vdstat o) →
    Executes (.vdstat o) s (s.later 2 (outS o.sd (BitVec.ofNat 64
      ((s.cur.biv.countP fun e => e.tag == (s.readS o.sb).toNat % 256) % 2 ^ 32 + s.cur.biv.length * 2 ^ 32))))

/-- 09 R205, R206, R210, R217: a special function marks VD EMPTY and its result changes the FP32 elements that em
enables; VRNG fills them with the random words of a key and a counter; SMERGE merges two softmax states. 05 R111,
R112, R114, 09 R206 to R209: conversions, quantisation and dequantisation mark their destinations EMPTY. Under
policy `.trap` an overflow of an enabled element fails every destination with FP_TRAP and the lowest element's
number; else an overflow sets CONVX. A stochastic form takes one word counter. Which of the two
faithful results VTANH, VSIGM, VSINT, VCOST, VEXP and VERF give is the model's free choice (log 7), and the NaN block of an E5M2
block under policy 10 is its reading (log 33). -/
def Obligations.SpecialFunctionResults : Prop :=
  ((∀ row ∈ specialRows, ∀ (s : State) (o : VR1), s.Issues (row.1 o) →
    Executes (row.1 o) s (s.beginX [masked s o.vd o.w .f32 fun i => row.2 (elemAt (s.readV o.va) 32 i)] none false)) ∧
  (∀ (s : State) (o : VSS), s.Issues (.vrng o) →
    Executes (.vrng o) s (s.beginX [masked s o.vd o.w .i32 fun i =>
      (kcg ((s.readV o.va).setWidth 64) (s.readS o.s + BitVec.ofNat 64 i)).toNat] none false)) ∧
  ∀ (s : State) (o : XmOps), s.Issues (.smerge o) →
    let lanes (v : VReg) : List Nat := (List.range 32).map fun i => elemAt (s.readV v) 32 i
    let part (r : SReg) (k : Nat) : Nat := ((s.readS r).extractLsb' (32 * k) 32).toNat
    let r := softmaxMerge (part o.sd 0) (part o.sd 1) (lanes o.vd) (part o.sa 0) (part o.sa 1) (lanes o.va)
    Executes (.smerge o) s (s.beginX
      [vecOut o.vd 32 32 (fun _ => true) fun i => r.2.2.getD i 0, outS o.sd (BitVec.ofNat 64 (r.1 + r.2.1 * 2 ^ 32))] none false)) ∧
  ((∀ (s : State) (o : VcvtOps), s.Issues (.vcvt o) →
    let z := max o.dtf.bits o.dtt.bits
    let one (i : Nat) : Conv := o.dtt.conv s.f8 (s.rndMode o.rnd i) o.ovf (o.dtf.value s.f8 (elemAt (s.readV o.va) o.dtf.bits i))
    let on (i : Nat) : Bool := s.em.getLsbD (i * z / 32)
    let bad := (List.range (o.w.bits / z)).filter fun i => on i && (one i).ovf
    let out := vecOut o.vd o.dtt.bits (o.w.bits / z) on fun i => (one i).bits
    let t := if o.ovf = .trap then s.beginX [out] bad.head? false else s.beginX [out] none (!bad.isEmpty)
    Executes (.vcvt o) s (if o.rnd = .rsto then t.tookSto 1 else t)) ∧
  (∀ (s : State) (o : VqOps) (b : BlockFmt), s.Issues (.vquant o) → Machine.QFmt.block o.qf = some b →
    let k := b.encode (fun j => if o.sr then s.stoMode j else .rne) o.ovf (f32Values (s.readV o.va))
    let outs := [vecOut o.vd b.elemBits 32 (fun _ => true) fun i => k.elems.getD i 0,
      outS o.sd (BitVec.ofNat 64 (if b.isKd then k.x0 + 256 * k.x1 else k.x0))]
    let t := if o.ovf = .trap then s.beginX outs k.ovf.head? false else s.beginX outs none (!k.ovf.isEmpty)
    Executes (.vquant o) s (if o.sr then t.tookSto 1 else t)) ∧
  (∀ (s : State) (o : VqOps), s.Issues (.vquant o) → Machine.QFmt.block o.qf = none →
    let f := if o.qf = .e4m3 then e4m3 else e5m2
    let v := (s.readS o.sd).toNat % 256
    let one (i : Nat) : Conv :=
      if v = 0xFF then ⟨f.qnan, false⟩
      else f.conv (if o.sr then s.stoMode i else .rne) o.ovf ((fp32.decode (elemAt (s.readV o.va) 32 i)).scale (127 - (v : Int)))
    let bad := (List.range 32).filter fun i => (one i).ovf
    let out := vecOut o.vd 8 32 (fun _ => true) fun i => (one i).bits
    let t := if o.ovf = .trap then s.beginX [out] bad.head? false else s.beginX [out] none (!bad.isEmpty)
    Executes (.vquant o) s (if o.sr then t.tookSto 1 else t)) ∧
  ∀ (s : State) (o : VdqOps), s.Issues (.vdequant o) →
    let x := (s.readS o.sd).toNat
    let value (i : Nat) : FVal := match Machine.QFmt.block o.qf with
      | some b => b.value (x % 256) (x / 256 % 256) (elemAt (s.readV o.va) b.elemBits i)
      | none =>
        if x % 256 = 0xFF then .nan
        else ((if o.qf = .e4m3 then e4m3 else e5m2).decode (elemAt (s.readV o.va) 8 i)).scale (((x % 256 : Nat) : Int) - 127)
    let one (i : Nat) : Conv := fp32.conv .rne o.ovf (value i)
    let bad := (List.range 32).filter fun i => (one i).ovf
    let out := vecOut o.vd 32 32 (fun _ => true) fun i => (one i).bits
    Executes (.vdequant o) s (if o.ovf = .trap then s.beginX [out] bad.head? false else s.beginX [out] none (!bad.isEmpty)))

/-- 05 R117, R118, 09 R211, R213: an integer reduction gives the exact sum, maximum or minimum of the elements that em
enables, the identity taking the place of the others; a floating-point reduction follows the tree; an integer scan
gives the running sums modulo 2^z. -/
def Obligations.ReductionAndScanResults : Prop :=
  (∀ (s : State) (o : VredOps), o.dt.isInt = true →
    let xs : List Int := ((List.range (o.w.bits / o.dt.bits)).filter fun i => s.em.getLsbD (i * o.dt.bits / 32)).map fun i =>
      (lane (s.readV o.va) o.dt.bits i).toInt
    (s.Issues (.vredsum o) → Executes (.vredsum o) s (s.beginX [outS o.sd (BitVec.ofInt 64 xs.sum)] none false)) ∧
    (s.Issues (.vredmax o) → Executes (.vredmax o) s
      (s.beginX [outS o.sd (BitVec.ofInt 64 (xs.foldr max (-2 ^ (o.dt.bits - 1))))] none false)) ∧
    (s.Issues (.vredmin o) → Executes (.vredmin o) s
      (s.beginX [outS o.sd (BitVec.ofInt 64 (xs.foldr min (2 ^ (o.dt.bits - 1) - 1)))] none false))) ∧
  (∀ (s : State) (o : VredOps) (f : Fmt), o.dt.fmt 0 = some f →
    let xs (id : Nat) : List Nat := (List.range (o.w.bits / o.dt.bits)).map fun i =>
      if s.em.getLsbD (i * o.dt.bits / 32) then elemAt (s.readV o.va) o.dt.bits i else id
    let out (n : Nat) : List Out := [outS o.sd (BitVec.ofNat 64 n)]
    (s.Issues (.vredsum o) → Executes (.vredsum o) s
      (s.beginX (out (tree (f.addBits s.rm) 0 8 (xs (f.signed true 0)))) none false)) ∧
    (s.Issues (.vredmax o) → Executes (.vredmax o) s
      (s.beginX (out (tree f.maxBits 0 8 (xs (f.signed true f.infMag)))) none false)) ∧
    (s.Issues (.vredmin o) → Executes (.vredmin o) s
      (s.beginX (out (tree f.minBits 0 8 (xs f.infMag))) none false))) ∧
  (∀ (s : State) (o : VR1), s.Issues (.vscan o) → o.dt.isInt = true →
    Executes (.vscan o) s (s.beginX [masked s o.vd o.w o.dt fun i =>
      (((List.range (i + 1)).filter fun k => s.em.getLsbD (k * o.dt.bits / 32)).map fun k =>
        elemAt (s.readV o.va) o.dt.bits k).sum % 2 ^ o.dt.bits] none false)) ∧
  ∀ (s : State) (o : VR1) (f : Fmt), s.Issues (.vscan o) → o.dt.fmt 0 = some f →
    Executes (.vscan o) s (s.beginX [masked s o.vd o.w o.dt fun i =>
      (List.range (i + 1)).foldl (fun acc k => f.addBits s.rm acc
        (if s.em.getLsbD (k * o.dt.bits / 32) then elemAt (s.readV o.va) o.dt.bits k else f.signed true 0)) (f.signed true 0)]
      none false)

/-- 05 R117, 09 R212, R214, R215, R216: VARGMAX gives the first index of the largest entry of its tree, in which an enabled element that
is no NaN stands with its value and one that em leaves out as the identity of VREDMAX, or all ones where no enabled element is a
number (that the index of an element left out can be the result is the model's reading, log 14);
VSORT puts the enabled pairs in falling order of their keys, equal keys in index order, before the others; VMRG
merges two lists, and two falling lists into one. -/
def Obligations.SortAndMergeResults : Prop :=
  (∀ (s : State) (o : VredOps), s.Issues (.vargmax o) →
    let x (i : Nat) : Nat := elemAt (s.readV o.va) o.dt.bits i
    let on (i : Nat) : Bool := s.em.getLsbD (i * o.dt.bits / 32)
    let number (i : Nat) : Prop := ∀ f, o.dt.fmt 0 = some f → (f.decode (x i)).isNan = false
    let identity : Int := match o.dt.fmt 0 with
      | some f => floatKey f (f.signed true f.infMag)
      | none => -2 ^ (o.dt.bits - 1)
    let key (i : Nat) : Int := if on i then elemKey o.dt (x i) else identity
    let enters (i : Nat) : Prop := i < o.w.bits / o.dt.bits ∧ (on i = true → number i)
    ∃ r : Word, Executes (.vargmax o) s (s.beginX [outS o.sd r] none false) ∧
      ((∀ i, i < o.w.bits / o.dt.bits → on i = true → ¬ number i) → r = BitVec.allOnes 64) ∧
      ((∃ i, enters i ∧ on i = true) → enters r.toNat ∧
        ∀ j, enters j → key j < key r.toNat ∨ (key j = key r.toNat ∧ r.toNat ≤ j))) ∧
  (∀ (s : State) (o : VRR), s.Issues (.vsort o) →
    let n := o.w.bits / 32
    let all : List (Nat × Nat × Nat) := (List.range n).map fun i => (i, elemAt (s.readV o.va) 32 i, elemAt (s.readV o.vb) 32 i)
    let on (p : Nat × Nat × Nat) : Bool := s.em.getLsbD p.1
    ∃ srt : List (Nat × Nat × Nat), srt.Perm (all.filter on) ∧
      srt.Pairwise (fun p q => elemKey o.dt q.2.1 < elemKey o.dt p.2.1 ∨
        (elemKey o.dt q.2.1 = elemKey o.dt p.2.1 ∧ p.1 < q.1)) ∧
      let out : List (Nat × Nat) := (srt.map fun p => (sortedOut o.dt p.2.1, p.2.2)) ++
        ((all.filter fun p => !on p).map fun p => p.2)
      Executes (.vsort o) s (s.beginX [vecOut o.vd 32 n (fun _ => true) fun i => (out.getD i (0, 0)).1,
        vecOut ⟨(o.vd.val + 1) % 32, by omega⟩ 32 n (fun _ => true) fun i => (out.getD i (0, 0)).2] none false)) ∧
  (∀ (s : State) (o : VRR), s.Issues (.vmrg o) →
    let n := o.w.bits / 32
    let list (v : VReg) : List (Nat × Nat) := (List.range n).map fun i =>
      (elemAt (s.readV v) 32 i, elemAt (s.readV (nextV v)) 32 i)
    let out := (mergeKeys (elemKey o.dt) (2 * n) (list o.va) (list o.vb)).map fun p => (sortedOut o.dt p.1, p.2)
    Executes (.vmrg o) s (s.beginX [vecOut o.vd 32 n (fun _ => true) fun i => (out.getD i (0, 0)).1,
      vecOut (nextV o.vd) 32 n (fun _ => true) fun i => (out.getD i (0, 0)).2,
      vecOut o.vb 32 n (fun _ => true) fun i => (out.getD (n + i) (0, 0)).1,
      vecOut (nextV o.vb) 32 n (fun _ => true) fun i => (out.getD (n + i) (0, 0)).2] none false)) ∧
  ∀ (key : Nat → Int) (as bs : List (Nat × Nat)),
    let m := mergeKeys key (as.length + bs.length) as bs
    m.Perm (as ++ bs) ∧
    (as.Pairwise (fun p q => key q.1 ≤ key p.1) → bs.Pairwise (fun p q => key q.1 ≤ key p.1) →
      m.Pairwise fun p q => key q.1 ≤ key p.1)

/-! ### Memory instructions (04, 10) -/

/-- 10 R222, R223: a scalar access whose address passes the checks of R219 and R220 issues: a load as an operation that
fills D, zero- or sign-extended, a store of the low bytes of D. 10 R220, R222: an address that is no multiple of the
access size raises MISALIGN with the address, before any other check; one in the scratchpad but outside the task
window raises SP_BOUND. -/
def Obligations.ScalarAccessesIssue : Prop :=
  ((∀ row ∈ loadRows, ∀ (s : State) (o : MSOps) (d : Dest), s.Issues (row.1 o) →
    s.reachAligned .plain .load (msAddr s o row.2.1) row.2.1 = .ok d → maySend s false (whole d row.2.1) →
    ∃ t, s.load (.s o.d) (lowMask 64) (if row.2.2 then 8 * row.2.1 else 0) (whole d row.2.1) = .ok t ∧ Executes (row.1 o) s t) ∧
  (∀ row ∈ storeRows, ∀ (s : State) (o : MSOps) (d : Dest), s.Issues (row.1 o) →
    s.reachAligned .plain .store (msAddr s o row.2) row.2 = .ok d → maySend s true (whole d row.2) →
    ∃ t, s.store ((s.readS o.d).setWidth 1024) (whole d row.2) = .ok t ∧ Executes (row.1 o) s t) ∧
  (∀ (s : State) (o : MROps) (d : Dest), s.Issues (.ldx o) →
    s.reachAligned .plain .load (s.base o.a + s.readS o.b) o.sz.bytes = .ok d → maySend s false (whole d o.sz.bytes) →
    ∃ t, s.load (.s o.d) (lowMask 64) 0 (whole d o.sz.bytes) = .ok t ∧ Executes (.ldx o) s t) ∧
  ∀ (s : State) (o : MROps) (d : Dest), s.Issues (.stx o) →
    s.reachAligned .plain .store (s.base o.a + s.readS o.b) o.sz.bytes = .ok d → maySend s true (whole d o.sz.bytes) →
    ∃ t, s.store ((s.readS o.d).setWidth 1024) (whole d o.sz.bytes) = .ok t ∧ Executes (.stx o) s t) ∧
  ((∀ row ∈ loadRows, ∀ (s : State) (o : MSOps), s.Issues (row.1 o) →
    let va := msAddr s o row.2.1
    (va.toNat % row.2.1 ≠ 0 → Raises (row.1 o) s (.now cMisalign va)) ∧
    (va.toNat % row.2.1 = 0 → va.toNat < padSize →
      ¬ (s.cur.ctl.spb.toNat ≤ va.toNat ∧ va.toNat + row.2.1 ≤ s.cur.ctl.spl.toNat) → Raises (row.1 o) s (.now cSpBound va))) ∧
  ∀ row ∈ storeRows, ∀ (s : State) (o : MSOps), s.Issues (row.1 o) →
    let va := msAddr s o row.2
    (va.toNat % row.2 ≠ 0 → Raises (row.1 o) s (.now cMisalign va)) ∧
    (va.toNat % row.2 = 0 → va.toNat < padSize →
      ¬ (s.cur.ctl.spb.toNat ≤ va.toNat ∧ va.toNat + row.2 ≤ s.cur.ctl.spl.toNat) → Raises (row.1 o) s (.now cSpBound va)))

/-- 10 R224, R225, R226: a vector access is checked at the bytes of its active lanes or elements in ascending order, and
issues when all of them pass. 10 R239, R240: the remote forms take a fabric address. A misaligned address of VLD, VST and the remote
forms raises MISALIGN with it. -/
def Obligations.VectorAndRemoteAccessesIssue : Prop :=
  ((∀ (s : State) (o : MVOps) (ps : List Piece), s.Issues (.vld o) → (mvAddr s o).toNat % 32 = 0 →
    s.reachAll .load (vecWants 8 s.em (mvAddr s o) o.w) = .ok ps → maySend s false (joinPieces ps) →
    ∃ t, s.load (.v o.vd) (lanesMask s.em o.w) 0 (joinPieces ps) = .ok t ∧ Executes (.vld o) s t) ∧
  (∀ (s : State) (o : MVOps), (mvAddr s o).toNat % 32 ≠ 0 →
    (s.Issues (.vld o) → Raises (.vld o) s (.now cMisalign (mvAddr s o))) ∧
    (s.Issues (.vst o) → Raises (.vst o) s (.now cMisalign (mvAddr s o))) ∧
    (s.Issues (.rldv o) → Raises (.rldv o) s (.now cMisalign (mvAddr s o))) ∧
    (s.Issues (.rstv o) → Raises (.rstv o) s (.now cMisalign (mvAddr s o)))) ∧
  (∀ (s : State) (o : MVOps) (ps : List Piece), s.Issues (.vst o) → (mvAddr s o).toNat % 32 = 0 →
    s.reachAll .store (vecWants 32 s.em (mvAddr s o) o.w) = .ok ps → maySend s true (joinPieces ps) →
    ∃ t, s.store (s.readV o.vd) (joinPieces ps) = .ok t ∧ Executes (.vst o) s t) ∧
  (∀ (s : State) (o : MVSOps) (ps : List Piece), s.Issues (.vlds o) →
    s.reachElems .load false o.esz.bytes (fun i => s.base o.a + BitVec.ofNat 64 i * s.readS o.b)
      (activeElems s.em o.esz.bytes o.w) = .ok ps → maySend s false ps →
    ∃ t, s.load (.v o.vd) (elemsMask s.em o.esz.bytes o.w) 0 ps = .ok t ∧ Executes (.vlds o) s t) ∧
  (∀ (s : State) (o : MVSOps) (ps : List Piece), s.Issues (.vsts o) →
    s.reachElems .store false o.esz.bytes (fun i => s.base o.a + BitVec.ofNat 64 i * s.readS o.b)
      (activeElems s.em o.esz.bytes o.w) = .ok ps → maySend s true ps →
    ∃ t, s.store (s.readV o.vd) ps = .ok t ∧ Executes (.vsts o) s t) ∧
  (∀ (s : State) (o : MVGOps) (ps : List Piece), s.Issues (.vgath o) →
    s.reachElems .load true o.esz.bytes (s.gatherAddr o) (activeElems s.em o.esz.bytes o.w) = .ok ps → maySend s false ps →
    ∃ t, s.load (.v o.vd) (elemsMask s.em o.esz.bytes o.w) 0 ps = .ok t ∧ Executes (.vgath o) s t) ∧
  ∀ (s : State) (o : MVGOps) (ps : List Piece), s.Issues (.vscat o) →
    s.reachElems .store true o.esz.bytes (s.gatherAddr o) (activeElems s.em o.esz.bytes o.w) = .ok ps → maySend s true ps →
    ∃ t, s.store (s.readV o.vd) ps = .ok t ∧ Executes (.vscat o) s t) ∧
  ((∀ (s : State) (o : MSZ), s.Issues (.rld o) →
    ((s.base o.a).toNat % o.sz.bytes = 0 → maySend s false (whole (.fabric (s.base o.a)) o.sz.bytes) →
      ∃ t, s.load (.s o.d) (lowMask 64) 0 (whole (.fabric (s.base o.a)) o.sz.bytes) = .ok t ∧ Executes (.rld o) s t) ∧
    ((s.base o.a).toNat % o.sz.bytes ≠ 0 → Raises (.rld o) s (.now cMisalign (s.base o.a)))) ∧
  (∀ (s : State) (o : MSZ), s.Issues (.rst o) →
    ((s.base o.a).toNat % o.sz.bytes = 0 → maySend s true (whole (.fabric (s.base o.a)) o.sz.bytes) →
      ∃ t, s.store ((s.readS o.d).setWidth 1024) (whole (.fabric (s.base o.a)) o.sz.bytes) = .ok t ∧ Executes (.rst o) s t) ∧
    ((s.base o.a).toNat % o.sz.bytes ≠ 0 → Raises (.rst o) s (.now cMisalign (s.base o.a)))) ∧
  (∀ (s : State) (o : MVOps), s.Issues (.rldv o) → (mvAddr s o).toNat % 32 = 0 →
    maySend s false (fabricPieces (vecWants 8 s.em (mvAddr s o) o.w)) →
    ∃ t, s.load (.v o.vd) (lanesMask s.em o.w) 0 (fabricPieces (vecWants 8 s.em (mvAddr s o) o.w)) = .ok t ∧
      Executes (.rldv o) s t) ∧
  ∀ (s : State) (o : MVOps), s.Issues (.rstv o) → (mvAddr s o).toNat % 32 = 0 →
    maySend s true (fabricPieces (vecWants 8 s.em (mvAddr s o) o.w)) →
    ∃ t, s.store (s.readV o.vd) (fabricPieces (vecWants 8 s.em (mvAddr s o) o.w)) = .ok t ∧ Executes (.rstv o) s t)

/-- 10 R221, R222, 06 R124: a load from the task window marks D EMPTY and changes no memory; when it completes, D holds
the little-endian bytes at its address, extended, and is FULL, or POISONED where they were poisoned. A load into s0
changes no register. -/
def Obligations.LoadsReadTheScratchpad : Prop :=
  ∀ row ∈ loadRows, ∀ (s : State) (o : MSOps), s.Issues (row.1 o) → idle s → s.cur.cond (.s o.d) ≠ .empty →
    let va := msAddr s o row.2.1
    let pa := padBase s.cur.loc + va.toNat
    va.toNat % row.2.1 = 0 → inOwnWindow s va row.2.1 →
    ∃ t u, exec (row.1 o) s = .next t ∧ t.mem = s.mem ∧ exec (.loadComplete s.nextId) t = .next u ∧ u.mem = s.mem ∧
      u.cur.ops = [] ∧
      (o.d ≠ 0 → t.cur.cond (.s o.d) = .empty ∧
        u.readS o.d = (if row.2.2 then (BitVec.ofNat (8 * row.2.1) (s.word pa row.2.1)).signExtend 64
          else BitVec.ofNat 64 (s.word pa row.2.1)) ∧
        u.cur.cond (.s o.d) = if s.anyPoison pa row.2.1 then .poisoned else .ok) ∧
      ∀ r : SReg, r ≠ o.d → u.cur.regs.s[r] = s.moved.cur.regs.s[r]

/-- 10 R221, R222: a store to the task window writes the low bytes of D at its address and no other byte of memory; no
register changes but by results that were pending. 10 R224: a vector store to the task window writes the bytes of
the lanes that em enables, and no other byte. -/
def Obligations.StoresWriteTheScratchpad : Prop :=
  (∀ row ∈ storeRows, ∀ (s : State) (o : MSOps), s.Issues (row.1 o) → idle s →
    let va := msAddr s o row.2
    let pa := padBase s.cur.loc + va.toNat
    va.toNat % row.2 = 0 → inOwnWindow s va row.2 →
    ∃ t, exec (row.1 o) s = .next t ∧
      (∀ i < row.2, t.byte (pa + i) = (s.readS o.d).extractLsb' (8 * i) 8) ∧
      (∀ a, a < pa ∨ pa + row.2 ≤ a → t.byte a = s.byte a) ∧
      t.cur.regs = s.moved.cur.regs ∧ t.cur.ctl = s.moved.cur.ctl ∧ t.cur.pc = s.cur.pc + 4 ∧ t.cur.tls = s.cur.tls) ∧
  (∀ (s : State) (o : MVOps), s.Issues (.vst o) → idle s →
    let va := mvAddr s o
    let pa := padBase s.cur.loc + va.toNat
    va.toNat % 32 = 0 → inOwnWindow s va (o.w.bits / 8) →
    ∃ t, exec (.vst o) s = .next t ∧
      (∀ i < o.w.bits / 8, t.byte (pa + i) =
        if s.em.getLsbD (i / 4) then (s.readV o.vd).extractLsb' (8 * i) 8 else s.byte (pa + i)) ∧
      (∀ a, a < pa ∨ pa + o.w.bits / 8 ≤ a → t.byte a = s.byte a) ∧ t.cur.regs = s.moved.cur.regs)

/-- 04 R84: a store into the L1 changes no byte at its home where its line is already the agent's own, and a load of the
same bytes by the same agent then returns what was stored. -/
def Obligations.StoresAreReadBackThroughTheL1 : Prop :=
  ∀ (s : State) (a : Agent) (pa : Nat) (bs : List Byte) (l : L1Line), s.lineAt a.loc a.ctx (pa / 64) = some l →
    0 < bs.length → pa % 64 + bs.length ≤ 64 →
    let t := s.l1Store a pa (bs.map some)
    let all := bs.map fun _ => true
    t.mem = s.mem ∧ (t.l1Load a pa all).2.1 = bs ∧ (t.l1Load a pa all).2.2 = false

/-- 10 R227, R228: the full/empty operations issue where their word or range may be reached: LDWF and LDTK mark D EMPTY
until they are granted, STWE and STFL commit and write when they are granted, FESET and FEGET act on many words. That LDTK asks for load permission alone
is log 59, and that FESET is taken as a store logs 18 and 59. -/
def Obligations.FullEmptyOperationsIssue : Prop :=
  (∀ (s : State) (o : MSOps) (pa : Nat) (obj : Word),
    let outs : List Out := if o.d = 0 then [] else [outS o.d 0]
    (s.Issues (.ldwf o) → s.fePlace o .load 0x06 = .ok (pa, obj) →
      Executes (.ldwf o) s ((s.beginOp (.feRead pa false) outs false).reserveOp.withObj obj)) ∧
    (s.Issues (.ldtk o) → s.fePlace o .load 0x07 = .ok (pa, obj) →
      Executes (.ldtk o) s ((s.beginOp (.feRead pa true) outs false).reserveOp.withObj obj)) ∧
    (s.Issues (.stwe o) → s.fePlace o .store 0x08 (some (((s.readS o.d).setWidth 32).setWidth 64)) = .ok (pa, obj) →
      Executes (.stwe o) s (((s.beginOp (.feWrite pa ((s.readS o.d).setWidth 32) true) [] false).reserveOp.withObj obj).feTry
        s.nextId pa)) ∧
    (s.Issues (.stfl o) → s.fePlace o .store 0x09 (some (((s.readS o.d).setWidth 32).setWidth 64)) = .ok (pa, obj) →
      Executes (.stfl o) s (((s.beginOp (.feWrite pa ((s.readS o.d).setWidth 32) false) [] false).reserveOp.withObj obj).feTry
        s.nextId pa))) ∧
  (∀ (s : State) (o : FesetOps) (r : Nat × Nat) (rs : List (Nat × Nat)), (s.base o.a).toNat % 4 = 0 →
    1 ≤ (s.readS o.b).toNat → (s.readS o.b).toNat ≤ 8192 → s.fesetRuns (s.base o.a) (s.readS o.b).toNat = .ok (r :: rs) →
    (s.Issues (.fesetEmpty o) →
      Executes (.fesetEmpty o) s ((s.beginOp (.feSet (r :: rs) false) [] false).feTry s.nextId r.1)) ∧
    (s.Issues (.fesetFull o) →
      Executes (.fesetFull o) s ((s.beginOp (.feSet (r :: rs) true) [] false).feTry s.nextId r.1))) ∧
  ∀ (s : State) (o : MSOps) (pa : Nat), s.Issues (.feget o) → (msAddr s o 4).toNat % 128 = 0 →
    s.reach .fe .load (msAddr s o 4) 128 (msAddr s o 4) = .ok (.pad pa) →
    Executes (.feget o) s (s.beginOp (.feGet pa) (if o.d = 0 then [] else [outS o.d 0]) false)

/-- 10 R227: FE_WAIT_GRANT grants the one operation that waits at a word where its condition holds: LDWF and LDTK where
the word is full, LDTK leaving it empty; STWE where it is empty, leaving it full with the stored value. In a context
that keeps no etch log. -/
def Obligations.FullEmptyWordsAreGranted : Prop :=
  ∀ (s : State) (pa : Nat) (t : Task) (op : Op), s.feReady pa = [(t, op)] → s.task t.id = some t →
    (∀ c, s.ctxOf t.ctx = some c → c.etch = 0) →
    (∀ take, op.kind = .feRead pa take → ∃ u, exec (.feWaitGrant pa) s = .next u ∧ u.mem = s.mem ∧
      u.full pa = !take ∧ ∀ q, q ≠ pa → u.full q = s.full q) ∧
    (∀ w wait, op.kind = .feWrite pa w wait → ∃ u, exec (.feWaitGrant pa) s = .next u ∧ u.full pa = true ∧
      u.word pa 4 = w.toNat ∧ (∀ q, q ≠ pa → u.full q = s.full q) ∧ ∀ a, a < pa ∨ pa + 4 ≤ a → u.byte a = s.byte a)

/-- 10 R229, R230, R231: an atomic whose address passes its checks issues: its acquire and its release count where its
scope covers the target, its old value fills D, and it is performed at once where nothing precedes it. -/
def Obligations.AtomicsIssue : Prop :=
  ∀ row ∈ atomicRows, ∀ (s : State) (o : ATOps) (d : Dest), s.Issues (row.1 o) →
    let va := s.base o.a
    let cov := s.covers o.sc.scope d
    let rel := (o.ord == .rel || o.ord == .ar) && cov
    let acq := (o.ord == .acq || o.ord == .ar) && cov
    let far := d.pa.isNone
    let c : AtCmd := ⟨d, row.2.1 (s.fmt.extractLsb' 0 2), row.2.2, s.readS o.b, s.readS o.d, o.ord, o.sc, acq, rel,
      if o.sc = .sy then s.cur.tls[3].issued else 0⟩
    s.reachAligned .atomic .atomic va (if row.2.2 then 8 else 4) = .ok d →
    (far = true → s.farBefore false = true → s.remoteLoads s.cur.loc < 32) →
    s.etchReady 0x01 ((if cov || o.ord == .rlx then 0 else 2) + placeFlags d) (s.objectOf va d) (syncSeries (s.objectOf va d) d) none = .ok () →
    Executes (row.1 o) s
      (((s.beginOp (.atomic c) (if o.d = 0 then [] else [outS o.d 0]) far).reserveOp.withSync (s.objectOf va d)
        (!cov && o.ord != .rlx)).syncNow fun s t op => s.atomicGo t op c)

/-- 10 R229: an atomic returns the old value and leaves the new one in its place, and nothing where a compare-and-swap
fails; no other byte changes. Here at a scratchpad word. -/
def Obligations.AtomicsReplaceTheirWord : Prop :=
  ∀ (s : State) (a : Agent) (id pa : Nat) (op : AtOp) (wide : Bool) (b e : Word) (l off : Nat), s.place pa = .pad l off →
    pa % (if wide then 8 else 4) = 0 →
    let n := if wide then 8 else 4
    let r := s.atomicAt a id pa op n b e
    r.2.1 = s.word pa n ∧
    (∀ q, q < pa ∨ pa + n ≤ q → r.1.byte q = s.byte q) ∧
    r.1.word pa n = match atomicValue op (BitVec.ofNat (8 * n) (s.word pa n)) (b.setWidth (8 * n)) (e.setWidth (8 * n)) with
      | some x => x.toNat
      | none => s.word pa n

/-- 10 R232, R233, R235: ACQ, REL and FENCE issue where their address passes its checks and no covered posted store has
failed; each is performed at once where nothing precedes it. 10 R233, R235, R237: a release or fence at system scope
that finds a covered posted store failed raises the first one's cause, deferred, and every failed ticket that it covers counts as
reported (log 57); a TLWAIT that covers a failed ticket raises the lowest one's; what has been reported is not raised again. -/
def Obligations.AcquireReleaseFenceIssue : Prop :=
  ((∀ (s : State) (o : SyncOps) (d : Dest), s.Issues (.acq o) →
    s.reachAligned .plain .load (s.base o.a) 8 = .ok d →
    (d.pa.isNone = true → s.farBefore false = true → s.remoteLoads s.cur.loc < 32) →
    let cov := s.covers o.sc d
    let obj := s.objectOf (s.base o.a) d
    s.etchReady 0x02 ((if cov then 0 else 2) + placeFlags d) obj (syncSeries obj d) none = .ok () →
    Executes (.acq o) s
      (((s.beginOp (.acq d (cov && o.sc != .co) false) (if o.d = 0 then [] else [outS o.d 0]) d.pa.isNone).reserveOp.withSync
        obj (!cov)).syncNow State.acqGo)) ∧
  (∀ (s : State) (o : SyncOps) (d : Dest), s.Issues (.rel o) → s.reachAligned .plain .store (s.base o.a) 8 = .ok d →
    let cov := s.covers o.sc d
    let obj := s.objectOf (s.base o.a) d
    let upTo := if cov && o.sc == .sy then s.cur.tls[3].issued else 0
    s.storeTrap upTo = none →
    s.etchReady 0x03 ((if cov then 0 else 2) + placeFlags d) obj (syncSeries obj d) none (some (s.readS o.d)) = .ok () →
    Executes (.rel o) s
      (((s.beginOp (.rel d (s.readS o.d) upTo (cov && o.sc != .co) false) [] false).reserveOp.withSync
        obj (!cov)).syncNow State.relGo)) ∧
  ∀ (s : State) (o : FenceOps), s.Issues (.fence o) →
    let upTo := if o.sc = .sy then s.cur.tls[3].issued else 0
    s.storeTrap upTo = none →
    Executes (.fence o) s ((s.beginOp (.fence upTo (o.sc == .co)) [] false).lastGo State.fenceGo)) ∧
  ((∀ (s : State) (o : FenceOps) (f : FailedTicket) (fs : List FailedTicket), s.Issues (.fence o) → o.sc = .sy →
    (s.cur.tls[3].failed.filter fun x => x.ticket ≤ s.cur.tls[3].issued && !x.reported) = f :: fs →
    ∃ x : Trap, Raises (.fence o) s x ∧ x.cause = f.fail.cause ∧ x.eval = f.fail.eval ∧ x.status = f.fail.status ∧
      x.deferred = true ∧ x.tickets = (f :: fs).map fun y => (3, y.ticket)) ∧
  (∀ (s : State) (o : SyncOps) (d : Dest) (f : FailedTicket) (fs : List FailedTicket), s.Issues (.rel o) → o.sc = .sy →
    s.reachAligned .plain .store (s.base o.a) 8 = .ok d → s.covers o.sc d = true →
    (s.cur.tls[3].failed.filter fun x => x.ticket ≤ s.cur.tls[3].issued && !x.reported) = f :: fs →
    ∃ x : Trap, Raises (.rel o) s x ∧ x.cause = f.fail.cause ∧ x.eval = f.fail.eval ∧ x.status = f.fail.status ∧
      x.deferred = true ∧ x.tickets = (f :: fs).map fun y => (3, y.ticket)) ∧
  (∀ (s : State) (o : TlAOps) (f : FailedTicket), s.Issues (.tlwait o) →
    let tl := s.cur.tls[Timeline.ix o.tl]
    (s.readS o.a).toNat ≤ tl.issued → (s.readS o.a).toNat ≤ tl.count →
    f ∈ tl.failed → f.reported = false → f.ticket ≤ (s.readS o.a).toNat →
    (∀ g ∈ tl.failed, g.reported = false → g.ticket ≤ f.ticket → g = f) →
    ∃ x : Trap, Raises (.tlwait o) s x ∧ x.cause = f.fail.cause ∧ x.eval = f.fail.eval ∧ x.deferred = true ∧
      x.tickets = [((Timeline.ix o.tl).val, f.ticket)]) ∧
  ∀ (t : Task) (i : Fin 6) (n m : Nat), m ≤ n → (∀ f ∈ t.tls[i].failed, f.ticket ≤ n → f.ticket = m) →
    ((t.reported i m).tls[i]).unreported n = none)

/-- 10 R232, R233, R235: where nothing else is outstanding, no acquire of another module waits here, no posted store has failed or is
on its way, and the context keeps no log, ACQ, REL and FENCE complete as their bundle commits. An ACQ, whose D is not EMPTY before
it, of a word of the task window that is not zero fills D with it, a wider scope than .co advancing the core's generation; an ACQ of a word that is zero leaves D EMPTY.
A REL leaves the word with its value. A FENCE writes every dirty byte of its context back and advances the generation;
at scope .co it changes no memory. -/
def Obligations.AcquireReleaseFenceComplete : Prop :=
  (∀ (s : State) (o : SyncOps), s.Issues (.acq o) → idle s → noLog s →
    let va := s.base o.a
    let pa := padBase s.cur.loc + va.toNat
    va.toNat % 8 = 0 → inOwnWindow s va 8 → s.anyPoison pa 8 = false → s.cur.cond (.s o.d) ≠ .empty →
    ∃ t, exec (.acq o) s = .next t ∧ t.mem = s.mem ∧ (o.d ≠ 0 → t.cur.cond (.s o.d) = .empty) ∧
      (s.word pa 8 = 0 → exec (.loadComplete s.nextId) t = .next t) ∧
      (s.word pa 8 ≠ 0 → ∃ u, exec (.loadComplete s.nextId) t = .next u ∧ u.mem = s.mem ∧ u.cur.ops = [] ∧
        (o.d ≠ 0 → u.readS o.d = BitVec.ofNat 64 (s.word pa 8) ∧ u.cur.cond (.s o.d) = .ok) ∧
        (u.core s.cur.loc).gen = (s.core s.cur.loc).gen + (if o.sc = .co then 0 else 1))) ∧
  (∀ (s : State) (o : SyncOps), s.Issues (.rel o) → idle s → noLog s → storesDone s → (∀ t ∈ s.others, t.ops = []) →
    s.fabric.acqs = [] →
    let va := s.base o.a
    let pa := padBase s.cur.loc + va.toNat
    va.toNat % 8 = 0 → inOwnWindow s va 8 →
    ∃ t, exec (.rel o) s = .next t ∧ t.word pa 8 = (s.readS o.d).toNat ∧ t.cur.ops = [] ∧ t.cur.regs = s.moved.cur.regs ∧
      ((∀ l ∈ s.l1, l.dirty = 0) → ∀ a, a < pa ∨ pa + 8 ≤ a → t.byte a = s.byte a)) ∧
  ∀ (s : State) (o : FenceOps), s.Issues (.fence o) → idle s → storesDone s →
    ∃ t, exec (.fence o) s = .next t ∧ t.cur.ops = [] ∧ t.cur.regs = s.moved.cur.regs ∧
      (o.sc = .co → t.mem = s.mem ∧ t.l1 = s.l1 ∧ t.cores = s.cores) ∧
      (o.sc ≠ .co → (t.core s.cur.loc).gen = (s.core s.cur.loc).gen + 1 ∧
        ∀ l ∈ t.l1, l.loc = s.cur.loc → l.ctx = s.cur.ctx → l.dirty = 0)

/-- 10 R234: BIND adds a pair that is not in the table, UNBIND removes one that is; the object and the region base must
be aligned, and a BIND to a full table raises PROT with 16. 10 R236, R237, R238: TLREAD reads the counter; TLWAIT
waits until it has reached its value, then reads it and advances the generation, and raises PROT for a ticket that
has not been drawn; TLBUMP draws a ticket that completes at once, which the counter reaches where no earlier one is
outstanding. 10 R246, R247: on a mapped queue QPUSH begins its push where the quota allows one, QPOP begins its pop and
QSTAT counts; an unmapped queue raises PROT with its number, and so does one whose entry of the queue map is poisoned, which is
charged (log 116). -/
def Obligations.TimelinesBindsAndQueues : Prop :=
  ((∀ (s : State) (o : BindOps), s.Issues (.bind o) → (s.readS o.d).toNat % 8 = 0 → (s.base o.a).toNat % 2 ^ o.lg.toNat = 0 →
    let b : Bind := ⟨s.readS o.d, s.base o.a, o.lg.toNat⟩
    (b ∈ s.cur.binds → Executes (.bind o) s s) ∧
    (b ∉ s.cur.binds → s.cur.binds.length < 16 →
      Executes (.bind o) s (s.setCur fun t => { t with binds := t.binds ++ [b] })) ∧
    (b ∉ s.cur.binds → 16 ≤ s.cur.binds.length → Raises (.bind o) s (.now cProt 16))) ∧
  (∀ (s : State) (o : BindOps), s.Issues (.unbind o) → (s.readS o.d).toNat % 8 = 0 →
    (s.base o.a).toNat % 2 ^ o.lg.toNat = 0 →
    Executes (.unbind o) s (s.setCur fun t => { t with binds := t.binds.erase ⟨s.readS o.d, s.base o.a, o.lg.toNat⟩ })) ∧
  ∀ (s : State) (o : BindOps), s.Issues (.bind o) →
    ((s.readS o.d).toNat % 8 ≠ 0 → Raises (.bind o) s (.now cMisalign (s.readS o.d))) ∧
    ((s.readS o.d).toNat % 8 = 0 → (s.base o.a).toNat % 2 ^ o.lg.toNat ≠ 0 →
      Raises (.bind o) s (.now cMisalign (s.base o.a)))) ∧
  ((∀ (s : State) (o : TlOps), s.Issues (.tlread o) →
    Executes (.tlread o) s (s.later 1 (outS o.d (BitVec.ofNat 64 s.cur.tls[Timeline.ix o.tl].count)))) ∧
  (∀ (s : State) (o : TlAOps), s.Issues (.tlwait o) →
    let a := (s.readS o.a).toNat
    let tl := s.cur.tls[Timeline.ix o.tl]
    (tl.issued < a → Raises (.tlwait o) s (.now cProt (s.readS o.a))) ∧
    (a ≤ tl.issued → tl.count < a → ∃ t, exec (.tlwait o) s = .next t ∧ t.scr.waiting = some false ∧ t.cur = s.cur) ∧
    (a ≤ tl.count → a ≤ tl.issued → (∀ f ∈ tl.failed, f.ticket ≤ a → f.reported = true) →
      Executes (.tlwait o) s ((s.advanceGen s.cur.loc).later 1 (outS o.d (BitVec.ofNat 64 tl.count))))) ∧
  ∀ (s : State) (o : TlOps), s.Issues (.tlbump o) →
    let i := Timeline.ix o.tl
    let n := s.cur.tls[i].issued + 1
    ∃ t : State, Executes (.tlbump o) s (t.later 1 (outS o.d (BitVec.ofNat 64 n))) ∧ t.cur.tls[i].issued = n ∧
      (s.cur.tls[i].count = s.cur.tls[i].issued → s.cur.tls[i].early = [] → t.cur.tls[i].count = n) ∧
      (∀ j : Fin 6, j ≠ i → t.cur.tls[j] = s.cur.tls[j]) ∧ t.cur.regs = s.cur.regs ∧ t.mem = s.mem) ∧
  ((∀ (s : State) (o : QAOps) (m : QMapEntry), s.Issues (.qpush o) →
    let n := o.q.toNat
    s.qmapOf s.myCtx n = some m → s.quotaFull s.myCtx m n = false →
    s.etchReady 0x04 0 (BitVec.ofNat 64 n) (.unit (s.queueOf s.cur.ctx m).seq) none (some (s.readS o.a)) = .ok () →
    Executes (.qpush o) s (((s.beginOp (.cmd (.qpush n (s.readS o.a))) [] false).reserveOp.withObj (BitVec.ofNat 64 n)).lastGo
      State.qpushGo)) ∧
  (∀ (s : State) (o : QDOps) (m : QMapEntry), s.Issues (.qpop o) →
    let n := o.q.toNat
    s.qmapOf s.myCtx n = some m →
    s.etchReady 0x05 0 (BitVec.ofNat 64 n) (.unit (s.queueOf s.cur.ctx m).seq) none = .ok () →
    Executes (.qpop o) s (((s.beginOp (.qpop n) (if o.d = 0 then [] else [outS o.d 0]) false).reserveOp.withObj
      (BitVec.ofNat 64 n)).lastGo State.qpopGo)) ∧
  (∀ (s : State) (o : QDOps) (m : QMapEntry), s.Issues (.qstat o) → s.qmapOf s.myCtx o.q.toNat = some m →
    let q := s.queueOf s.cur.ctx m
    Executes (.qstat o) s (s.beginOp .load (if o.d = 0 then [] else
      [outS o.d (BitVec.ofNat 64 (q.entries.length % 2 ^ 32 + (m.quota - (q.slotsOf o.q.toNat).length) * 2 ^ 32))]) false)) ∧
  (∀ (s : State) (o : QAOps), s.Issues (.qpush o) → s.qmapOf s.myCtx o.q.toNat = none →
    Raises (.qpush o) s (unmapped s o.q.toNat)) ∧
  ∀ (s : State) (o : QDOps), s.qmapOf s.myCtx o.q.toNat = none →
    (s.Issues (.qpop o) → Raises (.qpop o) s (unmapped s o.q.toNat)) ∧
    (s.Issues (.qstat o) → Raises (.qstat o) s (unmapped s o.q.toNat)))

/-- 10 R246, R247: an entry pushed stands last in its queue, behind all that it held, whether it stays on chip or is
spilled. Where nothing else is outstanding, nothing of the queue is spilled, nobody waits for it and D is not EMPTY, a QPOP takes the
oldest entry: D holds its value, the rest keeps its order, and the core's generation advances; on an empty queue D stays
EMPTY and the task waits in the queue's line. -/
def Obligations.QueuesKeepTheirOrder : Prop :=
  (∀ (s : State) (a : Agent) (m : QMapEntry) (n : Nat) (v : Word),
    let q := s.queueOf a.ctx m
    let r := (s.enqueue a m n v).queueOf a.ctx m
    r.entries.take q.entries.length = q.entries ∧ r.seq = q.seq + 1 ∧ r.waiters = q.waiters ∧
      ∃ slot, r.entries.drop q.entries.length = [⟨v, false, n, slot⟩]) ∧
  ∀ (s : State) (o : QDOps) (c : Ctx) (m : QMapEntry), s.Issues (.qpop o) → idle s → noLog s →
    s.ctxOf s.cur.ctx = some c → s.qmapOf c o.q.toNat = some m → s.cur.cond (.s o.d) ≠ .empty →
    let q := s.queueOf s.cur.ctx m
    q.waiters = [] → (∀ e ∈ q.entries, e.slot = none ∧ e.bad = false) →
    (∀ e es, q.entries = e :: es →
      ∃ t u, exec (.qpop o) s = .next t ∧ exec (.loadComplete s.nextId) t = .next u ∧ u.cur.ops = [] ∧ u.mem = s.mem ∧
        (u.queueOf s.cur.ctx m).entries = es ∧ (o.d ≠ 0 → u.readS o.d = e.v ∧ u.cur.cond (.s o.d) = .ok) ∧
        (u.core s.cur.loc).gen = (s.core s.cur.loc).gen + 1) ∧
    (q.entries = [] → ∃ t, exec (.qpop o) s = .next t ∧ (t.queueOf s.cur.ctx m).waiters = [(s.cur.id, s.nextId)] ∧
      t.mem = s.mem ∧ (o.d ≠ 0 → t.cur.cond (.s o.d) = .empty))

/-! ### Caches, translation buffers, watches, engines (04, 10, 11, 16, 18, 20) -/

/-- 10 R244: PREF fills the context's line where it may be read, and is dropped without a trace where its translation or
permission fails or an earlier access must come first (the latter is the model's choice, log 15); FLUSH writes the context's copy of a line back and drops it;
INVAL drops it without writing it back, both behind the earlier accesses of their context. 04 R87, R88, 10 R245:
WAYCONV asks for N more ways of the core's L1, at most 6, for one context at a time; WAYREST gives all of them back;
the status 0 comes when the ways have been drained. 20 R345: in supervisor mode TLBINV begins, and writes dirty bytes
back and drops its entries at once where nothing of the task is outstanding; outside it raises PROT (its value in
c.EVAL is free, log 12). -/
def Obligations.CacheAndTlbInstructions : Prop :=
  ((∀ (s : State) (o : MSA) (e : Stop), s.Issues (.pref o) → s.reachLine (lineAddr s o) = .error e → e.dropsHint = true →
    Executes (.pref o) s s) ∧
  (∀ (s : State) (o : MSA) (x : Trap), s.Issues (.pref o) → s.reachLine (lineAddr s o) = .error (.trap x) →
    Stop.dropsHint (.trap x) = false → Raises (.pref o) s x) ∧
  (∀ (s : State) (o : MSA), s.Issues (.pref o) → s.reachLine (lineAddr s o) = .ok none → Executes (.pref o) s s) ∧
  (∀ (s : State) (o : MSA) (d : Dest), s.Issues (.pref o) → s.reachLine (lineAddr s o) = .ok (some d) →
    (s.blocked d 64 = true → Executes (.pref o) s s) ∧
    (s.blocked d 64 = false → s.t2Out (d.pa.getD 0) = false →
      ∃ t l, Executes (.pref o) s t ∧ t.lineAt s.cur.loc s.cur.ctx (d.pa.getD 0 / 64) = some l ∧
        ∀ i < 64, l.needs (t.core s.cur.loc).gen i = false)) ∧
  (∀ (s : State) (o : MSA) (d : Dest), s.Issues (.flush o) → s.reachLine (lineAddr s o) = .ok (some d) →
    (s.blocked d 64 = false → Executes (.flush o) s (s.dropLines fun l => l.own s.cur (d.pa.getD 0))) ∧
    (s.blocked d 64 = true → Executes (.flush o) s (s.beginOp (.cmd (.flush (d.pa.getD 0))) [] false))) ∧
  (∀ (s : State) (o : MSA) (d : Dest), s.Issues (.inval o) → s.reachLine (lineAddr s o) = .ok (some d) →
    (s.blocked d 64 = false → Executes (.inval o) s { s with l1 := s.l1.filter fun l => !l.own s.cur (d.pa.getD 0) }) ∧
    (s.blocked d 64 = true → Executes (.inval o) s (s.beginOp (.cmd (.inval (d.pa.getD 0))) [] false))) ∧
  (∀ (s : State) (o : MSA), s.reachLine (lineAddr s o) = .ok none →
    (s.Issues (.flush o) → Executes (.flush o) s s) ∧ (s.Issues (.inval o) → Executes (.inval o) s s)) ∧
  ∀ (s : State) (o : MSA) (x : Trap), s.reachLine (lineAddr s o) = .error (.trap x) →
    (s.Issues (.flush o) → Raises (.flush o) s x) ∧ (s.Issues (.inval o) → Raises (.inval o) s x)) ∧
  ((∀ (s : State) (o : WayOps), s.Issues (.wayconv o) →
    let c := s.core s.cur.loc
    let n := o.n.toNat
    let all := c.extWays + comingWays (s.extOps s.cur.loc s.cur.ctx) + n
    (0 < c.extWays + c.converting → c.extOwner ≠ s.cur.ctx →
      Executes (.wayconv o) s (s.beginOp .load [outS o.d 2] false)) ∧
    (c.extWays + c.converting = 0 ∨ c.extOwner = s.cur.ctx →
      (6 < all → Executes (.wayconv o) s (s.beginOp .load [outS o.d 1] false)) ∧
      (all ≤ 6 → c.restoring = false → Executes (.wayconv o) s
        ((s.updCore s.cur.loc fun c => { c with converting := c.converting + n, extOwner := s.cur.ctx }).beginOp
          (.wayconv n) [outS o.d 0] false)) ∧
      (all ≤ 6 → c.restoring = true → ∃ t, Executes (.wayconv o) s t ∧ (t.core s.cur.loc) = c ∧
        t.cur.cond (.s o.d) = if o.d = 0 then .ok else .empty))) ∧
  (∀ (s : State) (o : DOnly), s.Issues (.wayrest o) →
    let c := s.core s.cur.loc
    (c.extWays + c.converting = 0 ∨ c.extOwner ≠ s.cur.ctx → Executes (.wayrest o) s (s.beginOp .load [outS o.d 0] false)) ∧
    (0 < c.extWays + c.converting → c.extOwner = s.cur.ctx → Executes (.wayrest o) s
      ((s.updCore s.cur.loc fun c => { c with extWays := 0, converting := c.converting + c.extWays, restoring := true }).beginOp
        .wayrest [outS o.d 0] false))) ∧
  ∀ (s : State) (a b loc q : Nat), (padBase loc + a ≤ q → q < padBase loc + b → (s.clearPad loc a b).byte q = 0) ∧
    (q < padBase loc + a ∨ padBase loc + b ≤ q → (s.clearPad loc a b).byte q = s.byte q)) ∧
  (∀ row ∈ tlbRows, ∀ (s : State) (o : TlbOps), s.Issues (row.1 o) →
    (s.cur.ctl.sv = true → Executes (row.1 o) s
      ((s.beginOp (.tlbinv (row.2 (s.base o.a)) none) [outS o.d 0] false).lastGo State.tlbinvGo)) ∧
    (s.cur.ctl.sv = true → s.cur.ops = [] → ∃ t, exec (row.1 o) s = .next t ∧
      ∀ e ∈ t.tlb, (row.2 (s.base o.a)).drops s.cur.ctx e = false) ∧
    (s.cur.ctl.sv = false → Raises (row.1 o) s (.now cProt (s.freeVal 64))))

/-- 10 R248, 16 R311: WATCH reads its 32-byte descriptor and installs an entry, or answers with a status; UNWATCH of an
entry of the context handles what came before it and removes the entry, and answers 1 where there is none. 04 R95,
R96, R100: HSET and HGET write and read a field of the shadow set; HGO draws the next haul ticket, delivers it in
the next bundle, and queues a command with the fields as they stand, where the set breaks no rule and its queue is
not full; a set that breaks a rule raises its trap. 18 R321, R322: BLYGRANT of a held buffer of an owned channel
grants the permits behind the earlier accesses of its context; of a buffer that is not held, or of a channel the context does not
own, it raises PROT with its operand; BLYSTAT reads the channel. The model's own are PROT of BLYSTAT and BLYGRANT on a channel that
is not owned (log 43), what a poisoned WATCH descriptor does (log 17), and the numbers of the fields (log 39). -/
def Obligations.WatchHaulAndBelayInstructions : Prop :=
  ((∀ (s : State) (o : DAX) (d : Dest), s.Issues (.watch o) → (s.readS o.a).toNat % 32 = 0 →
    s.reach .plain .load (s.readS o.a) 32 (s.readS o.a) = .ok d → d.pa.isSome = true →
    s.mustStall d 32 = false →
    let r := s.readDest s.me d 32
    (r.2.2 = true → Executes (.watch o) s (r.1.beginOpWith .load [outS o.d 0] false none true false)) ∧
    (r.2.2 = false →
      let i := (r.1.watchTouch r.1.myCtx r.2.1).install r.1.myCtx r.2.1
      Executes (.watch o) s (i.1.beginOp .load [outS o.d i.2] false))) ∧
  (∀ (s : State) (o : DAX), s.Issues (.watch o) → (s.readS o.a).toNat % 32 ≠ 0 →
    Raises (.watch o) s (.now cMisalign (s.readS o.a))) ∧
  (∀ (s : State) (o : DAX), s.Issues (.unwatch o) →
    (∀ w ∈ s.watches, w.ctx = s.cur.ctx → w.id ≠ (s.readS o.a).toNat) →
    Executes (.unwatch o) s (s.beginOp .load [outS o.d 1] false)) ∧
  ∀ (s : State) (o : DAX) (w : Watch), s.Issues (.unwatch o) →
    (s.watches.find? fun w => w.id == (s.readS o.a).toNat && w.ctx == s.cur.ctx) = some w →
    let u := s.flushTriggers w.key
    let t := u.updCreations w.key fun c => { c with seq := ((u.watchOf w.key).map Watch.seq).getD 0 }
    Executes (.unwatch o) s ({ t with watches := t.watches.filter fun x => x.key != w.key }.beginOp .load [outS o.d 0] false)) ∧
  ((∀ (s : State) (o : HsetOps), s.Issues (.hset o) →
    Executes (.hset o) s (s.later 1 (outOf (.shadow o.fld.toNat) (s.readS o.a)))) ∧
  (∀ (s : State) (o : HgetOps), s.Issues (.hget o) →
    Executes (.hget o) s (s.later 1 (outS o.d (s.cur.shadow.toList.getD o.fld.toNat 0)))) ∧
  (∀ (s : State) (o : HgoOps), s.Issues (.hgo o) →
    (s.hauls.filter fun h => h.task == s.cur.id && h.q == o.q.toNat && h.tile.isNone && !h.belayDone).length < 16 →
    (s.hgoTrap s.cur.shadow = none → s.hgoBound s.cur.shadow = none →
      ∃ (t : State) (h : Haul), Executes (.hgo o) s t ∧ h ∈ t.hauls ∧ h.task = s.cur.id ∧ h.q = o.q.toNat ∧
        h.fields = s.cur.shadow ∧ h.ticket = s.cur.tls[0].issued + 1 ∧ h.sv = s.cur.ctl.sv ∧
        t.cur.pend = s.cur.pend ++ [⟨1, outS o.d (BitVec.ofNat 64 (s.cur.tls[0].issued + 1))⟩] ∧
        t.cur.tls[0].issued = s.cur.tls[0].issued + 1 ∧ t.cur.tls[0].count = s.cur.tls[0].count) ∧
    (∀ x, s.hgoTrap s.cur.shadow = some x → Raises (.hgo o) s x) ∧
    ∀ a, s.hgoTrap s.cur.shadow = none → s.hgoBound s.cur.shadow = some a → Raises (.hgo o) s (.now cSpBound a))) ∧
  ((∀ (s : State) (o : GrantOps) (c : Channel), s.Issues (.blygrant o) → s.myCtx.channel o.ch.toNat = some c →
    let b := c.bufs[bufIx o.buf]
    let cmd : OpKind := .cmd (.grant c.n o.buf)
    let obj := BitVec.ofNat 64 (2 * c.n + o.buf.toNat)
    (b.held = true → (∀ x ∈ s.cur.ops, x.kind ≠ cmd) → s.etchReady 0x0B 0 obj (.unit b.seq) none (some (b.xfer.setWidth 64)) = .ok () →
      Executes (.blygrant o) s ((((s.beginOp cmd [] false).reserveOp).withObj obj).lastGo State.grantGo)) ∧
    (b.held = false → Raises (.blygrant o) s (.now cProt (BitVec.ofNat 64 (o.ch.toNat + 64 * o.buf.toNat))))) ∧
  (∀ (s : State) (o : GrantOps) (x : Ctx) (c : Channel), s.Issues (.blygrant o) → idle s → noLog s →
    s.ctxOf s.cur.ctx = some x → x.channel o.ch.toNat = some c → (c.bufs[bufIx o.buf]).held = true →
    ∃ t, exec (.blygrant o) s = .next t ∧ t.cur.ops = [] ∧
      ∃ y d, t.ctxOf s.cur.ctx = some y ∧ y.channel o.ch.toNat = some d ∧ (d.bufs[bufIx o.buf]).held = false ∧
        (d.bufs[bufIx o.buf]).permits = c.sdies) ∧
  (∀ (s : State) (o : GrantOps), s.Issues (.blygrant o) → s.myCtx.channel o.ch.toNat = none →
    Raises (.blygrant o) s (.now cProt (BitVec.ofNat 64 (o.ch.toNat + 64 * o.buf.toNat)))) ∧
  (∀ (s : State) (o : ChOps) (c : Channel), s.Issues (.blystat o) → s.myCtx.channel o.ch.toNat = some c →
    Executes (.blystat o) s (s.beginOp .load [outS o.d c.status] false)) ∧
  ∀ (s : State) (o : ChOps), s.Issues (.blystat o) → s.myCtx.channel o.ch.toNat = none →
    Raises (.blystat o) s (.now cProt (BitVec.ofNat 64 o.ch.toNat)))

/-- 11 R250, R251, R255: MPSET and MPGET write and read an mp register; MMA, where fewer than four are outstanding and
its operands pass their checks, draws the next tl.mma ticket for D, which is EMPTY until the command completes;
where they do not, it raises their trap. 11 R256 to R259, R262: ATTN, where its handle names a sequence of the
context's space and its record, addresses and parent array pass their checks, draws the next tl.attn ticket for D
and begins a stream with the record and, with TREE 1, the parent array as they stand, what lower slots of its bundle are still to
store included; a handle that does not raises KV_HANDLE with it, a misaligned record MISALIGN. An access of an earlier bundle to the
scratchpad comes first (log 15). -/
def Obligations.MatrixAndAttentionInstructions : Prop :=
  ((∀ (s : State) (o : MpsetOps), s.Issues (.mpset o) →
    Executes (.mpset o) s (s.later 1 (outOf (.mp o.mp) (s.readS o.a)))) ∧
  (∀ (s : State) (o : MpgetOps), s.Issues (.mpget o) →
    Executes (.mpget o) s (s.beginOp .x [outS o.d s.cur.regs.mp[o.mp]] false)) ∧
  ∀ (s : State) (o : MmaOps), s.Issues (.mma o) → (s.cur.ops.filter Op.isMma).length < 4 →
    (∀ pages, s.mmaCheck (MP.ofRegs s.cur.regs.mp s.fmt) = .ok pages →
      ∃ (t : State) (op : Op) (c : MmaCmd), Executes (.mma o) s t ∧ t.cur.ops = s.cur.ops ++ [op] ∧ op.id = s.nextId ∧
        op.kind = .mma c ∧ op.outs = [outS o.d (BitVec.ofNat 64 (s.cur.tls[1].issued + 1))] ∧ c.mp = s.cur.regs.mp ∧
        c.fmt = s.fmt ∧ c.f = o.f ∧ c.ticket = s.cur.tls[1].issued + 1 ∧ t.cur.tls[1].issued = s.cur.tls[1].issued + 1 ∧
        t.mem = s.mem) ∧
    ∀ x, s.mmaCheck (MP.ofRegs s.cur.regs.mp s.fmt) = .error x → Raises (.mma o) s x) ∧
  (∀ (s : State) (o : AttnOps), s.Issues (.attn o) → (s.streams.filter fun x => x.task == s.cur.id).length < 4 →
    let h := (s.readS o.a).toNat % 2 ^ 32
    let ra := s.readS o.b
    (∀ op ∈ s.cur.ops, s.earlier op = true → match op.kind with
      | .mma c => overlaps c.foot (padBase s.cur.loc + ra.toNat) 128 = false
      | _ => op.padPending = false) →
    (s.space (h / 2 ^ 24) = none → Raises (.attn o) s (.now cKvHandle (BitVec.ofNat 64 h))) ∧
    ∀ p, s.space (h / 2 ^ 24) = some p →
      (p.ctx ≠ s.cur.ctx ∨ p.ns ≤ h % 2 ^ 24 → Raises (.attn o) s (.now cKvHandle (BitVec.ofNat 64 h))) ∧
      (p.ctx = s.cur.ctx → h % 2 ^ 24 < p.ns → ra.toNat % 128 ≠ 0 → Raises (.attn o) s (.now cMisalign ra)) ∧
      let args := s.bytesSeen (padBase s.cur.loc + ra.toNat) 128
      let r := AttnRec.ofBytes args
      let rows := r.allRows
      let par := if o.tree then [(r.parent, r.s)] else []
      let parents := if o.tree then s.bytesSeen (padBase s.cur.loc + r.parent) r.s else []
      p.ctx = s.cur.ctx → h % 2 ^ 24 < p.ns → ra.toNat % 128 = 0 → s.cur.belowWindow [(ra.toNat, 128)] = none →
      s.cur.belowWindow par = none →
      p.recBad args o.tree parents s.cur.ctl.spb.toNat (min s.cur.ctl.spl.toNat padSize) = none →
      r.qAddr % 32 = 0 → r.oAddr % 32 = 0 → r.mlAddr % 32 = 0 →
      s.cur.belowWindow ([(r.qAddr, rows * p.dim * r.qSize), (r.oAddr, rows * p.dim * 4), (r.mlAddr, rows * 8)] ++ par) = none →
      s.etchReady 0x0D 0 (BitVec.ofNat 64 h) (.unit p.seq) none = .ok () →
      ∃ (t : State) (x : Stream) (op : Op), Executes (.attn o) s t ∧ x ∈ t.streams ∧ x.task = s.cur.id ∧ x.handle = h ∧
        x.args = args ∧ x.parents = parents ∧ x.tree = o.tree ∧ x.ticket = s.cur.tls[2].issued + 1 ∧ x.causal = o.causal ∧
        x.resume = o.res ∧ op ∈ t.cur.ops ∧
        op.kind = .attn x.id ∧ op.outs = [outS o.d (BitVec.ofNat 64 x.ticket)])

/-- 11 R263 to R270: a KV instruction whose argument block lies aligned in the task window and names a sequence of a
space of its context is sent to its controller with the block as it stands, what lower slots of its bundle are still to store
included; KVSPACE is sent in supervisor mode. 11
R263: before it is sent, a KV instruction raises MISALIGN for an argument block that is not 32-byte aligned, then
SP_BOUND for one outside the task window, then KV_HANDLE for a handle of no sequence of its context's spaces. -/
def Obligations.KvInstructions : Prop :=
  ((∀ row ∈ kvRows, ∀ (s : State) (o : MSOps) (p : Space), s.Issues (row.1 o) →
    let va := s.base o.a + o.off.signExtend 64 * 32
    let args := s.bytesSeen (padBase s.cur.loc + va.toNat) 32
    let h := field args 0 4
    va.toNat % 32 = 0 → inOwnWindow s va 32 → s.unperformedEarlier = false → s.space (h / 2 ^ 24) = some p → p.ctx = s.cur.ctx →
    h % 2 ^ 24 < p.ns → s.etchReady 0x0C 0 (BitVec.ofNat 64 h) (.unit p.seq) none = .ok () →
    Executes (row.1 o) s (s.kvSend row.2 o.d h args va)) ∧
  (∀ (s : State) (o : SpaceOps), s.Issues (.kvspace o) → s.cur.ctl.sv = true →
    s.etchReady 0x0C 0 (BitVec.ofNat 64 (o.sp.toNat * 2 ^ 24)) (match s.space o.sp.toNat with
      | some p => .unit p.seq
      | none => .none) none = .ok () →
    Executes (.kvspace o) s (s.kvSend .kspace o.d o.sp.toNat [] (s.base o.a))) ∧
  ∀ (s : State) (kind : KvKind) (d : SReg) (handle : Nat) (args : List Byte) (va : Word),
    ∃ c ∈ (s.kvSend kind d handle args va).kvcmds, c.kind = kind ∧ c.task = s.cur.id ∧ c.ctx = s.cur.ctx ∧ c.handle = handle ∧
      c.args = args ∧ c.argVa = va ∧ c.sv = s.cur.ctl.sv ∧ c.ticket = s.cur.tls[4].issued + 1 ∧ c.performed = false) ∧
  (∀ row ∈ kvRows, ∀ (s : State) (o : MSOps), s.Issues (row.1 o) →
    let va := s.base o.a + o.off.signExtend 64 * 32
    let h := field (s.bytesSeen (padBase s.cur.loc + va.toNat) 32) 0 4
    (va.toNat % 32 ≠ 0 → Raises (row.1 o) s (.now cMisalign va)) ∧
    (va.toNat % 32 = 0 → ¬ inOwnWindow s va 32 → Raises (row.1 o) s (.now cSpBound va)) ∧
    (va.toNat % 32 = 0 → inOwnWindow s va 32 → s.unperformedEarlier = false →
      (∀ p, s.space (h / 2 ^ 24) = some p → p.ctx ≠ s.cur.ctx ∨ p.ns ≤ h % 2 ^ 24) →
      Raises (row.1 o) s (.now cKvHandle (BitVec.ofNat 64 h))))

/-! ### Events (01 to 04, 08 to 11, 15, 16, 18 to 21, 23, 24) -/

/-- 08 R159, 09 R200, R206, 10 R221, R246, 11 R252, R255: an operation that its unit has finished ends: its task no
longer holds it and, where the task is the one in the focus, its destination register holds the result and is FULL;
X results end in issue order within their task, and an access that was held is performed when nothing that holds it
is left. 10 R230 to R233, R235, 20 R345: an acquire, a release, an atomic, a fence or a TLB invalidation that waited
is performed once nothing that it waits for is left: an ACQ where its object is no longer zero, a remote one sent
again, one of another module that has waited here for FXTMO answered with zero, a FENCE with its write-back and a new generation of its core, a FENCE .co with neither, a TLBINV once no access
translated with the entries that it dropped is left. 04 R87, R88: when converted ways have been drained, the new range of
the scratchpad reads as zero and the core has the ways; when a restoration is done, the extension reads as zero and the
core has none but what a later WAYCONV of the context converts. -/
def Obligations.OperationsComplete : Prop :=
  ((∀ (s : State) (id : Nat) (t : Task) (op : Op), s.findOp id = some (t, op) →
    (op.kind = .div → exec (.scalarDivComplete id) s = .next (s.finishOp t.id op)) ∧
    (op.kind = .x → (∀ o ∈ t.ops, o.kind = .x → id ≤ o.id) → exec (.xResultComplete id) s = .next (s.finishOp t.id op)) ∧
    (op.kind = .drain → exec (.vdrainComplete id) s = .next (s.finishOp t.id op)) ∧
    (op.kind = .load → exec (.loadComplete id) s = .next (s.finishOp t.id op)) ∧
    (∀ ps sext, op.kind = .heldRead ps sext → t.mustWait op = false →
      exec (.loadComplete id) s = .next (s.performLoad t op ps sext)) ∧
    (∀ c, op.kind = .cmd c → exec (.loadComplete id) s = .next (s.cmdGo t op c)) ∧
    (∀ va taken, op.kind = .spawn va taken → exec (.loadComplete id) s = .next (s.spawnGo t op)) ∧
    (∀ ps x k, op.kind = .heldWrite ps x k → t.mustWait op = false →
      exec (.loadComplete id) s = .next ((s.performStore t op.id ps x k).finishOp t.id op)) ∧
    (∀ n, op.kind = .qpop n → exec (.loadComplete id) s = .next (s.qpopGo t op)) ∧
    ∀ c, op.kind = .mma c → (∀ o ∈ t.ops, o.id < id → o.padPending = false) →
      let weights := c.foot.filter fun r => match s.place r.1 with
        | .weights .. => true
        | _ => false
      exec (.mmaComplete id) s = .next (((((weights.foldl (fun s r => s.touch t.ctx r.1 r.2) s).mmaWrite t op c).finishOp t.id
        op).completeTicket t.id 1 c.ticket none none))) ∧
  ∀ (s : State) (op : Op) (d : SReg) (x : Word), op ∈ s.cur.ops → (∀ o ∈ s.cur.ops, o.id = op.id → o = op) →
    (∀ o ∈ s.others, o.id ≠ s.cur.id) → op.outs = [outS d x] → op.fail = none → op.poison = false → d ≠ 0 →
    (∃ before psn, s.cur.regs.s[d].st = .empty 1 before none psn) →
    let u := s.finishOp s.cur.id op
    u.cur.readS d = x ∧ u.cur.cond (.s d) = .ok ∧ op ∉ u.cur.ops) ∧
  (∀ (s : State) (id : Nat) (t : Task) (op : Op), s.findOp id = some (t, op) →
    (s.canSync t op = true →
      (∀ d adv sent t1 op1, op.kind = .acq d adv sent → d.pa.isSome = true →
        (s.acqGo t op).findOp id = some (t1, op1) → op1.kind = .load →
        exec (.acqWake id) s = .next ((s.acqGo t op).finishOp t1.id op1)) ∧
      (∀ fa adv sent, op.kind = .acq (.fabric fa) adv sent → exec (.acqRemoteNotYet (.again id)) s = .next (s.acqGo t op)) ∧
      (∀ d v upTo fl sent, op.kind = .rel d v upTo fl sent → exec (.relPerform id) s = .next (s.relGo t op)) ∧
      ∀ c, op.kind = .atomic c → exec (.relPerform id) s = .next (s.atomicGo t op c)) ∧
    (∀ upTo, t.stored upTo = true →
      (op.kind = .fence upTo false → (∀ o ∈ t.ops, o.id < op.id → o.unperformed = false) → exec (.fencePerform id) s =
        .next ((((s.storeLost t upTo).flushCtx t.loc t.ctx).advanceGen t.loc).finishOp t.id op)) ∧
      (op.kind = .fence upTo true → (∀ o ∈ t.ops, o.id < op.id → o.unperformed = true → o.ofCore t.loc = false) →
        exec (.fencePerform id) s = .next (s.finishOp t.id op))) ∧
    ∀ w, (∀ n, op.kind = .tlbinv w (some n) → s.translatedLeft w t.ctx n = false →
        exec (.tlbinvComplete id) s = .next (s.finishOp t.id op)) ∧
      (op.kind = .tlbinv w none → exec (.tlbinvComplete id) s = .next (s.tlbinvGo t op))) ∧
  (∀ (s : State) (src id : Nat) (w : Nat × Request),
    (s.fabric.acqs.find? fun w => w.2.src == src && w.2.id == id) = some w →
    exec (.acqRemoteNotYet (.answer src id)) s =
      .next ((s.updFabric fun f => { f with acqs := f.acqs.erase w }).answerReq w.2 .ok (natLe 8 0) false 0)) ∧
  ((∀ (s : State) (id n : Nat) (t : Task) (op : Op), s.findOp id = some (t, op) → op.kind = .wayconv n → n ≠ 0 →
    (∀ o ∈ s.extOps t.loc t.ctx, id ≤ o.id ∧ o.kind ≠ .wayrest) →
    ∃ v : State, exec (.wayconvDrainDone id) s = .next (v.finishOp t.id op) ∧
      (v.core t.loc).extWays = (s.core t.loc).extWays + n ∧
      ∀ i < 0x8000 * n, v.byte (padBase t.loc + padSize + 0x8000 * (s.core t.loc).extWays + i) = 0) ∧
  ∀ (s : State) (id : Nat) (t : Task) (op : Op), s.findOp id = some (t, op) → op.kind = .wayrest →
    (∀ x ∈ s.tasks, x.loc = t.loc → x.ctx = t.ctx → ∀ o ∈ x.ops, o.id < id → o.onExt = false) →
    (∀ h ∈ s.hauls, h.loc = t.loc → h.ctx = t.ctx → id ≤ h.id) →
    let later := (s.extOps t.loc t.ctx).filter fun o => id < o.id
    exec (.wayrestDone id) s = .next (((s.clearPad t.loc padSize 0x400000).updCore t.loc fun c => { c with
      converting := (later.map Op.converts).sum
      restoring := later.any fun o => o.kind == .wayrest
      extOwner := if later.isEmpty then 0 else c.extOwner }).finishOp t.id op))

/-- 01 R19, R23, R24, R26 to R28, 04 R93: HMRET and HMROT written from outside the cores do what their GO bits ask; a
stripe rebuild moves the frontier and the last one retires the channel; a scrub pass checks, suspects, rotates and
counts, and one that has come to a stripe moves the frontier HMROTF of a running rotation; a retrained link counts in HMSTAT; a
memory read checks its sector. 20 R352: an uncorrectable error of a scratchpad is charged as padLost says. 04 R93, R94: WSCTL with OPEN 1 opens a
weight store while no task set is live, else sets ERR and leaves OPEN; with OPEN 0 it seals the store; the refresh
window moves on by one of eight partitions. The model's own are: RETRAIN wraps, and 0xFF is the channel in a record that has none
(log 96); the rotation runs within the scrub pass, HMROTF reads 0 after it, and a pass finds its errors at its end (log 101); every
write of WSCTL with OPEN 0 advances the generations (log 67). -/
def Obligations.MemoryControllerEvents : Prop :=
  ((∀ (s : State) (pa die off : Nat) (v : Word), s.place pa = .control die off → pa % 8 = 0 →
    exec (.registerWrite pa v) s = .next (s.regWrite pa v)) ∧
  (∀ (s : State) (die stack : Nat) (v : Word), die < 6 → hasBlock die stack = true →
    exec (.keyRotate die stack v) s = .next (s.hmrotWrite die stack v) ∧
    exec (.channelRetire die stack v) s = .next (s.hmretWrite die stack v) ∧
    (v.getLsbD 16 = true → (s.mcrGet (hmrot die stack)).getLsbD 17 = false → v.extractLsb' 0 8 ≠ v.extractLsb' 8 8 →
      v.extractLsb' 0 8 ≠ 255#8 → v.extractLsb' 8 8 ≠ 255#8 →
      let t := s.hmrotWrite die stack v
      (t.mcrGet (hmrot die stack)).getLsbD 17 = true ∧ (t.mcrGet (hmrot die stack)).extractLsb' 0 16 = v.extractLsb' 0 16 ∧
        t.mcrGet (hmrot die stack + 8) = 0) ∧
    (v.getLsbD 5 = true → ∀ r, s.retireRefused die stack (v.toNat % 32) = some r → r < 8 →
      ((s.hmretWrite die stack v).mcrGet (hmret die stack)).extractLsb' 10 3 = BitVec.ofNat 3 r)) ∧
  (∀ (s : State) (r : Retire), s.retiring.find? (fun x => x.die == r.die && x.stack == r.stack) = some r →
    let f := (s.mcrGet (hmret r.die r.stack + 8)).toNat
    (f + 1 < 8388608 → exec (.retireStripeRebuild r.die r.stack) s =
      .next (s.mcrPut (hmret r.die r.stack + 8) (BitVec.ofNat 64 (f + 1)))) ∧
    (8388608 ≤ f + 1 → exec (.retireStripeRebuild r.die r.stack) s = .next (s.retireDone r))) ∧
  (∀ (s : State) (die stack : Nat) (hits : List ScrubHit), die < 6 → hasBlock die stack = true →
    let reg := ctlBase die + stack * 0x10000 + 0x200
    (s.mcrGet reg).extractLsb' 0 8 ≠ 0#8 →
    let mine := hits.filter (s.scrubs die stack)
    let found := hits.foldl (fun s h => s.scrubFound die stack h) s
    let a := (found.sectorsAt die stack fun pa _ => found.stale pa).foldl (fun s pa => s.sectorLost pa 3) found
    let b := ((List.range 32).foldl (fun s c => s.suspect die stack c (correctedOn mine c)) a).rotate die stack 8388608
    (∃ x : Word, exec (.scrubPass die stack ⟨8388608, hits⟩) s = .next ((b.mcrPut reg x).errLog die 6 stack 0xFF 0 0 0) ∧
      x.extractLsb' 48 16 = (b.mcrGet reg).extractLsb' 48 16 + 1 ∧ x.extractLsb' 0 48 = (b.mcrGet reg).extractLsb' 0 48) ∧
    ∀ k, k < 8388608 → (s.mcrGet (hmrot die stack)).getLsbD 17 = true →
      ∃ t, exec (.scrubPass die stack ⟨k, hits⟩) s = .next t ∧ t.mem = s.mem ∧ (t.mcrGet (hmrot die stack)).getLsbD 17 = true ∧
        (t.mcrGet (hmrot die stack + 8)).toNat = max (s.mcrGet (hmrot die stack + 8)).toNat k) ∧
  (∀ (s : State) (die stack : Nat), die < 6 → hasBlock die stack = true → stack ≠ 4 →
    let link := 4 * die + stack
    let t : State := { s with linkKey := Tbl.put 0 s.linkKey link (Tbl.get 0 s.linkKey link + 1) }
    ∃ x : Word, exec (.hbmLinkRetrain die stack) s = .next ((t.mcrPut (hmstat die stack) x).errLog die 5 stack 0xFF 0 0 0) ∧
      x.extractLsb' 6 16 = (s.mcrGet (hmstat die stack)).extractLsb' 6 16 + 1 ∧
      x.extractLsb' 0 6 = (s.mcrGet (hmstat die stack)).extractLsb' 0 6 ∧
      x.extractLsb' 22 42 = (s.mcrGet (hmstat die stack)).extractLsb' 22 42) ∧
  (∀ (s : State) (pa n : Nat) (found : EccFound) (rebuilt : Bool), s.place pa = .node n → (s.l2Sector pa).valid = false →
    exec (.memoryRead pa found rebuilt) s = .next (s.eccCheck pa found rebuilt)) ∧
  ∀ (s : State) (pa k o : Nat) (rebuilt : Bool), s.poisoned pa = false →
    (s.place pa = .weights k o → exec (.memoryRead pa .uncorrectable rebuilt) s = .next (s.weightLost k pa)) ∧
    (s.place pa = .pad k o → exec (.memoryRead pa .uncorrectable rebuilt) s = .next (s.padLost pa))) ∧
  (∀ (s : State) (k : Fin 4) (v : Word),
    let old := s.mcrGet (wsctl k.val)
    (v.getLsbD 0 = true → s.sets = [] →
      ∃ t, exec (.wsUnseal k.val v) s = .next t ∧ (t.mcrGet (wsctl k.val)).getLsbD 0 = true ∧ t.mem = s.mem) ∧
    (v.getLsbD 0 = true → s.sets ≠ [] →
      ∃ t, exec (.wsUnseal k.val v) s = .next t ∧ (t.mcrGet (wsctl k.val)).getLsbD 1 = true ∧
        (t.mcrGet (wsctl k.val)).getLsbD 0 = old.getLsbD 0) ∧
    (v.getLsbD 0 = false →
      ∃ x : Word, x.getLsbD 0 = false ∧ exec (.wsSeal k.val v) s = .next ((s.mcrPut (wsctl k.val) x).advanceAll)) ∧
    ∃ t, exec (.wsRefreshPhase k.val) s = .next t ∧ t.wsPhase[k] = (s.wsPhase[k] / 2048 + 1) % 8 * 2048 ∧
      ∀ j : Fin 4, j ≠ k → t.wsPhase[j] = s.wsPhase[j])

/-- 01 R16, 04 R82, R83: a range placed in the window is listed; a withdrawn range and a failed pool link are recorded,
and what they held is lost; an eviction takes a line out of its home slice and out of the L1s that its presence bits name.
20 R342, R344, 23 R365: a miss of a core's TLB takes the entry of its cluster's; where there is none, a page walk that ends
in a leaf puts it into both TLBs under its context, and one that faults caches nothing; a TLB keeps to its size; an
instruction block that is there and authentic is put into the core's cache, and of one that is not the errors that its read
has met stay. The model's own are the record channel 0 of a lost range (log 96), the page walk as one event that fills both TLBs
(log 64), and what a range placed over a withdrawn one replaces (log 101). -/
def Obligations.PoolWalkAndFillEvents : Prop :=
  ((∀ (s : State) (base size : Nat), base % 2 ^ 30 = 0 → 0x040000000000 ≤ base → 0 < size → base + size ≤ 0x080000000000 →
    (s.t2.filter fun r => !r.withdrawn).length < 16 →
    (∀ r ∈ s.t2, r.withdrawn = false → base + size ≤ r.base ∨ r.base + r.size ≤ base) →
    ∃ t, exec (.t2RangeAssigned base size) s = .next t ∧ ⟨base, size, false⟩ ∈ t.t2 ∧
      (∀ r ∈ s.t2, r.withdrawn = false → r ∈ t.t2) ∧ t.mem = s.mem) ∧
  (∀ (s : State) (r : T2Range), r ∈ s.t2 → r.withdrawn = false →
    ∃ v : State, exec (.t2RangeWithdrawn r.base) s = .next (v.errLog 1 10 5 0 0 0 (BitVec.ofNat 64 r.base)) ∧
      (∀ x ∈ v.t2, x.base = r.base → x.withdrawn = true) ∧ v.mem = s.mem) ∧
  (∀ s : State, s.board.poolUp = true → ∃ t, exec .poolLinkFail s = .next t ∧ t.board.poolUp = false) ∧
  ∀ (s : State) (pa n : Nat) (bad : List Nat), s.place pa = .node n →
    ∃ t, exec (.l2Eviction pa bad) s = .next t ∧ t = s.evictLine (pa / 256) bad ∧ t.l2At pa = none ∧
      ∀ l ∈ t.l1, l ∈ s.l1 ∧ (l.line / 4 = pa / 256 → ∀ x, s.l2At pa = some x → x.presence.getLsbD (sliceOf l.loc) = false)) ∧
  ((∀ (s : State) (va : Word) (c : Ctx), va.extractLsb' 48 16 = 0#16 → s.ctxOf s.cur.ctx = some c →
    s.tlbHit c.id va.toNat [.core s.cur.loc] = none →
    (∀ e, s.tlbHit c.id va.toNat [.cluster (sliceOf s.cur.loc)] = some e →
      exec (.pageWalk va) s = .next (s.tlbPut { e with tlb := .core s.cur.loc })) ∧
    (s.tlbHit c.id va.toNat [.cluster (sliceOf s.cur.loc)] = none →
      (∀ e block, s.walk c.ptroot va.toNat = .leaf e block →
        let x : TlbEntry := ⟨.cluster (sliceOf s.cur.loc), c.id, va.toNat / 2 ^ 16, e, leafSpan e block⟩
        exec (.pageWalk va) s = .next ((s.tlbPut x).tlbPut { x with tlb := .core s.cur.loc })) ∧
      ((∀ e block, s.walk c.ptroot va.toNat ≠ .leaf e block) → exec (.pageWalk va) s = .next s))) ∧
  (∀ (s : State) (x : TlbEntry), (s.tlb.filter fun e => e.tlb == x.tlb).length ≤ x.tlb.size → 0 < x.tlb.size →
    x ∈ (s.tlbPut x).tlb ∧ ((s.tlbPut x).tlb.filter fun e => e.tlb == x.tlb).length ≤ x.tlb.size) ∧
  ∀ (s t : State) (va : Word), s.cachedBlock s.cur.loc s.cur.ctx va.toNat = none →
    (s.fillBlock s.cur.loc s.cur.ctx s.cur.ctl.sv va = .ok t → exec (.icacheFill va) s = .next t) ∧
    ∀ x, s.fillBlock s.cur.loc s.cur.ctx s.cur.ctl.sv va = .error (t, x) → exec (.icacheFill va) s = .next t)

/-- 04 R98, R99, 20 R346: an engine of a cluster with fewer than four commands takes the oldest pending one, which runs
there; a running command whose requests are answered performs its segments or, where one failed, ends with that
failure; one whose stores are acknowledged ends, and so does a reduction whose node has sent its result. XFRESP of its die resumes a waiting command, or fails it with XLATE
or PROT. 18 R320: a transfer of which every sending die has completed its commands is held: the buffer is held, its
counts start again, XFERS rises by one and the tickets of its commands complete. 03 R70, R71, 21 R354, R355: with
the fabric on, a multicast's store from a current member is performed where the export allows bit 3 and
acknowledged; a contribution of a child joins the reduction of its group, one that comes after the wait is answered
UNREACHABLE; the wait's end combines what there is; a multicast's end writes its bitmap. -/
def Obligations.HaulAndCollectiveEvents : Prop :=
  ((∀ (s : State) (slice : Nat) (h : Haul), slice < 64 → (s.hauls.filter fun h => h.eng == some slice).length < 4 →
    s.takeFor slice = some h → Shadow.belay h.fields = false →
    let h1 : Haul := { h with st := .running, eng := some slice }
    let t := s.updHaul h.id fun h => { h with st := .running, eng := some slice }
    exec (.haulStart slice) s = .next (t.haulGo h1)) ∧
  (∀ (s : State) (h : Haul), s.hauls.find? (fun x => x.id == h.id) = some h → s.haulWaits h.id = false →
    (h.st = .running → s.foldWaits h = false →
      (h.fault = none → exec (.haulComplete h.id) s = .next (s.haulWork h)) ∧
      ∀ x, h.fault = some x → exec (.haulComplete h.id) s = .next (s.endHaul h (some x))) ∧
    (h.st = .posted → exec (.haulComplete h.id) s = .next (s.endHaul h h.fault)) ∧
    (h.st = .sent → Shadow.belay h.fields = false → Shadow.op h.fields ≠ 5 →
      (s.red h.ctx (Shadow.group h.fields) h.k).map Reduction.closed = some true →
      exec (.haulComplete h.id) s = .next (s.endHaul h h.fault))) ∧
  (∀ (s : State) (h : Haul) (die tok : Nat), die < 6 → tok < 2 ^ 32 →
    s.hauls.find? (fun x => x.st == .waiting tok && sliceDie x.engine == die) = some h →
    let reg := ctlBase die + 0xB0000
    let word (act : Nat) : Word := BitVec.ofNat 64 (tok + act * 2 ^ 32)
    let h1 : Haul := { h with st := .running, fault := none }
    let eval := (h.fault.map Fail.eval).getD 0
    let r := (s.mcrPut reg (word 1)).updHaul h.id fun _ => h1
    exec (.xfrespRetry die (word 1)) s = .next ((r.haulGo h1).kvAnswer die (word 1)) ∧
    exec (.xfrespFailXlate die (word 2)) s =
      .next (((s.mcrPut reg (word 2)).endHaul h1 (some ⟨cXlate, 0, eval, none⟩)).kvAnswer die (word 2)) ∧
    exec (.xfrespFailProt die (word 3)) s =
      .next (((s.mcrPut reg (word 3)).endHaul h1 (some ⟨cProt, 0, eval, none⟩)).kvAnswer die (word 3))) ∧
  ∀ (s : State) (h : Haul) (f : Option Fail), h.tile = none → Shadow.belay h.fields = false →
    s.endHaul h f = (((s.dropHaul h.id).completeTicket h.task 0 h.ticket f none).updTask h.task fun t =>
      { t with ctl := { t.ctl with convx := t.ctl.convx || (h.convx && f.isNone) } }).promote) ∧
  (∀ (s : State) (x : Ctx) (c : Channel) (pong : Bool), s.ctxOf x.id = some x → x.channel c.n = some c →
    (c.bufs[bufIx pong]).held = false → (∀ d ∈ c.senders, dieCount (c.bufs[bufIx pong]).done d = c.cmds) →
    let t := (s.updBuf x.id c.n pong fun b =>
      { b with held := true, started := Vector.replicate 6 0, done := Vector.replicate 6 0, written := [], xfer := c.xfers + 1 }).updCtx x.id fun y =>
        { y with channels := y.channels.map fun z => if z.n = c.n then { z with xfers := z.xfers + 1 } else z }
    let mine := s.hauls.filter fun h =>
      h.ctx == x.id && h.belayDone && Shadow.channel h.fields == c.n && Shadow.pong h.fields == pong
    exec (.belayTransferHeld x.id c.n pong) s = .next (mine.foldl (fun s h =>
      ((s.dropHaul h.id).completeTicket h.task 0 h.ticket none none).updTask h.task fun y =>
        { y with ctl := { y.ctl with convx := y.ctl.convx || h.convx } }) t).promote) ∧
  ((∀ (s : State) (q : Request) (bs : List (Option Byte)), s.fabricOn = true → s.envOk q.src q.inc q.expect = true →
    q.kind = .store bs →
    (∀ c ps, s.exported q.fctx q.off bs.length 3 .store = some (c, ps) → exec (.multicastDeliver q) s =
      .next (((s.writePieces (s.reqAgent c q) ps bs).poisonPieces c.id ps q.poison).send (.ack q.src q.id .ok 0))) ∧
    (s.exported q.fctx q.off bs.length 3 .store = none → exec (.multicastDeliver q) s =
      .next (((s.exportCharge q.fctx q.off bs.length 3 .store).countRefusal q.src (s.refusal q.fctx)).send
        (.ack q.src q.id (s.refusal q.fctx) 0)))) ∧
  (∀ (s : State) (h : Haul) (b : Box) (done : List Nat),
    s.hauls.find? (fun x => x.id == h.id && x.st == .sent && Shadow.op x.fields == 5) = some h →
    ((s.ctxOf h.ctx).bind fun c => c.box (Shadow.group h.fields)) = some b →
    let sent := s.fabric.mc.filter fun e => e.haul == h.id
    let ok := (sent.filter fun e => !e.failed && (e.target == s.mid || done.contains e.ix)).map Member.ix
    (∀ e q, (e, Packet.multicast s.mid h.id q) ∉ s.fabric.sent) →
    (∀ x ∈ s.fabric.held, x.many = true → x.o.haul ≠ some h.id) →
    exec (.multicastComplete h.id done) s = .next (((s.putBitmap h b ok (sent.map Member.ix)).updFabric fun fb =>
      { fb with mc := fb.mc.filter fun e => e.haul != h.id }).endHaul h none)) ∧
  (∀ (s : State) (c : Contribution) (x : Ctx) (b : Box), s.fabricOn = true →
    s.envOk c.env.src c.env.inc c.env.expect = true → s.sharedCtx c.fctx = some x →
    x.box c.group = some b → c.env.src ∈ b.kids s.mid → (b.index s.mid).isSome = true →
    (s.red x.id c.group c.k = none ∨ (s.red x.id c.group c.k).map Reduction.closed = some false →
      exec (.reductionContribution c) s = .next (((s.updRed x.id c.group c.k fun r => { r with got := r.got ++ [c] }).send
        (.ack c.env.src c.id .ok 0)).redStep x.id c.group c.k)) ∧
    ((s.red x.id c.group c.k).map Reduction.closed = some true →
      exec (.reductionContribution c) s = .next (s.send (.ack c.env.src c.id .unreachable 0)))) ∧
  ∀ (s : State) (r : Reduction) (b : Box), s.red r.ctx r.group r.k = some r → r.closed = false →
    ((s.ctxOf r.ctx).bind fun c => c.box r.group) = some b →
    exec (.reductionTimeout r.ctx r.group r.k) s = .next (s.redClose r b))

/-- 03 R60, R61, R65, R66: with the fabric off a request is dropped and counted and nothing is sent; one whose
incarnations do not agree is dropped, counted and answered with a stale notice; in proof mode one whose turn in the
series of its object has not come waits (19 R333), and one of its core to its line behind it (14 R287); that both wait at the target
is the model's own (log 13); any other is served at its home, and answered: a store or a release with an acknowledgment, anything
else with a reply that carries this module's incarnation; an ACQ of an object that holds zero waits there (10 R232). 03 R65 to R68: a
reply, an acknowledgment, a stale notice of this life, or no answer within FXTMO ends the request that it names with its status; a
reply of another incarnation is dropped. -/
def Obligations.FabricRequestsAndAnswers : Prop :=
  (∀ (s : State) (q : Request),
    let dropped := min (2 ^ 32 - 1) ((s.mcrGet (fxid + 0x18)).toNat % 2 ^ 32 + 1)
    (s.fabricOn = false → ∃ t, exec (.remoteRequest q) s = .next t ∧ t.fabric.sent = s.fabric.sent ∧ t.mem = s.mem ∧
      (t.mcrGet (fxid + 0x18)).toNat % 2 ^ 32 = dropped) ∧
    (s.fabricOn = true → s.envOk q.src q.inc q.expect = false → ∃ t, exec (.remoteRequest q) s = .next t ∧
      t.fabric.sent = s.fabric.sent ++ [(⟨s.mid, s.incarnation, q.inc⟩, .stale q.src q.id q.inc s.incarnation)] ∧
      t.mem = s.mem ∧ (t.mcrGet (fxid + 0x18)).toNat % 2 ^ 32 = dropped) ∧
    (s.fabricOn = true → s.envOk q.src q.inc q.expect = true → s.earlyTurn q = true ∨ (∃ w ∈ s.fabric.waits, comesAfter q w = true) →
      exec (.remoteRequest q) s = .next (s.updFabric fun f => { f with waits := f.waits ++ [q] })) ∧
    (s.fabricOn = true → s.envOk q.src q.inc q.expect = true → s.earlyTurn q = false → (∀ w ∈ s.fabric.waits, comesAfter q w = false) →
      let r := s.serve q
      let t := if r.2.1 = .access then r.1.countAccess q.src else r.1
      ((∃ bs, q.kind = .store bs) ∨ (∃ v, q.kind = .rel v) →
        exec (.remoteRequest q) s = .next (t.send (.ack q.src q.id r.2.1 r.2.2.2.2))) ∧
      (q.kind = .acq → r.2.1 = .ok → leNat r.2.2.1 = 0 → r.2.2.2.1 = false → exec (.remoteRequest q) s =
        .next { r.1.updFabric fun f => { f with acqs := f.acqs ++ [(r.1.nextId, q)] } with nextId := r.1.nextId + 1 }) ∧
      ((∀ bs, q.kind ≠ .store bs) → (∀ v, q.kind ≠ .rel v) →
        (q.kind = .acq → r.2.1 ≠ .ok ∨ leNat r.2.2.1 ≠ 0 ∨ r.2.2.2.1 = true) →
        exec (.remoteRequest q) s = .next (t.send
          (.reply q.src ⟨q.id, s.mid, s.incarnation, s.peerInc q.src, r.2.1, r.2.2.1, r.2.2.2.1, r.2.2.2.2⟩))))) ∧
  ((∀ (s : State) (r : Reply), s.fabricOn = true →
    (s.envOk r.src r.inc r.expect = true → s.asked r.id r.src = true →
      exec (.remoteReply r) s = .next (s.reqDone r.id r.status r.bytes r.poison r.seq)) ∧
    (s.envOk r.src r.inc r.expect = false → ∃ t, exec (.remoteReply r) s = .next t ∧ t.cur = s.cur ∧ t.others = s.others ∧
      t.mem = s.mem ∧ t.fabric = s.fabric)) ∧
  (∀ (s : State) (e : Envelope) (id seq : Nat) (st : FabStatus), s.fabricOn = true →
    s.envOk e.src e.inc e.expect = true → s.asked id e.src = true →
    exec (.storeAck e id st seq) s = .next (s.reqDone id st [] false seq)) ∧
  (∀ (s : State) (o : OutReq) (inc : Nat), s.fabricOn = true → (s.fabric.out.find? fun x => x.id == o.id) = some o →
    exec (.staleNotice o.id s.incarnation inc) s =
      .next ((s.reqDone o.id .stale [] false 0).updFabric fun f => { f with log := f.log ++ [(o.target, inc)] })) ∧
  (∀ (s : State) (o : OutReq), o ∈ s.fabric.out →
    exec (.remoteTimeout o.id) s = .next (s.reqDone o.id .unreachable [] false 0)) ∧
  ∀ (s : State) (o : OutReq) (st : FabStatus) (bytes : List Byte) (poison : Bool) (seq : Nat), o.haul = none →
    o.store = true → o.done = none → (s.fabric.out.find? fun x => x.id == o.id) = some o →
    s.reqDone o.id st bytes poison seq =
      (s.updFabric fun f => { f with out := f.out.filter fun x => x.id != o.id }).storeDone o st)

/-- 03 R59, R60, R74, R77, 02 R53, 23 R368: a port with four lanes loses one and goes on with three, and one with three
goes down; a tag failure counts, the third sends the port into training; a new key raises the session number by one (the model's
own, log 89); a port that has trained comes up with its peer. FXID.EN is set, and cleared: then nothing waits at this module any
longer (log 13). A failed proof within the package holds its link down, and while the module is being brought up it stops that; a
proof that passes on a link held down lets it up again under a new session key (log 114). -/
def Obligations.PortEvents : Prop :=
  (∀ (s : State) (die port : Nat), die < 6 → port < 6 →
    let v := s.mcrGet (fxport die port)
    ∃ a b c d : State,
      exec (.laneFail die port) s = .next a ∧ exec (.linkRekey die port) s = .next b ∧
      exec (.flitTagFail die port false) s = .next c ∧ exec (.flitTagFail die port true) s = .next d ∧
      (v.extractLsb' 0 2 = 2#2 → (a.mcrGet (fxport die port)).extractLsb' 0 4 = 0xB#4) ∧
      (v.extractLsb' 0 2 = 3#2 → (a.mcrGet (fxport die port)).extractLsb' 0 4 = 0x0#4) ∧
      (v.getLsbD 1 = true →
        (b.mcrGet (fxport die port)).extractLsb' 36 16 = v.extractLsb' 36 16 + 1 ∧
        (b.mcrGet (fxport die port)).extractLsb' 0 36 = v.extractLsb' 0 36 ∧
        (c.mcrGet (fxport die port)).extractLsb' 0 2 = v.extractLsb' 0 2 ∧
        ((c.mcrGet (fxport die port)).extractLsb' 4 16).toNat = min 65535 ((v.extractLsb' 4 16).toNat + 1) ∧
        (d.mcrGet (fxport die port)).extractLsb' 0 2 = 1#2 ∧
        ((d.mcrGet (fxport die port)).extractLsb' 4 16).toNat = min 65535 ((v.extractLsb' 4 16).toNat + 1))) ∧
  (∀ (s : State) (die port peer : Nat), die < 6 → port < 6 → peer < 4096 → (s.mcrGet (fxport die port)).getLsbD 1 = false →
    ∃ a b, exec (.offPackageLinkKeying die port peer true) s = .next a ∧
      (a.mcrGet (fxport die port)).extractLsb' 0 2 = 2#2 ∧
      (a.mcrGet (fxport die port)).extractLsb' 52 12 = BitVec.ofNat 12 peer ∧
      exec (.offPackageLinkKeying die port peer false) s = .next b ∧ (b.mcrGet (fxport die port)).extractLsb' 0 2 = 1#2) ∧
  (∀ (s : State) (v : Word),
    (v.getLsbD 40 = true → exec (.fabricEnable v) s = .next (s.fxidWrite v) ∧ (s.fxidWrite v).fabricOn = true ∧
      (s.fabricOn = true → (s.fxidWrite v).mid = s.mid)) ∧
    (v.getLsbD 40 = false → ∃ t, exec (.fabricDisable v) s = .next t ∧ t.fabricOn = false ∧ t.fabric = { s.fabric with waits := [], acqs := [] })) ∧
  ∀ (s : State) (link : Nat),
    (∃ t, exec (.inPackageLinkAuth link false) s = .next t ∧ link ∈ t.board.linksDown ∧ t.board.mainRail = true ∧
      (s.board.mainRail = false ∨ s.board.bringing = true ∨ s.board.svcStop = true → t.board.svcStop = true ∧ t.board.bringing = false) ∧
      (link ∈ linkNos → s.board.mainRail = true → s.board.bringing = false → s.board.svcStop = false →
        (t.mcrGet (hmstat (link / 4) (link % 4))).getLsbD 5 = false ∧ t.board.svcStop = false)) ∧
    (link ∉ s.board.linksDown → exec (.inPackageLinkAuth link true) s = .next s) ∧
    (link ∈ s.board.linksDown → ∃ t, exec (.inPackageLinkAuth link true) s = .next t ∧
      Tbl.get 0 t.linkKey link = Tbl.get 0 s.linkKey link + 1 ∧
      (link ∈ linkNos → (t.mcrGet (hmstat (link / 4) (link % 4))).getLsbD 5 = (s.board.mainRail && !s.board.svcStop)))

/-- 02 R51 to R53, R381: with the fabric on and the incarnations agreeing, a lender takes a frame that fits its
receiving space, poison and all, or refuses it; frees a frame that it holds for the sender; the borrower holds an
acknowledged move or abandons a refused one, gives back a frame accepted for a space that is gone, moves a recalled frame
home as soon as there is room, and loses the frames of a lender that is gone; a lender answers a lending read of a frame
that it holds for the reader. A message of another incarnation is dropped and counted. 02 R42, R48, R49, R53, R381: the
bytes of a lending read that succeeded go to what asked for them, and one refused with ACCESS loses its frame and stops the
stream, unless what asked for them waits no longer or the frame is no longer the one asked for; a move copies, holds and, when no
reader is left, switches its frame in one step; a peer whose incarnation differs from the peer table is lost. The model's own are:
a LEND_PUT of more layers than its space has is refused, and what it carries (log 46); the LEND_FREE of a frame accepted for a space
that is gone names the space of the LEND_PUT (log 53); a frame taken has USE 0 (log 98); a LEND_RECALL is for every frame that
the borrower holds under its identity (log 103). -/
def Obligations.LendingAndMoves : Prop :=
  ((∀ (s : State) (e : Envelope) (space ident sp fmt : Nat) (x : LendFrame) (p : Space), s.ctlOk e = true →
    s.space sp = some p →
    let held := (p.frames.filter fun x => x.2.lentOut).length
    let refused := s.control e.src (.lendAck e.src space ident none)
    (p.credit = 0 ∨ p.peer ≠ e.src ∨ p.credit ≤ held ∨ p.slotSize 0 < roundUp 256 x.layer ∨ x.layer * p.layers < x.data.length →
      exec (.lendPut e space ident sp fmt x) s = .next refused) ∧
    (p.freeId = none ∨ p.freeSlot 0 = none → exec (.lendPut e space ident sp fmt x) s = .next refused) ∧
    ∀ id slot, p.peer = e.src → held < p.credit → roundUp 256 x.layer ≤ p.slotSize 0 → x.data.length ≤ x.layer * p.layers →
      p.freeId = some id → p.freeSlot 0 = some slot → s.slotStop p 0 slot x.layer = none →
      let f : Frame := ⟨1, 0, false, 0, fmt, false, true, e.src, 0, slot, p.tokens, false, 0, false, false, x.data.length, x.layer⟩
      exec (.lendPut e space ident sp fmt x) s = .next ((((((s.updSpace p.id fun p =>
        { p with frames := p.frames ++ [(id, f)] }).putFrame p 0 0 slot x.layer (Pb.ofGranules x.data x.bad)).control e.src
          (.lendAck e.src space ident (some id)))).checkMarks p.id).kvSync s)) ∧
  (∀ (s : State) (e : Envelope) (space ident : Nat) (p : Space) (m : Move), s.ctlOk e = true → s.space space = some p →
    (p.moves.find? fun m => m.ident == ident && m.tier == 3 && m.put && m.lenderIdent.isNone) = some m →
    (∀ l, exec (.lendAck e space ident (some l)) s =
      .next (((s.updMove space ident fun m => { m with lenderIdent := some l }).holdMove space ident).kvSyncBy (s.moveTask m) s)) ∧
    (m.why ≠ .auto → exec (.lendAck e space ident none) s = .next ((s.abandon space ident 3).kvSyncBy (s.moveTask m) s)) ∧
    (m.why = .auto → exec (.lendAck e space ident none) s = .next (((s.abandon space ident 3).updSpace space fun p =>
      { p with goal := none, demoteBlocked := true }).kvSyncBy (s.moveTask m) s))) ∧
  (∀ (s : State) (e : Envelope) (space ident : Nat) (p : Space) (f : Frame), s.ctlOk e = true → s.space space = some p →
    p.frame ident = some f → f.lentOut = true → f.peer = e.src →
    (f.readers = 0 → exec (.lendFree e space ident) s = .next ((s.freeFrame space ident).kvSync s)) ∧
    (f.readers ≠ 0 → exec (.lendFree e space ident) s =
      .next ((s.updSpace space fun p => p.updFrame ident fun f => { f with refcnt := 0 }).kvSync s))) ∧
  (∀ (s : State) (e : Envelope) (space ident l r : Nat), s.ctlOk e = true → s.space space = none →
    s.putSpace e.src space ident = some r →
    exec (.lendAck e space ident (some l)) s = .next (s.control e.src (.lendFree e.src r l))) ∧
  (∀ (s : State) (e : Envelope) (ident : Nat) (p : Space) (x : Nat × Frame), s.ctlOk e = true → s.spaces = [p] →
    (p.frames.find? fun y => y.2.lentIn && !y.2.lost && y.2.peer == e.src && y.2.slot == ident) = some x →
    exec (.lendRecall e ident) s = .next ((s.updSpace p.id fun p => { p with recalls := insertNat x.1 p.recalls }).kvSync s)) ∧
  (∀ (s : State) (p : Space) (id t : Nat) (f : Frame), s.space p.id = some p → p.recalls = [id] → p.frame id = some f →
    f.lentIn = true → f.lost = false → f.mig = false → f.pin = false → s.ringFull p.ctx = false →
    ((s.ctxOf p.ctx).map Ctx.etch) ≠ some 2 →
    (p.homeTier = some t → s.recallStep p.id = s.beginMove p.id id t .recall) ∧
    (p.homeTier = none → s.recallStep p.id = s)) ∧
  (∀ (s : State) (e : Envelope) (space : Option Nat), s.ctlOk e = true →
    exec (.lendGone e space) s = .next ((s.lenderLost e.src space).kvSync s)) ∧
  (∀ (s : State) (e : Envelope), s.ctlOk e = false →
    (∀ a b c d bs, exec (.lendPut e a b c d bs) s = .next (s.countDrop false)) ∧
    (∀ a b l, exec (.lendAck e a b l) s = .next (s.countDrop false)) ∧
    (∀ a b, exec (.lendFree e a b) s = .next (s.countDrop false)) ∧
    (∀ a, exec (.lendRecall e a) s = .next (s.countDrop false)) ∧
    (∀ a, exec (.lendGone e a) s = .next (s.countDrop false)) ∧
    ∀ a b c st bs bad, exec (.lendingReadReply e a b c st bs bad) s = .next (s.countDrop false)) ∧
  (∀ (s : State) (p : Space) (m : Move), s.space p.id = some p →
    (p.moves.find? fun x => x.ident == m.ident && x.tier == 3 && x.put && !x.held) = some m →
    exec (.lendAckTimeout p.id m.ident) s = .next ((s.lenderLost p.peer none).kvSync s)) ∧
  (∀ (s : State) (e : Envelope) (id space ident off len : Nat) (p : Space) (f : Frame), s.fabricOn = true →
    s.envOk e.src e.inc e.expect = true → s.space space = some p → p.frame ident = some f → f.lentOut = true →
    f.peer = e.src → f.refcnt ≠ 0 → off + len ≤ f.size →
    ∃ (v : State) (x : Pb), x.length = len ∧ exec (.lendingRead e id space ident off len) s =
      .next (v.send (.lendingReply e.src space ident off .ok ⟨id, Pb.bytes x⟩ (Pb.granules x)))) ∧
  ∀ (s : State) (e : Envelope) (id space ident off len : Nat), s.fabricOn = true →
    s.envOk e.src e.inc e.expect = true → s.space space = none →
    exec (.lendingRead e id space ident off len) s =
      .next (s.send (.lendingReply e.src space ident off .access ⟨id, []⟩ []))) ∧
  ((∀ (s : State) (e : Envelope) (sp ident off : Nat) (y : LendReply) (bad : List Nat) (l : LendReq), s.ctlOk e = true →
    (s.fabric.lends.find? fun l => l.id == y.id && l.target == e.src && l.rspace == sp && l.rident == ident && l.off == off) = some l →
    let s1 := s.updFabric fun f => { f with lends := f.lends.filter fun y => y.id != l.id }
    let x := Pb.ofGranules y.data bad
    (s.lendWanted l = true →
      (∀ k, l.by_ = .stream k →
        exec (.lendingReadReply e sp ident off .ok y bad) s = .next ((s1.updStream k fun z =>
          { z with asked := false, got := z.got ++ x }).kvSync s) ∧
        (s.lendHolds l = true → exec (.lendingReadReply e sp ident off .access y bad) s =
          .next (((s1.stopStream k 2).loseFrame l.space l.ident).kvSync s)) ∧
        (s.lendHolds l = false → exec (.lendingReadReply e sp ident off .access y bad) s =
          .next ((s1.stopStream k 2).kvSync s))) ∧
      (∀ q k, l.by_ = .move q k → exec (.lendingReadReply e sp ident off .ok y bad) s = .next ((s1.updMove q k fun m =>
        { m with asked := false, bytes := m.bytes ++ x }).kvSync s)) ∧
      ∀ k, l.by_ = .split k → exec (.lendingReadReply e sp ident off .ok y bad) s = .next ((s1.updKv k fun c =>
        { c with asked := false, bytes := c.bytes ++ x }).kvSync s)) ∧
    (s.lendWanted l = false → exec (.lendingReadReply e sp ident off .ok y bad) s = .next (s1.kvSync s))) ∧
  (∀ (s : State) (sid id : Nat) (p : Space) (m : Move), s.space sid = some p →
    (p.moves.find? fun m => m.ident == id) = some m → exec (.moveHold sid id) s = .next ((s.moveCopy sid m).kvSyncBy (s.moveTask m) s)) ∧
  (∀ (s : State) (sid id : Nat) (p : Space) (m : Move) (f : Frame), s.space sid = some p →
    (p.moves.find? fun m => m.ident == id) = some m → p.frame id = some f → m.held = true → f.readers = 0 →
    f.lentIn = false → m.why = .auto → m.tier ≠ 3 →
    exec (.moveSwitch sid id) s = .next (((s.updSpace sid fun q => (q.dropMove id).updFrame id fun f => { f with
      tier := m.tier, fmt := p.fmtAfter f m.tier, slot := m.slot, lentIn := false, peer := 0 }).etchMove p m
        (p.fmtAfter f m.tier)).kvSyncBy 0 s)) ∧
  ∀ (s : State) (e : Envelope), s.fabricOn = true → e.expect = s.incarnation →
    let s1 := s.updFabric fun f => { f with log := f.log ++ [(e.src, e.inc)] }
    (e.inc = s.peerInc e.src → exec (.incarnationNotice e) s = .next s1) ∧
    (e.inc ≠ s.peerInc e.src → (∀ p ∈ s.spaces, ∀ x ∈ p.frames, x.2.lentOut = true → x.2.peer ≠ e.src) →
      exec (.incarnationNotice e) s = .next (((s1.borrowerLost e.src).lenderLost e.src none).kvSync s)))

/-- 11 R263, 02 R40, R42: a KV command whose turn has come at its controller is worked on, and one whose task has earlier
accesses to perform waits in its core; an append that waited goes on where frames suffice now. Which commands meet and so
come one at a time is the model's own (log 47). 02 R49, R50, R55 to R58, 11 R258 to R262: an ATTN gets a stream of its die in issue
order, in proof mode of those whose turn has come (19 R333), and takes the length of its sequence; its stream opens the next block's
frame as a reader, its issuer's dirty bytes written back first and FILL cut at its own length (both the model's own, logs 107 and
106), lands its pages, consumes them, closes the frame, freeing it where it was waiting for its last reader, and at its end D fills
in a new generation and the ticket completes. 20 R346, 23 R363: a frame on a page that is not mapped is the supervisor's to answer
for (that it is so for a traverse unit, the model's own, log 45), and one that another protected context owns fails the ATTN. -/
def Obligations.KvAndAttentionEvents : Prop :=
  ((∀ (s : State) (c : KvCmd), (s.kvcmds.find? fun x => x.n == c.n) = some c →
    (s.kvMay c = true → c.waits = false → exec (.kvOpComplete c.n) s = .next (s.kvWork c)) ∧
    (∀ t, c.sent = false → s.task c.task = some t → t.unperformedBefore c.op = true →
      exec (.kvOpComplete c.n) s = .next s)) ∧
  ∀ (s : State) (c : KvCmd), (s.kvcmds.find? fun x => x.n == c.n) = some c → c.waits = true →
    let t := (s.updKv c.n fun x => { x with waits := false }).kvWork { c with waits := false }
    (∀ x ∈ t.kvcmds, x.n = c.n → x.waits = false) → exec (.appendWaitResume c.n) s = .next t) ∧
  ((∀ (s : State) (x : Stream) (p : Space), s.stream x.id = some x → x.assigned = false →
    ((s.streams.filter fun y => dieOf y.loc == dieOf x.loc).find? fun y => !y.assigned && s.streamTurn y) = some x →
    (s.streams.filter fun y => dieOf y.loc == dieOf x.loc && y.assigned).length < dieStreams (dieOf x.loc) →
    (∀ t, s.task x.task = some t → ∀ o ∈ t.ops, o.id < x.op → o.padPending = false) → s.streamSpace x = some p →
    (p.ctx ≠ x.ctx ∨ (p.seqOf (x.handle % 2 ^ 24)).st ≠ 1 →
      exec (.streamAssign x.id) s = .next (s.notOpen x (some p) ((s.findOp x.op).bind fun y => y.2.etch))) ∧
    (p.ctx = x.ctx → (p.seqOf (x.handle % 2 ^ 24)).st = 1 → x.resume = false → x.tree = false →
      (∀ c, s.ctxOf x.ctx = some c → c.etch = 0) → (∀ t, s.task x.task = some t → t.ctx = x.ctx) →
      (∀ t op, s.findOp x.op = some (t, op) → op.etch = none) → (∀ y ∈ s.streams, y.id = x.id → y = x) →
      let q := p.seqOf (x.handle % 2 ^ 24)
      let r := AttnRec.ofBytes x.args
      ∃ v : State, exec (.streamAssign x.id) s = .next (v.updStream x.id fun x => { x with
          assigned := true, len := q.len, first := r.first, block := r.first
          last := if r.count = 0 then q.nb else min q.nb (r.first + r.count)
          rows := attnInit r.allRows p.dim, stop := 0 }) ∧ v.mem = s.mem)) ∧
  (∀ (s : State) (x : Stream) (p : Space) (e : BlockEnt) (f : Frame), s.stream x.id = some x → x.assigned = true →
    x.stop = 0 → x.frame = none → x.atEnd = false → s.streamSpace x = some p → (p.seqOf (x.handle % 2 ^ 24)).st = 1 →
    (p.seqOf (x.handle % 2 ^ 24)).blocks[x.block]? = some e → e.v = true → p.frame e.frame = some f →
    x.stuck = none →
    (f.hold = true → exec (.frameOpen x.id) s = .next (s.kvSyncBy x.task s)) ∧
    (f.hold = false → f.lost = false → f.tier < 2 →
      let s1 := s.updSpace p.id fun p => p.readEntries (x.handle % 2 ^ 24) x.block (x.block + 1)
      let at_ := p.frameBase f.tier f.slot (AttnRec.ofBytes x.args).layer + BitVec.ofNat 64 (x.span p f.fmt).1
      let n := (x.span p f.fmt).2
      let unit := Via.engine (sliceOf x.loc)
      (s1.kvStop p.ctx at_ n unit = none →
        let r := (s1.flushCtx x.loc x.ctx).kvRead p.ctx at_ n unit
        exec (.frameOpen x.id) s = .next (((r.1.updSpace p.id fun p => p.updFrame e.frame fun f =>
          { f with readers := f.readers + 1 }).updStream x.id fun x => { x with
            frame := some ⟨e.frame, f.tier, f.fmt, f.slot, min e.fill (x.len - x.block * p.tokens), f.peer, r.2⟩
            nextPage := 0 }).kvSyncBy x.task s)) ∧
      (∀ va, s1.kvStop p.ctx at_ n unit = some (false, va) →
        let q := s1.askSupervisor p.ctx (dieOf x.loc) x.task va
        exec (.frameOpen x.id) s = .next ((q.1.updStream x.id fun x => { x with stuck := some (q.2, va) }).kvSyncBy x.task s)) ∧
      ∀ va, s1.kvStop p.ctx at_ n unit = some (true, va) →
        exec (.frameOpen x.id) s = .next ((s1.updStream x.id fun x => { x with
          stop := 5, stopBlock := x.block, fault := some ⟨cProt, 0, va, some (2, x.ticket)⟩ }).kvSyncBy x.task s))) ∧
  (∀ (s : State) (x : Stream) (o : Opened) (p : Space), s.stream x.id = some x → x.frame = some o →
    s.streamSpace x = some p →
    let r := AttnRec.ofBytes x.args
    let n := p.page o.fmt
    (x.stop = 0 → x.asked = false → x.nextPage < 2 * r.hc → x.landed.length < x.slots p → o.tier ≠ 3 →
      exec (.attnPageLand x.id) s = .next (s.landPage x p o ((o.pages.drop (x.nextPage * n)).take n))) ∧
    (x.nextPage = 2 * r.hc → x.stop = 0 → (∀ y ∈ s.streams, y.id = x.id → y = x) →
      let s1 := s.updStream x.id fun x => { x with
        frame := none, nextPage := 0, opened := x.opened ++ [o.ident], block := x.block + 1 }
      let s2 := s1.updSpace p.id fun p => p.updFrame o.ident fun f => { f with readers := f.readers - 1 }
      (∀ y f, s2.space p.id = some y → y.frame o.ident = some f → f.refcnt ≠ 0) →
      exec (.frameClose x.id) s = .next (s2.kvSyncBy x.task s))) ∧
  (∀ (s : State) (x : Stream) (l : Landed) (ls : List Landed) (p : Space), s.stream x.id = some x → x.landed = l :: ls →
    s.streamSpace x = some p → (∀ y ∈ s.streams, y.loc = x.loc → y.prefetch = false → x.id ≤ y.id) →
    ∃ t, exec (.attnSlotConsume x.id) s = .next t ∧ t.mem = s.mem ∧ t.full (x.slotAt p l.slot / 4 * 4) = false ∧
      (l.isV = false → ∀ y, t.stream x.id = some y → y.landed = ls ∧
        let pb := s.pbytes (x.slotAt p l.slot + 32) (p.page l.fmt)
        y.key = (Pb.bytes pb, p.pageBad l.fmt l.fill pb))) ∧
  ∀ (s : State) (x : Stream) (t : Task) (op : Op), s.stream x.id = some x → x.assigned = true → x.frame = none →
    x.landed = [] → (∀ y ∈ s.streams, y.task = x.task → x.id ≤ y.id) → s.findOp x.op = some (t, op) → op.fail = none →
    let gone : State := { s with streams := s.streams.filter fun y => y.id != x.id }
    let f : Fail := ⟨cKvHandle, 0, BitVec.ofNat 64 x.handle, some (2, x.ticket)⟩
    (x.stop = 4 → exec (.attnComplete x.id) s = .next ((((gone.finishOp t.id { op with fail := some f }).advanceGen t.loc).completeTicket
      t.id 2 x.ticket (some f) (some op.id)).kvSyncBy x.task gone)) ∧
    ∀ p, x.stop = 0 → x.atEnd = true → x.prefetch = false → s.streamSpace x = some p →
      let v := (((gone.writeRows x p.dim).cmdWrite x.task x.op (padBase x.loc + x.recVa.toNat + 56) (natLe 4 x.last)).cmdWrite
        x.task x.op (padBase x.loc + x.recVa.toNat + 60) (natLe 1 0)).stampFrames p x.task x.opened
      exec (.attnComplete x.id) s = .next ((((v.finishOp t.id { op with fail := none }).advanceGen t.loc).completeTicket t.id 2
        x.ticket none (some op.id)).kvSyncBy x.task gone))

/-- 15 R289, R290, R294, R295, R299, R300, 16 R308, R313: the first submission that may be taken is taken; the first
ready task that fits is bound; a bound task whose tiles, buffers and words are there starts at its first part in a
new generation of its core; a trigger fires its entry, and the oldest mailbox slot that waits at a watch unit is submitted. 15 R302,
18 R322, 24 R373: a task that has ended and has everything behind it first grants back the transfers that it claimed, then its end
is counted, in proof mode in its turn (19 R333), and it is gone, and its cluster has counted it; the counts go from clusters to
dies and to the module, and the set whose last end is counted completes; the interrupt that a record waits for is
sent once DELAY has passed, while the host link is up. The model's own are the order of the steps of an end (log 78), and that a
ready task that fits nowhere does not hold back a later one (log 75). -/
def Obligations.LaunchAndEndEvents : Prop :=
  ((∀ (s : State) (x : Submission) (c : Ctx), (s.subs.find? fun x => s.subReady x) = some x → s.ctxOf x.ctx = some c →
    exec .launchAccept s = .next (({ s with subs := s.subs.erase x } : State).take c x)) ∧
  (∀ (s : State) (t : Task) (ts : List Task) (slice loc : Nat), s.readyOrder = t :: ts →
    s.bindSlice t = some (slice, loc) → exec (.taskBind slice) s = .next (s.bindTo t loc)) ∧
  (∀ (s : State) (slice : Nat), s.readyOrder = [] → exec (.taskBind slice) s = .next (s.askPreempt slice)) ∧
  (∀ (s : State) (t : Task) (c : Ctx) (x : TaskSet), s.task t.id = some t → s.startable t = true →
    s.ctxOf t.ctx = some c → s.setOf t = some x → c.etch ≠ 2 →
    let t1 : Task := { t.fromCtx c with
      status := .running, claims := s.claimsOf t, etchCursor := 0, etchEnd := 0, startedAt := s.tick, parkedAt := 0 }
    let t2 : Task := { t1 with ctl := { t1.ctl with trigcnt := trigcnt x t.depth } }
    exec (.taskStart t.id) s =
      .next (((s.advanceGen t.loc).etchTrigger x).updTask t.id fun _ => t2.firstPart)) ∧
  (∀ (s : State) (w : Watch) (x : Trigger), s.triggerOf w.id = some (w, x) →
    (w.mode ≠ 2 → exec (.watchTrigger w.id) s =
      .next (({ s with triggers := s.triggers.erase x } : State).trigger w x)) ∧
    (w.mode = 2 → s.firstSubmission w.die = some x → s.journalFull = false →
      ∃ t, exec (.mailboxSubmit w.id (w.offset x.value.toNat / 64)) s = .next t ∧ t.triggers = s.triggers.erase x ∧
        t.subs = s.subs ++ [⟨w.ctx, w.base + BitVec.ofNat 64 (w.offset x.value.toNat / 64 * 64), .mailbox w.id x.value.toNat⟩])) ∧
  ∀ t : Task, (t.loop.prologue ≠ 0 → t.firstPart.pc = t.loop.prologue ∧ t.firstPart.part = .prologue) ∧
    (t.loop.prologue = 0 → t.loop.trip ≠ 0 → t.firstPart.pc = t.loop.kernel ∧ t.firstPart.part = .kernel) ∧
    (t.loop.prologue = 0 → t.loop.trip = 0 → t.loop.epilogue ≠ 0 →
      t.firstPart.pc = t.loop.epilogue ∧ t.firstPart.part = .epilogue) ∧
    (t.loop.prologue = 0 → t.loop.trip = 0 → t.loop.epilogue = 0 → t.firstPart.status = .ending)) ∧
  ((∀ (s : State) (t : Task), s.task t.id = some t → s.quiet t = true → t.counted = true →
    exec (.taskEnd t.id) s = .next (((s.etchLeft t).decision t 0x16 0).release t)) ∧
  (∀ (s : State) (t t1 : Task), s.task t.id = some t → s.quiet t = true → t.counted = false → s.claimLeft t = none →
    s.countTurn t = true →
    let s1 := ((s.lostTickets t).flushCtx t.loc t.ctx).countEnd t
    s1.task t.id = some t1 → (∀ o ∈ t1.ops, o.lasts = false) → s1.ringFull t.ctx = false →
    exec (.taskEnd t.id) s = .next (((s1.etchLeft t1).decision t1 0x16 0).release t1)) ∧
  (∀ (s : State) (t : Task) (ch : Channel) (pong : Bool), s.task t.id = some t → s.quiet t = true → t.counted = false →
    s.claimLeft t = some (ch, pong) → s.nextTurn t (.unit (ch.bufs[bufIx pong]).seq) = true →
    exec (.taskEnd t.id) s = .next ((s.flushCtx t.loc t.ctx).autoGrant t.id t.ctx ch pong)) ∧
  (∀ (s : State) (t : Task), let u := s.release t
    ((s.setOf t).map TaskSet.wkey).getD 0 = 0 → t.id ≠ Task.blank.id → u.task t.id = none) ∧
  (∀ (s : State) (x : TaskSet) (die c : Nat), (s.sets.find? fun y => y.ctx == x.ctx && y.id == x.id) = some x →
    let slice := sliceBase die + c
    let n := Tbl.get 0 x.cl slice
    n ≠ 0 → sliceDie slice = die →
    ∃ t y, exec (.counterTreeFlush x.ctx x.id die (some c)) s = .next t ∧
      (t.sets.find? fun z => z.ctx == x.ctx && z.id == x.id) = some y ∧ Tbl.get 0 y.cl slice = 0 ∧
      Tbl.get 0 y.di die = Tbl.get 0 x.di die + n ∧ y.left = x.left) ∧
  (∀ (s : State) (x : TaskSet) (die : Nat), (s.sets.find? fun y => y.ctx == x.ctx && y.id == x.id) = some x →
    let n := Tbl.get 0 x.di die
    n ≠ 0 → n < x.left →
    ∃ t y, exec (.counterTreeFlush x.ctx x.id die none) s = .next t ∧
      (t.sets.find? fun z => z.ctx == x.ctx && z.id == x.id) = some y ∧ Tbl.get 0 y.di die = 0 ∧ y.left = x.left - n) ∧
  ∀ s : State, s.board.hostUp = true → s.board.ntfSince ≠ 0 → s.jget 0x60 16 16 ≠ 0 →
    exec .ntfDelayExpire s = .next { s with board := { s.board with
      ntfSince := 0, sent := s.board.sent ++ [.msix (s.jget 0x60 32 6)] } })

/-- 15 R298 to R301, 18 R324, 20 R350: a parked victim whose place another task waits for is saved and its place given
to it, a task stopped at its KNEXT is saved and its place goes to the task that asked for it, if that waits still, a bound one that
waits for a belay buffer is put back; a bound task with an image goes on from it: registers, results, timelines, shadow
set, bind table and control registers are as the image has them (the packing of it is the model's own, log 23), its watchdog count 0
and the handler that of its context. 15 R299, R300, 08 R180, 23 R366, 18 R324: the times that pass for a task, and what a debugger
does to one of a context that it may debug, and that it does nothing to any other. -/
def Obligations.SwapAndTimeEvents : Prop :=
  ((∀ (s : State) (t : Task) (c : Ctx) (k : Nat), s.task t.id = some t → s.ctxOf t.ctx = some c →
    s.freeImage c = some k → s.savable t = true →
    (∀ x v, t.status = .parked →
      ((s.victims (s.stuckIn (sliceOf t.loc))).find? fun p => p.2.1 && p.2.2.id == t.id) = some (x, true, v) →
      exec (.swapOut t.id) s = .next ((s.save t c k).giveTo (some x) t.loc)) ∧
    (t.status = .stopped → s.preemptStands t = true → exec (.swapOut t.id) s = .next ((s.save t c k).giveTo
      (s.heirOf t) t.loc)) ∧
    ∀ x ∈ s.stuckIn (sliceOf t.loc), s.freedFor x t = true → t.preemptFor = some x.id →
      (∀ y ∈ s.stuckIn (sliceOf t.loc), y.id = x.id → y = x) → s.heirOf t = some x) ∧
  (∀ (s : State) (t x v : Task), s.task t.id = some t → t.status = .bound → s.waitsBelay t = true →
    ((s.victims (s.stuckIn (sliceOf t.loc))).find? fun p => p.2.1 && p.2.2.id == t.id) = some (x, true, v) →
    exec (.swapOut t.id) s = .next ((s.unbind t).giveTo (some x) t.loc)) ∧
  (∀ (s : State) (t : Task), s.task t.id = some t → t.status = .stopped → s.preemptStands t = false →
    exec (.swapOut t.id) s = .next (s.updTask t.id fun t => { t with status := .running, preempt := false, preemptFor := none })) ∧
  ∀ (s : State) (t : Task) (c : Ctx) (k : Nat), s.task t.id = some t → t.image = some k → s.ctxOf t.ctx = some c →
    t.status = .bound → s.waysFree t = true → s.etchFull c = false →
    let base := c.imgbase + k * c.imgsz
    let n := (imageParts t.window.2).2.2 + 0x8000 * t.savedWays
    let m : Image := ⟨s.unitTouch c.id base n, c.id, base⟩
    ∃ f : Task → Task, exec (.taskRestore t.id) s = .next (((((m.s.windowBack t m).waysBack t m).advanceGen
        t.loc).chargeImage c.id base n).updTask t.id f |>.decision t 0x15 t.loc) ∧
      (f t).status = .running ∧ (f t).image = none ∧ (f t).pc = t.pc ∧ ((f t).held, (f t).pend) = m.results t ∧
      (f t).regs = m.regs t.regs ∧ (f t).tls = m.tls t ∧ (f t).binds = m.binds ∧ (f t).shadow = Vector.ofFn (fun i => m.word (53 + i)) ∧
      (f t).ctl.wdcnt = 0 ∧ (f t).ctl.tvec = c.tvec ∧ (f t).ctl.epc = m.word 28 ∧ (f t).ctl.cause = m.word 27 ∧
      (f t).ctl.eval = m.word 29 ∧ (f t).ctl.sv = (m.word 26).getLsbD 0) ∧
  (∀ (s : State) (t : Task), s.task t.id = some t →
    (t.status = .running → s.yields t = true → s.hasImage t = true →
      exec (.quantumExpire t.id) s = .next (s.updTask t.id fun t => { t with preempt := true })) ∧
    (t.ready = true → (s.ptTimes t.partition).2 ≠ 0 →
      exec (.agePromote t.id) s = .next (s.updTask t.id fun t => { t with aged := true })) ∧
    (t.ready = true → exec (.crossClusterEligible t.id) s = .next (s.updTask t.id fun t => { t with crossOk := true })) ∧
    (t.status = .parked ∨ s.waitsBelay t = true →
      exec (.parked256Cycles t.id) s = .next (s.updTask t.id fun t => { t with parkedLong := true })) ∧
    (t.status = .running ∨ t.status = .parked → s.debugs t.ctx = true →
      exec (.debuggerHalt (.halt t.id)) s = .next (s.updTask t.id fun t => { t with status := .halted })) ∧
    (∀ i : SReg, s.debugs t.ctx = true → exec (.debuggerHalt (.readReg t.id (Dst.num (.s i)))) s =
      .next (s.emit (.debug (natLe 8 (t.regs.s[i].val.setWidth 1024 : BitVec 1024).toNat) (t.regs.s[i].st == .poisoned)))) ∧
    (s.debugs t.ctx = false → exec (.debuggerHalt (.halt t.id)) s = .next s ∧
      ∀ n v, exec (.debuggerHalt (.readReg t.id n)) s = .next s ∧ exec (.debuggerHalt (.writeReg t.id n v)) s = .next s) ∧
    (t.status = .halted → s.debugs t.ctx = true →
      exec (.debuggerResume t.id) s = .next (s.updTask t.id fun t => { t with status := .running })) ∧
    (t.wdExpired = true → exec (.watchdog t.id) s = .next (((s.focus t.id).barks).focus s.cur.id)) ∧
    ∀ u : State, u.cur.ctl.intrap = false → u.myCtx.tvec ≠ 0 → u.cur.status = .running →
      u.barks.cur.pc = u.cur.ctl.tvec ∧ u.barks.cur.ctl.epc = u.cur.pc ∧ u.barks.cur.ctl.eval = u.cur.ctl.wdcnt ∧
        u.barks.cur.ctl.cause = BitVec.ofNat 64 cWatchdog ∧ u.barks.cur.ctl.wdcnt = 0)

/-- 19 R325, 23 R359 to R362, R364 to R367: the commands of the security controller: each, once what it reads has been read at its
home (01 R20), is refused with its status or has its effect, and ends with its RESULT and its number. ARB_RAISE blows one fuse
bit in a step, and two of them raise ARB by one. The model's own are: the RESULT of a refused command is free, and what a debug
token holds is an opaque reading of it (log 27); a key slot cleared keeps its owner and its version (log 66); each attempt of a debug
token, a failed one too, uses the nonce up (log 83); where a tag array lies, and what a segment table entry names for it (logs 86, 113);
and DENIED for a context that is not live, BAD_ARGS for a block that cannot be read (log 28). -/
def Obligations.SecurityCommands : Prop :=
  (∀ (s : State) (e : ScEntry) (b : List Byte),
    let a := scArg b
    let u := s.scTouch e
    (atHead s 1 e b → let w := u.descTouch (a 0)
      ∀ c, w.readDesc (a 0) = some c → w.ctxOf c.id = none → (w.key c.keyslot).assigned = true →
      (w.key c.keyslot).owner = c.id → exec .ctxCreate s =
        .next (((({ w with
          ctxs := w.ctxs ++ [c]
          fabric := { w.fabric with gone := w.fabric.gone.filter fun f => f != c.fctx } } : State).putFlags c).scLog c []).scEnd e
            scOk (BitVec.ofNat 64 c.id))) ∧
    (atHead s 2 e b → a 0 ≠ 0 → (u.ctxOf (a 0)).isSome = true →
      exec .ctxDestroy s = .next ((u.tearDown (a 0)).scEnd e scOk 0)) ∧
    (atHead s 3 e b → 1 ≤ a 0 → a 0 ≤ 254 → a 1 ≤ 255 →
      ((u.key (a 0)).assigned = false → exec .keyNew s =
        .next (((u.putKey (a 0) ⟨true, a 1, (u.key (a 0)).ver + 1, u.free + 2⟩).tookFree).scEnd e scOk
          (((u.key (a 0)).ver + 1).setWidth 64))) ∧
      ((u.key (a 0)).assigned = true →
        exec .keyNew s = .next (u.tookFree.scEnd e scBusy (u.freeVal 64)))) ∧
    (atHead s 4 e b → a 0 ≤ 254 → (∀ c ∈ u.ctxs, c.keyslot ≠ a 0) → u.rotates (a 0) = false →
      ((u.key (a 0)).assigned = true → ∀ c ∈ u.ctxs, c.id = (u.key (a 0)).owner → c.prot = false) → exec .keyClear s =
        .next ((u.putKey (a 0) { u.key (a 0) with assigned := false, key := 0 }).scEnd e scOk 0)) ∧
    (atHead s 5 e b → (u.ctxOf (a 0)).isSome = true → a 1 ≤ 254 → (u.key (a 1)).assigned = true →
      (u.key (a 1)).owner = a 0 → exec .ctxRekey s =
        .next ((u.updCtx (a 0) fun c => { c with keyslot := a 1 }).scEnd e scOk 0))) ∧
  (∀ (s : State) (e : ScEntry) (b : List Byte) (c : Ctx) (h : SegHead) (code : List Byte),
    let a := scArg b
    let id := a 0 / 2 ^ 16
    let w := (s.scTouch e).segTouch b
    atHead s 6 e b → w.ctxOf (a 0 % 2 ^ 16) = some c → a 0 < 2 ^ 48 → a 2 < 4 → w.readHead c.id (a 1) id = some h →
    w.ctxBytes c.id 1026 h.base h.len = some (code, false) → Sha.sha256 code = h.hash → (∀ g ∈ c.segs, g.id ≠ id) →
    c.segs.length < 64 →
    h.signed = false ∨ (Sha.sha256 h.key = w.sec.ownerKeys.toList.getD (a 2) [] ∧ Config.signatureOk h.msg h.key h.sig = true) →
    (h.signed = true ∨ c.prot = false → exec .segLoad s =
      .next ((w.addSeg c h code).scEnd e scOk (BitVec.ofNat 64 ((w.sec.loadNo + 1) % 2 ^ 32)))) ∧
    (h.signed = false → c.prot = true → exec .segLoad s = .next (w.tookFree.scEnd e scDenied (w.freeVal 64)))) ∧
  (∀ (s : State) (e : ScEntry) (b : List Byte) (c : Ctx) (g : Seg), let u := s.scTouch e
    atHead s 7 e b → u.ctxOf (scArg b 0 % 2 ^ 16) = some c →
    (c.segs.find? fun g => g.id == scArg b 0 / 2 ^ 16) = some g →
    (∀ x ∈ u.sets, x.ctx = c.id → x.seg ≠ scArg b 0 / 2 ^ 16) →
    ∃ t : State, exec .segUnload s = .next (t.scEnd e scOk 0) ∧
      (∀ k ∈ t.icache, k.ctx = c.id → k.va < g.base ∨ g.base + g.len ≤ k.va)) ∧
  (∀ (s : State) (e : ScEntry) (b : List Byte) (nonce : Word), let u := s.scTouch e
    (atHead s 8 e b → exec (.dbgNonce nonce) s = .next ((u.updSec fun x => { x with nonce := some nonce }).scEnd e scOk nonce)) ∧
    (atHead s 9 e b →
      let pa := scArg b 0
      let v := u.updSec fun x => { x with nonce := none }
      let t := if v.inTables pa Config.tokenLength = true then v.outsideTouch pa Config.tokenLength else v
      let no (st : Nat) : State := t.tookFree.scEnd e st (t.freeVal 64)
      (v.inTables pa Config.tokenLength = false → t.inTables pa Config.tokenLength = false → exec .dbgUnlock s = .next (no scBadArgs)) ∧
      (t.inTables pa Config.tokenLength = true → (t.outsideBytes pa Config.tokenLength = none → exec .dbgUnlock s = .next (no scBadSig)) ∧
        ∀ tok, t.outsideBytes pa Config.tokenLength = some tok → exec .dbgUnlock s = .next (
          if Config.tokenOk tok = false then no scBadSig
          else if Config.tokenId tok ≠ Config.deviceId ∨ s.sec.nonce ≠ some (Config.tokenNonce tok) then no scDenied
          else (t.updSec fun x => { x with unlocked := true, admits := Config.tokenMask tok }).scEnd e scOk 0))) ∧
    (atHead s 10 e b → exec .dbgLock s = .next ((u.updSec fun x => { x with unlocked := false }).scEnd e scOk 0)) ∧
    (s.sec.queue.head? = some e → s.scBytes e = b → scFormed b = true → field b 0 2 = 11 →
      s.sec.blowing.isSome = true ∨ (s.sec.arb < scArg b 0 ∧ scArg b 0 ≤ s.sec.arb + (s.sec.fuses.filter fun p => !p.1 && !p.2).length) →
      exec .arbRaise s = .next (s.updSec Sec.blow)) ∧
    (atHead s 11 e b → s.raising = none →
      (scArg b 0 = u.sec.arb → exec .arbRaise s = .next (u.scEnd e scOk (BitVec.ofNat 64 (scArg b 0)))) ∧
      (scArg b 0 ≠ u.sec.arb → exec .arbRaise s = .next (u.tookFree.scEnd e scRollback (u.freeVal 64))))) ∧
  (∀ x : Sec, x.blowing = none → (∃ p ∈ x.fuses, p = (false, false)) →
    x.blow.arb = x.arb ∧ x.blow.wasted = x.wasted + 1 ∧ x.blow.blow.arb = x.arb + 1 ∧ x.blow.blow.wasted = x.wasted ∧
      x.blow.blow.blowing = none) ∧
  ∀ (s : State) (e : ScEntry) (b : List Byte) (c : Ctx), let u := s.scTouch e
    let w := ((u.ctxOf (scArg b 0)).map u.etchTouch).getD u
    atHead s 12 e b → w.ctxOf (scArg b 0) = some c →
    ((∀ x ∈ w.sets, x.ctx ≠ scArg b 0) → scArg b 1 ≤ 2 →
      (c.etchcb = 0 ∧ scArg b 1 = 0) ∨ (c.etchcb ≠ 0 ∧ w.etchCbOk (scArg b 0) c.etchcb = true) →
      ∃ t : State, exec .ctxSetetch s = .next (t.scEnd e scOk (BitVec.ofNat 64 c.etch)) ∧
        (t.ctxOf (scArg b 0)).map Ctx.etch = some (scArg b 1)) ∧
    (∀ x ∈ w.sets, x.ctx = scArg b 0 → exec .ctxSetetch s = .next (w.tookFree.scEnd e scBusy (w.freeVal 64)))

/-- 24 R376, 23 R369: the attestation and management requests are answered on the management port. 24 R370, R374, R375,
R377, R379: host accesses, loss of the host link, the resets, bring-up and the thermal limits. The model's own are: memory after a
power cycle reads as memory that nothing has written (logs 88 and 2), a module reset waits for the bring-up that follows it as an event
of its own, and which registers it resets (log 16), and what a host read answers for a bad sector or the configuration space
(log 115). -/
def Obligations.BoardEvents : Prop :=
  ((∀ s : State, exec .getVersion s = .next (s.emit .version) ∧ exec .getCapabilities s = .next (s.emit .capabilities) ∧
    exec .negotiateAlgorithms s = .next (s.emit .algorithms) ∧
    exec .getDigests s = .next (s.emit (.digests [Sha.sha256 Config.certificate])) ∧
    exec .readLog s = .next (s.emit (.errlog (s.board.records.map Prod.snd)
      (s.board.counters ++ s.mcr.filter fun e => isCountReg e.1) s.board.criticals))) ∧
  (∀ (s : State) (off len : Nat) (nonce : List Byte),
    exec (.getCertificate 0 off len) s = .next (s.emit (.certificate ((Config.certificate.drop off).take len))) ∧
    exec (.challenge 0 nonce) s = .next (s.emit (.challenge nonce (Config.sign 0 nonce)))) ∧
  (∀ (s : State) (i : Nat), 1 ≤ i → i ≤ 5 → ∃ sig,
    exec (.getMeasurements i) s = .next (s.emit (.measurements [(i, s.measurement i)] sig))) ∧
  (∀ s : State, ∃ temp req, exec .getHealth s =
    .next (s.tookFree.emit (.health s.board.mainRail s.board.svcStop temp req s.sec.arb s.sec.unlocked))) ∧
  (∀ (s : State) (n : Nat), (s.board.mainRail = false → exec (.readJournal n) s = .next (s.emit .notPowered)) ∧
    (s.board.mainRail = true → ∃ (t : State) (rs : List (List Byte)), exec (.readJournal n) s = .next (t.emit (.journal rs)) ∧
      (s.journalOn = false → rs = []) ∧ ∀ b ∈ rs, b.length = 32 ∧ (field b 21 1 = 1 ∨ field b 21 1 = 2) ∧
        (field b 24 4 + 2 ^ 32 - n) % 2 ^ 32 < 2 ^ 31)) ∧
  (∀ (s : State) (v : Nat) (image : List Byte), ∃ t u, exec (.fwStage v image) s = .next t ∧
    t.board.fwStaged = some (v, image) ∧ t.board.fwArmed = false ∧ exec .fwActivate t = .next u ∧ u.board.fwArmed = true) ∧
  (∀ (s : State) (block : List Byte), block.length = 64 → s.sec.queue.length < 16 → s.board.mainRail = true →
    ∃ t, exec (.scCmd block) s = .next t ∧ t.sec.queue = s.sec.queue ++ [.port block]) ∧
  ∀ (s : State) (w : Nat), 1000 ≤ w → w ≤ 3800 →
    exec (.setPowerLimit w) s = .next ((s.updBoard fun b => { b with powerLimit := w }).emit (.done true))) ∧
  ((∀ (s : State) (pa die off : Nat), s.board.hostUp = true → s.place pa = .control die off → pa % 8 = 0 →
    (∀ bs : List Byte, bs.length = 8 → exec (.hostMemAccess (.mem pa) 8 (some bs)) s =
      .next ((s.regWrite pa (BitVec.ofNat 64 (leNat bs))).emit .hostWritten)) ∧
    exec (.hostMemAccess (.mem pa) 8 none) s = .next (s.emit (.hostRead (natLe 8 (s.regRead pa).toNat) false))) ∧
  (∀ (s : State) (pa len n : Nat), s.board.hostUp = true → s.place pa = .node n → 0 < len → s.inTables pa len = true →
    (∀ bs, bs.length = len → exec (.hostMemAccess (.mem pa) len (some bs)) s =
      .next ((s.outsideWrite pa (bs.map some)).emit .hostWritten)) ∧
    (len ≤ 64 - pa % 64 →
      let u := s.outsideTouch pa len
      let answers (bs : List Byte) (bad : Bool) : Prop :=
        exec (.hostMemAccess (.mem pa) len none) s = .next ({ u with free := u.free + 1 }.emit (.hostRead bs bad))
      (u.refused 0 pa = true → answers (List.replicate len 0xFF) false) ∧
      (u.refused 0 pa = false → u.anyPoison pa len = false → answers (u.bytes pa len) false) ∧
      (u.refused 0 pa = false → u.anyPoison pa len = true → ∃ bs, bs.length = len ∧ answers bs true))) ∧
  (∀ (s : State) (off len : Nat) (bs : List Byte), s.board.hostUp = true → off + bs.length ≤ 1024 →
    (∃ u : State, exec (.hostMemAccess (.msix off) len (some bs)) s = .next (u.emit .hostWritten) ∧ u.mem = s.mem ∧ u.cur = s.cur ∧
      exec (.hostMemAccess (.msix off) bs.length none) u = .next (u.emit (.hostRead bs false))) ∧
    (∃ bs, bs.length = len ∧ exec (.hostMemAccess (.config off) len none) s = .next (s.tookFree.emit (.hostRead bs false)))) ∧
  (∀ s : State, ∃ t, exec .hostLinkLoss s = .next t ∧ t.board.hostUp = false ∧ t.cur = s.cur ∧ t.mem = s.mem) ∧
  (∀ s : State, ∃ t, exec .functionLevelReset s = .next t ∧ t.mcrGet (jreg 0x60) = 0 ∧ t.mcrGet (jreg 0x50) = 0 ∧
    t.ctxs = s.ctxs ∧ t.cur = s.cur ∧ t.mem = s.mem) ∧
  (∀ s : State, s.board.mainRail = true →
    exec .moduleReset s = .next s.moduleReset ∧ exec (.reset false) s = .next (s.moduleReset.emit (.done true)) ∧
    exec (.reset true) s = .next (s.powerOff.emit (.done true)) ∧
    (s.moduleReset.incarnation = (s.incarnation + 1) % 2 ^ 16 ∧ s.moduleReset.others = [] ∧ s.moduleReset.sets = [] ∧
      s.moduleReset.queues = [] ∧ s.moduleReset.spaces = [] ∧ s.moduleReset.watches = [] ∧
      s.moduleReset.ctxs = [] ∧ s.moduleReset.board.bringing = true ∧ s.powerOff.board.mainRail = false ∧ s.powerOff.mem = []) ∧
    ∃ t, exec .criticalTemperature s = .next t ∧ t.board.criticals = s.board.criticals + 1 ∧
      t.incarnation = (s.incarnation + 1) % 2 ^ 16) ∧
  (∀ (s : State) (failed : List Nat), s.board.mainRail = false ∨ s.board.svcStop = true ∨ s.board.bringing = true →
    (∃ t, exec (.bringUp true true failed) s = .next t ∧ t.board.mainRail = true ∧ t.board.svcStop = false ∧
      t.board.bringing = false ∧ t.board.hostUp = true ∧ t.ctxs = [Ctx.supervisor] ∧
      t.cores = repaired (s.board.repair ++ failed).eraseDups ∧ (t.key 0).assigned = true) ∧
    (∀ a b : Bool, (a && b) = false → ∃ t, exec (.bringUp a b failed) s = .next t ∧ t.board.mainRail = true ∧
      t.board.svcStop = true ∧ t.board.hostUp = false ∧ (t.key 0).assigned = true)) ∧
  ∀ (s : State) (die : Fin 6),
    (∃ t, exec (.throttle die.val) s = .next t ∧ t.board.clock[die] = max 16 (s.board.clock[die] - 1) ∧
      ∀ d : Fin 6, d ≠ die → t.board.clock[d] = s.board.clock[d]) ∧
    ∃ t, exec .overTemperature s = .next t ∧ ∀ d : Fin 6, t.board.clock[d] = 16)

/-! ### Decoding, steps, memory, reset (05 to 07, 20, 24) -/

/-- 07 R137 to R145: the decoder reads every well-formed slot back from its encoding, with every operand at every value
that the encoding admits. -/
def Obligations.EncodedSlotsDecode : Prop :=
  ∀ (sl : Slot) (w : Nat), sl.i.wf = true → encode sl = some w → w < 2 ^ 32 ∧ decodeSlot w = .ok sl

/-- 07 R137 to R145: a word that decodes is the encoding of what it decodes to: no bit of it is dropped, and no two
words stand for one slot. What it decodes to is well formed. -/
def Obligations.DecodedWordsAreEncodings : Prop :=
  ∀ (w : Nat) (sl : Slot), w < 2 ^ 32 → decodeSlot w = .ok sl → encode sl = some w ∧ sl.i.wf = true

/-- 07 R137 to R145: words written out from the encodings decode to the instructions that they stand for; a word of an
opcode that is not assigned, and one with a reserved bit set, does not decode. -/
def Obligations.WordsDecode : Prop :=
  decodeSlot 0x20C81157 = .ok ⟨false, .vfma ⟨4, 1, 2, .w1024, .f32, true, true⟩⟩ ∧
  decodeSlot 0xE0C92A01 = .ok ⟨true, .ldd ⟨9, 10, true, 1⟩⟩ ∧
  decodeSlot 0x8CDDFFFA = .ok ⟨true, .br ⟨3, true, false, 0x1FFFA⟩⟩ ∧
  decodeSlot 0x8712105C = .ok ⟨true, .cmp ⟨2, .lt, 4, 5, true, true, false⟩⟩ ∧
  decodeSlot 0xEE042604 = .ok ⟨true, .acq ⟨4, 9, true, .sy⟩⟩ ∧
  decodeSlot 0xEC5A5D9B = .ok ⟨true, .atxchD ⟨26, 23, 25, .rel, .sy⟩⟩ ∧
  decodeSlot 0xF84C0602 = .ok ⟨true, .kvfork ⟨12, 1, true, 2⟩⟩ ∧
  decodeSlot 0x80000001 = .error .field ∧ decodeSlot 0x9FC00000 = .error .reserved

/-- 06 R130, R134, 07 R145, 20 R336, R380: where nothing is on the agenda and the task in the focus runs, a step fetches
the bundle at the pc and runs it: a bundle of one slot is that instruction; a bundle of more runs as one; one that
does not decode raises ILLEGAL with the word of the slot at fault; one that cannot be fetched raises the fetch's
trap; a pc that is no multiple of 4 raises MISALIGN. -/
def Obligations.StepRunsTheDecodedInstruction : Prop :=
  ∀ s : State, s.agenda = [] → s.turn = [] → s.cur.status = .running → s.cur.wdExpired = false →
    (∀ s1 x, s.fetchBlock = .error (s1, x) → s1.scr.waiting = none → step s = .next ((s1.takeTrap x 0).stepEnd s)) ∧
    ∀ s1 b, s.fetchBlock = .ok (s1, b) →
      let p := bundleWords b.bytes 8 (s1.cur.pc.toNat % 1024)
      let s2 : State := { s1 with scr := { Scratch.clean with encs := p.1.map (BitVec.ofNat 64), slots := p.1.length } }
      (s1.cur.pc.toNat % 4 ≠ 0 → step s = .next ((s2.takeTrap (.now cMisalign s1.cur.pc) 0).stepEnd s)) ∧
      (s1.cur.pc.toNat % 4 = 0 →
        (∀ w i, p = ([w], true) → decodeSlot w = .ok ⟨true, i⟩ →
          ∀ t, exec i s2 = .next t → t.scr.waiting = none → step s = .next (t.stepEnd s)) ∧
        (∀ i j is, decodeBundle p.1 p.2 = .ok (i :: j :: is) →
          ∀ t, runBundle (i :: j :: is) s2 = .next t → t.scr.waiting = none → step s = .next (t.stepEnd s)) ∧
        ∀ bad, decodeBundle p.1 p.2 = .error bad →
          let k := s2.illegalSlot p.1 bad
          step s = .next ((s2.takeTrap (.now cIllegal (s2.enc k)) k).stepEnd s))

/-- Log 6: no bundle is under way between two steps, whatever a step does; so the state before each of them is one at
which a bundle is checked as a whole. -/
def Obligations.NoBundleBetweenSteps : Prop :=
  ∀ s t : State, step s = .next t → t.scr = Scratch.clean ∧ t.Fresh

/-- Every instruction and every event has an effect in every state, and every step answers a next state: the machine
never faults and never refuses. -/
def Obligations.EveryStepGoesOn : Prop :=
  (∀ (i : Instr) (s : State), GoesOn (exec i s)) ∧ ∀ (n : Nat) (s : State), SafeFor n s

/-- Log 2: the memory table stays in its one form under everything that writes memory: a byte, several bytes, ways
cleared; a byte reads back as written, and every other byte as it was. -/
def Obligations.MemoryReadsBack : Prop :=
  (∀ (s : State) (pa : Nat) (b : Byte), Memory.wf s.mem = true → Memory.wf (s.putByte pa b).mem = true) ∧
  (∀ (s : State) (pa q : Nat) (b : Byte), (s.putByte pa b).byte q = if q = pa then b else s.byte q) ∧
  (∀ (s : State) (pa : Nat) (bs : List (Option Byte)), Memory.wf s.mem = true → Memory.wf (s.putBytes pa bs).mem = true) ∧
  (∀ (s : State) (pa q : Nat) (bs : List (Option Byte)),
    (s.putBytes pa bs).byte q = if pa ≤ q ∧ q < pa + bs.length then (bs.getD (q - pa) none).getD (s.byte q) else s.byte q) ∧
  (∀ (s : State) (loc a b : Nat), Memory.wf s.mem = true → Memory.wf (s.clearPad loc a b).mem = true) ∧
  ∀ (m n : List Host.Cell), Memory.wf m = true → Memory.wf n = true →
    (∀ q, Tbl.get (0 : Byte) m q = Tbl.get 0 n q) → m = n

/-- 06 R121, R136, 01 R28, 24 R377: the machine after reset, as the rules give it: s0 reads 0, p0 is true, em is all
ones, cm, fmt and lk are 0, no register is EMPTY or FAILED, c.STATUS reads 0 apart from reserved bits, no timeline
has counted, context 0 alone is live, no task set, queue, watch or KV space exists, scrubbing has its interval 24
and threshold 64, and the weight stores are open. That every byte of memory reads 0 is the model's choice (log 2),
and so is that the registers of the focus hold their values at task start although no task runs (log 3). -/
def Obligations.ResetState : Prop :=
  let s := State.reset
  s.readS 0 = 0 ∧ s.readP 0 = true ∧ s.em = BitVec.allOnes 32 ∧ s.cur.regs.cm = 0 ∧ s.cur.regs.fmt = 0 ∧ s.cur.regs.lk = 0 ∧
    (∀ r : SReg, s.cur.cond (.s r) = .ok) ∧ (∀ r : VReg, s.cur.cond (.v r) = .ok) ∧
    s.cur.ctl.sv = false ∧ s.cur.ctl.intrap = false ∧ s.cur.ctl.scopex = false ∧ s.cur.ctl.convx = false ∧
    (∀ i : Fin 6, s.cur.tls[i].count = 0 ∧ s.cur.tls[i].issued = 0) ∧
    s.ctxs.map Ctx.id = [0] ∧ s.sets = [] ∧ s.queues = [] ∧ s.watches = [] ∧ s.spaces = [] ∧ s.hauls = [] ∧
    (∀ pa, s.byte pa = 0) ∧ Memory.wf s.mem = true ∧
    (∀ die : Fin 6, ∀ stack : Fin 5, hasBlock die.val stack.val = true →
      (s.mcrGet (ctlBase die.val + stack.val * 0x10000 + 0x200)).extractLsb' 0 8 = 24#8 ∧
      (s.mcrGet (ctlBase die.val + stack.val * 0x10000 + 0x200)).extractLsb' 8 8 = 64#8) ∧
    (∀ k : Fin 4, (s.mcrGet (wsctl k.val)).getLsbD 0 = true) ∧ s.Fresh
end

