-- ==== Sys2Proof/Laws/Home.lean ====
section
/-! SUPPORT. What the operations over the home slices, the stripes of memory and the queues can do: a rebuilt line is the line, a
held line is held, a sector put is read back, and what these operations leave alone. -/

namespace Sys2Proof.Machine

/-! ### Stripes (01 R9, R20) -/

/-- The XOR of a list without repeats is one of its lines with the XOR of the others. -/
theorem State.xorLines_split (s : State) (x : StripeLine) (k : Nat) : ∀ (js : List Nat), js.Nodup → k ∈ js →
    s.xorLines x js = s.stripeData x k ^^^ s.xorLines x (js.filter fun j => j != k)
  | [], _, h => by simp at h
  | j :: js, hn, h => by
    obtain ⟨hj, hn⟩ := List.nodup_cons.mp hn
    by_cases hk : j = k
    · subst hk
      have hf : js.filter (fun i => i != j) = js := by
        refine List.filter_eq_self.mpr fun i hi => ?_
        have : i ≠ j := fun e => hj (e ▸ hi)
        simpa using this
      simp [State.xorLines, hf]
    · have ih := State.xorLines_split s x k js hn (by simpa [Ne.symm hk] using h)
      simp only [State.xorLines, List.foldr_cons] at ih ⊢
      have hb : (j != k) = true := by simpa using hk
      rw [List.filter_cons, if_pos hb, List.foldr_cons, ih, ← BitVec.xor_assoc, ← BitVec.xor_assoc,
        BitVec.xor_comm (s.stripeData x j)]

/-- Rebuilding a data line from the parity line and the 13 others gives the line (01 R20). -/
theorem State.rebuiltLine_eq (s : State) (x : StripeLine) (h : x.ix < 14) : s.rebuiltLine x = s.stripeData x x.ix := by
  rw [State.rebuiltLine, State.parityLine,
    State.xorLines_split s x x.ix (List.range 14) List.nodup_range (List.mem_range.mpr h), BitVec.xor_assoc, BitVec.xor_self,
    BitVec.xor_zero]

/-! ### Lines and sectors of the slices (04 R79, R82) -/

/-- A line that its home slice is made to hold is held. -/
theorem State.l2At_holdLine (s : State) (pa : Nat) : ((s.holdLine (pa / 256)).l2At pa).isSome = true := by
  have hp : 256 * (pa / 256) / 256 = pa / 256 := Nat.mul_div_cancel_left _ (by decide)
  by_cases h : (s.l2At (256 * (pa / 256))).isSome = true
  · rw [State.holdLine, if_pos h]
    simpa [State.l2At, hp] using h
  · rw [State.holdLine, if_neg h]
    simp [State.l2At]

/-- A sector of a held line reads as it was put. -/
theorem State.l2Sector_putL2 (s : State) (pa : Nat) (x : L2Sector) (h : (s.l2At pa).isSome = true) :
    (s.putL2 pa x).l2Sector pa = x := by
  obtain ⟨l, hl⟩ := Option.isSome_iff_exists.mp h
  have hline : l.line = pa / 256 := by simpa using List.find?_some hl
  have key : ((s.putL2 pa x).l2At pa) = some { l with secs := l.secs.set (pa / 64 % 4) x } := by
    simp only [State.l2At, State.putL2, List.find?_map, Function.comp_def] at hl ⊢
    have hf : (fun k : L2Line => (if k.line = pa / 256 then { k with secs := k.secs.set (pa / 64 % 4) x } else k).line == pa / 256) =
        fun k : L2Line => k.line == pa / 256 := by
      funext k; split <;> rfl
    rw [hf, hl]
    simp [hline]
  simp [State.l2Sector, key, L2Line.sec, Nat.mod_lt]

@[simp] theorem State.putL2_mem (s : State) (pa : Nat) (x : L2Sector) : (s.putL2 pa x).mem = s.mem := rfl
@[simp] theorem State.putL2_l1 (s : State) (pa : Nat) (x : L2Sector) : (s.putL2 pa x).l1 = s.l1 := rfl
@[simp] theorem State.putL2_sectors (s : State) (pa : Nat) (x : L2Sector) : (s.putL2 pa x).sectors = s.sectors := rfl
@[simp] theorem State.note_mem (s : State) (pa : Nat) (o : Option Nat) (t k : Nat) : (s.note pa o t k).mem = s.mem := rfl
@[simp] theorem State.t2Miss_mem (s : State) (pa : Nat) : (s.t2Miss pa).mem = s.mem := rfl
@[simp] theorem State.sectorLost_mem (s : State) (pa type : Nat) : (s.sectorLost pa type).mem = s.mem := rfl
@[simp] theorem State.padPoison_mem (s : State) (pa : Nat) : (s.padPoison pa).mem = s.mem := rfl
@[simp] theorem State.clearPoison_mem (s : State) (pa : Nat) : (s.clearPoison pa).mem = s.mem := rfl
@[simp] theorem State.spoil_mem (s : State) (pa n task op : Nat) : (s.spoil pa n task op).mem = s.mem := rfl

/-- A read of a sector from memory changes no byte (01 R22). -/
theorem State.fetchSector_mem (s : State) (pa : Nat) : (s.fetchSector pa).mem = s.mem := by
  unfold State.fetchSector
  split
  · rfl
  · split
    · rfl
    · dsimp only
      split <;> simp

/-- A sector written back changes no byte: the bytes are those of the line (01 R22, 04 R82). -/
theorem State.writeSector_mem (s : State) (pa o : Nat) (psn bad : Bool) : (s.writeSector pa o psn bad).mem = s.mem := by
  unfold State.writeSector
  split
  · rfl
  · dsimp only
    split <;> rfl

/-! ### Queues (10 R247) -/

/-- A queue that is put is the one that its map entry names. -/
theorem State.queueOf_putQueue (s : State) (q : Queue) (m : QMapEntry) (hd : q.die = m.die) (hc : q.chip = m.chip) :
    (s.putQueue q).queueOf q.ctx m = q := by
  simp [State.queueOf, State.putQueue, hd, hc]

/-- Another queue stays as it was. -/
theorem State.queueOf_putQueue_ne (s : State) (q : Queue) (ctx : Nat) (m : QMapEntry)
    (h : q.ctx ≠ ctx ∨ q.die ≠ m.die ∨ q.chip ≠ m.chip) : (s.putQueue q).queueOf ctx m = s.queueOf ctx m := by
  have hq : (q.ctx == ctx && q.die == m.die && q.chip == m.chip) = false := by
    by_contra hb
    simp only [Bool.not_eq_false, Bool.and_eq_true, beq_iff_eq] at hb
    omega
  have hx : ∀ x : Queue, (!(x.ctx == q.ctx && x.die == q.die && x.chip == q.chip) &&
      (x.ctx == ctx && x.die == m.die && x.chip == m.chip)) = (x.ctx == ctx && x.die == m.die && x.chip == m.chip) := by
    intro x
    by_cases hb : (x.ctx == ctx && x.die == m.die && x.chip == m.chip) = true
    · simp only [hb, Bool.and_true, Bool.not_eq_true']
      simp only [Bool.and_eq_true, beq_iff_eq] at hb
      obtain ⟨⟨rfl, hd⟩, hc⟩ := hb
      by_contra hb
      simp only [Bool.not_eq_false, Bool.and_eq_true, beq_iff_eq] at hb
      omega
    · rw [Bool.not_eq_true] at hb
      rw [hb, Bool.and_false]
  simp only [State.queueOf, State.putQueue, List.find?_cons, hq, List.find?_filter, Bool.decide_and, Bool.decide_eq_true, hx]

end Sys2Proof.Machine
end

