-- ==== Sys2Proof/Laws/Issue.lean ====
section
/-! SUPPORT. What issuing and committing a single instruction does (06 R134): the lemmas from which a claim about an
instruction follows without unfolding `State.slot`. -/

namespace Sys2Proof.Machine

/-- No slot answers where `f` answers for none of them. -/
theorem firstSlot_none {α β : Type} {f : α → Option β} {xs : List α} (h : ∀ x ∈ xs, f x = none) (k : Nat) :
    firstSlot f xs k = none := by
  induction xs generalizing k with
  | nil => rfl
  | cons x xs ih =>
    simp only [firstSlot, h x (by simp)]
    exact ih (fun y hy => h y (List.mem_cons_of_mem _ hy)) _

/-- A condition without a recorded cause has none. -/
theorem Cond.unfailed_ne {c : Cond} (h : c.unfailed = true) (f : Fail) (op : Nat) : c ≠ .failed f op := by
  rintro rfl; exact absurd h (by simp [Cond.unfailed])

/-- A ready use is not ILLEGAL. -/
theorem not_illegal_of_ready {s : State} {u : Use} (h : s.readyFor u = true) : s.cur.illegal u = false := by
  cases u with
  | write d => cases d <;> simp_all [Task.illegal, State.readyFor, Task.inCaps]
  | mark d => cases d <;> simp_all [Task.illegal, State.readyFor, Task.inCaps]
  | _ => simp_all [Task.illegal, State.readyFor, Task.inCaps, State.fmt]

/-- A ready use does not wait. -/
theorem not_waits_of_ready {s : State} {u : Use} (h : s.readyFor u = true) : s.cur.waits u = none := by
  cases u <;> simp_all [Task.waits, State.readyFor]

/-- A ready use raises nothing. -/
theorem not_raises_of_ready {s : State} {u : Use} (h : s.readyFor u = true) : s.cur.raises u = none := by
  cases u with
  | write d =>
    have h2 : (s.cur.cond d).unfailed = true := by simp_all [State.readyFor]
    cases hc : s.cur.cond d <;> simp_all [Task.raises, Cond.unfailed]
  | mark d =>
    have h2 : (s.cur.cond d).unfailed = true := by simp_all [State.readyFor]
    cases hc : s.cur.cond d <;> simp_all [Task.raises, Cond.unfailed]
  | _ => simp_all [Task.raises, Task.sourceTrap, State.readyFor]

/-- A ready FMTSET writes no reserved bit. -/
theorem not_badFmt_of_ready {s : State} {u : Use} (h : s.readyFor u = true) : s.cur.badFmt u = false := by
  cases u <;> simp_all [Task.badFmt, State.readyFor, State.readS]

/-- A list without its repetitions holds nothing twice. -/
theorem hasDup_eraseDups (l : List Dst) : hasDup l.eraseDups = false := by
  induction h : l.length using Nat.strong_induction_on generalizing l with
  | _ n ih =>
    cases l with
    | nil => rfl
    | cons a l =>
      rw [List.eraseDups_cons, hasDup]
      have := ih (l.filter fun b => !b == a).length (by
        have := List.length_filter_le (fun b => !b == a) l
        simp at h; omega) _ rfl
      simp [this, List.mem_eraseDups]

/-- One slot breaks no limit of a bundle but the two that it could break alone (06 R130). -/
theorem breaksLimits_single {us : List Use} (hs : Use.sto ∉ us ∨ Dst.cr 0x011 ∉ writers us) (hl : lanesOf us ≤ 2048) :
    breaksLimits [us] = false := by
  have hd : hasDup (writers us) = false := hasDup_eraseDups _
  have h2 : (us.contains Use.sto && (writers us).contains (Dst.cr 0x011)) = false := by
    rcases hs with h | h <;> simp [h]
  simp only [breaksLimits, List.flatMap_cons, List.flatMap_nil, List.append_nil, hd, List.any_cons, List.any_nil,
    Bool.or_false, h2, List.map_cons, List.map_nil, List.sum_cons, List.sum_nil, Bool.false_or, Bool.or_eq_false_iff]
  refine ⟨by simp; omega, ?_⟩
  simp only [decide_eq_false_iff_not, not_lt]
  exact List.length_filter_le (fun u : List Use => u.contains Use.ctl) [us]

/-- A ready instruction issues. -/
theorem State.Ready.issue {s : State} {us : List Use} (h : s.Ready us) (hl : breaksLimits [us] = false) :
    s.issue [us] = none := by
  have hi : firstSlot (fun u : List Use => if u.any s.cur.illegal then some () else none) [us] 0 = none :=
    firstSlot_none (by simpa using fun u hu => not_illegal_of_ready (h.2 u hu)) 0
  have hw : [us].flatten.filterMap s.cur.waits = [] := by
    simpa [List.filterMap_eq_nil_iff] using fun u hu => not_waits_of_ready (h.2 u hu)
  have hf : firstSlot (fun u : List Use => if u.any s.cur.badFmt then some () else none) [us] 0 = none :=
    firstSlot_none (by simpa using fun u hu => not_badFmt_of_ready (h.2 u hu)) 0
  have hr : firstSlot (fun u : List Use => u.findSome? s.cur.raises) [us] 0 = none :=
    firstSlot_none (by simpa [List.findSome?_eq_none_iff] using fun u hu => not_raises_of_ready (h.2 u hu)) 0
  simp only [State.issue, hi, hl, hw, hf, hr]
  by_cases hc : Use.sync ∈ us
  · have hd : s.deferred = none := by simpa [State.readyFor] using h.2 _ hc
    simp only [Bool.false_eq_true, if_false, hd, Option.map_none]
    split <;> rfl
  · have : firstSlot (fun u : List Use => if u.any (fun x => x == Use.sync) then some () else none) [us] 0 = none := by
      refine firstSlot_none (fun x hx => ?_) 0
      obtain rfl : x = us := by simpa using hx
      simpa using hc
    simp only [Bool.false_eq_true, if_false, this]

/-- A bundle of one slot that goes straight on commits to the machine one bundle on. -/
theorem State.commit_moved {s : State} (h : s.Fresh) : s.commit = s.moved := by
  rw [State.Fresh] at h
  simp only [State.commit, State.moved, State.setCtl, State.setCur]
  rw [h]
  simp [Scratch.clean]

/-- The slot of a ready instruction answers the commit of its effect. -/
theorem slot_ok {s t : State} {us : List Use} {body : State → Except Stop State} (h : s.Ready us)
    (hl : breaksLimits [us] = false) (hb : body s = .ok t) : s.slot us body = .next t.commit := by
  have hp : s.scr.ph = .whole := by rw [h.1]; rfl
  simp [State.slot, hp, h.issue hl, hb]

/-- The slot of a ready instruction whose effect leaves the bundle's scratch alone answers its effect, one bundle on. -/
theorem slot_moved {s t : State} {us : List Use} {body : State → Except Stop State} (h : s.Ready us)
    (hl : breaksLimits [us] = false) (hb : body s = .ok t) (ht : t.scr = s.scr) : s.slot us body = .next t.moved := by
  rw [slot_ok h hl hb, State.commit_moved]
  have := h.1
  rw [State.Fresh] at this ⊢
  rw [ht]; exact this

/-- The slot of a ready instruction that raises a trap of its own takes it. -/
theorem slot_trap {s : State} {us : List Use} {x : Trap} {body : State → Except Stop State} (h : s.Ready us)
    (hl : breaksLimits [us] = false) (hb : body s = .error (.trap x)) : s.slot us body = .next (s.takeTrap x 0) := by
  have hp : s.scr.ph = .whole := by rw [h.1]; rfl
  simp [State.slot, hp, h.issue hl, hb]

/-- What an instruction uses is what its slot says. -/
theorem State.usesOf_slot {s : State} {i : Instr} {us : State → List Use} {body : State → Except Stop State}
    (he : ∀ s, exec i s = s.slot (us s) body) :
    s.usesOf i = us { s with scr := { s.scr with ph := .collect, uses := [] } } := by
  simp [State.usesOf, he, State.slot]

/-- An instruction that issues, and whose own execution succeeds, executes. -/
theorem executes_of_slot {s t : State} {i : Instr} {us : State → List Use} {body : State → Except Stop State}
    (he : ∀ s, exec i s = s.slot (us s) body)
    (hu : us { s with scr := { s.scr with ph := .collect, uses := [] } } = us s) (h : s.Issues i)
    (hl : breaksLimits [us s] = false) (hb : body s = .ok t) : Executes i s t := by
  have hr : s.Ready (us s) := by
    have := h.2
    rwa [State.usesOf_slot he, hu] at this
  exact (he s).trans (slot_ok hr hl hb)

/-- An instruction that issues, and whose own execution traps, raises that trap. -/
theorem raises_of_slot {s : State} {i : Instr} {x : Trap} {us : State → List Use} {body : State → Except Stop State}
    (he : ∀ s, exec i s = s.slot (us s) body)
    (hu : us { s with scr := { s.scr with ph := .collect, uses := [] } } = us s) (h : s.Issues i)
    (hl : breaksLimits [us s] = false) (hb : body s = .error (.trap x)) : Raises i s x := by
  have hr : s.Ready (us s) := by
    have := h.2
    rwa [State.usesOf_slot he, hu] at this
  exact (he s).trans (slot_trap hr hl hb)

end Sys2Proof.Machine
end

