-- ==== Sys2Proof/Laws/Memory.lean ====
section
/-! SUPPORT. The tables and the memory: a value put is read back, every other is left alone, and the one form of a table is
kept by everything that writes it. -/

namespace Sys2Proof.Machine

/-! ### Tables -/

section Tables
variable {α : Type} [DecidableEq α]

omit [DecidableEq α] in
theorem Tbl.get_insert (d : α) (t : Tbl α) (k q : Nat) (v : α) :
    Tbl.get d (Tbl.insert k v t) q = if q = k then v else Tbl.get d t q := by
  induction t with
  | nil =>
    by_cases h : q = k
    · simp [Tbl.insert, Tbl.get, h]
    · simp [Tbl.insert, Tbl.get, h, Ne.symm h]
  | cons e t ih =>
    obtain ⟨k', v'⟩ := e
    simp only [Tbl.insert]
    split_ifs with h1 h2 h3 h4 <;> simp only [Tbl.get, ih] <;> split_ifs <;> first | rfl | omega

omit [DecidableEq α] in
theorem Tbl.get_filter_ne (d : α) (t : Tbl α) (k q : Nat) :
    Tbl.get d (t.filter fun e => e.1 != k) q = if q = k then d else Tbl.get d t q := by
  induction t with
  | nil => simp [Tbl.get]
  | cons e t ih =>
    obtain ⟨k', v'⟩ := e
    by_cases hk : k' = k
    · subst hk
      simp only [List.filter, bne_self_eq_false, ih, Tbl.get]
      split_ifs <;> first | rfl | omega
    · have : (k' != k) = true := by simpa using hk
      simp only [List.filter, this, Tbl.get, ih]
      split_ifs <;> first | rfl | omega

/-- A value put is what is read at its key, and every other key reads as before. -/
theorem Tbl.get_put (d : α) (t : Tbl α) (k q : Nat) (v : α) :
    Tbl.get d (Tbl.put d t k v) q = if q = k then v else Tbl.get d t q := by
  unfold Tbl.put
  by_cases h : v = d
  · rw [if_pos h, Tbl.get_filter_ne, h]
  · rw [if_neg h, Tbl.get_insert]

/-- A value put under one default reads at other keys as before under any default. -/
theorem Tbl.get_put_ne (d d' : α) (t : Tbl α) {k q : Nat} (v : α) (h : q ≠ k) :
    Tbl.get d' (Tbl.put d t k v) q = Tbl.get d' t q := by
  unfold Tbl.put
  split_ifs
  · rw [Tbl.get_filter_ne, if_neg h]
  · rw [Tbl.get_insert, if_neg h]

theorem Tbl.okFrom_filter (d : α) (p : Nat × α → Bool) (lo : Option Nat) (t : Tbl α) (h : Tbl.okFrom d lo t = true) :
    Tbl.okFrom d lo (t.filter p) = true := by
  have weaken : ∀ (t : Tbl α) (lo lo' : Option Nat), (∀ l, lo' = some l → ∃ m, lo = some m ∧ l ≤ m) →
      Tbl.okFrom d lo t = true → Tbl.okFrom d lo' t = true := by
    intro t lo lo' hl h
    cases t with
    | nil => rfl
    | cons e t =>
      obtain ⟨k, v⟩ := e
      simp only [Tbl.okFrom, Bool.and_eq_true, decide_eq_true_eq] at h ⊢
      refine ⟨⟨?_, h.1.2⟩, h.2⟩
      cases lo' with
      | none => rfl
      | some l =>
        obtain ⟨m, rfl, hm⟩ := hl l rfl
        have := h.1.1
        simp only [decide_eq_true_eq] at this ⊢
        omega
  induction t generalizing lo with
  | nil => rfl
  | cons e t ih =>
    obtain ⟨k, v⟩ := e
    simp only [Tbl.okFrom, Bool.and_eq_true, decide_eq_true_eq] at h
    by_cases hp : p (k, v) = true
    · simp only [List.filter, hp, Tbl.okFrom, Bool.and_eq_true, decide_eq_true_eq]
      exact ⟨⟨h.1.1, h.1.2⟩, ih _ h.2⟩
    · simp only [Bool.not_eq_true] at hp
      simp only [List.filter, hp]
      refine ih _ (weaken t (some k) lo ?_ h.2)
      rintro l rfl
      have := h.1.1
      simp only [decide_eq_true_eq] at this
      exact ⟨k, rfl, this.le⟩

/-- Leaving entries out keeps the one form of a table. -/
theorem Tbl.ok_filter (d : α) (p : Nat × α → Bool) (t : Tbl α) (h : Tbl.ok d t = true) : Tbl.ok d (t.filter p) = true :=
  Tbl.okFrom_filter d p none t h

theorem Tbl.okFrom_insert (d : α) (k : Nat) (v : α) (hv : v ≠ d) (lo : Option Nat) (t : Tbl α)
    (hlo : ∀ l, lo = some l → l < k) (h : Tbl.okFrom d lo t = true) : Tbl.okFrom d lo (Tbl.insert k v t) = true := by
  induction t generalizing lo with
  | nil => cases lo <;> simp_all [Tbl.insert, Tbl.okFrom]
  | cons e t ih =>
    obtain ⟨k', v'⟩ := e
    simp only [Tbl.okFrom, Bool.and_eq_true, decide_eq_true_eq] at h
    simp only [Tbl.insert]
    split_ifs with h1 h2
    · cases lo <;> simp_all [Tbl.okFrom]
    · subst h2
      cases lo <;> simp_all [Tbl.okFrom]
    · simp only [Tbl.okFrom, Bool.and_eq_true, decide_eq_true_eq]
      refine ⟨⟨h.1.1, h.1.2⟩, ih _ ?_ h.2⟩
      rintro l ⟨rfl⟩
      omega

/-- A write keeps the one form of a table. -/
theorem Tbl.ok_put (d : α) (t : Tbl α) (k : Nat) (v : α) (h : Tbl.ok d t = true) : Tbl.ok d (Tbl.put d t k v) = true := by
  unfold Tbl.put
  split_ifs with hv
  · exact Tbl.ok_filter d _ t h
  · exact Tbl.okFrom_insert d k v hv none t (by simp) h

end Tables

/-! ### Bytes -/

/-- A byte written reads back, and every other byte reads as before. -/
theorem State.byte_putByte (s : State) (pa q : Nat) (b : Byte) : (s.putByte pa b).byte q = if q = pa then b else s.byte q :=
  Tbl.get_put 0 s.mem pa q b

/-- Writing a byte keeps the form of memory. -/
theorem Memory.wf_putByte (s : State) (pa : Nat) (b : Byte) (h : Memory.wf s.mem = true) :
    Memory.wf (s.putByte pa b).mem = true := Tbl.ok_put 0 s.mem pa b h

/-- Writing bytes keeps the form of memory. -/
theorem Memory.wf_putBytes (s : State) (pa : Nat) (bs : List (Option Byte)) (h : Memory.wf s.mem = true) :
    Memory.wf (s.putBytes pa bs).mem = true := by
  induction bs generalizing s pa with
  | nil => exact h
  | cons b bs ih =>
    cases b with
    | none => exact ih s (pa + 1) h
    | some b => exact ih _ (pa + 1) (Memory.wf_putByte s pa b h)

/-- Bytes written read back where they were given; every other byte reads as before. -/
theorem State.byte_putBytes (s : State) (pa q : Nat) (bs : List (Option Byte)) :
    (s.putBytes pa bs).byte q =
      if pa ≤ q ∧ q < pa + bs.length then (bs.getD (q - pa) none).getD (s.byte q) else s.byte q := by
  induction bs generalizing s pa with
  | nil => simp [State.putBytes]
  | cons b bs ih =>
    have h1 : ∀ t : State, (∀ r, r ≠ pa → t.byte r = s.byte r) → t.byte pa = b.getD (s.byte pa) →
        (t.putBytes (pa + 1) bs).byte q =
          if pa ≤ q ∧ q < pa + (b :: bs).length then ((b :: bs).getD (q - pa) none).getD (s.byte q) else s.byte q := by
      intro t hne heq
      rw [ih, List.length_cons]
      by_cases hq : q = pa
      · subst hq
        rw [if_neg (by omega), if_pos (by omega), heq]
        simp
      · by_cases hin : pa + 1 ≤ q ∧ q < pa + 1 + bs.length
        · rw [if_pos hin, if_pos (by omega), hne q hq]
          have : q - pa = (q - (pa + 1)) + 1 := by omega
          rw [this, List.getD_cons_succ]
        · rw [if_neg hin, if_neg (by omega), hne q hq]
    cases b with
    | none => exact h1 s (fun _ _ => rfl) rfl
    | some b =>
      exact h1 (s.putByte pa b) (fun r hr => by rw [State.byte_putByte, if_neg hr]) (by rw [State.byte_putByte, if_pos rfl]; rfl)

/-- What is left of a table of bytes without a range of keys. -/
theorem Tbl.get_without (lo hi q : Nat) (t : Tbl Byte) :
    Tbl.get (0 : Byte) (t.filter fun c => !(lo ≤ c.1 && c.1 < hi)) q = if lo ≤ q ∧ q < hi then 0 else Tbl.get 0 t q := by
  induction t with
  | nil => simp [Tbl.get]
  | cons e t ih =>
    obtain ⟨k, v⟩ := e
    by_cases hk : lo ≤ k ∧ k < hi
    · have : (!(decide (lo ≤ k) && decide (k < hi))) = false := by simp [hk]
      simp only [List.filter, this, ih, Tbl.get]
      split_ifs with h1 h2 <;> first | rfl | (subst h2; exact absurd hk h1)
    · have : (!(decide (lo ≤ k) && decide (k < hi))) = true := by
        simp only [Bool.not_eq_true', Bool.and_eq_false_iff, decide_eq_false_iff_not]
        exact Decidable.not_and_iff_or_not.1 hk
      simp only [List.filter, this, Tbl.get, ih]
      split_ifs with h1 h2 <;> first | rfl | (subst h1; exact absurd h2 hk)

/-- Bytes cleared by a conversion read as zero; every other byte reads as before (04 R87). -/
theorem State.byte_clearPad (s : State) (loc a b q : Nat) :
    (s.clearPad loc a b).byte q = if padBase loc + a ≤ q ∧ q < padBase loc + b then 0 else s.byte q :=
  Tbl.get_without _ _ q s.mem

/-- Clearing ways keeps the form of memory. -/
theorem Memory.wf_clearPad (s : State) (loc a b : Nat) (h : Memory.wf s.mem = true) :
    Memory.wf (s.clearPad loc a b).mem = true := Tbl.ok_filter 0 _ s.mem h

/-- Memory after reset has its form. -/
theorem Memory.wf_reset : Memory.wf State.reset.mem = true := rfl

/-- What a module reset leaves of memory has its form (24 R375). -/
theorem Memory.wf_nodes (s : State) (p : Host.Cell → Bool) (h : Memory.wf s.mem = true) :
    Memory.wf (s.mem.filter p) = true := Tbl.ok_filter 0 p s.mem h

/-! ### Control registers, cores, full/empty words -/

/-- A memory control register written reads back, and every other one reads as before. -/
theorem State.mcrGet_mcrPut (s : State) (pa q : Nat) (v : Word) :
    (s.mcrPut pa v).mcrGet q = if q = pa then v else s.mcrGet q := by
  by_cases h : q = pa
  · subst h
    simp only [State.mcrGet, State.mcrPut]
    rw [Tbl.get_put, if_pos rfl, if_pos trivial]
  · simp only [State.mcrGet, State.mcrPut]
    rw [Tbl.get_put_ne _ _ _ _ h, if_neg h]

/-- A core changed reads back, and every other one as before. -/
theorem State.core_updCore (s : State) (loc l : Nat) (f : Core → Core) :
    (s.updCore loc f).core l = if l = loc then f (s.core loc) else s.core l :=
  Tbl.get_put Core.init s.cores loc l _

theorem mem_insertNat (k q : Nat) (l : List Nat) : q ∈ insertNat k l ↔ q = k ∨ q ∈ l := by
  induction l with
  | nil => simp [insertNat]
  | cons a t ih =>
    simp only [insertNat]
    split_ifs with h1 h2
    · simp
    · subst h2; simp
    · simp only [List.mem_cons, ih]; tauto

theorem mem_eraseNat (k q : Nat) (l : List Nat) : q ∈ eraseNat k l ↔ q ≠ k ∧ q ∈ l := by
  simp [eraseNat, and_comm]

/-- A word set full or empty reads so, and every other one as before (04 R91). -/
theorem State.full_setFull (s : State) (pa q : Nat) (b : Bool) : (s.setFull pa b).full q = if q = pa then b else s.full q := by
  have he : ∀ l : List Nat, l.contains q = decide (q ∈ l) := fun l => by simp
  cases b <;> simp only [State.setFull, State.full, he, Bool.false_eq_true, if_false, if_true, mem_insertNat, mem_eraseNat] <;>
    by_cases h : q = pa <;> simp [h]

end Sys2Proof.Machine
end

