-- ==== Sys2Proof/Laws/State.lean ====
section
/-! SUPPORT. What each update of the state leaves of each field: the field it changes has the value it gives, every other
field is as before. -/

namespace Sys2Proof.Machine

/-! ### `State.setCur` -/

@[simp] theorem State.setCur_cur (s : State) (f : Task → Task) : (s.setCur f).cur = f s.cur := rfl
@[simp] theorem State.setCur_others (s : State) (f : Task → Task) : (s.setCur f).others = s.others := rfl
@[simp] theorem State.setCur_agenda (s : State) (f : Task → Task) : (s.setCur f).agenda = s.agenda := rfl
@[simp] theorem State.setCur_turn (s : State) (f : Task → Task) : (s.setCur f).turn = s.turn := rfl
@[simp] theorem State.setCur_cores (s : State) (f : Task → Task) : (s.setCur f).cores = s.cores := rfl
@[simp] theorem State.setCur_l1 (s : State) (f : Task → Task) : (s.setCur f).l1 = s.l1 := rfl
@[simp] theorem State.setCur_icache (s : State) (f : Task → Task) : (s.setCur f).icache = s.icache := rfl
@[simp] theorem State.setCur_tlb (s : State) (f : Task → Task) : (s.setCur f).tlb = s.tlb := rfl
@[simp] theorem State.setCur_mem (s : State) (f : Task → Task) : (s.setCur f).mem = s.mem := rfl
@[simp] theorem State.setCur_feEmpty (s : State) (f : Task → Task) : (s.setCur f).feEmpty = s.feEmpty := rfl
@[simp] theorem State.setCur_poison (s : State) (f : Task → Task) : (s.setCur f).poison = s.poison := rfl
@[simp] theorem State.setCur_sectors (s : State) (f : Task → Task) : (s.setCur f).sectors = s.sectors := rfl
@[simp] theorem State.setCur_l2 (s : State) (f : Task → Task) : (s.setCur f).l2 = s.l2 := rfl
@[simp] theorem State.setCur_mcr (s : State) (f : Task → Task) : (s.setCur f).mcr = s.mcr := rfl
@[simp] theorem State.setCur_wsPhase (s : State) (f : Task → Task) : (s.setCur f).wsPhase = s.wsPhase := rfl
@[simp] theorem State.setCur_logSeq (s : State) (f : Task → Task) : (s.setCur f).logSeq = s.logSeq := rfl
@[simp] theorem State.setCur_retiring (s : State) (f : Task → Task) : (s.setCur f).retiring = s.retiring := rfl
@[simp] theorem State.setCur_retired (s : State) (f : Task → Task) : (s.setCur f).retired = s.retired := rfl
@[simp] theorem State.setCur_linkKey (s : State) (f : Task → Task) : (s.setCur f).linkKey = s.linkKey := rfl
@[simp] theorem State.setCur_t2 (s : State) (f : Task → Task) : (s.setCur f).t2 = s.t2 := rfl
@[simp] theorem State.setCur_found (s : State) (f : Task → Task) : (s.setCur f).found = s.found := rfl
@[simp] theorem State.setCur_charged (s : State) (f : Task → Task) : (s.setCur f).charged = s.charged := rfl
@[simp] theorem State.setCur_ctxs (s : State) (f : Task → Task) : (s.setCur f).ctxs = s.ctxs := rfl
@[simp] theorem State.setCur_sec (s : State) (f : Task → Task) : (s.setCur f).sec = s.sec := rfl
@[simp] theorem State.setCur_subs (s : State) (f : Task → Task) : (s.setCur f).subs = s.subs := rfl
@[simp] theorem State.setCur_sets (s : State) (f : Task → Task) : (s.setCur f).sets = s.sets := rfl
@[simp] theorem State.setCur_doneWait (s : State) (f : Task → Task) : (s.setCur f).doneWait = s.doneWait := rfl
@[simp] theorem State.setCur_watches (s : State) (f : Task → Task) : (s.setCur f).watches = s.watches := rfl
@[simp] theorem State.setCur_triggers (s : State) (f : Task → Task) : (s.setCur f).triggers = s.triggers := rfl
@[simp] theorem State.setCur_queues (s : State) (f : Task → Task) : (s.setCur f).queues = s.queues := rfl
@[simp] theorem State.setCur_hauls (s : State) (f : Task → Task) : (s.setCur f).hauls = s.hauls := rfl
@[simp] theorem State.setCur_nextToken (s : State) (f : Task → Task) : (s.setCur f).nextToken = s.nextToken := rfl
@[simp] theorem State.setCur_spaces (s : State) (f : Task → Task) : (s.setCur f).spaces = s.spaces := rfl
@[simp] theorem State.setCur_kvcmds (s : State) (f : Task → Task) : (s.setCur f).kvcmds = s.kvcmds := rfl
@[simp] theorem State.setCur_streams (s : State) (f : Task → Task) : (s.setCur f).streams = s.streams := rfl
@[simp] theorem State.setCur_fabric (s : State) (f : Task → Task) : (s.setCur f).fabric = s.fabric := rfl
@[simp] theorem State.setCur_board (s : State) (f : Task → Task) : (s.setCur f).board = s.board := rfl
@[simp] theorem State.setCur_nextId (s : State) (f : Task → Task) : (s.setCur f).nextId = s.nextId := rfl
@[simp] theorem State.setCur_free (s : State) (f : Task → Task) : (s.setCur f).free = s.free := rfl
@[simp] theorem State.setCur_tick (s : State) (f : Task → Task) : (s.setCur f).tick = s.tick := rfl
@[simp] theorem State.setCur_scr (s : State) (f : Task → Task) : (s.setCur f).scr = s.scr := rfl

/-! ### `State.setRegs` -/

@[simp] theorem State.setRegs_cur (s : State) (f : Regs → Regs) :
    (s.setRegs f).cur = { s.cur with regs := f s.cur.regs } := rfl
@[simp] theorem State.setRegs_others (s : State) (f : Regs → Regs) : (s.setRegs f).others = s.others := rfl
@[simp] theorem State.setRegs_agenda (s : State) (f : Regs → Regs) : (s.setRegs f).agenda = s.agenda := rfl
@[simp] theorem State.setRegs_turn (s : State) (f : Regs → Regs) : (s.setRegs f).turn = s.turn := rfl
@[simp] theorem State.setRegs_cores (s : State) (f : Regs → Regs) : (s.setRegs f).cores = s.cores := rfl
@[simp] theorem State.setRegs_l1 (s : State) (f : Regs → Regs) : (s.setRegs f).l1 = s.l1 := rfl
@[simp] theorem State.setRegs_icache (s : State) (f : Regs → Regs) : (s.setRegs f).icache = s.icache := rfl
@[simp] theorem State.setRegs_tlb (s : State) (f : Regs → Regs) : (s.setRegs f).tlb = s.tlb := rfl
@[simp] theorem State.setRegs_mem (s : State) (f : Regs → Regs) : (s.setRegs f).mem = s.mem := rfl
@[simp] theorem State.setRegs_feEmpty (s : State) (f : Regs → Regs) : (s.setRegs f).feEmpty = s.feEmpty := rfl
@[simp] theorem State.setRegs_poison (s : State) (f : Regs → Regs) : (s.setRegs f).poison = s.poison := rfl
@[simp] theorem State.setRegs_sectors (s : State) (f : Regs → Regs) : (s.setRegs f).sectors = s.sectors := rfl
@[simp] theorem State.setRegs_l2 (s : State) (f : Regs → Regs) : (s.setRegs f).l2 = s.l2 := rfl
@[simp] theorem State.setRegs_mcr (s : State) (f : Regs → Regs) : (s.setRegs f).mcr = s.mcr := rfl
@[simp] theorem State.setRegs_wsPhase (s : State) (f : Regs → Regs) : (s.setRegs f).wsPhase = s.wsPhase := rfl
@[simp] theorem State.setRegs_logSeq (s : State) (f : Regs → Regs) : (s.setRegs f).logSeq = s.logSeq := rfl
@[simp] theorem State.setRegs_retiring (s : State) (f : Regs → Regs) : (s.setRegs f).retiring = s.retiring := rfl
@[simp] theorem State.setRegs_retired (s : State) (f : Regs → Regs) : (s.setRegs f).retired = s.retired := rfl
@[simp] theorem State.setRegs_linkKey (s : State) (f : Regs → Regs) : (s.setRegs f).linkKey = s.linkKey := rfl
@[simp] theorem State.setRegs_t2 (s : State) (f : Regs → Regs) : (s.setRegs f).t2 = s.t2 := rfl
@[simp] theorem State.setRegs_found (s : State) (f : Regs → Regs) : (s.setRegs f).found = s.found := rfl
@[simp] theorem State.setRegs_charged (s : State) (f : Regs → Regs) : (s.setRegs f).charged = s.charged := rfl
@[simp] theorem State.setRegs_ctxs (s : State) (f : Regs → Regs) : (s.setRegs f).ctxs = s.ctxs := rfl
@[simp] theorem State.setRegs_sec (s : State) (f : Regs → Regs) : (s.setRegs f).sec = s.sec := rfl
@[simp] theorem State.setRegs_subs (s : State) (f : Regs → Regs) : (s.setRegs f).subs = s.subs := rfl
@[simp] theorem State.setRegs_sets (s : State) (f : Regs → Regs) : (s.setRegs f).sets = s.sets := rfl
@[simp] theorem State.setRegs_doneWait (s : State) (f : Regs → Regs) : (s.setRegs f).doneWait = s.doneWait := rfl
@[simp] theorem State.setRegs_watches (s : State) (f : Regs → Regs) : (s.setRegs f).watches = s.watches := rfl
@[simp] theorem State.setRegs_triggers (s : State) (f : Regs → Regs) : (s.setRegs f).triggers = s.triggers := rfl
@[simp] theorem State.setRegs_queues (s : State) (f : Regs → Regs) : (s.setRegs f).queues = s.queues := rfl
@[simp] theorem State.setRegs_hauls (s : State) (f : Regs → Regs) : (s.setRegs f).hauls = s.hauls := rfl
@[simp] theorem State.setRegs_nextToken (s : State) (f : Regs → Regs) : (s.setRegs f).nextToken = s.nextToken := rfl
@[simp] theorem State.setRegs_spaces (s : State) (f : Regs → Regs) : (s.setRegs f).spaces = s.spaces := rfl
@[simp] theorem State.setRegs_kvcmds (s : State) (f : Regs → Regs) : (s.setRegs f).kvcmds = s.kvcmds := rfl
@[simp] theorem State.setRegs_streams (s : State) (f : Regs → Regs) : (s.setRegs f).streams = s.streams := rfl
@[simp] theorem State.setRegs_fabric (s : State) (f : Regs → Regs) : (s.setRegs f).fabric = s.fabric := rfl
@[simp] theorem State.setRegs_board (s : State) (f : Regs → Regs) : (s.setRegs f).board = s.board := rfl
@[simp] theorem State.setRegs_nextId (s : State) (f : Regs → Regs) : (s.setRegs f).nextId = s.nextId := rfl
@[simp] theorem State.setRegs_free (s : State) (f : Regs → Regs) : (s.setRegs f).free = s.free := rfl
@[simp] theorem State.setRegs_tick (s : State) (f : Regs → Regs) : (s.setRegs f).tick = s.tick := rfl
@[simp] theorem State.setRegs_scr (s : State) (f : Regs → Regs) : (s.setRegs f).scr = s.scr := rfl

/-! ### `State.setCtl` -/

@[simp] theorem State.setCtl_cur (s : State) (f : Ctl → Ctl) :
    (s.setCtl f).cur = { s.cur with ctl := f s.cur.ctl } := rfl
@[simp] theorem State.setCtl_others (s : State) (f : Ctl → Ctl) : (s.setCtl f).others = s.others := rfl
@[simp] theorem State.setCtl_agenda (s : State) (f : Ctl → Ctl) : (s.setCtl f).agenda = s.agenda := rfl
@[simp] theorem State.setCtl_turn (s : State) (f : Ctl → Ctl) : (s.setCtl f).turn = s.turn := rfl
@[simp] theorem State.setCtl_cores (s : State) (f : Ctl → Ctl) : (s.setCtl f).cores = s.cores := rfl
@[simp] theorem State.setCtl_l1 (s : State) (f : Ctl → Ctl) : (s.setCtl f).l1 = s.l1 := rfl
@[simp] theorem State.setCtl_icache (s : State) (f : Ctl → Ctl) : (s.setCtl f).icache = s.icache := rfl
@[simp] theorem State.setCtl_tlb (s : State) (f : Ctl → Ctl) : (s.setCtl f).tlb = s.tlb := rfl
@[simp] theorem State.setCtl_mem (s : State) (f : Ctl → Ctl) : (s.setCtl f).mem = s.mem := rfl
@[simp] theorem State.setCtl_feEmpty (s : State) (f : Ctl → Ctl) : (s.setCtl f).feEmpty = s.feEmpty := rfl
@[simp] theorem State.setCtl_poison (s : State) (f : Ctl → Ctl) : (s.setCtl f).poison = s.poison := rfl
@[simp] theorem State.setCtl_sectors (s : State) (f : Ctl → Ctl) : (s.setCtl f).sectors = s.sectors := rfl
@[simp] theorem State.setCtl_l2 (s : State) (f : Ctl → Ctl) : (s.setCtl f).l2 = s.l2 := rfl
@[simp] theorem State.setCtl_mcr (s : State) (f : Ctl → Ctl) : (s.setCtl f).mcr = s.mcr := rfl
@[simp] theorem State.setCtl_wsPhase (s : State) (f : Ctl → Ctl) : (s.setCtl f).wsPhase = s.wsPhase := rfl
@[simp] theorem State.setCtl_logSeq (s : State) (f : Ctl → Ctl) : (s.setCtl f).logSeq = s.logSeq := rfl
@[simp] theorem State.setCtl_retiring (s : State) (f : Ctl → Ctl) : (s.setCtl f).retiring = s.retiring := rfl
@[simp] theorem State.setCtl_retired (s : State) (f : Ctl → Ctl) : (s.setCtl f).retired = s.retired := rfl
@[simp] theorem State.setCtl_linkKey (s : State) (f : Ctl → Ctl) : (s.setCtl f).linkKey = s.linkKey := rfl
@[simp] theorem State.setCtl_t2 (s : State) (f : Ctl → Ctl) : (s.setCtl f).t2 = s.t2 := rfl
@[simp] theorem State.setCtl_found (s : State) (f : Ctl → Ctl) : (s.setCtl f).found = s.found := rfl
@[simp] theorem State.setCtl_charged (s : State) (f : Ctl → Ctl) : (s.setCtl f).charged = s.charged := rfl
@[simp] theorem State.setCtl_ctxs (s : State) (f : Ctl → Ctl) : (s.setCtl f).ctxs = s.ctxs := rfl
@[simp] theorem State.setCtl_sec (s : State) (f : Ctl → Ctl) : (s.setCtl f).sec = s.sec := rfl
@[simp] theorem State.setCtl_subs (s : State) (f : Ctl → Ctl) : (s.setCtl f).subs = s.subs := rfl
@[simp] theorem State.setCtl_sets (s : State) (f : Ctl → Ctl) : (s.setCtl f).sets = s.sets := rfl
@[simp] theorem State.setCtl_doneWait (s : State) (f : Ctl → Ctl) : (s.setCtl f).doneWait = s.doneWait := rfl
@[simp] theorem State.setCtl_watches (s : State) (f : Ctl → Ctl) : (s.setCtl f).watches = s.watches := rfl
@[simp] theorem State.setCtl_triggers (s : State) (f : Ctl → Ctl) : (s.setCtl f).triggers = s.triggers := rfl
@[simp] theorem State.setCtl_queues (s : State) (f : Ctl → Ctl) : (s.setCtl f).queues = s.queues := rfl
@[simp] theorem State.setCtl_hauls (s : State) (f : Ctl → Ctl) : (s.setCtl f).hauls = s.hauls := rfl
@[simp] theorem State.setCtl_nextToken (s : State) (f : Ctl → Ctl) : (s.setCtl f).nextToken = s.nextToken := rfl
@[simp] theorem State.setCtl_spaces (s : State) (f : Ctl → Ctl) : (s.setCtl f).spaces = s.spaces := rfl
@[simp] theorem State.setCtl_kvcmds (s : State) (f : Ctl → Ctl) : (s.setCtl f).kvcmds = s.kvcmds := rfl
@[simp] theorem State.setCtl_streams (s : State) (f : Ctl → Ctl) : (s.setCtl f).streams = s.streams := rfl
@[simp] theorem State.setCtl_fabric (s : State) (f : Ctl → Ctl) : (s.setCtl f).fabric = s.fabric := rfl
@[simp] theorem State.setCtl_board (s : State) (f : Ctl → Ctl) : (s.setCtl f).board = s.board := rfl
@[simp] theorem State.setCtl_nextId (s : State) (f : Ctl → Ctl) : (s.setCtl f).nextId = s.nextId := rfl
@[simp] theorem State.setCtl_free (s : State) (f : Ctl → Ctl) : (s.setCtl f).free = s.free := rfl
@[simp] theorem State.setCtl_tick (s : State) (f : Ctl → Ctl) : (s.setCtl f).tick = s.tick := rfl
@[simp] theorem State.setCtl_scr (s : State) (f : Ctl → Ctl) : (s.setCtl f).scr = s.scr := rfl

/-! ### `State.tookFree` -/

@[simp] theorem State.tookFree_cur (s : State) : (s.tookFree).cur = s.cur := rfl
@[simp] theorem State.tookFree_others (s : State) : (s.tookFree).others = s.others := rfl
@[simp] theorem State.tookFree_agenda (s : State) : (s.tookFree).agenda = s.agenda := rfl
@[simp] theorem State.tookFree_turn (s : State) : (s.tookFree).turn = s.turn := rfl
@[simp] theorem State.tookFree_cores (s : State) : (s.tookFree).cores = s.cores := rfl
@[simp] theorem State.tookFree_l1 (s : State) : (s.tookFree).l1 = s.l1 := rfl
@[simp] theorem State.tookFree_icache (s : State) : (s.tookFree).icache = s.icache := rfl
@[simp] theorem State.tookFree_tlb (s : State) : (s.tookFree).tlb = s.tlb := rfl
@[simp] theorem State.tookFree_mem (s : State) : (s.tookFree).mem = s.mem := rfl
@[simp] theorem State.tookFree_feEmpty (s : State) : (s.tookFree).feEmpty = s.feEmpty := rfl
@[simp] theorem State.tookFree_poison (s : State) : (s.tookFree).poison = s.poison := rfl
@[simp] theorem State.tookFree_sectors (s : State) : (s.tookFree).sectors = s.sectors := rfl
@[simp] theorem State.tookFree_l2 (s : State) : (s.tookFree).l2 = s.l2 := rfl
@[simp] theorem State.tookFree_mcr (s : State) : (s.tookFree).mcr = s.mcr := rfl
@[simp] theorem State.tookFree_wsPhase (s : State) : (s.tookFree).wsPhase = s.wsPhase := rfl
@[simp] theorem State.tookFree_logSeq (s : State) : (s.tookFree).logSeq = s.logSeq := rfl
@[simp] theorem State.tookFree_retiring (s : State) : (s.tookFree).retiring = s.retiring := rfl
@[simp] theorem State.tookFree_retired (s : State) : (s.tookFree).retired = s.retired := rfl
@[simp] theorem State.tookFree_linkKey (s : State) : (s.tookFree).linkKey = s.linkKey := rfl
@[simp] theorem State.tookFree_t2 (s : State) : (s.tookFree).t2 = s.t2 := rfl
@[simp] theorem State.tookFree_found (s : State) : (s.tookFree).found = s.found := rfl
@[simp] theorem State.tookFree_charged (s : State) : (s.tookFree).charged = s.charged := rfl
@[simp] theorem State.tookFree_ctxs (s : State) : (s.tookFree).ctxs = s.ctxs := rfl
@[simp] theorem State.tookFree_sec (s : State) : (s.tookFree).sec = s.sec := rfl
@[simp] theorem State.tookFree_subs (s : State) : (s.tookFree).subs = s.subs := rfl
@[simp] theorem State.tookFree_sets (s : State) : (s.tookFree).sets = s.sets := rfl
@[simp] theorem State.tookFree_doneWait (s : State) : (s.tookFree).doneWait = s.doneWait := rfl
@[simp] theorem State.tookFree_watches (s : State) : (s.tookFree).watches = s.watches := rfl
@[simp] theorem State.tookFree_triggers (s : State) : (s.tookFree).triggers = s.triggers := rfl
@[simp] theorem State.tookFree_queues (s : State) : (s.tookFree).queues = s.queues := rfl
@[simp] theorem State.tookFree_hauls (s : State) : (s.tookFree).hauls = s.hauls := rfl
@[simp] theorem State.tookFree_nextToken (s : State) : (s.tookFree).nextToken = s.nextToken := rfl
@[simp] theorem State.tookFree_spaces (s : State) : (s.tookFree).spaces = s.spaces := rfl
@[simp] theorem State.tookFree_kvcmds (s : State) : (s.tookFree).kvcmds = s.kvcmds := rfl
@[simp] theorem State.tookFree_streams (s : State) : (s.tookFree).streams = s.streams := rfl
@[simp] theorem State.tookFree_fabric (s : State) : (s.tookFree).fabric = s.fabric := rfl
@[simp] theorem State.tookFree_board (s : State) : (s.tookFree).board = s.board := rfl
@[simp] theorem State.tookFree_nextId (s : State) : (s.tookFree).nextId = s.nextId := rfl
@[simp] theorem State.tookFree_free (s : State) : (s.tookFree).free = s.free + 1 := rfl
@[simp] theorem State.tookFree_tick (s : State) : (s.tookFree).tick = s.tick := rfl
@[simp] theorem State.tookFree_scr (s : State) : (s.tookFree).scr = s.scr := rfl

/-! ### `State.putByte` -/

@[simp] theorem State.putByte_cur (s : State) (pa : Nat) (b : Byte) : (s.putByte pa b).cur = s.cur := rfl
@[simp] theorem State.putByte_others (s : State) (pa : Nat) (b : Byte) : (s.putByte pa b).others = s.others := rfl
@[simp] theorem State.putByte_agenda (s : State) (pa : Nat) (b : Byte) : (s.putByte pa b).agenda = s.agenda := rfl
@[simp] theorem State.putByte_turn (s : State) (pa : Nat) (b : Byte) : (s.putByte pa b).turn = s.turn := rfl
@[simp] theorem State.putByte_cores (s : State) (pa : Nat) (b : Byte) : (s.putByte pa b).cores = s.cores := rfl
@[simp] theorem State.putByte_l1 (s : State) (pa : Nat) (b : Byte) : (s.putByte pa b).l1 = s.l1 := rfl
@[simp] theorem State.putByte_icache (s : State) (pa : Nat) (b : Byte) : (s.putByte pa b).icache = s.icache := rfl
@[simp] theorem State.putByte_tlb (s : State) (pa : Nat) (b : Byte) : (s.putByte pa b).tlb = s.tlb := rfl
@[simp] theorem State.putByte_mem (s : State) (pa : Nat) (b : Byte) : (s.putByte pa b).mem = Tbl.put 0 s.mem pa b := rfl
@[simp] theorem State.putByte_feEmpty (s : State) (pa : Nat) (b : Byte) : (s.putByte pa b).feEmpty = s.feEmpty := rfl
@[simp] theorem State.putByte_poison (s : State) (pa : Nat) (b : Byte) : (s.putByte pa b).poison = s.poison := rfl
@[simp] theorem State.putByte_sectors (s : State) (pa : Nat) (b : Byte) : (s.putByte pa b).sectors = s.sectors := rfl
@[simp] theorem State.putByte_l2 (s : State) (pa : Nat) (b : Byte) : (s.putByte pa b).l2 = s.l2 := rfl
@[simp] theorem State.putByte_mcr (s : State) (pa : Nat) (b : Byte) : (s.putByte pa b).mcr = s.mcr := rfl
@[simp] theorem State.putByte_wsPhase (s : State) (pa : Nat) (b : Byte) : (s.putByte pa b).wsPhase = s.wsPhase := rfl
@[simp] theorem State.putByte_logSeq (s : State) (pa : Nat) (b : Byte) : (s.putByte pa b).logSeq = s.logSeq := rfl
@[simp] theorem State.putByte_retiring (s : State) (pa : Nat) (b : Byte) : (s.putByte pa b).retiring = s.retiring := rfl
@[simp] theorem State.putByte_retired (s : State) (pa : Nat) (b : Byte) : (s.putByte pa b).retired = s.retired := rfl
@[simp] theorem State.putByte_linkKey (s : State) (pa : Nat) (b : Byte) : (s.putByte pa b).linkKey = s.linkKey := rfl
@[simp] theorem State.putByte_t2 (s : State) (pa : Nat) (b : Byte) : (s.putByte pa b).t2 = s.t2 := rfl
@[simp] theorem State.putByte_found (s : State) (pa : Nat) (b : Byte) : (s.putByte pa b).found = s.found := rfl
@[simp] theorem State.putByte_charged (s : State) (pa : Nat) (b : Byte) : (s.putByte pa b).charged = s.charged := rfl
@[simp] theorem State.putByte_ctxs (s : State) (pa : Nat) (b : Byte) : (s.putByte pa b).ctxs = s.ctxs := rfl
@[simp] theorem State.putByte_sec (s : State) (pa : Nat) (b : Byte) : (s.putByte pa b).sec = s.sec := rfl
@[simp] theorem State.putByte_subs (s : State) (pa : Nat) (b : Byte) : (s.putByte pa b).subs = s.subs := rfl
@[simp] theorem State.putByte_sets (s : State) (pa : Nat) (b : Byte) : (s.putByte pa b).sets = s.sets := rfl
@[simp] theorem State.putByte_doneWait (s : State) (pa : Nat) (b : Byte) : (s.putByte pa b).doneWait = s.doneWait := rfl
@[simp] theorem State.putByte_watches (s : State) (pa : Nat) (b : Byte) : (s.putByte pa b).watches = s.watches := rfl
@[simp] theorem State.putByte_triggers (s : State) (pa : Nat) (b : Byte) : (s.putByte pa b).triggers = s.triggers := rfl
@[simp] theorem State.putByte_queues (s : State) (pa : Nat) (b : Byte) : (s.putByte pa b).queues = s.queues := rfl
@[simp] theorem State.putByte_hauls (s : State) (pa : Nat) (b : Byte) : (s.putByte pa b).hauls = s.hauls := rfl
@[simp] theorem State.putByte_nextToken (s : State) (pa : Nat) (b : Byte) :
    (s.putByte pa b).nextToken = s.nextToken := rfl
@[simp] theorem State.putByte_spaces (s : State) (pa : Nat) (b : Byte) : (s.putByte pa b).spaces = s.spaces := rfl
@[simp] theorem State.putByte_kvcmds (s : State) (pa : Nat) (b : Byte) : (s.putByte pa b).kvcmds = s.kvcmds := rfl
@[simp] theorem State.putByte_streams (s : State) (pa : Nat) (b : Byte) : (s.putByte pa b).streams = s.streams := rfl
@[simp] theorem State.putByte_fabric (s : State) (pa : Nat) (b : Byte) : (s.putByte pa b).fabric = s.fabric := rfl
@[simp] theorem State.putByte_board (s : State) (pa : Nat) (b : Byte) : (s.putByte pa b).board = s.board := rfl
@[simp] theorem State.putByte_nextId (s : State) (pa : Nat) (b : Byte) : (s.putByte pa b).nextId = s.nextId := rfl
@[simp] theorem State.putByte_free (s : State) (pa : Nat) (b : Byte) : (s.putByte pa b).free = s.free := rfl
@[simp] theorem State.putByte_tick (s : State) (pa : Nat) (b : Byte) : (s.putByte pa b).tick = s.tick := rfl
@[simp] theorem State.putByte_scr (s : State) (pa : Nat) (b : Byte) : (s.putByte pa b).scr = s.scr := rfl

/-! ### `State.mcrPut` -/

/-- Only `mcr` changes. -/
theorem State.mcrPut_eq (s : State) (pa : Nat) (v : Word) : ∃ m, s.mcrPut pa v = { s with mcr := m } := ⟨_, rfl⟩
@[simp] theorem State.mcrPut_cur (s : State) (pa : Nat) (v : Word) :
    (s.mcrPut pa v).cur = s.cur := by
  obtain ⟨m, h⟩ := s.mcrPut_eq pa v; rw [h]
@[simp] theorem State.mcrPut_others (s : State) (pa : Nat) (v : Word) :
    (s.mcrPut pa v).others = s.others := by
  obtain ⟨m, h⟩ := s.mcrPut_eq pa v; rw [h]
@[simp] theorem State.mcrPut_agenda (s : State) (pa : Nat) (v : Word) :
    (s.mcrPut pa v).agenda = s.agenda := by
  obtain ⟨m, h⟩ := s.mcrPut_eq pa v; rw [h]
@[simp] theorem State.mcrPut_turn (s : State) (pa : Nat) (v : Word) :
    (s.mcrPut pa v).turn = s.turn := by
  obtain ⟨m, h⟩ := s.mcrPut_eq pa v; rw [h]
@[simp] theorem State.mcrPut_cores (s : State) (pa : Nat) (v : Word) :
    (s.mcrPut pa v).cores = s.cores := by
  obtain ⟨m, h⟩ := s.mcrPut_eq pa v; rw [h]
@[simp] theorem State.mcrPut_l1 (s : State) (pa : Nat) (v : Word) :
    (s.mcrPut pa v).l1 = s.l1 := by
  obtain ⟨m, h⟩ := s.mcrPut_eq pa v; rw [h]
@[simp] theorem State.mcrPut_icache (s : State) (pa : Nat) (v : Word) :
    (s.mcrPut pa v).icache = s.icache := by
  obtain ⟨m, h⟩ := s.mcrPut_eq pa v; rw [h]
@[simp] theorem State.mcrPut_tlb (s : State) (pa : Nat) (v : Word) :
    (s.mcrPut pa v).tlb = s.tlb := by
  obtain ⟨m, h⟩ := s.mcrPut_eq pa v; rw [h]
@[simp] theorem State.mcrPut_mem (s : State) (pa : Nat) (v : Word) :
    (s.mcrPut pa v).mem = s.mem := by
  obtain ⟨m, h⟩ := s.mcrPut_eq pa v; rw [h]
@[simp] theorem State.mcrPut_feEmpty (s : State) (pa : Nat) (v : Word) :
    (s.mcrPut pa v).feEmpty = s.feEmpty := by
  obtain ⟨m, h⟩ := s.mcrPut_eq pa v; rw [h]
@[simp] theorem State.mcrPut_poison (s : State) (pa : Nat) (v : Word) :
    (s.mcrPut pa v).poison = s.poison := by
  obtain ⟨m, h⟩ := s.mcrPut_eq pa v; rw [h]
@[simp] theorem State.mcrPut_sectors (s : State) (pa : Nat) (v : Word) :
    (s.mcrPut pa v).sectors = s.sectors := by
  obtain ⟨m, h⟩ := s.mcrPut_eq pa v; rw [h]
@[simp] theorem State.mcrPut_l2 (s : State) (pa : Nat) (v : Word) :
    (s.mcrPut pa v).l2 = s.l2 := by
  obtain ⟨m, h⟩ := s.mcrPut_eq pa v; rw [h]
@[simp] theorem State.mcrPut_mcr (s : State) (pa : Nat) (v : Word) :
    (s.mcrPut pa v).mcr = Tbl.put (mcrReset pa) s.mcr pa v := by rw [State.mcrPut]
@[simp] theorem State.mcrPut_wsPhase (s : State) (pa : Nat) (v : Word) :
    (s.mcrPut pa v).wsPhase = s.wsPhase := by
  obtain ⟨m, h⟩ := s.mcrPut_eq pa v; rw [h]
@[simp] theorem State.mcrPut_logSeq (s : State) (pa : Nat) (v : Word) :
    (s.mcrPut pa v).logSeq = s.logSeq := by
  obtain ⟨m, h⟩ := s.mcrPut_eq pa v; rw [h]
@[simp] theorem State.mcrPut_retiring (s : State) (pa : Nat) (v : Word) :
    (s.mcrPut pa v).retiring = s.retiring := by
  obtain ⟨m, h⟩ := s.mcrPut_eq pa v; rw [h]
@[simp] theorem State.mcrPut_retired (s : State) (pa : Nat) (v : Word) :
    (s.mcrPut pa v).retired = s.retired := by
  obtain ⟨m, h⟩ := s.mcrPut_eq pa v; rw [h]
@[simp] theorem State.mcrPut_linkKey (s : State) (pa : Nat) (v : Word) :
    (s.mcrPut pa v).linkKey = s.linkKey := by
  obtain ⟨m, h⟩ := s.mcrPut_eq pa v; rw [h]
@[simp] theorem State.mcrPut_t2 (s : State) (pa : Nat) (v : Word) :
    (s.mcrPut pa v).t2 = s.t2 := by
  obtain ⟨m, h⟩ := s.mcrPut_eq pa v; rw [h]
@[simp] theorem State.mcrPut_found (s : State) (pa : Nat) (v : Word) :
    (s.mcrPut pa v).found = s.found := by
  obtain ⟨m, h⟩ := s.mcrPut_eq pa v; rw [h]
@[simp] theorem State.mcrPut_charged (s : State) (pa : Nat) (v : Word) :
    (s.mcrPut pa v).charged = s.charged := by
  obtain ⟨m, h⟩ := s.mcrPut_eq pa v; rw [h]
@[simp] theorem State.mcrPut_ctxs (s : State) (pa : Nat) (v : Word) :
    (s.mcrPut pa v).ctxs = s.ctxs := by
  obtain ⟨m, h⟩ := s.mcrPut_eq pa v; rw [h]
@[simp] theorem State.mcrPut_sec (s : State) (pa : Nat) (v : Word) :
    (s.mcrPut pa v).sec = s.sec := by
  obtain ⟨m, h⟩ := s.mcrPut_eq pa v; rw [h]
@[simp] theorem State.mcrPut_subs (s : State) (pa : Nat) (v : Word) :
    (s.mcrPut pa v).subs = s.subs := by
  obtain ⟨m, h⟩ := s.mcrPut_eq pa v; rw [h]
@[simp] theorem State.mcrPut_sets (s : State) (pa : Nat) (v : Word) :
    (s.mcrPut pa v).sets = s.sets := by
  obtain ⟨m, h⟩ := s.mcrPut_eq pa v; rw [h]
@[simp] theorem State.mcrPut_doneWait (s : State) (pa : Nat) (v : Word) :
    (s.mcrPut pa v).doneWait = s.doneWait := by
  obtain ⟨m, h⟩ := s.mcrPut_eq pa v; rw [h]
@[simp] theorem State.mcrPut_watches (s : State) (pa : Nat) (v : Word) :
    (s.mcrPut pa v).watches = s.watches := by
  obtain ⟨m, h⟩ := s.mcrPut_eq pa v; rw [h]
@[simp] theorem State.mcrPut_triggers (s : State) (pa : Nat) (v : Word) :
    (s.mcrPut pa v).triggers = s.triggers := by
  obtain ⟨m, h⟩ := s.mcrPut_eq pa v; rw [h]
@[simp] theorem State.mcrPut_queues (s : State) (pa : Nat) (v : Word) :
    (s.mcrPut pa v).queues = s.queues := by
  obtain ⟨m, h⟩ := s.mcrPut_eq pa v; rw [h]
@[simp] theorem State.mcrPut_hauls (s : State) (pa : Nat) (v : Word) :
    (s.mcrPut pa v).hauls = s.hauls := by
  obtain ⟨m, h⟩ := s.mcrPut_eq pa v; rw [h]
@[simp] theorem State.mcrPut_nextToken (s : State) (pa : Nat) (v : Word) :
    (s.mcrPut pa v).nextToken = s.nextToken := by
  obtain ⟨m, h⟩ := s.mcrPut_eq pa v; rw [h]
@[simp] theorem State.mcrPut_spaces (s : State) (pa : Nat) (v : Word) :
    (s.mcrPut pa v).spaces = s.spaces := by
  obtain ⟨m, h⟩ := s.mcrPut_eq pa v; rw [h]
@[simp] theorem State.mcrPut_kvcmds (s : State) (pa : Nat) (v : Word) :
    (s.mcrPut pa v).kvcmds = s.kvcmds := by
  obtain ⟨m, h⟩ := s.mcrPut_eq pa v; rw [h]
@[simp] theorem State.mcrPut_streams (s : State) (pa : Nat) (v : Word) :
    (s.mcrPut pa v).streams = s.streams := by
  obtain ⟨m, h⟩ := s.mcrPut_eq pa v; rw [h]
@[simp] theorem State.mcrPut_fabric (s : State) (pa : Nat) (v : Word) :
    (s.mcrPut pa v).fabric = s.fabric := by
  obtain ⟨m, h⟩ := s.mcrPut_eq pa v; rw [h]
@[simp] theorem State.mcrPut_board (s : State) (pa : Nat) (v : Word) :
    (s.mcrPut pa v).board = s.board := by
  obtain ⟨m, h⟩ := s.mcrPut_eq pa v; rw [h]
@[simp] theorem State.mcrPut_nextId (s : State) (pa : Nat) (v : Word) :
    (s.mcrPut pa v).nextId = s.nextId := by
  obtain ⟨m, h⟩ := s.mcrPut_eq pa v; rw [h]
@[simp] theorem State.mcrPut_free (s : State) (pa : Nat) (v : Word) :
    (s.mcrPut pa v).free = s.free := by
  obtain ⟨m, h⟩ := s.mcrPut_eq pa v; rw [h]
@[simp] theorem State.mcrPut_tick (s : State) (pa : Nat) (v : Word) :
    (s.mcrPut pa v).tick = s.tick := by
  obtain ⟨m, h⟩ := s.mcrPut_eq pa v; rw [h]
@[simp] theorem State.mcrPut_scr (s : State) (pa : Nat) (v : Word) :
    (s.mcrPut pa v).scr = s.scr := by
  obtain ⟨m, h⟩ := s.mcrPut_eq pa v; rw [h]

/-! ### `State.putSector` -/

@[simp] theorem State.putSector_cur (s : State) (pa : Nat) (m : Sector) : (s.putSector pa m).cur = s.cur := rfl
@[simp] theorem State.putSector_others (s : State) (pa : Nat) (m : Sector) : (s.putSector pa m).others = s.others := rfl
@[simp] theorem State.putSector_agenda (s : State) (pa : Nat) (m : Sector) : (s.putSector pa m).agenda = s.agenda := rfl
@[simp] theorem State.putSector_turn (s : State) (pa : Nat) (m : Sector) : (s.putSector pa m).turn = s.turn := rfl
@[simp] theorem State.putSector_cores (s : State) (pa : Nat) (m : Sector) : (s.putSector pa m).cores = s.cores := rfl
@[simp] theorem State.putSector_l1 (s : State) (pa : Nat) (m : Sector) : (s.putSector pa m).l1 = s.l1 := rfl
@[simp] theorem State.putSector_icache (s : State) (pa : Nat) (m : Sector) : (s.putSector pa m).icache = s.icache := rfl
@[simp] theorem State.putSector_tlb (s : State) (pa : Nat) (m : Sector) : (s.putSector pa m).tlb = s.tlb := rfl
@[simp] theorem State.putSector_mem (s : State) (pa : Nat) (m : Sector) : (s.putSector pa m).mem = s.mem := rfl
@[simp] theorem State.putSector_feEmpty (s : State) (pa : Nat) (m : Sector) :
    (s.putSector pa m).feEmpty = s.feEmpty := rfl
@[simp] theorem State.putSector_poison (s : State) (pa : Nat) (m : Sector) : (s.putSector pa m).poison = s.poison := rfl
@[simp] theorem State.putSector_sectors (s : State) (pa : Nat) (m : Sector) :
    (s.putSector pa m).sectors = Tbl.put Sector.init s.sectors (pa / 64) m := rfl
@[simp] theorem State.putSector_l2 (s : State) (pa : Nat) (m : Sector) : (s.putSector pa m).l2 = s.l2 := rfl
@[simp] theorem State.putSector_mcr (s : State) (pa : Nat) (m : Sector) : (s.putSector pa m).mcr = s.mcr := rfl
@[simp] theorem State.putSector_wsPhase (s : State) (pa : Nat) (m : Sector) :
    (s.putSector pa m).wsPhase = s.wsPhase := rfl
@[simp] theorem State.putSector_logSeq (s : State) (pa : Nat) (m : Sector) : (s.putSector pa m).logSeq = s.logSeq := rfl
@[simp] theorem State.putSector_retiring (s : State) (pa : Nat) (m : Sector) :
    (s.putSector pa m).retiring = s.retiring := rfl
@[simp] theorem State.putSector_retired (s : State) (pa : Nat) (m : Sector) :
    (s.putSector pa m).retired = s.retired := rfl
@[simp] theorem State.putSector_linkKey (s : State) (pa : Nat) (m : Sector) :
    (s.putSector pa m).linkKey = s.linkKey := rfl
@[simp] theorem State.putSector_t2 (s : State) (pa : Nat) (m : Sector) : (s.putSector pa m).t2 = s.t2 := rfl
@[simp] theorem State.putSector_found (s : State) (pa : Nat) (m : Sector) : (s.putSector pa m).found = s.found := rfl
@[simp] theorem State.putSector_charged (s : State) (pa : Nat) (m : Sector) :
    (s.putSector pa m).charged = s.charged := rfl
@[simp] theorem State.putSector_ctxs (s : State) (pa : Nat) (m : Sector) : (s.putSector pa m).ctxs = s.ctxs := rfl
@[simp] theorem State.putSector_sec (s : State) (pa : Nat) (m : Sector) : (s.putSector pa m).sec = s.sec := rfl
@[simp] theorem State.putSector_subs (s : State) (pa : Nat) (m : Sector) : (s.putSector pa m).subs = s.subs := rfl
@[simp] theorem State.putSector_sets (s : State) (pa : Nat) (m : Sector) : (s.putSector pa m).sets = s.sets := rfl
@[simp] theorem State.putSector_doneWait (s : State) (pa : Nat) (m : Sector) :
    (s.putSector pa m).doneWait = s.doneWait := rfl
@[simp] theorem State.putSector_watches (s : State) (pa : Nat) (m : Sector) :
    (s.putSector pa m).watches = s.watches := rfl
@[simp] theorem State.putSector_triggers (s : State) (pa : Nat) (m : Sector) :
    (s.putSector pa m).triggers = s.triggers := rfl
@[simp] theorem State.putSector_queues (s : State) (pa : Nat) (m : Sector) : (s.putSector pa m).queues = s.queues := rfl
@[simp] theorem State.putSector_hauls (s : State) (pa : Nat) (m : Sector) : (s.putSector pa m).hauls = s.hauls := rfl
@[simp] theorem State.putSector_nextToken (s : State) (pa : Nat) (m : Sector) :
    (s.putSector pa m).nextToken = s.nextToken := rfl
@[simp] theorem State.putSector_spaces (s : State) (pa : Nat) (m : Sector) : (s.putSector pa m).spaces = s.spaces := rfl
@[simp] theorem State.putSector_kvcmds (s : State) (pa : Nat) (m : Sector) : (s.putSector pa m).kvcmds = s.kvcmds := rfl
@[simp] theorem State.putSector_streams (s : State) (pa : Nat) (m : Sector) :
    (s.putSector pa m).streams = s.streams := rfl
@[simp] theorem State.putSector_fabric (s : State) (pa : Nat) (m : Sector) : (s.putSector pa m).fabric = s.fabric := rfl
@[simp] theorem State.putSector_board (s : State) (pa : Nat) (m : Sector) : (s.putSector pa m).board = s.board := rfl
@[simp] theorem State.putSector_nextId (s : State) (pa : Nat) (m : Sector) : (s.putSector pa m).nextId = s.nextId := rfl
@[simp] theorem State.putSector_free (s : State) (pa : Nat) (m : Sector) : (s.putSector pa m).free = s.free := rfl
@[simp] theorem State.putSector_tick (s : State) (pa : Nat) (m : Sector) : (s.putSector pa m).tick = s.tick := rfl
@[simp] theorem State.putSector_scr (s : State) (pa : Nat) (m : Sector) : (s.putSector pa m).scr = s.scr := rfl

/-! ### `State.updCtx` -/

@[simp] theorem State.updCtx_cur (s : State) (id : Nat) (f : Ctx → Ctx) : (s.updCtx id f).cur = s.cur := rfl
@[simp] theorem State.updCtx_others (s : State) (id : Nat) (f : Ctx → Ctx) : (s.updCtx id f).others = s.others := rfl
@[simp] theorem State.updCtx_agenda (s : State) (id : Nat) (f : Ctx → Ctx) : (s.updCtx id f).agenda = s.agenda := rfl
@[simp] theorem State.updCtx_turn (s : State) (id : Nat) (f : Ctx → Ctx) : (s.updCtx id f).turn = s.turn := rfl
@[simp] theorem State.updCtx_cores (s : State) (id : Nat) (f : Ctx → Ctx) : (s.updCtx id f).cores = s.cores := rfl
@[simp] theorem State.updCtx_l1 (s : State) (id : Nat) (f : Ctx → Ctx) : (s.updCtx id f).l1 = s.l1 := rfl
@[simp] theorem State.updCtx_icache (s : State) (id : Nat) (f : Ctx → Ctx) : (s.updCtx id f).icache = s.icache := rfl
@[simp] theorem State.updCtx_tlb (s : State) (id : Nat) (f : Ctx → Ctx) : (s.updCtx id f).tlb = s.tlb := rfl
@[simp] theorem State.updCtx_mem (s : State) (id : Nat) (f : Ctx → Ctx) : (s.updCtx id f).mem = s.mem := rfl
@[simp] theorem State.updCtx_feEmpty (s : State) (id : Nat) (f : Ctx → Ctx) : (s.updCtx id f).feEmpty = s.feEmpty := rfl
@[simp] theorem State.updCtx_poison (s : State) (id : Nat) (f : Ctx → Ctx) : (s.updCtx id f).poison = s.poison := rfl
@[simp] theorem State.updCtx_sectors (s : State) (id : Nat) (f : Ctx → Ctx) : (s.updCtx id f).sectors = s.sectors := rfl
@[simp] theorem State.updCtx_l2 (s : State) (id : Nat) (f : Ctx → Ctx) : (s.updCtx id f).l2 = s.l2 := rfl
@[simp] theorem State.updCtx_mcr (s : State) (id : Nat) (f : Ctx → Ctx) : (s.updCtx id f).mcr = s.mcr := rfl
@[simp] theorem State.updCtx_wsPhase (s : State) (id : Nat) (f : Ctx → Ctx) : (s.updCtx id f).wsPhase = s.wsPhase := rfl
@[simp] theorem State.updCtx_logSeq (s : State) (id : Nat) (f : Ctx → Ctx) : (s.updCtx id f).logSeq = s.logSeq := rfl
@[simp] theorem State.updCtx_retiring (s : State) (id : Nat) (f : Ctx → Ctx) :
    (s.updCtx id f).retiring = s.retiring := rfl
@[simp] theorem State.updCtx_retired (s : State) (id : Nat) (f : Ctx → Ctx) : (s.updCtx id f).retired = s.retired := rfl
@[simp] theorem State.updCtx_linkKey (s : State) (id : Nat) (f : Ctx → Ctx) : (s.updCtx id f).linkKey = s.linkKey := rfl
@[simp] theorem State.updCtx_t2 (s : State) (id : Nat) (f : Ctx → Ctx) : (s.updCtx id f).t2 = s.t2 := rfl
@[simp] theorem State.updCtx_found (s : State) (id : Nat) (f : Ctx → Ctx) : (s.updCtx id f).found = s.found := rfl
@[simp] theorem State.updCtx_charged (s : State) (id : Nat) (f : Ctx → Ctx) : (s.updCtx id f).charged = s.charged := rfl
@[simp] theorem State.updCtx_ctxs (s : State) (id : Nat) (f : Ctx → Ctx) :
    (s.updCtx id f).ctxs = s.ctxs.map fun c => if c.id = id then f c else c := rfl
@[simp] theorem State.updCtx_sec (s : State) (id : Nat) (f : Ctx → Ctx) : (s.updCtx id f).sec = s.sec := rfl
@[simp] theorem State.updCtx_subs (s : State) (id : Nat) (f : Ctx → Ctx) : (s.updCtx id f).subs = s.subs := rfl
@[simp] theorem State.updCtx_sets (s : State) (id : Nat) (f : Ctx → Ctx) : (s.updCtx id f).sets = s.sets := rfl
@[simp] theorem State.updCtx_doneWait (s : State) (id : Nat) (f : Ctx → Ctx) :
    (s.updCtx id f).doneWait = s.doneWait := rfl
@[simp] theorem State.updCtx_watches (s : State) (id : Nat) (f : Ctx → Ctx) : (s.updCtx id f).watches = s.watches := rfl
@[simp] theorem State.updCtx_triggers (s : State) (id : Nat) (f : Ctx → Ctx) :
    (s.updCtx id f).triggers = s.triggers := rfl
@[simp] theorem State.updCtx_queues (s : State) (id : Nat) (f : Ctx → Ctx) : (s.updCtx id f).queues = s.queues := rfl
@[simp] theorem State.updCtx_hauls (s : State) (id : Nat) (f : Ctx → Ctx) : (s.updCtx id f).hauls = s.hauls := rfl
@[simp] theorem State.updCtx_nextToken (s : State) (id : Nat) (f : Ctx → Ctx) :
    (s.updCtx id f).nextToken = s.nextToken := rfl
@[simp] theorem State.updCtx_spaces (s : State) (id : Nat) (f : Ctx → Ctx) : (s.updCtx id f).spaces = s.spaces := rfl
@[simp] theorem State.updCtx_kvcmds (s : State) (id : Nat) (f : Ctx → Ctx) : (s.updCtx id f).kvcmds = s.kvcmds := rfl
@[simp] theorem State.updCtx_streams (s : State) (id : Nat) (f : Ctx → Ctx) : (s.updCtx id f).streams = s.streams := rfl
@[simp] theorem State.updCtx_fabric (s : State) (id : Nat) (f : Ctx → Ctx) : (s.updCtx id f).fabric = s.fabric := rfl
@[simp] theorem State.updCtx_board (s : State) (id : Nat) (f : Ctx → Ctx) : (s.updCtx id f).board = s.board := rfl
@[simp] theorem State.updCtx_nextId (s : State) (id : Nat) (f : Ctx → Ctx) : (s.updCtx id f).nextId = s.nextId := rfl
@[simp] theorem State.updCtx_free (s : State) (id : Nat) (f : Ctx → Ctx) : (s.updCtx id f).free = s.free := rfl
@[simp] theorem State.updCtx_tick (s : State) (id : Nat) (f : Ctx → Ctx) : (s.updCtx id f).tick = s.tick := rfl
@[simp] theorem State.updCtx_scr (s : State) (id : Nat) (f : Ctx → Ctx) : (s.updCtx id f).scr = s.scr := rfl

/-! ### `State.updCore` -/

@[simp] theorem State.updCore_cur (s : State) (loc : Nat) (f : Core → Core) : (s.updCore loc f).cur = s.cur := rfl
@[simp] theorem State.updCore_others (s : State) (loc : Nat) (f : Core → Core) :
    (s.updCore loc f).others = s.others := rfl
@[simp] theorem State.updCore_agenda (s : State) (loc : Nat) (f : Core → Core) :
    (s.updCore loc f).agenda = s.agenda := rfl
@[simp] theorem State.updCore_turn (s : State) (loc : Nat) (f : Core → Core) : (s.updCore loc f).turn = s.turn := rfl
@[simp] theorem State.updCore_cores (s : State) (loc : Nat) (f : Core → Core) :
    (s.updCore loc f).cores = Tbl.put Core.init s.cores loc (f (s.core loc)) := rfl
@[simp] theorem State.updCore_l1 (s : State) (loc : Nat) (f : Core → Core) : (s.updCore loc f).l1 = s.l1 := rfl
@[simp] theorem State.updCore_icache (s : State) (loc : Nat) (f : Core → Core) :
    (s.updCore loc f).icache = s.icache := rfl
@[simp] theorem State.updCore_tlb (s : State) (loc : Nat) (f : Core → Core) : (s.updCore loc f).tlb = s.tlb := rfl
@[simp] theorem State.updCore_mem (s : State) (loc : Nat) (f : Core → Core) : (s.updCore loc f).mem = s.mem := rfl
@[simp] theorem State.updCore_feEmpty (s : State) (loc : Nat) (f : Core → Core) :
    (s.updCore loc f).feEmpty = s.feEmpty := rfl
@[simp] theorem State.updCore_poison (s : State) (loc : Nat) (f : Core → Core) :
    (s.updCore loc f).poison = s.poison := rfl
@[simp] theorem State.updCore_sectors (s : State) (loc : Nat) (f : Core → Core) :
    (s.updCore loc f).sectors = s.sectors := rfl
@[simp] theorem State.updCore_l2 (s : State) (loc : Nat) (f : Core → Core) : (s.updCore loc f).l2 = s.l2 := rfl
@[simp] theorem State.updCore_mcr (s : State) (loc : Nat) (f : Core → Core) : (s.updCore loc f).mcr = s.mcr := rfl
@[simp] theorem State.updCore_wsPhase (s : State) (loc : Nat) (f : Core → Core) :
    (s.updCore loc f).wsPhase = s.wsPhase := rfl
@[simp] theorem State.updCore_logSeq (s : State) (loc : Nat) (f : Core → Core) :
    (s.updCore loc f).logSeq = s.logSeq := rfl
@[simp] theorem State.updCore_retiring (s : State) (loc : Nat) (f : Core → Core) :
    (s.updCore loc f).retiring = s.retiring := rfl
@[simp] theorem State.updCore_retired (s : State) (loc : Nat) (f : Core → Core) :
    (s.updCore loc f).retired = s.retired := rfl
@[simp] theorem State.updCore_linkKey (s : State) (loc : Nat) (f : Core → Core) :
    (s.updCore loc f).linkKey = s.linkKey := rfl
@[simp] theorem State.updCore_t2 (s : State) (loc : Nat) (f : Core → Core) : (s.updCore loc f).t2 = s.t2 := rfl
@[simp] theorem State.updCore_found (s : State) (loc : Nat) (f : Core → Core) : (s.updCore loc f).found = s.found := rfl
@[simp] theorem State.updCore_charged (s : State) (loc : Nat) (f : Core → Core) :
    (s.updCore loc f).charged = s.charged := rfl
@[simp] theorem State.updCore_ctxs (s : State) (loc : Nat) (f : Core → Core) : (s.updCore loc f).ctxs = s.ctxs := rfl
@[simp] theorem State.updCore_sec (s : State) (loc : Nat) (f : Core → Core) : (s.updCore loc f).sec = s.sec := rfl
@[simp] theorem State.updCore_subs (s : State) (loc : Nat) (f : Core → Core) : (s.updCore loc f).subs = s.subs := rfl
@[simp] theorem State.updCore_sets (s : State) (loc : Nat) (f : Core → Core) : (s.updCore loc f).sets = s.sets := rfl
@[simp] theorem State.updCore_doneWait (s : State) (loc : Nat) (f : Core → Core) :
    (s.updCore loc f).doneWait = s.doneWait := rfl
@[simp] theorem State.updCore_watches (s : State) (loc : Nat) (f : Core → Core) :
    (s.updCore loc f).watches = s.watches := rfl
@[simp] theorem State.updCore_triggers (s : State) (loc : Nat) (f : Core → Core) :
    (s.updCore loc f).triggers = s.triggers := rfl
@[simp] theorem State.updCore_queues (s : State) (loc : Nat) (f : Core → Core) :
    (s.updCore loc f).queues = s.queues := rfl
@[simp] theorem State.updCore_hauls (s : State) (loc : Nat) (f : Core → Core) : (s.updCore loc f).hauls = s.hauls := rfl
@[simp] theorem State.updCore_nextToken (s : State) (loc : Nat) (f : Core → Core) :
    (s.updCore loc f).nextToken = s.nextToken := rfl
@[simp] theorem State.updCore_spaces (s : State) (loc : Nat) (f : Core → Core) :
    (s.updCore loc f).spaces = s.spaces := rfl
@[simp] theorem State.updCore_kvcmds (s : State) (loc : Nat) (f : Core → Core) :
    (s.updCore loc f).kvcmds = s.kvcmds := rfl
@[simp] theorem State.updCore_streams (s : State) (loc : Nat) (f : Core → Core) :
    (s.updCore loc f).streams = s.streams := rfl
@[simp] theorem State.updCore_fabric (s : State) (loc : Nat) (f : Core → Core) :
    (s.updCore loc f).fabric = s.fabric := rfl
@[simp] theorem State.updCore_board (s : State) (loc : Nat) (f : Core → Core) : (s.updCore loc f).board = s.board := rfl
@[simp] theorem State.updCore_nextId (s : State) (loc : Nat) (f : Core → Core) :
    (s.updCore loc f).nextId = s.nextId := rfl
@[simp] theorem State.updCore_free (s : State) (loc : Nat) (f : Core → Core) : (s.updCore loc f).free = s.free := rfl
@[simp] theorem State.updCore_tick (s : State) (loc : Nat) (f : Core → Core) : (s.updCore loc f).tick = s.tick := rfl
@[simp] theorem State.updCore_scr (s : State) (loc : Nat) (f : Core → Core) : (s.updCore loc f).scr = s.scr := rfl

/-! ### `State.updTask` -/

@[simp] theorem State.updTask_agenda (s : State) (id : Nat) (f : Task → Task) :
    (s.updTask id f).agenda = s.agenda := rfl
@[simp] theorem State.updTask_turn (s : State) (id : Nat) (f : Task → Task) : (s.updTask id f).turn = s.turn := rfl
@[simp] theorem State.updTask_cores (s : State) (id : Nat) (f : Task → Task) : (s.updTask id f).cores = s.cores := rfl
@[simp] theorem State.updTask_l1 (s : State) (id : Nat) (f : Task → Task) : (s.updTask id f).l1 = s.l1 := rfl
@[simp] theorem State.updTask_icache (s : State) (id : Nat) (f : Task → Task) :
    (s.updTask id f).icache = s.icache := rfl
@[simp] theorem State.updTask_tlb (s : State) (id : Nat) (f : Task → Task) : (s.updTask id f).tlb = s.tlb := rfl
@[simp] theorem State.updTask_mem (s : State) (id : Nat) (f : Task → Task) : (s.updTask id f).mem = s.mem := rfl
@[simp] theorem State.updTask_feEmpty (s : State) (id : Nat) (f : Task → Task) :
    (s.updTask id f).feEmpty = s.feEmpty := rfl
@[simp] theorem State.updTask_poison (s : State) (id : Nat) (f : Task → Task) :
    (s.updTask id f).poison = s.poison := rfl
@[simp] theorem State.updTask_sectors (s : State) (id : Nat) (f : Task → Task) :
    (s.updTask id f).sectors = s.sectors := rfl
@[simp] theorem State.updTask_l2 (s : State) (id : Nat) (f : Task → Task) : (s.updTask id f).l2 = s.l2 := rfl
@[simp] theorem State.updTask_mcr (s : State) (id : Nat) (f : Task → Task) : (s.updTask id f).mcr = s.mcr := rfl
@[simp] theorem State.updTask_wsPhase (s : State) (id : Nat) (f : Task → Task) :
    (s.updTask id f).wsPhase = s.wsPhase := rfl
@[simp] theorem State.updTask_logSeq (s : State) (id : Nat) (f : Task → Task) :
    (s.updTask id f).logSeq = s.logSeq := rfl
@[simp] theorem State.updTask_retiring (s : State) (id : Nat) (f : Task → Task) :
    (s.updTask id f).retiring = s.retiring := rfl
@[simp] theorem State.updTask_retired (s : State) (id : Nat) (f : Task → Task) :
    (s.updTask id f).retired = s.retired := rfl
@[simp] theorem State.updTask_linkKey (s : State) (id : Nat) (f : Task → Task) :
    (s.updTask id f).linkKey = s.linkKey := rfl
@[simp] theorem State.updTask_t2 (s : State) (id : Nat) (f : Task → Task) : (s.updTask id f).t2 = s.t2 := rfl
@[simp] theorem State.updTask_found (s : State) (id : Nat) (f : Task → Task) : (s.updTask id f).found = s.found := rfl
@[simp] theorem State.updTask_charged (s : State) (id : Nat) (f : Task → Task) :
    (s.updTask id f).charged = s.charged := rfl
@[simp] theorem State.updTask_ctxs (s : State) (id : Nat) (f : Task → Task) : (s.updTask id f).ctxs = s.ctxs := rfl
@[simp] theorem State.updTask_sec (s : State) (id : Nat) (f : Task → Task) : (s.updTask id f).sec = s.sec := rfl
@[simp] theorem State.updTask_subs (s : State) (id : Nat) (f : Task → Task) : (s.updTask id f).subs = s.subs := rfl
@[simp] theorem State.updTask_sets (s : State) (id : Nat) (f : Task → Task) : (s.updTask id f).sets = s.sets := rfl
@[simp] theorem State.updTask_doneWait (s : State) (id : Nat) (f : Task → Task) :
    (s.updTask id f).doneWait = s.doneWait := rfl
@[simp] theorem State.updTask_watches (s : State) (id : Nat) (f : Task → Task) :
    (s.updTask id f).watches = s.watches := rfl
@[simp] theorem State.updTask_triggers (s : State) (id : Nat) (f : Task → Task) :
    (s.updTask id f).triggers = s.triggers := rfl
@[simp] theorem State.updTask_queues (s : State) (id : Nat) (f : Task → Task) :
    (s.updTask id f).queues = s.queues := rfl
@[simp] theorem State.updTask_hauls (s : State) (id : Nat) (f : Task → Task) : (s.updTask id f).hauls = s.hauls := rfl
@[simp] theorem State.updTask_nextToken (s : State) (id : Nat) (f : Task → Task) :
    (s.updTask id f).nextToken = s.nextToken := rfl
@[simp] theorem State.updTask_spaces (s : State) (id : Nat) (f : Task → Task) :
    (s.updTask id f).spaces = s.spaces := rfl
@[simp] theorem State.updTask_kvcmds (s : State) (id : Nat) (f : Task → Task) :
    (s.updTask id f).kvcmds = s.kvcmds := rfl
@[simp] theorem State.updTask_streams (s : State) (id : Nat) (f : Task → Task) :
    (s.updTask id f).streams = s.streams := rfl
@[simp] theorem State.updTask_fabric (s : State) (id : Nat) (f : Task → Task) :
    (s.updTask id f).fabric = s.fabric := rfl
@[simp] theorem State.updTask_board (s : State) (id : Nat) (f : Task → Task) : (s.updTask id f).board = s.board := rfl
@[simp] theorem State.updTask_nextId (s : State) (id : Nat) (f : Task → Task) :
    (s.updTask id f).nextId = s.nextId := rfl
@[simp] theorem State.updTask_free (s : State) (id : Nat) (f : Task → Task) : (s.updTask id f).free = s.free := rfl
@[simp] theorem State.updTask_tick (s : State) (id : Nat) (f : Task → Task) : (s.updTask id f).tick = s.tick := rfl
@[simp] theorem State.updTask_scr (s : State) (id : Nat) (f : Task → Task) : (s.updTask id f).scr = s.scr := rfl

/-! ### `State.updFabric` -/

@[simp] theorem State.updFabric_cur (s : State) (f : Fabric → Fabric) : (s.updFabric f).cur = s.cur := rfl
@[simp] theorem State.updFabric_others (s : State) (f : Fabric → Fabric) : (s.updFabric f).others = s.others := rfl
@[simp] theorem State.updFabric_agenda (s : State) (f : Fabric → Fabric) : (s.updFabric f).agenda = s.agenda := rfl
@[simp] theorem State.updFabric_turn (s : State) (f : Fabric → Fabric) : (s.updFabric f).turn = s.turn := rfl
@[simp] theorem State.updFabric_cores (s : State) (f : Fabric → Fabric) : (s.updFabric f).cores = s.cores := rfl
@[simp] theorem State.updFabric_l1 (s : State) (f : Fabric → Fabric) : (s.updFabric f).l1 = s.l1 := rfl
@[simp] theorem State.updFabric_icache (s : State) (f : Fabric → Fabric) : (s.updFabric f).icache = s.icache := rfl
@[simp] theorem State.updFabric_tlb (s : State) (f : Fabric → Fabric) : (s.updFabric f).tlb = s.tlb := rfl
@[simp] theorem State.updFabric_mem (s : State) (f : Fabric → Fabric) : (s.updFabric f).mem = s.mem := rfl
@[simp] theorem State.updFabric_feEmpty (s : State) (f : Fabric → Fabric) : (s.updFabric f).feEmpty = s.feEmpty := rfl
@[simp] theorem State.updFabric_poison (s : State) (f : Fabric → Fabric) : (s.updFabric f).poison = s.poison := rfl
@[simp] theorem State.updFabric_sectors (s : State) (f : Fabric → Fabric) : (s.updFabric f).sectors = s.sectors := rfl
@[simp] theorem State.updFabric_l2 (s : State) (f : Fabric → Fabric) : (s.updFabric f).l2 = s.l2 := rfl
@[simp] theorem State.updFabric_mcr (s : State) (f : Fabric → Fabric) : (s.updFabric f).mcr = s.mcr := rfl
@[simp] theorem State.updFabric_wsPhase (s : State) (f : Fabric → Fabric) : (s.updFabric f).wsPhase = s.wsPhase := rfl
@[simp] theorem State.updFabric_logSeq (s : State) (f : Fabric → Fabric) : (s.updFabric f).logSeq = s.logSeq := rfl
@[simp] theorem State.updFabric_retiring (s : State) (f : Fabric → Fabric) :
    (s.updFabric f).retiring = s.retiring := rfl
@[simp] theorem State.updFabric_retired (s : State) (f : Fabric → Fabric) : (s.updFabric f).retired = s.retired := rfl
@[simp] theorem State.updFabric_linkKey (s : State) (f : Fabric → Fabric) : (s.updFabric f).linkKey = s.linkKey := rfl
@[simp] theorem State.updFabric_t2 (s : State) (f : Fabric → Fabric) : (s.updFabric f).t2 = s.t2 := rfl
@[simp] theorem State.updFabric_found (s : State) (f : Fabric → Fabric) : (s.updFabric f).found = s.found := rfl
@[simp] theorem State.updFabric_charged (s : State) (f : Fabric → Fabric) : (s.updFabric f).charged = s.charged := rfl
@[simp] theorem State.updFabric_ctxs (s : State) (f : Fabric → Fabric) : (s.updFabric f).ctxs = s.ctxs := rfl
@[simp] theorem State.updFabric_sec (s : State) (f : Fabric → Fabric) : (s.updFabric f).sec = s.sec := rfl
@[simp] theorem State.updFabric_subs (s : State) (f : Fabric → Fabric) : (s.updFabric f).subs = s.subs := rfl
@[simp] theorem State.updFabric_sets (s : State) (f : Fabric → Fabric) : (s.updFabric f).sets = s.sets := rfl
@[simp] theorem State.updFabric_doneWait (s : State) (f : Fabric → Fabric) :
    (s.updFabric f).doneWait = s.doneWait := rfl
@[simp] theorem State.updFabric_watches (s : State) (f : Fabric → Fabric) : (s.updFabric f).watches = s.watches := rfl
@[simp] theorem State.updFabric_triggers (s : State) (f : Fabric → Fabric) :
    (s.updFabric f).triggers = s.triggers := rfl
@[simp] theorem State.updFabric_queues (s : State) (f : Fabric → Fabric) : (s.updFabric f).queues = s.queues := rfl
@[simp] theorem State.updFabric_hauls (s : State) (f : Fabric → Fabric) : (s.updFabric f).hauls = s.hauls := rfl
@[simp] theorem State.updFabric_nextToken (s : State) (f : Fabric → Fabric) :
    (s.updFabric f).nextToken = s.nextToken := rfl
@[simp] theorem State.updFabric_spaces (s : State) (f : Fabric → Fabric) : (s.updFabric f).spaces = s.spaces := rfl
@[simp] theorem State.updFabric_kvcmds (s : State) (f : Fabric → Fabric) : (s.updFabric f).kvcmds = s.kvcmds := rfl
@[simp] theorem State.updFabric_streams (s : State) (f : Fabric → Fabric) : (s.updFabric f).streams = s.streams := rfl
@[simp] theorem State.updFabric_fabric (s : State) (f : Fabric → Fabric) : (s.updFabric f).fabric = f s.fabric := rfl
@[simp] theorem State.updFabric_board (s : State) (f : Fabric → Fabric) : (s.updFabric f).board = s.board := rfl
@[simp] theorem State.updFabric_nextId (s : State) (f : Fabric → Fabric) : (s.updFabric f).nextId = s.nextId := rfl
@[simp] theorem State.updFabric_free (s : State) (f : Fabric → Fabric) : (s.updFabric f).free = s.free := rfl
@[simp] theorem State.updFabric_tick (s : State) (f : Fabric → Fabric) : (s.updFabric f).tick = s.tick := rfl
@[simp] theorem State.updFabric_scr (s : State) (f : Fabric → Fabric) : (s.updFabric f).scr = s.scr := rfl

/-! ### `State.updBoard` -/

@[simp] theorem State.updBoard_cur (s : State) (f : Board → Board) : (s.updBoard f).cur = s.cur := rfl
@[simp] theorem State.updBoard_others (s : State) (f : Board → Board) : (s.updBoard f).others = s.others := rfl
@[simp] theorem State.updBoard_agenda (s : State) (f : Board → Board) : (s.updBoard f).agenda = s.agenda := rfl
@[simp] theorem State.updBoard_turn (s : State) (f : Board → Board) : (s.updBoard f).turn = s.turn := rfl
@[simp] theorem State.updBoard_cores (s : State) (f : Board → Board) : (s.updBoard f).cores = s.cores := rfl
@[simp] theorem State.updBoard_l1 (s : State) (f : Board → Board) : (s.updBoard f).l1 = s.l1 := rfl
@[simp] theorem State.updBoard_icache (s : State) (f : Board → Board) : (s.updBoard f).icache = s.icache := rfl
@[simp] theorem State.updBoard_tlb (s : State) (f : Board → Board) : (s.updBoard f).tlb = s.tlb := rfl
@[simp] theorem State.updBoard_mem (s : State) (f : Board → Board) : (s.updBoard f).mem = s.mem := rfl
@[simp] theorem State.updBoard_feEmpty (s : State) (f : Board → Board) : (s.updBoard f).feEmpty = s.feEmpty := rfl
@[simp] theorem State.updBoard_poison (s : State) (f : Board → Board) : (s.updBoard f).poison = s.poison := rfl
@[simp] theorem State.updBoard_sectors (s : State) (f : Board → Board) : (s.updBoard f).sectors = s.sectors := rfl
@[simp] theorem State.updBoard_l2 (s : State) (f : Board → Board) : (s.updBoard f).l2 = s.l2 := rfl
@[simp] theorem State.updBoard_mcr (s : State) (f : Board → Board) : (s.updBoard f).mcr = s.mcr := rfl
@[simp] theorem State.updBoard_wsPhase (s : State) (f : Board → Board) : (s.updBoard f).wsPhase = s.wsPhase := rfl
@[simp] theorem State.updBoard_logSeq (s : State) (f : Board → Board) : (s.updBoard f).logSeq = s.logSeq := rfl
@[simp] theorem State.updBoard_retiring (s : State) (f : Board → Board) : (s.updBoard f).retiring = s.retiring := rfl
@[simp] theorem State.updBoard_retired (s : State) (f : Board → Board) : (s.updBoard f).retired = s.retired := rfl
@[simp] theorem State.updBoard_linkKey (s : State) (f : Board → Board) : (s.updBoard f).linkKey = s.linkKey := rfl
@[simp] theorem State.updBoard_t2 (s : State) (f : Board → Board) : (s.updBoard f).t2 = s.t2 := rfl
@[simp] theorem State.updBoard_found (s : State) (f : Board → Board) : (s.updBoard f).found = s.found := rfl
@[simp] theorem State.updBoard_charged (s : State) (f : Board → Board) : (s.updBoard f).charged = s.charged := rfl
@[simp] theorem State.updBoard_ctxs (s : State) (f : Board → Board) : (s.updBoard f).ctxs = s.ctxs := rfl
@[simp] theorem State.updBoard_sec (s : State) (f : Board → Board) : (s.updBoard f).sec = s.sec := rfl
@[simp] theorem State.updBoard_subs (s : State) (f : Board → Board) : (s.updBoard f).subs = s.subs := rfl
@[simp] theorem State.updBoard_sets (s : State) (f : Board → Board) : (s.updBoard f).sets = s.sets := rfl
@[simp] theorem State.updBoard_doneWait (s : State) (f : Board → Board) : (s.updBoard f).doneWait = s.doneWait := rfl
@[simp] theorem State.updBoard_watches (s : State) (f : Board → Board) : (s.updBoard f).watches = s.watches := rfl
@[simp] theorem State.updBoard_triggers (s : State) (f : Board → Board) : (s.updBoard f).triggers = s.triggers := rfl
@[simp] theorem State.updBoard_queues (s : State) (f : Board → Board) : (s.updBoard f).queues = s.queues := rfl
@[simp] theorem State.updBoard_hauls (s : State) (f : Board → Board) : (s.updBoard f).hauls = s.hauls := rfl
@[simp] theorem State.updBoard_nextToken (s : State) (f : Board → Board) : (s.updBoard f).nextToken = s.nextToken := rfl
@[simp] theorem State.updBoard_spaces (s : State) (f : Board → Board) : (s.updBoard f).spaces = s.spaces := rfl
@[simp] theorem State.updBoard_kvcmds (s : State) (f : Board → Board) : (s.updBoard f).kvcmds = s.kvcmds := rfl
@[simp] theorem State.updBoard_streams (s : State) (f : Board → Board) : (s.updBoard f).streams = s.streams := rfl
@[simp] theorem State.updBoard_fabric (s : State) (f : Board → Board) : (s.updBoard f).fabric = s.fabric := rfl
@[simp] theorem State.updBoard_board (s : State) (f : Board → Board) : (s.updBoard f).board = f s.board := rfl
@[simp] theorem State.updBoard_nextId (s : State) (f : Board → Board) : (s.updBoard f).nextId = s.nextId := rfl
@[simp] theorem State.updBoard_free (s : State) (f : Board → Board) : (s.updBoard f).free = s.free := rfl
@[simp] theorem State.updBoard_tick (s : State) (f : Board → Board) : (s.updBoard f).tick = s.tick := rfl
@[simp] theorem State.updBoard_scr (s : State) (f : Board → Board) : (s.updBoard f).scr = s.scr := rfl

/-! ### `State.updSec` -/

@[simp] theorem State.updSec_cur (s : State) (f : Sec → Sec) : (s.updSec f).cur = s.cur := rfl
@[simp] theorem State.updSec_others (s : State) (f : Sec → Sec) : (s.updSec f).others = s.others := rfl
@[simp] theorem State.updSec_agenda (s : State) (f : Sec → Sec) : (s.updSec f).agenda = s.agenda := rfl
@[simp] theorem State.updSec_turn (s : State) (f : Sec → Sec) : (s.updSec f).turn = s.turn := rfl
@[simp] theorem State.updSec_cores (s : State) (f : Sec → Sec) : (s.updSec f).cores = s.cores := rfl
@[simp] theorem State.updSec_l1 (s : State) (f : Sec → Sec) : (s.updSec f).l1 = s.l1 := rfl
@[simp] theorem State.updSec_icache (s : State) (f : Sec → Sec) : (s.updSec f).icache = s.icache := rfl
@[simp] theorem State.updSec_tlb (s : State) (f : Sec → Sec) : (s.updSec f).tlb = s.tlb := rfl
@[simp] theorem State.updSec_mem (s : State) (f : Sec → Sec) : (s.updSec f).mem = s.mem := rfl
@[simp] theorem State.updSec_feEmpty (s : State) (f : Sec → Sec) : (s.updSec f).feEmpty = s.feEmpty := rfl
@[simp] theorem State.updSec_poison (s : State) (f : Sec → Sec) : (s.updSec f).poison = s.poison := rfl
@[simp] theorem State.updSec_sectors (s : State) (f : Sec → Sec) : (s.updSec f).sectors = s.sectors := rfl
@[simp] theorem State.updSec_l2 (s : State) (f : Sec → Sec) : (s.updSec f).l2 = s.l2 := rfl
@[simp] theorem State.updSec_mcr (s : State) (f : Sec → Sec) : (s.updSec f).mcr = s.mcr := rfl
@[simp] theorem State.updSec_wsPhase (s : State) (f : Sec → Sec) : (s.updSec f).wsPhase = s.wsPhase := rfl
@[simp] theorem State.updSec_logSeq (s : State) (f : Sec → Sec) : (s.updSec f).logSeq = s.logSeq := rfl
@[simp] theorem State.updSec_retiring (s : State) (f : Sec → Sec) : (s.updSec f).retiring = s.retiring := rfl
@[simp] theorem State.updSec_retired (s : State) (f : Sec → Sec) : (s.updSec f).retired = s.retired := rfl
@[simp] theorem State.updSec_linkKey (s : State) (f : Sec → Sec) : (s.updSec f).linkKey = s.linkKey := rfl
@[simp] theorem State.updSec_t2 (s : State) (f : Sec → Sec) : (s.updSec f).t2 = s.t2 := rfl
@[simp] theorem State.updSec_found (s : State) (f : Sec → Sec) : (s.updSec f).found = s.found := rfl
@[simp] theorem State.updSec_charged (s : State) (f : Sec → Sec) : (s.updSec f).charged = s.charged := rfl
@[simp] theorem State.updSec_ctxs (s : State) (f : Sec → Sec) : (s.updSec f).ctxs = s.ctxs := rfl
@[simp] theorem State.updSec_sec (s : State) (f : Sec → Sec) : (s.updSec f).sec = f s.sec := rfl
@[simp] theorem State.updSec_subs (s : State) (f : Sec → Sec) : (s.updSec f).subs = s.subs := rfl
@[simp] theorem State.updSec_sets (s : State) (f : Sec → Sec) : (s.updSec f).sets = s.sets := rfl
@[simp] theorem State.updSec_doneWait (s : State) (f : Sec → Sec) : (s.updSec f).doneWait = s.doneWait := rfl
@[simp] theorem State.updSec_watches (s : State) (f : Sec → Sec) : (s.updSec f).watches = s.watches := rfl
@[simp] theorem State.updSec_triggers (s : State) (f : Sec → Sec) : (s.updSec f).triggers = s.triggers := rfl
@[simp] theorem State.updSec_queues (s : State) (f : Sec → Sec) : (s.updSec f).queues = s.queues := rfl
@[simp] theorem State.updSec_hauls (s : State) (f : Sec → Sec) : (s.updSec f).hauls = s.hauls := rfl
@[simp] theorem State.updSec_nextToken (s : State) (f : Sec → Sec) : (s.updSec f).nextToken = s.nextToken := rfl
@[simp] theorem State.updSec_spaces (s : State) (f : Sec → Sec) : (s.updSec f).spaces = s.spaces := rfl
@[simp] theorem State.updSec_kvcmds (s : State) (f : Sec → Sec) : (s.updSec f).kvcmds = s.kvcmds := rfl
@[simp] theorem State.updSec_streams (s : State) (f : Sec → Sec) : (s.updSec f).streams = s.streams := rfl
@[simp] theorem State.updSec_fabric (s : State) (f : Sec → Sec) : (s.updSec f).fabric = s.fabric := rfl
@[simp] theorem State.updSec_board (s : State) (f : Sec → Sec) : (s.updSec f).board = s.board := rfl
@[simp] theorem State.updSec_nextId (s : State) (f : Sec → Sec) : (s.updSec f).nextId = s.nextId := rfl
@[simp] theorem State.updSec_free (s : State) (f : Sec → Sec) : (s.updSec f).free = s.free := rfl
@[simp] theorem State.updSec_tick (s : State) (f : Sec → Sec) : (s.updSec f).tick = s.tick := rfl
@[simp] theorem State.updSec_scr (s : State) (f : Sec → Sec) : (s.updSec f).scr = s.scr := rfl

/-! ### `State.updHaul` -/

@[simp] theorem State.updHaul_cur (s : State) (id : Nat) (f : Haul → Haul) : (s.updHaul id f).cur = s.cur := rfl
@[simp] theorem State.updHaul_others (s : State) (id : Nat) (f : Haul → Haul) :
    (s.updHaul id f).others = s.others := rfl
@[simp] theorem State.updHaul_agenda (s : State) (id : Nat) (f : Haul → Haul) :
    (s.updHaul id f).agenda = s.agenda := rfl
@[simp] theorem State.updHaul_turn (s : State) (id : Nat) (f : Haul → Haul) : (s.updHaul id f).turn = s.turn := rfl
@[simp] theorem State.updHaul_cores (s : State) (id : Nat) (f : Haul → Haul) : (s.updHaul id f).cores = s.cores := rfl
@[simp] theorem State.updHaul_l1 (s : State) (id : Nat) (f : Haul → Haul) : (s.updHaul id f).l1 = s.l1 := rfl
@[simp] theorem State.updHaul_icache (s : State) (id : Nat) (f : Haul → Haul) :
    (s.updHaul id f).icache = s.icache := rfl
@[simp] theorem State.updHaul_tlb (s : State) (id : Nat) (f : Haul → Haul) : (s.updHaul id f).tlb = s.tlb := rfl
@[simp] theorem State.updHaul_mem (s : State) (id : Nat) (f : Haul → Haul) : (s.updHaul id f).mem = s.mem := rfl
@[simp] theorem State.updHaul_feEmpty (s : State) (id : Nat) (f : Haul → Haul) :
    (s.updHaul id f).feEmpty = s.feEmpty := rfl
@[simp] theorem State.updHaul_poison (s : State) (id : Nat) (f : Haul → Haul) :
    (s.updHaul id f).poison = s.poison := rfl
@[simp] theorem State.updHaul_sectors (s : State) (id : Nat) (f : Haul → Haul) :
    (s.updHaul id f).sectors = s.sectors := rfl
@[simp] theorem State.updHaul_l2 (s : State) (id : Nat) (f : Haul → Haul) : (s.updHaul id f).l2 = s.l2 := rfl
@[simp] theorem State.updHaul_mcr (s : State) (id : Nat) (f : Haul → Haul) : (s.updHaul id f).mcr = s.mcr := rfl
@[simp] theorem State.updHaul_wsPhase (s : State) (id : Nat) (f : Haul → Haul) :
    (s.updHaul id f).wsPhase = s.wsPhase := rfl
@[simp] theorem State.updHaul_logSeq (s : State) (id : Nat) (f : Haul → Haul) :
    (s.updHaul id f).logSeq = s.logSeq := rfl
@[simp] theorem State.updHaul_retiring (s : State) (id : Nat) (f : Haul → Haul) :
    (s.updHaul id f).retiring = s.retiring := rfl
@[simp] theorem State.updHaul_retired (s : State) (id : Nat) (f : Haul → Haul) :
    (s.updHaul id f).retired = s.retired := rfl
@[simp] theorem State.updHaul_linkKey (s : State) (id : Nat) (f : Haul → Haul) :
    (s.updHaul id f).linkKey = s.linkKey := rfl
@[simp] theorem State.updHaul_t2 (s : State) (id : Nat) (f : Haul → Haul) : (s.updHaul id f).t2 = s.t2 := rfl
@[simp] theorem State.updHaul_found (s : State) (id : Nat) (f : Haul → Haul) : (s.updHaul id f).found = s.found := rfl
@[simp] theorem State.updHaul_charged (s : State) (id : Nat) (f : Haul → Haul) :
    (s.updHaul id f).charged = s.charged := rfl
@[simp] theorem State.updHaul_ctxs (s : State) (id : Nat) (f : Haul → Haul) : (s.updHaul id f).ctxs = s.ctxs := rfl
@[simp] theorem State.updHaul_sec (s : State) (id : Nat) (f : Haul → Haul) : (s.updHaul id f).sec = s.sec := rfl
@[simp] theorem State.updHaul_subs (s : State) (id : Nat) (f : Haul → Haul) : (s.updHaul id f).subs = s.subs := rfl
@[simp] theorem State.updHaul_sets (s : State) (id : Nat) (f : Haul → Haul) : (s.updHaul id f).sets = s.sets := rfl
@[simp] theorem State.updHaul_doneWait (s : State) (id : Nat) (f : Haul → Haul) :
    (s.updHaul id f).doneWait = s.doneWait := rfl
@[simp] theorem State.updHaul_watches (s : State) (id : Nat) (f : Haul → Haul) :
    (s.updHaul id f).watches = s.watches := rfl
@[simp] theorem State.updHaul_triggers (s : State) (id : Nat) (f : Haul → Haul) :
    (s.updHaul id f).triggers = s.triggers := rfl
@[simp] theorem State.updHaul_queues (s : State) (id : Nat) (f : Haul → Haul) :
    (s.updHaul id f).queues = s.queues := rfl
@[simp] theorem State.updHaul_nextToken (s : State) (id : Nat) (f : Haul → Haul) :
    (s.updHaul id f).nextToken = s.nextToken := rfl
@[simp] theorem State.updHaul_spaces (s : State) (id : Nat) (f : Haul → Haul) :
    (s.updHaul id f).spaces = s.spaces := rfl
@[simp] theorem State.updHaul_kvcmds (s : State) (id : Nat) (f : Haul → Haul) :
    (s.updHaul id f).kvcmds = s.kvcmds := rfl
@[simp] theorem State.updHaul_streams (s : State) (id : Nat) (f : Haul → Haul) :
    (s.updHaul id f).streams = s.streams := rfl
@[simp] theorem State.updHaul_fabric (s : State) (id : Nat) (f : Haul → Haul) :
    (s.updHaul id f).fabric = s.fabric := rfl
@[simp] theorem State.updHaul_board (s : State) (id : Nat) (f : Haul → Haul) : (s.updHaul id f).board = s.board := rfl
@[simp] theorem State.updHaul_nextId (s : State) (id : Nat) (f : Haul → Haul) :
    (s.updHaul id f).nextId = s.nextId := rfl
@[simp] theorem State.updHaul_free (s : State) (id : Nat) (f : Haul → Haul) : (s.updHaul id f).free = s.free := rfl
@[simp] theorem State.updHaul_tick (s : State) (id : Nat) (f : Haul → Haul) : (s.updHaul id f).tick = s.tick := rfl
@[simp] theorem State.updHaul_scr (s : State) (id : Nat) (f : Haul → Haul) : (s.updHaul id f).scr = s.scr := rfl

/-! ### `State.updSpace` -/

@[simp] theorem State.updSpace_cur (s : State) (id : Nat) (f : Space → Space) : (s.updSpace id f).cur = s.cur := rfl
@[simp] theorem State.updSpace_others (s : State) (id : Nat) (f : Space → Space) :
    (s.updSpace id f).others = s.others := rfl
@[simp] theorem State.updSpace_agenda (s : State) (id : Nat) (f : Space → Space) :
    (s.updSpace id f).agenda = s.agenda := rfl
@[simp] theorem State.updSpace_turn (s : State) (id : Nat) (f : Space → Space) : (s.updSpace id f).turn = s.turn := rfl
@[simp] theorem State.updSpace_cores (s : State) (id : Nat) (f : Space → Space) :
    (s.updSpace id f).cores = s.cores := rfl
@[simp] theorem State.updSpace_l1 (s : State) (id : Nat) (f : Space → Space) : (s.updSpace id f).l1 = s.l1 := rfl
@[simp] theorem State.updSpace_icache (s : State) (id : Nat) (f : Space → Space) :
    (s.updSpace id f).icache = s.icache := rfl
@[simp] theorem State.updSpace_tlb (s : State) (id : Nat) (f : Space → Space) : (s.updSpace id f).tlb = s.tlb := rfl
@[simp] theorem State.updSpace_mem (s : State) (id : Nat) (f : Space → Space) : (s.updSpace id f).mem = s.mem := rfl
@[simp] theorem State.updSpace_feEmpty (s : State) (id : Nat) (f : Space → Space) :
    (s.updSpace id f).feEmpty = s.feEmpty := rfl
@[simp] theorem State.updSpace_poison (s : State) (id : Nat) (f : Space → Space) :
    (s.updSpace id f).poison = s.poison := rfl
@[simp] theorem State.updSpace_sectors (s : State) (id : Nat) (f : Space → Space) :
    (s.updSpace id f).sectors = s.sectors := rfl
@[simp] theorem State.updSpace_l2 (s : State) (id : Nat) (f : Space → Space) : (s.updSpace id f).l2 = s.l2 := rfl
@[simp] theorem State.updSpace_mcr (s : State) (id : Nat) (f : Space → Space) : (s.updSpace id f).mcr = s.mcr := rfl
@[simp] theorem State.updSpace_wsPhase (s : State) (id : Nat) (f : Space → Space) :
    (s.updSpace id f).wsPhase = s.wsPhase := rfl
@[simp] theorem State.updSpace_logSeq (s : State) (id : Nat) (f : Space → Space) :
    (s.updSpace id f).logSeq = s.logSeq := rfl
@[simp] theorem State.updSpace_retiring (s : State) (id : Nat) (f : Space → Space) :
    (s.updSpace id f).retiring = s.retiring := rfl
@[simp] theorem State.updSpace_retired (s : State) (id : Nat) (f : Space → Space) :
    (s.updSpace id f).retired = s.retired := rfl
@[simp] theorem State.updSpace_linkKey (s : State) (id : Nat) (f : Space → Space) :
    (s.updSpace id f).linkKey = s.linkKey := rfl
@[simp] theorem State.updSpace_t2 (s : State) (id : Nat) (f : Space → Space) : (s.updSpace id f).t2 = s.t2 := rfl
@[simp] theorem State.updSpace_found (s : State) (id : Nat) (f : Space → Space) :
    (s.updSpace id f).found = s.found := rfl
@[simp] theorem State.updSpace_charged (s : State) (id : Nat) (f : Space → Space) :
    (s.updSpace id f).charged = s.charged := rfl
@[simp] theorem State.updSpace_ctxs (s : State) (id : Nat) (f : Space → Space) : (s.updSpace id f).ctxs = s.ctxs := rfl
@[simp] theorem State.updSpace_sec (s : State) (id : Nat) (f : Space → Space) : (s.updSpace id f).sec = s.sec := rfl
@[simp] theorem State.updSpace_subs (s : State) (id : Nat) (f : Space → Space) : (s.updSpace id f).subs = s.subs := rfl
@[simp] theorem State.updSpace_sets (s : State) (id : Nat) (f : Space → Space) : (s.updSpace id f).sets = s.sets := rfl
@[simp] theorem State.updSpace_doneWait (s : State) (id : Nat) (f : Space → Space) :
    (s.updSpace id f).doneWait = s.doneWait := rfl
@[simp] theorem State.updSpace_watches (s : State) (id : Nat) (f : Space → Space) :
    (s.updSpace id f).watches = s.watches := rfl
@[simp] theorem State.updSpace_triggers (s : State) (id : Nat) (f : Space → Space) :
    (s.updSpace id f).triggers = s.triggers := rfl
@[simp] theorem State.updSpace_queues (s : State) (id : Nat) (f : Space → Space) :
    (s.updSpace id f).queues = s.queues := rfl
@[simp] theorem State.updSpace_hauls (s : State) (id : Nat) (f : Space → Space) :
    (s.updSpace id f).hauls = s.hauls := rfl
@[simp] theorem State.updSpace_nextToken (s : State) (id : Nat) (f : Space → Space) :
    (s.updSpace id f).nextToken = s.nextToken := rfl
@[simp] theorem State.updSpace_kvcmds (s : State) (id : Nat) (f : Space → Space) :
    (s.updSpace id f).kvcmds = s.kvcmds := rfl
@[simp] theorem State.updSpace_streams (s : State) (id : Nat) (f : Space → Space) :
    (s.updSpace id f).streams = s.streams := rfl
@[simp] theorem State.updSpace_fabric (s : State) (id : Nat) (f : Space → Space) :
    (s.updSpace id f).fabric = s.fabric := rfl
@[simp] theorem State.updSpace_board (s : State) (id : Nat) (f : Space → Space) :
    (s.updSpace id f).board = s.board := rfl
@[simp] theorem State.updSpace_nextId (s : State) (id : Nat) (f : Space → Space) :
    (s.updSpace id f).nextId = s.nextId := rfl
@[simp] theorem State.updSpace_free (s : State) (id : Nat) (f : Space → Space) : (s.updSpace id f).free = s.free := rfl
@[simp] theorem State.updSpace_tick (s : State) (id : Nat) (f : Space → Space) : (s.updSpace id f).tick = s.tick := rfl
@[simp] theorem State.updSpace_scr (s : State) (id : Nat) (f : Space → Space) : (s.updSpace id f).scr = s.scr := rfl

/-! ### `State.updWatch` -/

@[simp] theorem State.updWatch_cur (s : State) (key : Nat) (f : Watch → Watch) : (s.updWatch key f).cur = s.cur := rfl
@[simp] theorem State.updWatch_others (s : State) (key : Nat) (f : Watch → Watch) :
    (s.updWatch key f).others = s.others := rfl
@[simp] theorem State.updWatch_agenda (s : State) (key : Nat) (f : Watch → Watch) :
    (s.updWatch key f).agenda = s.agenda := rfl
@[simp] theorem State.updWatch_turn (s : State) (key : Nat) (f : Watch → Watch) :
    (s.updWatch key f).turn = s.turn := rfl
@[simp] theorem State.updWatch_cores (s : State) (key : Nat) (f : Watch → Watch) :
    (s.updWatch key f).cores = s.cores := rfl
@[simp] theorem State.updWatch_l1 (s : State) (key : Nat) (f : Watch → Watch) : (s.updWatch key f).l1 = s.l1 := rfl
@[simp] theorem State.updWatch_icache (s : State) (key : Nat) (f : Watch → Watch) :
    (s.updWatch key f).icache = s.icache := rfl
@[simp] theorem State.updWatch_tlb (s : State) (key : Nat) (f : Watch → Watch) : (s.updWatch key f).tlb = s.tlb := rfl
@[simp] theorem State.updWatch_mem (s : State) (key : Nat) (f : Watch → Watch) : (s.updWatch key f).mem = s.mem := rfl
@[simp] theorem State.updWatch_feEmpty (s : State) (key : Nat) (f : Watch → Watch) :
    (s.updWatch key f).feEmpty = s.feEmpty := rfl
@[simp] theorem State.updWatch_poison (s : State) (key : Nat) (f : Watch → Watch) :
    (s.updWatch key f).poison = s.poison := rfl
@[simp] theorem State.updWatch_sectors (s : State) (key : Nat) (f : Watch → Watch) :
    (s.updWatch key f).sectors = s.sectors := rfl
@[simp] theorem State.updWatch_l2 (s : State) (key : Nat) (f : Watch → Watch) : (s.updWatch key f).l2 = s.l2 := rfl
@[simp] theorem State.updWatch_mcr (s : State) (key : Nat) (f : Watch → Watch) : (s.updWatch key f).mcr = s.mcr := rfl
@[simp] theorem State.updWatch_wsPhase (s : State) (key : Nat) (f : Watch → Watch) :
    (s.updWatch key f).wsPhase = s.wsPhase := rfl
@[simp] theorem State.updWatch_logSeq (s : State) (key : Nat) (f : Watch → Watch) :
    (s.updWatch key f).logSeq = s.logSeq := rfl
@[simp] theorem State.updWatch_retiring (s : State) (key : Nat) (f : Watch → Watch) :
    (s.updWatch key f).retiring = s.retiring := rfl
@[simp] theorem State.updWatch_retired (s : State) (key : Nat) (f : Watch → Watch) :
    (s.updWatch key f).retired = s.retired := rfl
@[simp] theorem State.updWatch_linkKey (s : State) (key : Nat) (f : Watch → Watch) :
    (s.updWatch key f).linkKey = s.linkKey := rfl
@[simp] theorem State.updWatch_t2 (s : State) (key : Nat) (f : Watch → Watch) : (s.updWatch key f).t2 = s.t2 := rfl
@[simp] theorem State.updWatch_found (s : State) (key : Nat) (f : Watch → Watch) :
    (s.updWatch key f).found = s.found := rfl
@[simp] theorem State.updWatch_charged (s : State) (key : Nat) (f : Watch → Watch) :
    (s.updWatch key f).charged = s.charged := rfl
@[simp] theorem State.updWatch_ctxs (s : State) (key : Nat) (f : Watch → Watch) :
    (s.updWatch key f).ctxs = s.ctxs := rfl
@[simp] theorem State.updWatch_sec (s : State) (key : Nat) (f : Watch → Watch) : (s.updWatch key f).sec = s.sec := rfl
@[simp] theorem State.updWatch_subs (s : State) (key : Nat) (f : Watch → Watch) :
    (s.updWatch key f).subs = s.subs := rfl
@[simp] theorem State.updWatch_sets (s : State) (key : Nat) (f : Watch → Watch) :
    (s.updWatch key f).sets = s.sets := rfl
@[simp] theorem State.updWatch_doneWait (s : State) (key : Nat) (f : Watch → Watch) :
    (s.updWatch key f).doneWait = s.doneWait := rfl
@[simp] theorem State.updWatch_triggers (s : State) (key : Nat) (f : Watch → Watch) :
    (s.updWatch key f).triggers = s.triggers := rfl
@[simp] theorem State.updWatch_queues (s : State) (key : Nat) (f : Watch → Watch) :
    (s.updWatch key f).queues = s.queues := rfl
@[simp] theorem State.updWatch_hauls (s : State) (key : Nat) (f : Watch → Watch) :
    (s.updWatch key f).hauls = s.hauls := rfl
@[simp] theorem State.updWatch_nextToken (s : State) (key : Nat) (f : Watch → Watch) :
    (s.updWatch key f).nextToken = s.nextToken := rfl
@[simp] theorem State.updWatch_spaces (s : State) (key : Nat) (f : Watch → Watch) :
    (s.updWatch key f).spaces = s.spaces := rfl
@[simp] theorem State.updWatch_kvcmds (s : State) (key : Nat) (f : Watch → Watch) :
    (s.updWatch key f).kvcmds = s.kvcmds := rfl
@[simp] theorem State.updWatch_streams (s : State) (key : Nat) (f : Watch → Watch) :
    (s.updWatch key f).streams = s.streams := rfl
@[simp] theorem State.updWatch_fabric (s : State) (key : Nat) (f : Watch → Watch) :
    (s.updWatch key f).fabric = s.fabric := rfl
@[simp] theorem State.updWatch_board (s : State) (key : Nat) (f : Watch → Watch) :
    (s.updWatch key f).board = s.board := rfl
@[simp] theorem State.updWatch_nextId (s : State) (key : Nat) (f : Watch → Watch) :
    (s.updWatch key f).nextId = s.nextId := rfl
@[simp] theorem State.updWatch_free (s : State) (key : Nat) (f : Watch → Watch) :
    (s.updWatch key f).free = s.free := rfl
@[simp] theorem State.updWatch_tick (s : State) (key : Nat) (f : Watch → Watch) :
    (s.updWatch key f).tick = s.tick := rfl
@[simp] theorem State.updWatch_scr (s : State) (key : Nat) (f : Watch → Watch) : (s.updWatch key f).scr = s.scr := rfl

/-! ### `State.goto` -/

@[simp] theorem State.goto_cur (s : State) (a : Word) : (s.goto a).cur = s.cur := rfl
@[simp] theorem State.goto_others (s : State) (a : Word) : (s.goto a).others = s.others := rfl
@[simp] theorem State.goto_agenda (s : State) (a : Word) : (s.goto a).agenda = s.agenda := rfl
@[simp] theorem State.goto_turn (s : State) (a : Word) : (s.goto a).turn = s.turn := rfl
@[simp] theorem State.goto_cores (s : State) (a : Word) : (s.goto a).cores = s.cores := rfl
@[simp] theorem State.goto_l1 (s : State) (a : Word) : (s.goto a).l1 = s.l1 := rfl
@[simp] theorem State.goto_icache (s : State) (a : Word) : (s.goto a).icache = s.icache := rfl
@[simp] theorem State.goto_tlb (s : State) (a : Word) : (s.goto a).tlb = s.tlb := rfl
@[simp] theorem State.goto_mem (s : State) (a : Word) : (s.goto a).mem = s.mem := rfl
@[simp] theorem State.goto_feEmpty (s : State) (a : Word) : (s.goto a).feEmpty = s.feEmpty := rfl
@[simp] theorem State.goto_poison (s : State) (a : Word) : (s.goto a).poison = s.poison := rfl
@[simp] theorem State.goto_sectors (s : State) (a : Word) : (s.goto a).sectors = s.sectors := rfl
@[simp] theorem State.goto_l2 (s : State) (a : Word) : (s.goto a).l2 = s.l2 := rfl
@[simp] theorem State.goto_mcr (s : State) (a : Word) : (s.goto a).mcr = s.mcr := rfl
@[simp] theorem State.goto_wsPhase (s : State) (a : Word) : (s.goto a).wsPhase = s.wsPhase := rfl
@[simp] theorem State.goto_logSeq (s : State) (a : Word) : (s.goto a).logSeq = s.logSeq := rfl
@[simp] theorem State.goto_retiring (s : State) (a : Word) : (s.goto a).retiring = s.retiring := rfl
@[simp] theorem State.goto_retired (s : State) (a : Word) : (s.goto a).retired = s.retired := rfl
@[simp] theorem State.goto_linkKey (s : State) (a : Word) : (s.goto a).linkKey = s.linkKey := rfl
@[simp] theorem State.goto_t2 (s : State) (a : Word) : (s.goto a).t2 = s.t2 := rfl
@[simp] theorem State.goto_found (s : State) (a : Word) : (s.goto a).found = s.found := rfl
@[simp] theorem State.goto_charged (s : State) (a : Word) : (s.goto a).charged = s.charged := rfl
@[simp] theorem State.goto_ctxs (s : State) (a : Word) : (s.goto a).ctxs = s.ctxs := rfl
@[simp] theorem State.goto_sec (s : State) (a : Word) : (s.goto a).sec = s.sec := rfl
@[simp] theorem State.goto_subs (s : State) (a : Word) : (s.goto a).subs = s.subs := rfl
@[simp] theorem State.goto_sets (s : State) (a : Word) : (s.goto a).sets = s.sets := rfl
@[simp] theorem State.goto_doneWait (s : State) (a : Word) : (s.goto a).doneWait = s.doneWait := rfl
@[simp] theorem State.goto_watches (s : State) (a : Word) : (s.goto a).watches = s.watches := rfl
@[simp] theorem State.goto_triggers (s : State) (a : Word) : (s.goto a).triggers = s.triggers := rfl
@[simp] theorem State.goto_queues (s : State) (a : Word) : (s.goto a).queues = s.queues := rfl
@[simp] theorem State.goto_hauls (s : State) (a : Word) : (s.goto a).hauls = s.hauls := rfl
@[simp] theorem State.goto_nextToken (s : State) (a : Word) : (s.goto a).nextToken = s.nextToken := rfl
@[simp] theorem State.goto_spaces (s : State) (a : Word) : (s.goto a).spaces = s.spaces := rfl
@[simp] theorem State.goto_kvcmds (s : State) (a : Word) : (s.goto a).kvcmds = s.kvcmds := rfl
@[simp] theorem State.goto_streams (s : State) (a : Word) : (s.goto a).streams = s.streams := rfl
@[simp] theorem State.goto_fabric (s : State) (a : Word) : (s.goto a).fabric = s.fabric := rfl
@[simp] theorem State.goto_board (s : State) (a : Word) : (s.goto a).board = s.board := rfl
@[simp] theorem State.goto_nextId (s : State) (a : Word) : (s.goto a).nextId = s.nextId := rfl
@[simp] theorem State.goto_free (s : State) (a : Word) : (s.goto a).free = s.free := rfl
@[simp] theorem State.goto_tick (s : State) (a : Word) : (s.goto a).tick = s.tick := rfl
@[simp] theorem State.goto_scr (s : State) (a : Word) : (s.goto a).scr = { s.scr with target := some a } := rfl

/-! ### `State.thenDo` -/

@[simp] theorem State.thenDo_cur (s : State) (a : After) : (s.thenDo a).cur = s.cur := rfl
@[simp] theorem State.thenDo_others (s : State) (a : After) : (s.thenDo a).others = s.others := rfl
@[simp] theorem State.thenDo_agenda (s : State) (a : After) : (s.thenDo a).agenda = s.agenda := rfl
@[simp] theorem State.thenDo_turn (s : State) (a : After) : (s.thenDo a).turn = s.turn := rfl
@[simp] theorem State.thenDo_cores (s : State) (a : After) : (s.thenDo a).cores = s.cores := rfl
@[simp] theorem State.thenDo_l1 (s : State) (a : After) : (s.thenDo a).l1 = s.l1 := rfl
@[simp] theorem State.thenDo_icache (s : State) (a : After) : (s.thenDo a).icache = s.icache := rfl
@[simp] theorem State.thenDo_tlb (s : State) (a : After) : (s.thenDo a).tlb = s.tlb := rfl
@[simp] theorem State.thenDo_mem (s : State) (a : After) : (s.thenDo a).mem = s.mem := rfl
@[simp] theorem State.thenDo_feEmpty (s : State) (a : After) : (s.thenDo a).feEmpty = s.feEmpty := rfl
@[simp] theorem State.thenDo_poison (s : State) (a : After) : (s.thenDo a).poison = s.poison := rfl
@[simp] theorem State.thenDo_sectors (s : State) (a : After) : (s.thenDo a).sectors = s.sectors := rfl
@[simp] theorem State.thenDo_l2 (s : State) (a : After) : (s.thenDo a).l2 = s.l2 := rfl
@[simp] theorem State.thenDo_mcr (s : State) (a : After) : (s.thenDo a).mcr = s.mcr := rfl
@[simp] theorem State.thenDo_wsPhase (s : State) (a : After) : (s.thenDo a).wsPhase = s.wsPhase := rfl
@[simp] theorem State.thenDo_logSeq (s : State) (a : After) : (s.thenDo a).logSeq = s.logSeq := rfl
@[simp] theorem State.thenDo_retiring (s : State) (a : After) : (s.thenDo a).retiring = s.retiring := rfl
@[simp] theorem State.thenDo_retired (s : State) (a : After) : (s.thenDo a).retired = s.retired := rfl
@[simp] theorem State.thenDo_linkKey (s : State) (a : After) : (s.thenDo a).linkKey = s.linkKey := rfl
@[simp] theorem State.thenDo_t2 (s : State) (a : After) : (s.thenDo a).t2 = s.t2 := rfl
@[simp] theorem State.thenDo_found (s : State) (a : After) : (s.thenDo a).found = s.found := rfl
@[simp] theorem State.thenDo_charged (s : State) (a : After) : (s.thenDo a).charged = s.charged := rfl
@[simp] theorem State.thenDo_ctxs (s : State) (a : After) : (s.thenDo a).ctxs = s.ctxs := rfl
@[simp] theorem State.thenDo_sec (s : State) (a : After) : (s.thenDo a).sec = s.sec := rfl
@[simp] theorem State.thenDo_subs (s : State) (a : After) : (s.thenDo a).subs = s.subs := rfl
@[simp] theorem State.thenDo_sets (s : State) (a : After) : (s.thenDo a).sets = s.sets := rfl
@[simp] theorem State.thenDo_doneWait (s : State) (a : After) : (s.thenDo a).doneWait = s.doneWait := rfl
@[simp] theorem State.thenDo_watches (s : State) (a : After) : (s.thenDo a).watches = s.watches := rfl
@[simp] theorem State.thenDo_triggers (s : State) (a : After) : (s.thenDo a).triggers = s.triggers := rfl
@[simp] theorem State.thenDo_queues (s : State) (a : After) : (s.thenDo a).queues = s.queues := rfl
@[simp] theorem State.thenDo_hauls (s : State) (a : After) : (s.thenDo a).hauls = s.hauls := rfl
@[simp] theorem State.thenDo_nextToken (s : State) (a : After) : (s.thenDo a).nextToken = s.nextToken := rfl
@[simp] theorem State.thenDo_spaces (s : State) (a : After) : (s.thenDo a).spaces = s.spaces := rfl
@[simp] theorem State.thenDo_kvcmds (s : State) (a : After) : (s.thenDo a).kvcmds = s.kvcmds := rfl
@[simp] theorem State.thenDo_streams (s : State) (a : After) : (s.thenDo a).streams = s.streams := rfl
@[simp] theorem State.thenDo_fabric (s : State) (a : After) : (s.thenDo a).fabric = s.fabric := rfl
@[simp] theorem State.thenDo_board (s : State) (a : After) : (s.thenDo a).board = s.board := rfl
@[simp] theorem State.thenDo_nextId (s : State) (a : After) : (s.thenDo a).nextId = s.nextId := rfl
@[simp] theorem State.thenDo_free (s : State) (a : After) : (s.thenDo a).free = s.free := rfl
@[simp] theorem State.thenDo_tick (s : State) (a : After) : (s.thenDo a).tick = s.tick := rfl
@[simp] theorem State.thenDo_scr (s : State) (a : After) : (s.thenDo a).scr = { s.scr with after := some a } := rfl

/-! ### `State.tookSto` -/

@[simp] theorem State.tookSto_cur (s : State) (n : Nat) : (s.tookSto n).cur = s.cur := rfl
@[simp] theorem State.tookSto_others (s : State) (n : Nat) : (s.tookSto n).others = s.others := rfl
@[simp] theorem State.tookSto_agenda (s : State) (n : Nat) : (s.tookSto n).agenda = s.agenda := rfl
@[simp] theorem State.tookSto_turn (s : State) (n : Nat) : (s.tookSto n).turn = s.turn := rfl
@[simp] theorem State.tookSto_cores (s : State) (n : Nat) : (s.tookSto n).cores = s.cores := rfl
@[simp] theorem State.tookSto_l1 (s : State) (n : Nat) : (s.tookSto n).l1 = s.l1 := rfl
@[simp] theorem State.tookSto_icache (s : State) (n : Nat) : (s.tookSto n).icache = s.icache := rfl
@[simp] theorem State.tookSto_tlb (s : State) (n : Nat) : (s.tookSto n).tlb = s.tlb := rfl
@[simp] theorem State.tookSto_mem (s : State) (n : Nat) : (s.tookSto n).mem = s.mem := rfl
@[simp] theorem State.tookSto_feEmpty (s : State) (n : Nat) : (s.tookSto n).feEmpty = s.feEmpty := rfl
@[simp] theorem State.tookSto_poison (s : State) (n : Nat) : (s.tookSto n).poison = s.poison := rfl
@[simp] theorem State.tookSto_sectors (s : State) (n : Nat) : (s.tookSto n).sectors = s.sectors := rfl
@[simp] theorem State.tookSto_l2 (s : State) (n : Nat) : (s.tookSto n).l2 = s.l2 := rfl
@[simp] theorem State.tookSto_mcr (s : State) (n : Nat) : (s.tookSto n).mcr = s.mcr := rfl
@[simp] theorem State.tookSto_wsPhase (s : State) (n : Nat) : (s.tookSto n).wsPhase = s.wsPhase := rfl
@[simp] theorem State.tookSto_logSeq (s : State) (n : Nat) : (s.tookSto n).logSeq = s.logSeq := rfl
@[simp] theorem State.tookSto_retiring (s : State) (n : Nat) : (s.tookSto n).retiring = s.retiring := rfl
@[simp] theorem State.tookSto_retired (s : State) (n : Nat) : (s.tookSto n).retired = s.retired := rfl
@[simp] theorem State.tookSto_linkKey (s : State) (n : Nat) : (s.tookSto n).linkKey = s.linkKey := rfl
@[simp] theorem State.tookSto_t2 (s : State) (n : Nat) : (s.tookSto n).t2 = s.t2 := rfl
@[simp] theorem State.tookSto_found (s : State) (n : Nat) : (s.tookSto n).found = s.found := rfl
@[simp] theorem State.tookSto_charged (s : State) (n : Nat) : (s.tookSto n).charged = s.charged := rfl
@[simp] theorem State.tookSto_ctxs (s : State) (n : Nat) : (s.tookSto n).ctxs = s.ctxs := rfl
@[simp] theorem State.tookSto_sec (s : State) (n : Nat) : (s.tookSto n).sec = s.sec := rfl
@[simp] theorem State.tookSto_subs (s : State) (n : Nat) : (s.tookSto n).subs = s.subs := rfl
@[simp] theorem State.tookSto_sets (s : State) (n : Nat) : (s.tookSto n).sets = s.sets := rfl
@[simp] theorem State.tookSto_doneWait (s : State) (n : Nat) : (s.tookSto n).doneWait = s.doneWait := rfl
@[simp] theorem State.tookSto_watches (s : State) (n : Nat) : (s.tookSto n).watches = s.watches := rfl
@[simp] theorem State.tookSto_triggers (s : State) (n : Nat) : (s.tookSto n).triggers = s.triggers := rfl
@[simp] theorem State.tookSto_queues (s : State) (n : Nat) : (s.tookSto n).queues = s.queues := rfl
@[simp] theorem State.tookSto_hauls (s : State) (n : Nat) : (s.tookSto n).hauls = s.hauls := rfl
@[simp] theorem State.tookSto_nextToken (s : State) (n : Nat) : (s.tookSto n).nextToken = s.nextToken := rfl
@[simp] theorem State.tookSto_spaces (s : State) (n : Nat) : (s.tookSto n).spaces = s.spaces := rfl
@[simp] theorem State.tookSto_kvcmds (s : State) (n : Nat) : (s.tookSto n).kvcmds = s.kvcmds := rfl
@[simp] theorem State.tookSto_streams (s : State) (n : Nat) : (s.tookSto n).streams = s.streams := rfl
@[simp] theorem State.tookSto_fabric (s : State) (n : Nat) : (s.tookSto n).fabric = s.fabric := rfl
@[simp] theorem State.tookSto_board (s : State) (n : Nat) : (s.tookSto n).board = s.board := rfl
@[simp] theorem State.tookSto_nextId (s : State) (n : Nat) : (s.tookSto n).nextId = s.nextId := rfl
@[simp] theorem State.tookSto_free (s : State) (n : Nat) : (s.tookSto n).free = s.free := rfl
@[simp] theorem State.tookSto_tick (s : State) (n : Nat) : (s.tookSto n).tick = s.tick := rfl
@[simp] theorem State.tookSto_scr (s : State) (n : Nat) : (s.tookSto n).scr = { s.scr with sto := s.scr.sto + n } := rfl

/-! ### `Task.updTl` -/

@[simp] theorem Task.updTl_id (t : Task) (i : Fin 6) (f : Tl → Tl) : (t.updTl i f).id = t.id := rfl
@[simp] theorem Task.updTl_ctx (t : Task) (i : Fin 6) (f : Tl → Tl) : (t.updTl i f).ctx = t.ctx := rfl
@[simp] theorem Task.updTl_loc (t : Task) (i : Fin 6) (f : Tl → Tl) : (t.updTl i f).loc = t.loc := rfl
@[simp] theorem Task.updTl_status (t : Task) (i : Fin 6) (f : Tl → Tl) : (t.updTl i f).status = t.status := rfl
@[simp] theorem Task.updTl_regs (t : Task) (i : Fin 6) (f : Tl → Tl) : (t.updTl i f).regs = t.regs := rfl
@[simp] theorem Task.updTl_pend (t : Task) (i : Fin 6) (f : Tl → Tl) : (t.updTl i f).pend = t.pend := rfl
@[simp] theorem Task.updTl_held (t : Task) (i : Fin 6) (f : Tl → Tl) : (t.updTl i f).held = t.held := rfl
@[simp] theorem Task.updTl_ops (t : Task) (i : Fin 6) (f : Tl → Tl) : (t.updTl i f).ops = t.ops := rfl
@[simp] theorem Task.updTl_tls (t : Task) (i : Fin 6) (f : Tl → Tl) : (t.updTl i f).tls = t.tls.set i (f t.tls[i]) := rfl
@[simp] theorem Task.updTl_posted (t : Task) (i : Fin 6) (f : Tl → Tl) : (t.updTl i f).posted = t.posted := rfl
@[simp] theorem Task.updTl_pc (t : Task) (i : Fin 6) (f : Tl → Tl) : (t.updTl i f).pc = t.pc := rfl
@[simp] theorem Task.updTl_ctl (t : Task) (i : Fin 6) (f : Tl → Tl) : (t.updTl i f).ctl = t.ctl := rfl
@[simp] theorem Task.updTl_shadow (t : Task) (i : Fin 6) (f : Tl → Tl) : (t.updTl i f).shadow = t.shadow := rfl
@[simp] theorem Task.updTl_binds (t : Task) (i : Fin 6) (f : Tl → Tl) : (t.updTl i f).binds = t.binds := rfl
@[simp] theorem Task.updTl_biv (t : Task) (i : Fin 6) (f : Tl → Tl) : (t.updTl i f).biv = t.biv := rfl
@[simp] theorem Task.updTl_etchCursor (t : Task) (i : Fin 6) (f : Tl → Tl) : (t.updTl i f).etchCursor = t.etchCursor := rfl
@[simp] theorem Task.updTl_etchEnd (t : Task) (i : Fin 6) (f : Tl → Tl) : (t.updTl i f).etchEnd = t.etchEnd := rfl
@[simp] theorem Task.updTl_etchEvents (t : Task) (i : Fin 6) (f : Tl → Tl) : (t.updTl i f).etchEvents = t.etchEvents := rfl
@[simp] theorem Task.updTl_causes (t : Task) (i : Fin 6) (f : Tl → Tl) : (t.updTl i f).causes = t.causes := rfl
@[simp] theorem Task.updTl_part (t : Task) (i : Fin 6) (f : Tl → Tl) : (t.updTl i f).part = t.part := rfl
@[simp] theorem Task.updTl_loop (t : Task) (i : Fin 6) (f : Tl → Tl) : (t.updTl i f).loop = t.loop := rfl
@[simp] theorem Task.updTl_capS (t : Task) (i : Fin 6) (f : Tl → Tl) : (t.updTl i f).capS = t.capS := rfl
@[simp] theorem Task.updTl_capV (t : Task) (i : Fin 6) (f : Tl → Tl) : (t.updTl i f).capV = t.capV := rfl
@[simp] theorem Task.updTl_prio (t : Task) (i : Fin 6) (f : Tl → Tl) : (t.updTl i f).prio = t.prio := rfl
@[simp] theorem Task.updTl_partition (t : Task) (i : Fin 6) (f : Tl → Tl) : (t.updTl i f).partition = t.partition := rfl
@[simp] theorem Task.updTl_stage (t : Task) (i : Fin 6) (f : Tl → Tl) : (t.updTl i f).stage = t.stage := rfl
@[simp] theorem Task.updTl_setId (t : Task) (i : Fin 6) (f : Tl → Tl) : (t.updTl i f).setId = t.setId := rfl
@[simp] theorem Task.updTl_ordinal (t : Task) (i : Fin 6) (f : Tl → Tl) : (t.updTl i f).ordinal = t.ordinal := rfl
@[simp] theorem Task.updTl_wid (t : Task) (i : Fin 6) (f : Tl → Tl) : (t.updTl i f).wid = t.wid := rfl
@[simp] theorem Task.updTl_depth (t : Task) (i : Fin 6) (f : Tl → Tl) : (t.updTl i f).depth = t.depth := rfl
@[simp] theorem Task.updTl_claims (t : Task) (i : Fin 6) (f : Tl → Tl) : (t.updTl i f).claims = t.claims := rfl
@[simp] theorem Task.updTl_parkedLong (t : Task) (i : Fin 6) (f : Tl → Tl) : (t.updTl i f).parkedLong = t.parkedLong := rfl
@[simp] theorem Task.updTl_preempt (t : Task) (i : Fin 6) (f : Tl → Tl) : (t.updTl i f).preempt = t.preempt := rfl
@[simp] theorem Task.updTl_aged (t : Task) (i : Fin 6) (f : Tl → Tl) : (t.updTl i f).aged = t.aged := rfl
@[simp] theorem Task.updTl_crossOk (t : Task) (i : Fin 6) (f : Tl → Tl) : (t.updTl i f).crossOk = t.crossOk := rfl
@[simp] theorem Task.updTl_readyAt (t : Task) (i : Fin 6) (f : Tl → Tl) : (t.updTl i f).readyAt = t.readyAt := rfl
@[simp] theorem Task.updTl_startedAt (t : Task) (i : Fin 6) (f : Tl → Tl) : (t.updTl i f).startedAt = t.startedAt := rfl
@[simp] theorem Task.updTl_parkedAt (t : Task) (i : Fin 6) (f : Tl → Tl) : (t.updTl i f).parkedAt = t.parkedAt := rfl
@[simp] theorem Task.updTl_awaits (t : Task) (i : Fin 6) (f : Tl → Tl) : (t.updTl i f).awaits = t.awaits := rfl
@[simp] theorem Task.updTl_target (t : Task) (i : Fin 6) (f : Tl → Tl) : (t.updTl i f).target = t.target := rfl
@[simp] theorem Task.updTl_elig (t : Task) (i : Fin 6) (f : Tl → Tl) : (t.updTl i f).elig = t.elig := rfl
@[simp] theorem Task.updTl_off (t : Task) (i : Fin 6) (f : Tl → Tl) : (t.updTl i f).off = t.off := rfl
@[simp] theorem Task.updTl_tiles (t : Task) (i : Fin 6) (f : Tl → Tl) : (t.updTl i f).tiles = t.tiles := rfl
@[simp] theorem Task.updTl_counted (t : Task) (i : Fin 6) (f : Tl → Tl) : (t.updTl i f).counted = t.counted := rfl
@[simp] theorem Task.updTl_tilesLeft (t : Task) (i : Fin 6) (f : Tl → Tl) : (t.updTl i f).tilesLeft = t.tilesLeft := rfl
@[simp] theorem Task.updTl_latched (t : Task) (i : Fin 6) (f : Tl → Tl) : (t.updTl i f).latched = t.latched := rfl
@[simp] theorem Task.updTl_aborted (t : Task) (i : Fin 6) (f : Tl → Tl) : (t.updTl i f).aborted = t.aborted := rfl
@[simp] theorem Task.updTl_savedWays (t : Task) (i : Fin 6) (f : Tl → Tl) : (t.updTl i f).savedWays = t.savedWays := rfl
@[simp] theorem Task.updTl_image (t : Task) (i : Fin 6) (f : Tl → Tl) : (t.updTl i f).image = t.image := rfl

end Sys2Proof.Machine
end

