-- ==== Sys2Proof/Laws/Shared.lean ====
section
/-! SUPPORT. What each operation that the meanings share can do: a slot, a trap, a return, a commit, a bundle boundary,
a result that lands, an operation that begins and ends. -/

namespace Sys2Proof.Machine

/-! ### Slots -/

/-- A slot always answers a next state. -/
theorem slot_next (s : State) (us : List Use) (body : State → Except Stop State) : ∃ t, s.slot us body = .next t := by
  unfold State.slot
  split
  · exact ⟨_, rfl⟩
  · split <;> exact ⟨_, rfl⟩
  · split
    · exact ⟨_, rfl⟩
    · exact ⟨_, rfl⟩
    · split <;> exact ⟨_, rfl⟩

/-- A slot alone in its bundle takes a trap, waits, or commits the effect of its own execution. -/
theorem slot_cases {s t : State} {us : List Use} {body : State → Except Stop State} (hp : s.scr.ph = .whole)
    (h : s.slot us body = .next t) :
    (∃ x k, (s.issue [us] = some (.trap x, k) ∨ (s.issue [us] = none ∧ body s = .error (.trap x) ∧ k = 0)) ∧
      t = s.takeTrap x k) ∨
    (∃ p, ((∃ k, s.issue [us] = some (.wait p, k)) ∨ (s.issue [us] = none ∧ body s = .error (.wait p))) ∧
      t = s.waitAt [us] p) ∨
    ∃ u, s.issue [us] = none ∧ body s = .ok u ∧ t = u.commit := by
  simp only [State.slot, hp] at h
  split at h
  · rename_i x k hi; cases h; exact .inl ⟨x, k, .inl hi, rfl⟩
  · rename_i p k hi; cases h; exact .inr (.inl ⟨p, .inl ⟨k, hi⟩, rfl⟩)
  · rename_i hi
    split at h
    · rename_i u hb; cases h; exact .inr (.inr ⟨u, hi, hb, rfl⟩)
    · rename_i x hb; cases h; exact .inl ⟨x, 0, .inr ⟨hi, hb, rfl⟩, rfl⟩
    · rename_i p hb; cases h; exact .inr (.inl ⟨p, .inr ⟨hi, hb⟩, rfl⟩)

/-- A list of uses is gathered, and nothing else happens, while a bundle is being checked. -/
theorem slot_collect {s : State} (us : List Use) (body : State → Except Stop State) (hp : s.scr.ph = .collect) :
    s.slot us body = .next { s with scr := { s.scr with uses := s.scr.uses ++ [us] } } := by simp [State.slot, hp]

/-- A bundle that waits changes no register, no memory and no pc of its task. -/
theorem State.waitAt_frame (s : State) (us : List (List Use)) (p : Bool) :
    (s.waitAt us p).cur.regs = s.cur.regs ∧ (s.waitAt us p).cur.pc = s.cur.pc ∧ (s.waitAt us p).cur.ctl = s.cur.ctl ∧
      (s.waitAt us p).cur.pend = s.cur.pend ∧ (s.waitAt us p).cur.ops = s.cur.ops ∧ (s.waitAt us p).cur.tls = s.cur.tls ∧
      (s.waitAt us p).mem = s.mem ∧ (s.waitAt us p).others = s.others := by
  cases p <;> exact ⟨rfl, rfl, rfl, rfl, rfl, rfl, rfl, rfl⟩

/-! ### Results -/

/-- A control register written changes the control registers only. -/
theorem Task.writeCtl_eq (t : Task) (k : Nat) (v : Word) : ∃ c, t.writeCtl k v = { t with ctl := c } := by
  unfold Task.writeCtl
  split <;> exact ⟨_, rfl⟩

/-- A result that lands changes registers, control registers and the shadow set only. -/
theorem Task.land_eq (t : Task) (o : Out) : ∃ r c x, t.land o = { t with regs := r, ctl := c, shadow := x } := by
  unfold Task.land
  cases o.dst
  case s i => by_cases h : i = 0 <;> simp only [h, if_true, if_false] <;> exact ⟨_, _, _, rfl⟩
  case p i => by_cases h : i = 0 <;> simp only [h, if_true, if_false] <;> exact ⟨_, _, _, rfl⟩
  case cr k => obtain ⟨c, h⟩ := t.writeCtl_eq k (o.data.setWidth 64); exact ⟨t.regs, c, t.shadow, h⟩
  case shadow k =>
    by_cases h : k < 11
    · exact ⟨t.regs, t.ctl, t.shadow.set k (o.data.setWidth 64), by simp only [h, dite_true]⟩
    · exact ⟨t.regs, t.ctl, t.shadow, by simp only [h, dite_false]⟩
  all_goals exact ⟨_, _, _, rfl⟩

/-- Results that land change registers, control registers and the shadow set only. -/
theorem Task.lands_eq (ps : List Pend) (t : Task) :
    ∃ r c x, ps.foldl (fun t p => t.land p.out) t = { t with regs := r, ctl := c, shadow := x } := by
  induction ps generalizing t with
  | nil => exact ⟨t.regs, t.ctl, t.shadow, rfl⟩
  | cons p ps ih =>
    obtain ⟨r, c, x, h⟩ := t.land_eq p.out
    obtain ⟨r', c', x', h'⟩ := ih (t.land p.out)
    exact ⟨r', c', x', by rw [List.foldl_cons, h', h]⟩

/-- A bundle boundary changes registers, control registers, the shadow set and the pending results only. -/
theorem Task.advance_eq (t : Task) :
    ∃ r c x p, t.advance = { t with regs := r, ctl := c, shadow := x, pend := p } := by
  obtain ⟨r, c, x, h⟩ := Task.lands_eq ((t.pend.map fun p => { p with rem := p.rem - 1 }).filter fun p => p.rem == 0)
    { t with pend := (t.pend.map fun p => { p with rem := p.rem - 1 }).filter fun p => p.rem != 0 }
  exact ⟨r, c, x, _, h⟩

/-- A destination marked changes the register files and the pending results only. -/
theorem Task.mark_eq (t : Task) (d : Dst) : ∃ r p, t.mark d = { t with regs := r, pend := p } := by
  unfold Task.mark
  cases d
  case s i => by_cases h : i = 0 <;> simp only [h, if_true, if_false] <;> exact ⟨_, _, rfl⟩
  all_goals exact ⟨_, _, rfl⟩

/-- A destination filled changes the register files only. -/
theorem Task.fill_eq (t : Task) (o : Out) (e : Ending) : ∃ r, t.fill o e = { t with regs := r } := by
  unfold Task.fill
  cases o.dst
  case s i => by_cases h : i = 0 <;> simp only [h, if_true, if_false] <;> exact ⟨_, rfl⟩
  all_goals exact ⟨_, rfl⟩

/-- A register that a producer marked is EMPTY. -/
theorem Reg.mark_empty {w : Nat} (x : Reg w) : ∃ n b f p, (x.mark).st = .empty n b f p ∧ x.mark.val = x.val := by
  unfold Reg.mark
  split <;> exact ⟨_, _, _, _, rfl, rfl⟩

/-- A FULL register marked and filled with data is FULL and holds the result under its mask (06 R124). -/
theorem Reg.fill_mark {w : Nat} (x : Reg w) (o : Out) (h : x.st = .full) :
    x.mark.fill o .data = ⟨merge x.val o, .full⟩ := by
  simp [Reg.mark, Reg.fill, h]

/-- A FULL register marked by a producer that fails is FAILED, and holds its old value once the cause is raised. -/
theorem Reg.fill_mark_fail {w : Nat} (x : Reg w) (o : Out) (f : Fail) (op : Nat) (h : x.st = .full) (hf : f.link = none) :
    (x.mark.fill o (.fail f op)).raised op = ⟨x.val, .full⟩ := by
  simp [Reg.mark, Reg.fill, Reg.raised, h, hf]

/-! ### Operations -/

/-- An operation begun draws its number, stands last among the operations, and changes nothing but registers and pending
results beside. -/
theorem State.beginOp_eq (s : State) (kind : OpKind) (outs : List Out) (parks : Bool) :
    ∃ r p, s.beginOp kind outs parks = { s with
      nextId := s.nextId + 1
      cur := { s.cur with
        regs := r, pend := p
        ops := s.cur.ops ++ [⟨s.nextId, kind, outs, none, false, parks, false, false, 0, false, none, 0⟩] } } := by
  have hm : ∀ (os : List Out) (t : Task), ∃ r p, os.foldl (fun t o => t.mark o.dst) t = { t with regs := r, pend := p } := by
    intro os
    induction os with
    | nil => exact fun t => ⟨t.regs, t.pend, rfl⟩
    | cons o os ih =>
      intro t
      obtain ⟨r, p, h⟩ := t.mark_eq o.dst
      obtain ⟨r', p', h'⟩ := ih (t.mark o.dst)
      exact ⟨r', p', by rw [List.foldl_cons, h', h]⟩
  obtain ⟨r, p, h⟩ := hm outs s.cur
  exact ⟨r, p, by simp only [State.beginOp, State.setCur, h]⟩

/-- A task changed by its number leaves every other task as it was. -/
theorem State.updTask_other (s : State) {id : Nat} (f : Task → Task) {t : Task} (h : t ∈ s.others) (hne : t.id ≠ id) :
    t ∈ (s.updTask id f).others := by
  simp only [State.updTask, List.mem_map]
  exact ⟨t, h, by simp [hne]⟩

/-- A task changed by the number of the focused task is the focused task. -/
theorem State.updTask_cur (s : State) (f : Task → Task) : (s.updTask s.cur.id f).cur = f s.cur := by
  simp [State.updTask]

/-- A task changed by another number leaves the focused task as it was. -/
theorem State.updTask_cur_ne (s : State) {id : Nat} (f : Task → Task) (h : s.cur.id ≠ id) :
    (s.updTask id f).cur = s.cur := by
  simp [State.updTask, h]

/-! ### Traps -/

/-- A trap that counts nothing as reported and charges nothing settles nothing. -/
theorem State.settle_now (s : State) (cause : Nat) (eval : Word) : s.settle (Trap.now cause eval) = s := rfl

/-- A plain cause raised where a handler exists: the task enters it (20 R337). -/
theorem State.takeTrap_now {s : State} (cause slot : Nat) (eval : Word) (h : s.noHandler = false) :
    s.takeTrap (Trap.now cause eval) slot =
      s.tookFree.setCur fun k =>
        { k.enter ((Trap.now cause eval).causeWord slot) eval k.pc none k.pend with status := .running } := by
  have h' : s.tookFree.noHandler = false := h
  simp only [State.takeTrap, State.settle_now, h', Bool.false_eq_true, if_false]
  rfl

/-- What entering a handler writes (20 R337). -/
theorem Task.enter_spec (t : Task) (cause eval epc : Word) (x : Option Word) (held : List Pend) :
    (t.enter cause eval epc x held).ctl.epc = epc ∧ (t.enter cause eval epc x held).ctl.cause = cause ∧
      (t.enter cause eval epc x held).ctl.eval = eval ∧ (t.enter cause eval epc x held).ctl.psv = t.ctl.sv ∧
      (t.enter cause eval epc x held).ctl.sv = true ∧ (t.enter cause eval epc x held).ctl.intrap = true ∧
      (t.enter cause eval epc x held).pc = t.ctl.tvec ∧ (t.enter cause eval epc x held).regs = t.regs ∧
      (t.enter cause eval epc x held).pend = [] ∧ (t.enter cause eval epc x held).held = held :=
  ⟨rfl, rfl, rfl, rfl, rfl, rfl, rfl, rfl, rfl, rfl⟩

/-- RTE with no result pending or held only changes the pc, the mode and INTRAP (08 R179). -/
theorem Task.rte_plain (t : Task) (hp : t.pend = []) (hh : t.held = []) :
    t.rte = { t with pc := t.ctl.epc, ctl := { t.ctl with intrap := false, sv := t.ctl.psv } } := by
  cases t; cases hp; cases hh; rfl

/-! ### Steps -/

/-- A result carried on answers a next state where both parts do. -/
theorem andThen_next {r : Res} {f : State → Res} (hr : ∃ s, r = .next s) (hf : ∀ s, ∃ t, f s = .next t) :
    ∃ t, andThen r f = .next t := by
  obtain ⟨s, rfl⟩ := hr; exact hf s

/-- A step answers the end of what its body answers. -/
theorem step_of_body {s t : State} (h : stepBody s = .next t) : step s = .next (t.stepEnd s) := by
  simp [step, h, andThen]

/-- The head of the agenda is executed first. -/
theorem stepBody_agenda {s : State} {i : Instr} {is : List Instr} (h : s.agenda = i :: is) :
    stepBody s = exec i { s with agenda := is } := by simp [stepBody, h]

end Sys2Proof.Machine
end

