-- ==== Sys2Proof/Tests/Slice0.lean ====
section
/-! SUPPORT. Tests: words written out from the encodings, ill-formed operands refused, and steps on small states. -/

namespace Sys2Proof.Tests

set_option Elab.async false

open Sys2Proof Sys2Proof.Machine

/-! ### Words (07 R138 to R145), written from the formats of R139 and the opcode map of R143 -/

/-- Every word decodes to its slot. -/
def decodesTo (l : List (Nat × Slot)) : Bool :=
  l.all fun p => match decodeSlot p.1 with
    | .ok s => decide (s = p.2)
    | .error _ => false

/-- No word decodes. -/
def refuses (l : List Nat) : Bool :=
  l.all fun w => match decodeSlot w with
    | .ok _ => false
    | .error _ => true

theorem test_words_scalar_1 : decodesTo [
    (0x80000000, ⟨true, .nop⟩),
    (0x004557F4, ⟨false, .add ⟨5, 21, 63, false, true⟩⟩),
    (0x80BE2A88, ⟨true, .sub ⟨62, 10, 40, true, false⟩⟩),
    (0x00E1BDF0, ⟨false, .addi ⟨33, 47, false, 0x1F0⟩⟩),
    (0x810557F8, ⟨true, .mul ⟨5, 21, 63, true, false⟩⟩),
    (0x017E2A84, ⟨false, .mulh ⟨62, 10, 40, false, true⟩⟩),
    (0x81A1BC38, ⟨true, .div ⟨33, 47, 3, true, false⟩⟩),
    (0x018557F5, ⟨false, .divu ⟨5, 21, 63, false, true⟩⟩),
    (0x81BE2A8A, ⟨true, .rem ⟨62, 10, 40, true, false⟩⟩),
    (0x01A1BC37, ⟨false, .remu ⟨33, 47, 3, false, true⟩⟩),
    (0x81C557F8, ⟨true, .and ⟨5, 21, 63, true, false⟩⟩),
    (0x023E2A84, ⟨false, .or ⟨62, 10, 40, false, true⟩⟩)] = true := by decide +kernel

theorem test_words_scalar_2 : decodesTo [
    (0x8261BC38, ⟨true, .xor ⟨33, 47, 3, true, false⟩⟩),
    (0x028555F0, ⟨false, .andi ⟨5, 21, false, 0x1F0⟩⟩),
    (0x82FE2A25, ⟨true, .ori ⟨62, 10, true, 37⟩⟩),
    (0x0321BDF0, ⟨false, .xori ⟨33, 47, false, 0x1F0⟩⟩),
    (0x834557F8, ⟨true, .shl ⟨5, 21, 63, true, false⟩⟩),
    (0x03BE2A84, ⟨false, .shr ⟨62, 10, 40, false, true⟩⟩),
    (0x83E1BC38, ⟨true, .sar ⟨33, 47, 3, true, false⟩⟩),
    (0x0405543F, ⟨false, .shli ⟨5, 21, false, 63⟩⟩),
    (0x8445543F, ⟨true, .shri ⟨5, 21, false, 63⟩⟩),
    (0x0485543F, ⟨false, .sari ⟨5, 21, false, 63⟩⟩),
    (0x84C557F4, ⟨true, .rotl ⟨5, 21, 63, false, true⟩⟩),
    (0x053E2808, ⟨false, .clz ⟨62, 10, true⟩⟩)] = true := by decide +kernel

theorem test_words_scalar_3 : decodesTo [
    (0x8561BC00, ⟨true, .ctz ⟨33, 47, false⟩⟩),
    (0x05855408, ⟨false, .popc ⟨5, 21, true⟩⟩),
    (0x85FE2A84, ⟨true, .min ⟨62, 10, 40, false, true⟩⟩),
    (0x0621BC38, ⟨false, .max ⟨33, 47, 3, true, false⟩⟩),
    (0x864557FC, ⟨true, .sel ⟨5, 21, 63, 6, false⟩⟩),
    (0x06BE9C31, ⟨false, .li ⟨62, 0x9C31⟩⟩),
    (0x86E19C31, ⟨true, .lsi ⟨33, 0x9C31⟩⟩),
    (0x072E57F9, ⟨false, .cmp ⟨5, .bit, 21, 63, true, false, true⟩⟩),
    (0x875B29F0, ⟨true, .cmpi ⟨3, .ge, 10, false, 0x1F0⟩⟩),
    (0x078CE000, ⟨false, .pand ⟨1, 4, 7⟩⟩),
    (0x878CE400, ⟨true, .por ⟨1, 4, 7⟩⟩),
    (0x078CE800, ⟨false, .pxor ⟨1, 4, 7⟩⟩)] = true := by decide +kernel

theorem test_words_scalar_4 : decodesTo [
    (0x878CEC00, ⟨true, .pandc ⟨1, 4, 7⟩⟩),
    (0x078CF000, ⟨false, .porc ⟨1, 4, 7⟩⟩),
    (0x878CF400, ⟨true, .pnand ⟨1, 4, 7⟩⟩),
    (0x078CF800, ⟨false, .pnor ⟨1, 4, 7⟩⟩),
    (0x878CFC00, ⟨true, .pxnor ⟨1, 4, 7⟩⟩),
    (0x07FE0000, ⟨false, .ppack ⟨62⟩⟩),
    (0x8800BC00, ⟨true, .punpack ⟨47, false⟩⟩),
    (0x084557FB, ⟨false, .fadd ⟨5, 21, 63, true, false, .bf16⟩⟩),
    (0x88BE2A86, ⟨true, .fsub ⟨62, 10, 40, false, true, .f16⟩⟩),
    (0x08E1BC39, ⟨false, .fmul ⟨33, 47, 3, true, false, .f32⟩⟩),
    (0x890557F4, ⟨true, .ffma ⟨5, 21, 63, false, true, .f64⟩⟩),
    (0x097E2A8B, ⟨false, .fmin ⟨62, 10, 40, true, false, .bf16⟩⟩)] = true := by decide +kernel

theorem test_words_scalar_5 : decodesTo [
    (0x89A1BC36, ⟨true, .fmax ⟨33, 47, 3, false, true, .f16⟩⟩),
    (0x09D557F9, ⟨false, .fcmp ⟨2, .or, 21, 63, true, false, .f32⟩⟩),
    (0x8A3E28D1, ⟨true, .fcvt ⟨62, 10, .u64, .bf16, false, .inf⟩⟩),
    (0x0A61BC3B, ⟨false, .fdiv ⟨33, 47, 3, true, false, .bf16⟩⟩),
    (0x8A855402, ⟨true, .fsqrt ⟨5, 21, false, .f16⟩⟩),
    (0x0AFE0103, ⟨false, .crd ⟨62, 0x103⟩⟩),
    (0x8B00BC12, ⟨true, .cwr ⟨47, 0x012⟩⟩),
    (0x0B405400, ⟨false, .fmtset ⟨21⟩⟩),
    (0x8BBE0000, ⟨true, .emsave ⟨62⟩⟩),
    (0x0BC0BC08, ⟨false, .emload ⟨47, true⟩⟩),
    (0x8C055400, ⟨true, .emcomb ⟨5, 21, false⟩⟩),
    (0x0C7E0000, ⟨false, .cmsave ⟨62⟩⟩)] = true := by decide +kernel

theorem test_words_scalar_6 : decodesTo [
    (0x8C80BC00, ⟨true, .cmload ⟨47, false⟩⟩),
    (0x0CF5FF03, ⟨false, .br ⟨6, true, false, 0x1FF03⟩⟩),
    (0x8D33FF03, ⟨true, .call ⟨6, false, true, 0x1FF03⟩⟩),
    (0x0D40BC08, ⟨false, .jmp ⟨47, true⟩⟩),
    (0x8D805400, ⟨true, .callr ⟨21, false⟩⟩),
    (0x0DC00000, ⟨false, .ret⟩),
    (0x8E000101, ⟨true, .enter ⟨0x101⟩⟩),
    (0x0E400101, ⟨false, .leave ⟨0x101⟩⟩),
    (0x8EBEFFE8, ⟨true, .dbnz ⟨62, 0xFFE8⟩⟩),
    (0x0EC0015A, ⟨false, .trap ⟨0x15A⟩⟩),
    (0x8F000007, ⟨true, .svc ⟨7⟩⟩),
    (0x0F400000, ⟨false, .rte⟩)] = true := by decide +kernel

theorem test_words_scalar_7 : decodesTo [
    (0x8F800007, ⟨true, .brk ⟨7⟩⟩),
    (0x0FC00000, ⟨false, .halt⟩),
    (0x903E2800, ⟨true, .tspawn ⟨62, 10, false⟩⟩),
    (0x10400000, ⟨false, .texit⟩),
    (0x90800000, ⟨true, .knext⟩),
    (0x10C02812, ⟨false, .etchmark ⟨10, 0x012⟩⟩),
    (0x91210000, ⟨true, .rdcyc ⟨33⟩⟩)] = true := by decide +kernel

theorem test_words_vector_1 : decodesTo [
    (0x2012458E, ⟨false, .vadd ⟨9, 4, 11, .w256, .bf16, true, false⟩⟩),
    (0xA06D1D55, ⟨true, .vsub ⟨22, 17, 26, .w1024, .f32, false, true⟩⟩),
    (0x209245A2, ⟨false, .vmul ⟨9, 4, 11, .w512, .i8, true, false⟩⟩),
    (0xA0ED1D09, ⟨true, .vfma ⟨22, 17, 26, .w256, .i32, false, true⟩⟩),
    (0x211245D2, ⟨false, .vfnma ⟨9, 4, 11, .w1024, .f16, true, false⟩⟩),
    (0xA16D1D39, ⟨true, .vmin ⟨22, 17, 26, .w512, .f64, false, true⟩⟩),
    (0x21924586, ⟨false, .vmax ⟨9, 4, 11, .w256, .i16, true, false⟩⟩),
    (0xA1ED104C, ⟨true, .vabs ⟨22, 17, .w1024, .bf16, false⟩⟩),
    (0x22124036, ⟨false, .vneg ⟨9, 4, .w512, .f32, true⟩⟩),
    (0xA26D1D19, ⟨true, .vand ⟨22, 17, 26, .w256, .f64, false, true⟩⟩),
    (0x22AD1D19, ⟨false, .vor ⟨22, 17, 26, .w256, .f64, false, true⟩⟩),
    (0xA2ED1D19, ⟨true, .vxor ⟨22, 17, 26, .w256, .f64, false, true⟩⟩)] = true := by decide +kernel

theorem test_words_vector_2 : decodesTo [
    (0x232D1018, ⟨false, .vnot ⟨22, 17, .w256, .f64, false⟩⟩),
    (0xA36D1D01, ⟨true, .vshl ⟨22, 17, 26, .w256, .i8, false, true⟩⟩),
    (0x239245CA, ⟨false, .vshr ⟨9, 4, 11, .w1024, .i32, true, false⟩⟩),
    (0xA3ED1D25, ⟨true, .vsar ⟨22, 17, 26, .w512, .i16, false, true⟩⟩),
    (0x24124582, ⟨false, .vminu ⟨9, 4, 11, .w256, .i8, true, false⟩⟩),
    (0xA46D1D49, ⟨true, .vmaxu ⟨22, 17, 26, .w1024, .i32, false, true⟩⟩),
    (0x249245A6, ⟨false, .vadds ⟨9, 4, 11, .w512, .i16, true, false⟩⟩),
    (0xA4ED1D01, ⟨true, .vsubs ⟨22, 17, 26, .w256, .i8, false, true⟩⟩),
    (0x251245CA, ⟨false, .vmulh ⟨9, 4, 11, .w1024, .i32, true, false⟩⟩),
    (0xA6323A63, ⟨true, .vcmp ⟨.un, 17, 26, .w512, .f16, false, true, true⟩⟩),
    (0x26524596, ⟨false, .vsel ⟨9, 4, 11, .w256, .f32, true, false⟩⟩),
    (0xA6924016, ⟨true, .vmov ⟨9, 4, .w256, .f32, true⟩⟩)] = true := by decide +kernel

theorem test_words_vector_3 : decodesTo [
    (0x26D24016, ⟨false, .vmovu ⟨9, 4, .w256, .f32, true⟩⟩),
    (0xA712054B, ⟨true, .vbcast ⟨9, 21, .w256, .f32, true⟩⟩),
    (0x274527F4, ⟨false, .vext ⟨5, 4, 63, .f32, .w256⟩⟩),
    (0xA792454B, ⟨true, .vins ⟨9, 4, 21, .w256, .f32, true⟩⟩),
    (0x2812454D, ⟨false, .vaddsc ⟨9, 4, 21, .w256, .f64, true⟩⟩),
    (0xA86D12A2, ⟨true, .vmulsc ⟨22, 17, 10, .w1024, .i16, false⟩⟩),
    (0x28924BD7, ⟨false, .vfmasc ⟨9, 4, 47, .w512, .bf16, true⟩⟩),
    (0xA92D10A0, ⟨true, .vaddi ⟨22, 17, 5, .w256, .i8⟩⟩),
    (0x295240F2, ⟨false, .vshli ⟨9, 4, 7, .w1024, .i32⟩⟩),
    (0xA99240F2, ⟨true, .vshri ⟨9, 4, 7, .w1024, .i32⟩⟩),
    (0x29D240F2, ⟨false, .vsari ⟨9, 4, 7, .w1024, .i32⟩⟩),
    (0xAA120F72, ⟨true, .vli ⟨9, 0x7B, .w1024, .i32⟩⟩)] = true := by decide +kernel

theorem test_words_vector_4 : decodesTo [
    (0x2B2D1D21, ⟨false, .vperm ⟨22, 17, 26, .w512, .i8, false, true⟩⟩),
    (0xAB6D1BD0, ⟨true, .vslide ⟨22, 17, 47, .w512, .i8, false⟩⟩),
    (0x2BAC002C, ⟨false, .viota ⟨22, .w512, .bf16⟩⟩),
    (0xAC050000, ⟨true, .vpopc ⟨5, .w256⟩⟩),
    (0x2C7E0002, ⟨false, .vfirst ⟨62, .w1024⟩⟩),
    (0xAD0969C3, ⟨true, .vdefer ⟨4, 5, 0xA7, 3⟩⟩),
    (0x2D6369FF, ⟨false, .vdrain ⟨17, 5, 0xA7, 63⟩⟩),
    (0xADBE0500, ⟨true, .vdstat ⟨62, 40⟩⟩)] = true := by decide +kernel

theorem test_words_special_1 : decodesTo [
    (0x402D1034, ⟨false, .vexp2 ⟨22, 17, .w512, .f32, false⟩⟩),
    (0xC0524016, ⟨true, .vlog2 ⟨9, 4, .w256, .f32, true⟩⟩),
    (0x40AD1054, ⟨false, .vrcp ⟨22, 17, .w1024, .f32, false⟩⟩),
    (0xC0D24036, ⟨true, .vrsqrt ⟨9, 4, .w512, .f32, true⟩⟩),
    (0x412D1014, ⟨false, .vsqrt ⟨22, 17, .w256, .f32, false⟩⟩),
    (0xC1524056, ⟨true, .vtanh ⟨9, 4, .w1024, .f32, true⟩⟩),
    (0x41AD1034, ⟨false, .vsigm ⟨22, 17, .w512, .f32, false⟩⟩),
    (0xC1D24016, ⟨true, .vsint ⟨9, 4, .w256, .f32, true⟩⟩),
    (0x422D1054, ⟨false, .vcost ⟨22, 17, .w1024, .f32, false⟩⟩),
    (0xC2524036, ⟨true, .vexp ⟨9, 4, .w512, .f32, true⟩⟩),
    (0x42AD1014, ⟨false, .verf ⟨22, 17, .w256, .f32, false⟩⟩),
    (0xC4124BE2, ⟨true, .vcvt ⟨9, 4, .f32, .f8, .w1024, .sat, .rtz⟩⟩)] = true := by decide +kernel

theorem test_words_special_2 : decodesTo [
    (0x446D185F, ⟨false, .vquant ⟨22, 17, 33, .mxe5m2, .trap, true⟩⟩),
    (0xC4924174, ⟨true, .vdequant ⟨9, 4, 5, .e5m2, .nan⟩⟩),
    (0x44ED12A4, ⟨false, .vrng ⟨22, 17, 10, .w1024, .i32, false⟩⟩),
    (0xC521200D, ⟨true, .vredsum ⟨33, 4, .bf16, .w512⟩⟩),
    (0x45458814, ⟨false, .vredmax ⟨5, 17, .f32, .w256⟩⟩),
    (0xC5BE2002, ⟨true, .vredmin ⟨62, 4, .i8, .w1024⟩⟩),
    (0x45E18809, ⟨false, .vargmax ⟨33, 17, .i32, .w512⟩⟩),
    (0xC6124012, ⟨true, .vscan ⟨9, 4, .w256, .f16, true⟩⟩),
    (0x466D1D49, ⟨false, .vsort ⟨22, 17, 26, .w1024, .i32, false, true⟩⟩),
    (0xC6AD1D49, ⟨true, .vmrg ⟨22, 17, 26, .w1024, .i32, false, true⟩⟩),
    (0x472D1FA8, ⟨false, .smerge ⟨22, 17, 62, 40⟩⟩),
    (0xC8210001, ⟨true, .mma ⟨33, true⟩⟩)] = true := by decide +kernel

theorem test_words_special_3 : decodesTo [
    (0x48405406, ⟨false, .mpset ⟨21, 6⟩⟩),
    (0xC8BE0003, ⟨true, .mpget ⟨62, 3⟩⟩),
    (0x48E1BC3A, ⟨false, .attn ⟨33, 47, 3, true, false, true, false⟩⟩)] = true := by decide +kernel

theorem test_words_memory_1 : decodesTo [
    (0xE0055606, ⟨true, .ldb ⟨5, 21, true, 6⟩⟩),
    (0x607E29FE, ⟨false, .ldh ⟨62, 10, false, 0x1FE⟩⟩),
    (0xE0A1BE06, ⟨true, .ldw ⟨33, 47, true, 6⟩⟩),
    (0x60C555FE, ⟨false, .ldd ⟨5, 21, false, 0x1FE⟩⟩),
    (0xE13E2A06, ⟨true, .ldbu ⟨62, 10, true, 6⟩⟩),
    (0x6161BDFE, ⟨false, .ldhu ⟨33, 47, false, 0x1FE⟩⟩),
    (0xE1855606, ⟨true, .ldwu ⟨5, 21, true, 6⟩⟩),
    (0x61FE29FE, ⟨false, .stb ⟨62, 10, false, 0x1FE⟩⟩),
    (0xE221BE06, ⟨true, .sth ⟨33, 47, true, 6⟩⟩),
    (0x624555FE, ⟨false, .stw ⟨5, 21, false, 0x1FE⟩⟩),
    (0xE2BE2A06, ⟨true, .std ⟨62, 10, true, 6⟩⟩),
    (0x62E1BC34, ⟨false, .ldx ⟨33, 47, 3, false, true, .e8⟩⟩)] = true := by decide +kernel

theorem test_words_memory_2 : decodesTo [
    (0xE30557FB, ⟨true, .stx ⟨5, 21, 63, true, false, .e64⟩⟩),
    (0x642C5203, ⟨false, .vld ⟨22, 10, false, .w1024, 3⟩⟩),
    (0xE4537DFE, ⟨true, .vst ⟨9, 47, true, .w512, 0xFE⟩⟩),
    (0x64ACAFE0, ⟨false, .vlds ⟨22, 21, 63, .w256, .e8, false⟩⟩),
    (0xE4D25517, ⟨true, .vsts ⟨9, 10, 40, .w1024, .e64, true⟩⟩),
    (0x652D7E8C, ⟨false, .vgath ⟨22, 47, 26, .w512, .e32, false⟩⟩),
    (0xE552AAC7, ⟨true, .vscat ⟨9, 21, 11, .w256, .e64, true⟩⟩),
    (0x663E29FE, ⟨false, .ldwf ⟨62, 10, false, 0x1FE⟩⟩),
    (0xE661BE06, ⟨true, .ldtk ⟨33, 47, true, 6⟩⟩),
    (0x668555FE, ⟨false, .stwe ⟨5, 21, false, 0x1FE⟩⟩),
    (0xE6FE2A06, ⟨true, .stfl ⟨62, 10, true, 6⟩⟩),
    (0x6700BC34, ⟨false, .fesetEmpty ⟨47, 3, false, true⟩⟩)] = true := by decide +kernel

theorem test_words_memory_3 : decodesTo [
    (0xE70057F9, ⟨true, .fesetFull ⟨21, 63, true, false⟩⟩),
    (0x677E29FE, ⟨false, .feget ⟨62, 10, false, 0x1FE⟩⟩),
    (0xE821BC3B, ⟨true, .ataddW ⟨33, 47, 3, .rel, .sy⟩⟩),
    (0x684557F6, ⟨false, .ataddD ⟨5, 21, 63, .acq, .pk⟩⟩),
    (0xE8BE2A81, ⟨true, .atminW ⟨62, 10, 40, .rlx, .di⟩⟩),
    (0x68E1BC3C, ⟨false, .atminD ⟨33, 47, 3, .ar, .cl⟩⟩),
    (0xE90557FB, ⟨true, .atmaxW ⟨5, 21, 63, .rel, .sy⟩⟩),
    (0x697E2A86, ⟨false, .atmaxD ⟨62, 10, 40, .acq, .pk⟩⟩),
    (0xE9A1BC31, ⟨true, .atminuW ⟨33, 47, 3, .rlx, .di⟩⟩),
    (0x69C557FC, ⟨false, .atminuD ⟨5, 21, 63, .ar, .cl⟩⟩),
    (0xEA3E2A8B, ⟨true, .atmaxuW ⟨62, 10, 40, .rel, .sy⟩⟩),
    (0x6A61BC36, ⟨false, .atmaxuD ⟨33, 47, 3, .acq, .pk⟩⟩)] = true := by decide +kernel

theorem test_words_memory_4 : decodesTo [
    (0xEA8557F1, ⟨true, .atandW ⟨5, 21, 63, .rlx, .di⟩⟩),
    (0x6AFE2A8C, ⟨false, .atandD ⟨62, 10, 40, .ar, .cl⟩⟩),
    (0xEB21BC3B, ⟨true, .atorW ⟨33, 47, 3, .rel, .sy⟩⟩),
    (0x6B4557F6, ⟨false, .atorD ⟨5, 21, 63, .acq, .pk⟩⟩),
    (0xEBBE2A81, ⟨true, .atxorW ⟨62, 10, 40, .rlx, .di⟩⟩),
    (0x6BE1BC3C, ⟨false, .atxorD ⟨33, 47, 3, .ar, .cl⟩⟩),
    (0xEC0557FB, ⟨true, .atxchW ⟨5, 21, 63, .rel, .sy⟩⟩),
    (0x6C7E2A86, ⟨false, .atxchD ⟨62, 10, 40, .acq, .pk⟩⟩),
    (0xECA1BC31, ⟨true, .atcasW ⟨33, 47, 3, .rlx, .di⟩⟩),
    (0x6CC557FC, ⟨false, .atcasD ⟨5, 21, 63, .ar, .cl⟩⟩),
    (0xED3E2A8B, ⟨true, .atfaddW ⟨62, 10, 40, .rel, .sy⟩⟩),
    (0x6D61BC36, ⟨false, .atfaddD ⟨33, 47, 3, .acq, .pk⟩⟩)] = true := by decide +kernel

theorem test_words_memory_5 : decodesTo [
    (0xEE055602, ⟨true, .acq ⟨5, 21, true, .di⟩⟩),
    (0x6E7E2800, ⟨false, .rel ⟨62, 10, false, .co⟩⟩),
    (0xEEA1BE17, ⟨true, .bind ⟨33, 47, true, 23⟩⟩),
    (0x6EC55417, ⟨false, .unbind ⟨5, 21, false, 23⟩⟩),
    (0xEF000003, ⟨true, .fence ⟨.pk⟩⟩),
    (0x6F61BC04, ⟨false, .tlwait ⟨33, 47, .kv⟩⟩),
    (0xEF850003, ⟨true, .tlread ⟨5, .fabric⟩⟩),
    (0x6FFE0002, ⟨false, .tlbump ⟨62, .attn⟩⟩),
    (0xF021BE03, ⟨true, .rld ⟨33, 47, true, .e64⟩⟩),
    (0x70455402, ⟨false, .rst ⟨5, 21, false, .e32⟩⟩),
    (0xF09256FE, ⟨true, .rldv ⟨9, 10, true, .w1024, 0xFE⟩⟩),
    (0x70ED7903, ⟨false, .rstv ⟨22, 47, false, .w512, 3⟩⟩)] = true := by decide +kernel

theorem test_words_memory_6 : decodesTo [
    (0xF2005409, ⟨true, .hset ⟨21, 9⟩⟩),
    (0x727E0003, ⟨false, .hgo ⟨62, 3⟩⟩),
    (0xF2A1000A, ⟨true, .hget ⟨33, 10⟩⟩),
    (0x72C00069, ⟨false, .blygrant ⟨true, 41⟩⟩),
    (0xF33E0032, ⟨true, .blystat ⟨62, 50⟩⟩),
    (0x7400BDFE, ⟨false, .pref ⟨47, false, 0x1FE⟩⟩),
    (0xF4405606, ⟨true, .flush ⟨21, true, 6⟩⟩),
    (0x748029FE, ⟨false, .inval ⟨10, false, 0x1FE⟩⟩),
    (0xF4E10006, ⟨true, .wayconv ⟨33, 6⟩⟩),
    (0x75050000, ⟨false, .wayrest ⟨5⟩⟩),
    (0xF600281D, ⟨true, .qpush ⟨10, 29⟩⟩),
    (0x7661003A, ⟨false, .qpop ⟨33, 58⟩⟩)] = true := by decide +kernel

theorem test_words_memory_7 : decodesTo [
    (0xF685003A, ⟨true, .qstat ⟨5, 58⟩⟩),
    (0x773E2800, ⟨false, .watch ⟨62, 10⟩⟩),
    (0xF761BC00, ⟨true, .unwatch ⟨33, 47⟩⟩),
    (0x780555FE, ⟨false, .kvopen ⟨5, 21, false, 0x1FE⟩⟩),
    (0xF87E2A06, ⟨true, .kvfork ⟨62, 10, true, 6⟩⟩),
    (0x78A1BDFE, ⟨false, .kvrsv ⟨33, 47, false, 0x1FE⟩⟩),
    (0xF8C55606, ⟨true, .kvwr ⟨5, 21, true, 6⟩⟩),
    (0x793E29FE, ⟨false, .kvtrim ⟨62, 10, false, 0x1FE⟩⟩),
    (0xF961BE06, ⟨true, .kvfree ⟨33, 47, true, 6⟩⟩),
    (0x798555FE, ⟨false, .kvclass ⟨5, 21, false, 0x1FE⟩⟩),
    (0xF9FE2A06, ⟨true, .kvpin ⟨62, 10, true, 6⟩⟩),
    (0x7A21BDFE, ⟨false, .kvdemote ⟨33, 47, false, 0x1FE⟩⟩)] = true := by decide +kernel

theorem test_words_memory_8 : decodesTo [
    (0xFA455606, ⟨true, .kvpromote ⟨5, 21, true, 6⟩⟩),
    (0x7ABE29FE, ⟨false, .kvlend ⟨62, 10, false, 0x1FE⟩⟩),
    (0xFAE1BE06, ⟨true, .kvquery ⟨33, 47, true, 6⟩⟩),
    (0x7C055400, ⟨false, .tlbinvPage ⟨5, 21, false⟩⟩),
    (0xFC3E0001, ⟨true, .tlbinvCtx ⟨62, 0, false⟩⟩),
    (0x7C210002, ⟨false, .tlbinvAll ⟨33, 0, false⟩⟩),
    (0xFC4556C4, ⟨true, .kvspace ⟨5, 21, true, 0xC4⟩⟩)] = true := by decide +kernel
/-! ### Small states -/

/-- A task of context 1 runs in the focus, in user mode, with a handler and a task window of 32 KiB. -/
def demo : State :=
  { State.reset with
    ctxs := [Ctx.supervisor, { Ctx.supervisor with id := 1, tvec := 0x500000, bqcap := 64, qmap := 0 }]
    cur := { Task.blank with
      id := 1, ctx := 1, status := .running, pc := 0x400000
      regs := { Regs.start with sp := 0x4000, lk := 0x400800 }
      ctl := { Ctl.start with tvec := 0x500000, slim := 0x100, spl := 0x8000 } } }

/-- A scalar register set. -/
def setS (s : State) (r : SReg) (x : Word) : State := s.setRegs fun g => { g with s := g.s.set r (Reg.ofVal x) }

/-- A vector register set. -/
def setV (s : State) (r : VReg) (x : VWord) : State := s.setRegs fun g => { g with v := g.v.set r (Reg.ofVal x) }

/-- The demo in supervisor mode. -/
def sup : State := demo.setCtl fun c => { c with sv := true }

/-- The demo in its handler. -/
def inTrap : State := sup.setCtl fun c => { c with intrap := true, epc := 0x400100 }

/-- A scalar register in another state. -/
def putS (s : State) (r : SReg) (x : Reg 64) : State := s.setRegs fun g => { g with s := g.s.set r x }

/-- The demo with one operation outstanding. -/
def withOp (s : State) (kind : OpKind) (outs : List Out) : State :=
  { s with nextId := 6, cur := { s.cur with ops := [⟨5, kind, outs, none, false, false, false, false, 0, false, none, 0⟩] } }

/-- The demo whose task waits in an acquire. -/
def waiting : State := withOp demo (.acq (.pad (padBase 0 + 0x300)) true false) []

/-! ### Scalar instructions: states that meet the hypotheses of the statements -/

theorem witness_IntegerRegisterResults :
    demo.Issues (.add ⟨1, 2, 3, true, true⟩) ∧ demo.Issues (.mul ⟨1, 2, 3, true, false⟩) ∧
      demo.Issues (.clz ⟨0, 2, true⟩) ∧ demo.Issues (.addi ⟨63, 2, true, 0x1FF⟩) ∧
      demo.Issues (.div ⟨1, 2, 0, true, true⟩) ∧ demo.Issues (.remu ⟨0, 2, 3, false, true⟩) ∧
      ((withOp demo .div [outS 3 7]).findOp 5).map (fun p => p.2.kind) = some .div ∧ 64 ≤ (0x40 : BitVec 9).toNat := by decide +kernel

theorem witness_CompareSelectAndConstantResults :
    demo.Issues (.sel ⟨1, 2, 3, 4, true⟩) ∧ demo.Issues (.li ⟨1, 0xFFFF⟩) ∧ demo.Issues (.lsi ⟨1, 7⟩) ∧ demo.Issues (.rdcyc ⟨1⟩) ∧
      demo.Issues .nop ∧ demo.Issues (.cmp ⟨0, .bit, 1, 2, true, true, true⟩) ∧ demo.Issues (.cmpi ⟨1, .lt, 2, true, 3⟩) ∧
      demo.Issues (.pandc ⟨1, 2, 3⟩) ∧ demo.Issues (.ppack ⟨1⟩) ∧ demo.Issues (.punpack ⟨1, true⟩) := by decide +kernel

theorem witness_ScalarFloatingPointResults :
    demo.Issues (.fadd ⟨1, 2, 3, true, true, .f16⟩) ∧ demo.Issues (.ffma ⟨1, 2, 3, true, true, .f64⟩) ∧
      demo.Issues (.fcmp ⟨1, .un, 2, 3, true, true, .f32⟩) ∧ demo.Issues (.fdiv ⟨1, 2, 3, true, true, .f32⟩) ∧
      demo.Issues (.fsqrt ⟨1, 2, true, .bf16⟩) ∧
      (let s := setS demo 2 0x7FE0000000000000
       s.Issues (.fcvt ⟨1, 2, .f64, .f32, true, .sat⟩) ∧ (cvtScalar .f64 .f32 s.rm .sat (s.readS 2).toNat).ovf = true ∧
         (cvtScalar .f64 .f32 s.rm .trap (s.readS 2).toNat).ovf = true ∧ s.Issues (.fcvt ⟨1, 2, .f64, .f32, true, .trap⟩)) ∧
      (cvtScalar .f64 .i64 demo.rm .trap (demo.readS 2).toNat).ovf = false := by decide +kernel

theorem witness_ControlRegisterAndMaskResults :
    demo.Issues (.crd ⟨1, 0x01A⟩) ∧ ctlSupervisor 0x01A = false ∧ sup.Issues (.crd ⟨1, 0x107⟩) ∧ ctlSupervisor 0x107 = true ∧
      demo.Issues (.crd ⟨1, 0x013⟩) ∧ demo.Issues (.cwr ⟨1, 0x010⟩) ∧ ctlReadOnly 0x010 = false ∧ sup.Issues (.cwr ⟨1, 0x012⟩) ∧
      ctlReadOnly 0x012 = false ∧ (setS demo 1 0x3FFF).Issues (.fmtset ⟨1⟩) ∧ demo.Issues (.emsave ⟨1⟩) ∧
      demo.Issues (.emload ⟨1, true⟩) ∧ demo.Issues (.emcomb ⟨1, 2, true⟩) ∧ demo.Issues (.cmsave ⟨1⟩) ∧
      demo.Issues (.cmload ⟨1, true⟩) := by decide +kernel

theorem witness_TransferResults :
    demo.Issues (.br ⟨0, false, true, 5⟩) ∧ demo.Issues (.call ⟨1, true, false, 5⟩) ∧
      (setS demo 1 0x400404).Issues (.jmp ⟨1, true⟩) ∧ (setS demo 1 0x400402).Issues (.callr ⟨1, true⟩) ∧
      ((setS demo 1 0x400402).readS 1).toNat % 4 ≠ 0 ∧ demo.Issues .ret ∧ demo.cur.regs.lk.toNat % 4 = 0 ∧
      (demo.setRegs fun g => { g with lk := 2 }).Issues .ret ∧ demo.Issues (.dbnz ⟨1, 0xFFFE⟩) := by decide +kernel

theorem witness_TransferResults_enter :
    let bad := demo.setRegs fun g => { g with sp := 0x4008 }
    let low := demo.setRegs fun g => { g with sp := 0x100 }
    let out := demo.setRegs fun g => { g with sp := 0x8010 }
    bad.Issues (.enter ⟨1⟩) ∧ bad.cur.regs.sp.toNat % 16 ≠ 0 ∧
      (low.Issues (.enter ⟨1⟩) ∧ (low.cur.regs.sp - 16#64).toNat < low.cur.ctl.slim.toNat) ∧
      (out.Issues (.enter ⟨1⟩) ∧ ¬ ((out.cur.regs.sp - 16#64).toNat + 8 ≤ out.cur.ctl.spl.toNat)) ∧
      demo.Issues (.enter ⟨1⟩) ∧ demo.cur.ctl.slim.toNat ≤ (demo.cur.regs.sp - 16#64).toNat ∧
      demo.blocked (.pad (padBase 0 + (demo.cur.regs.sp - 16#64).toNat)) 8 = false ∧
      (waiting.Issues (.enter ⟨1⟩) ∧ waiting.cur.ctl.slim.toNat ≤ (waiting.cur.regs.sp - 16#64).toNat ∧
        waiting.blocked (.pad (padBase 0 + (waiting.cur.regs.sp - 16#64).toNat)) 8 = true) := by decide +kernel

theorem witness_TransferResults_leave :
    let bad := demo.setRegs fun g => { g with sp := 0x4008 }
    let out := demo.setRegs fun g => { g with sp := 0x7FF0 }
    let psn : State := { demo with poison := [(padBase 0 + 0x4000) / 32] }
    bad.Issues (.leave ⟨1⟩) ∧ (out.Issues (.leave ⟨2⟩) ∧ ¬ (out.cur.regs.sp.toNat + 32 ≤ out.cur.ctl.spl.toNat)) ∧
      demo.Issues (.leave ⟨1⟩) ∧ demo.mustStall (.pad (padBase 0 + 0x4000)) 8 = false ∧ demo.poisoned (padBase 0 + 0x4000) = false ∧
      psn.Issues (.leave ⟨1⟩) ∧ psn.mustStall (.pad (padBase 0 + 0x4000)) 8 = false ∧ psn.poisoned (padBase 0 + 0x4000) = true := by
  decide +kernel

theorem witness_SystemTransfers :
    demo.Issues (.trap ⟨5⟩) ∧ demo.Issues (.svc ⟨12⟩) ∧ demo.Issues (.brk ⟨0⟩) ∧ (inTrap.Issues .rte ∧ inTrap.cur.ctl.sv = true) ∧
      sup.Issues .halt ∧ demo.Issues .texit ∧ demo.Issues .knext ∧
      (let s := setS demo 2 0x400040
       s.Issues (.tspawn ⟨1, 2, true⟩) ∧ (s.readS 2).toNat % 64 = 0 ∧ s.etchReady 0x0E 0 (s.readS 2) .none none = .ok ()) ∧
      (let s := setS demo 2 0x400020
       s.Issues (.tspawn ⟨1, 2, true⟩) ∧ (s.readS 2).toNat % 64 ≠ 0) ∧
      (let s := withOp demo (.spawn 0x400040 false) [outS 1 0]
       (s.cur.ops.all fun op => op.kind == .spawn 0x400040 false && s.cur.ops.all fun o => !(o.id < op.id)) = true) ∧
      demo.Issues (.etchmark ⟨2, 7⟩) ∧ demo.etchReady 0x0F 0 7 .none (some (demo.readS 2)) = .ok () := by decide +kernel

/-! ### Registers, bundles and traps -/

theorem witness_ResultsLandAfterTheirLatency :
    demo.cur.pend = [] ∧ demo.cur.cond (.s 5) ≠ .empty ∧ demo.cur.cond (.v 31) ≠ .empty := by decide +kernel

theorem witness_CommitMovesOneBundle : demo.Fresh ∧ demo.cur.pend = [] ∧ (outS 5 7).dst ≠ .s 6 := by decide +kernel

theorem witness_SourceChecks :
    let o : RRR := ⟨1, 2, 3, true, true⟩
    let empty := putS demo 2 ⟨7, .empty 1 7 none false⟩
    let failed := putS demo 2 ⟨7, .failed ⟨cXlate, 0, 9, none⟩ 3 7⟩
    let second := putS demo 3 ⟨7, .empty 1 7 none false⟩
    demo.Fresh ∧ (demo.setCur fun t => { t with capS := 2 }).cur.capS ≤ o.a.val ∧
      empty.cur.cond (.s o.a) = .empty ∧ empty.cur.cond (.s o.b) = .ok ∧ empty.cur.cond (.s o.d) = .ok ∧
      (putS demo 2 ⟨7, .poisoned⟩).cur.cond (.s o.a) = .poisoned ∧ failed.cur.cond (.s o.a) = .failed ⟨cXlate, 0, 9, none⟩ 3 ∧
      second.Fresh ∧ o.b.val < second.cur.capS ∧ second.cur.cond (.s o.a) = .ok ∧ second.cur.cond (.s o.b) = .empty ∧
      Claims.destReady second o.d = true ∧ Claims.markReady second o.d = true ∧
      (putS demo 3 ⟨7, .poisoned⟩).cur.cond (.s o.b) = .poisoned := by
  decide +kernel

/-- The demo with a register 3 that waits for an outstanding operation. -/
def outstanding : State := putS (withOp demo .load [outS 3 7]) 3 ⟨0, .empty 1 0 none false⟩

theorem witness_EmptyRegistersHaveProducers :
    outstanding.others = [] ∧ outstanding.cur.ops.map Op.id = [5] ∧ 5 < outstanding.nextId ∧
      ((outstanding.cur.ops.flatMap Op.outs).countP fun o => o.dst == .s 3) = 1 ∧
      outstanding.cur.regs.s.toList.all (fun r => r.st == .full || r.st == .empty 1 0 none false) = true ∧
      outstanding.cur.regs.v.toList.all (fun r => r.st == .full) = true ∧ outstanding.cur.regs.em.st = .full := by decide +kernel

theorem witness_RegisterStates :
    (∀ n b f p, (Reg.ofVal (5 : Word)).st ≠ .empty n b f p) ∧ (⟨cXlate, 0, 9, none⟩ : Fail).link = none :=
  ⟨fun _ _ _ _ h => by simp [Reg.ofVal] at h, rfl⟩

theorem witness_TrapEntry :
    demo.cur.ctl.intrap = false ∧ demo.myCtx.tvec ≠ 0 ∧ demo.cur.status = .running ∧ inTrap.cur.ctl.intrap = true ∧
      (demo.setCur fun t => { t with ctx := 0 }).myCtx.tvec = 0 := by decide +kernel

theorem witness_SvcEntersTheHandler :
    demo.Issues (.trap ⟨0x3FF⟩) ∧ demo.Issues (.svc ⟨1⟩) ∧ demo.Issues (.brk ⟨0⟩) ∧ demo.cur.ctl.intrap = false ∧ demo.myCtx.tvec ≠ 0 := by
  decide +kernel

theorem witness_ReturnFromTrap :
    demo.Fresh ∧ demo.cur.ctl.intrap = false ∧ demo.myCtx.tvec ≠ 0 ∧ demo.cur.status = .running ∧ ∀ p ∈ demo.cur.pend, p.rem ≠ 0 := by
  decide +kernel

theorem witness_PrivilegeAndReadOnly :
    demo.Issues (.crd ⟨1, 0x100⟩) ∧ demo.cur.ctl.sv = false ∧ ctlSupervisor 0x100 = true ∧ demo.Issues (.cwr ⟨1, 0x103⟩) ∧
      demo.Issues (.cwr ⟨1, 0x012⟩) ∧ sup.Issues (.cwr ⟨1, 0x001⟩) ∧ ctlReadOnly 0x001 = true ∧ demo.Issues .rte ∧
      demo.Issues .halt ∧ sup.Fresh ∧ sup.cur.ctl.sv = true ∧ sup.cur.ctl.intrap = false := by decide +kernel

theorem witness_KnextParts :
    let t (p : Part) (iter trip epi : Word) : Task :=
      { Task.blank with part := p, ctl := { Ctl.start with iter := iter, trip := trip }, loop := { LoopRec.none with epilogue := epi } }
    (t .prologue 0 2 0).preempt = false ∧ (t .prologue 0 0 0x400000).ctl.trip = 0 ∧ (t .kernel 0 2 0).ctl.iter + 1 ≠ 2 ∧
      (t .kernel 1 2 0x400000).ctl.iter + 1 = 2 ∧ (t .kernel 1 2 0).knextEnds = true ∧ (t .epilogue 2 2 0x400000).knextEnds = true := by
  decide +kernel

/-! ### Vector and special instructions -/

theorem witness_MaskedResultsWriteTheirLanes : 0 < 64 ∧ 64 * 16 ≤ 1024 ∧ 0 < 8 ∧ 8 * 32 ≤ 1024 := by decide

theorem witness_VectorArithmeticResults :
    demo.Issues (.vadd ⟨1, 2, 3, .w1024, .f16, true, true⟩) ∧ demo.Issues (.vand ⟨1, 2, 3, .w256, .f8, true, true⟩) ∧
      demo.Issues (.vfma ⟨1, 2, 3, .w512, .f32, true, true⟩) ∧ demo.Issues (.vfnma ⟨1, 2, 3, .w512, .i8, true, true⟩) ∧
      demo.Issues (.vfmasc ⟨1, 2, 3, .w512, .f64, true⟩) ∧ demo.Issues (.vaddsc ⟨1, 2, 3, .w512, .i16, true⟩) ∧
      demo.Issues (.vmulsc ⟨1, 2, 3, .w512, .bf16, true⟩) ∧ demo.Issues (.vabs ⟨1, 2, .w512, .i32, true⟩) ∧
      demo.Issues (.vneg ⟨1, 2, .w512, .f64, true⟩) ∧ demo.Issues (.vnot ⟨1, 2, .w512, .f8, true⟩) ∧
      demo.Issues (.vmov ⟨1, 2, .w512, .i8, true⟩) ∧ demo.Issues (.vmovu ⟨1, 2, .w256, .i8, true⟩) ∧
      demo.Issues (.vaddi ⟨1, 2, 0x7F, .w256, .i8⟩) ∧ demo.Issues (.vshli ⟨1, 2, 7, .w256, .i8⟩) ∧
      demo.Issues (.vshri ⟨1, 2, 31, .w256, .i32⟩) ∧ demo.Issues (.vsari ⟨1, 2, 15, .w256, .i16⟩) ∧
      demo.Issues (.vli ⟨1, 0x40, .w1024, .f16⟩) ∧ demo.Issues (.vli ⟨1, 0x40, .w1024, .i8⟩) := by decide +kernel

theorem witness_VectorCompareAndPermuteResults :
    demo.Issues (.vcmp ⟨.un, 1, 2, .w256, .f16, true, true, true⟩) ∧ demo.Issues (.vsel ⟨1, 2, 3, .w256, .f8, true, true⟩) ∧
      demo.Issues (.vpopc ⟨1, .w256⟩) ∧ demo.Issues (.vfirst ⟨1, .w1024⟩) ∧ demo.Issues (.vbcast ⟨1, 2, .w256, .f8, true⟩) ∧
      demo.Issues (.vext ⟨1, 2, 3, .i8, .w256⟩) ∧ demo.Issues (.vins ⟨1, 2, 3, .w256, .i8, true⟩) ∧
      demo.Issues (.vperm ⟨1, 2, 3, .w1024, .i8, true, true⟩) ∧ demo.Issues (.vslide ⟨1, 2, 3, .w1024, .i8, true⟩) ∧
      demo.Issues (.viota ⟨1, .w1024, .bf16⟩) := by decide +kernel

theorem witness_BivouacResults :
    let s := demo.setRegs fun g => { g with cm := 0xFF }
    let full : State := { s with ctxs := s.ctxs.map fun c => { c with bqcap := 7 } }
    s.Issues (.vdefer ⟨30, 1, 3, 2⟩) ∧ (s.em &&& s.cur.regs.cm) = 0xFF ∧ 8 ≤ s.myCtx.bqcap ∧
      full.Issues (.vdefer ⟨30, 1, 3, 2⟩) ∧ full.myCtx.bqcap < 8 ∧ s.Issues (.vdrain ⟨30, 0, 3, 2⟩) ∧ s.Issues (.vdstat ⟨1, 2⟩) := by
  decide +kernel

theorem witness_SpecialFunctionResults :
    demo.Issues (.vexp ⟨1, 2, .w1024, .f32, true⟩) ∧ demo.Issues (.vrng ⟨1, 2, 3, .w1024, .i32, true⟩) ∧
      demo.Issues (.smerge ⟨1, 2, 3, 4⟩) ∧ demo.Issues (.vcvt ⟨1, 2, .f32, .f8, .w1024, .trap, .rsto⟩) ∧
      (demo.Issues (.vquant ⟨1, 2, 3, .kd4, .sat, true⟩) ∧ (Machine.QFmt.block .kd4).isSome = true) ∧
      (demo.Issues (.vquant ⟨1, 2, 3, .e5m2, .inf, false⟩) ∧ (Machine.QFmt.block .e5m2).isNone = true) ∧
      demo.Issues (.vdequant ⟨1, 2, 3, .mxfp4, .nan⟩) := by decide +kernel

theorem witness_ReductionAndScanResults :
    demo.Issues (.vredsum ⟨1, 2, .i8, .w1024⟩) ∧ demo.Issues (.vredmax ⟨1, 2, .i32, .w256⟩) ∧
      demo.Issues (.vredmin ⟨1, 2, .i16, .w512⟩) ∧ ElemType.isInt .i8 = true ∧ demo.Issues (.vredsum ⟨1, 2, .f64, .w1024⟩) ∧
      demo.Issues (.vredmax ⟨1, 2, .bf16, .w256⟩) ∧ demo.Issues (.vredmin ⟨1, 2, .f16, .w512⟩) ∧
      (ElemType.fmt 0 .f64).isSome = true ∧ demo.Issues (.vscan ⟨1, 2, .w512, .i8, true⟩) ∧
      demo.Issues (.vscan ⟨1, 2, .w512, .f32, true⟩) ∧ (ElemType.fmt 0 .f32).isSome = true := by decide +kernel

theorem witness_SortAndMergeResults :
    demo.Issues (.vargmax ⟨1, 2, .f32, .w256⟩) ∧ demo.Issues (.vsort ⟨30, 2, 3, .w1024, .f32, true, true⟩) ∧
      demo.Issues (.vmrg ⟨4, 2, 30, .w1024, .i32, true, true⟩) ∧
      [(3, 0), (1, 1)].Pairwise (fun p q : Nat × Nat => (q.1 : Int) ≤ p.1) := by decide +kernel

/-! ### Memory instructions -/

/-- Register 1 points into the task window. -/
def ptr (a : Word) : State := setS demo 1 a

theorem witness_ScalarAccessesIssue :
    let s := ptr 0x200
    let d : Dest := .pad (padBase 0 + 0x208)
    (s.Issues (.ldd ⟨2, 1, true, 1⟩) ∧ s.reachAligned .plain .load 0x208 8 = .ok d ∧
      ((Claims.whole d 8).filter Piece.remote).length = 0) ∧
    (s.Issues (.std ⟨2, 1, true, 1⟩) ∧ s.reachAligned .plain .store 0x208 8 = .ok d) ∧
    (s.Issues (.ldx ⟨2, 1, 3, true, true, .e8⟩) ∧ s.reachAligned .plain .load 0x200 1 = .ok (.pad (padBase 0 + 0x200))) ∧
    s.Issues (.stx ⟨2, 1, 3, true, true, .e8⟩) ∧ s.reachAligned .plain .store 0x200 1 = .ok (.pad (padBase 0 + 0x200)) := by
  decide +kernel

theorem witness_ScalarAccessesIssue_checks :
    (ptr 0x201).Issues (.ldh ⟨2, 1, true, 0⟩) ∧ (Claims.msAddr (ptr 0x201) ⟨2, 1, true, 0⟩ 2).toNat % 2 ≠ 0 ∧
      (ptr 0x7FFC).Issues (.std ⟨2, 1, true, 1⟩) ∧ (Claims.msAddr (ptr 0x7FFC) ⟨2, 1, true, 1⟩ 8).toNat % 8 ≠ 0 ∧
      (ptr 0x8000).Issues (.ldb ⟨2, 1, true, 0⟩) ∧ (0x8000 : Nat) < padSize ∧ ¬ (0x8000 + 1 ≤ (ptr 0x8000).cur.ctl.spl.toNat) := by
  decide +kernel

theorem witness_VectorAndRemoteAccessesIssue :
    let s := ptr 0x200
    let okB (r : Except Stop (List Piece)) : Bool := match r with
      | .ok ps => (ps.filter Piece.remote).length == 0
      | .error _ => false
    (s.Issues (.vld ⟨1, 1, true, .w1024, 1⟩) ∧ okB (s.reachAll .load (vecWants 8 s.em 0x220 .w1024)) = true) ∧
    (s.Issues (.vst ⟨1, 1, true, .w1024, 1⟩) ∧ okB (s.reachAll .store (vecWants 32 s.em 0x220 .w1024)) = true) ∧
    (s.Issues (.vlds ⟨1, 1, 3, .w256, .e16, true⟩) ∧
      okB (s.reachElems .load false 2 (fun i => 0x200 + BitVec.ofNat 64 i * 0) (activeElems s.em 2 .w256)) = true) ∧
    (s.Issues (.vsts ⟨1, 1, 3, .w256, .e16, true⟩) ∧
      okB (s.reachElems .store false 2 (fun i => 0x200 + BitVec.ofNat 64 i * 0) (activeElems s.em 2 .w256)) = true) ∧
    (s.Issues (.vgath ⟨1, 1, 2, .w256, .e64, true⟩) ∧
      okB (s.reachElems .load true 8 (s.gatherAddr ⟨1, 1, 2, .w256, .e64, true⟩) (activeElems s.em 8 .w256)) = true) ∧
    s.Issues (.vscat ⟨1, 1, 2, .w256, .e32, true⟩) ∧
    okB (s.reachElems .store true 4 (s.gatherAddr ⟨1, 1, 2, .w256, .e32, true⟩) (activeElems s.em 4 .w256)) = true := by
  decide +kernel

theorem witness_VectorAndRemoteAccessesIssue_remote :
    (ptr 0x200).Issues (.rld ⟨2, 1, true, .e64⟩) ∧ (ptr 0x204).Issues (.rld ⟨2, 1, true, .e64⟩) ∧ (0x204 : Nat) % 8 ≠ 0 ∧
      (ptr 0x200).Issues (.rst ⟨2, 1, true, .e8⟩) ∧ (ptr 0x201).Issues (.rst ⟨2, 1, true, .e16⟩) ∧
      (ptr 0x200).Issues (.rldv ⟨2, 1, true, .w256, 0xFF⟩) ∧ (ptr 0x200).Issues (.rstv ⟨2, 1, true, .w256, 1⟩) ∧
      (let s := ptr 0x208
       let o : MVOps := ⟨2, 1, true, .w256, 1⟩
       (Claims.mvAddr s o).toNat % 32 ≠ 0 ∧ s.Issues (.vld o) ∧ s.Issues (.vst o) ∧ s.Issues (.rldv o) ∧ s.Issues (.rstv o)) ∧
      (ptr 0x200).farBefore false = false ∧ (ptr 0x200).farBefore true = false := by
  decide +kernel

theorem witness_LoadsReadTheScratchpad :
    (ptr 0x7FF8).Issues (.ldd ⟨2, 1, true, 0⟩) ∧ (ptr 0x7FF8).cur.cond (.s 2) ≠ .empty ∧ (ptr 0x7FF8).cur.ops = [] ∧ (ptr 0x7FF8).others = [] ∧
      0x7FF8 + 8 ≤ (ptr 0x7FF8).cur.ctl.spl.toNat ∧ (ptr 0x7FFF).Issues (.ldb ⟨0, 1, true, 0⟩) := by decide +kernel

theorem witness_StoresWriteTheScratchpad :
    (ptr 0x7FFF).Issues (.stb ⟨2, 1, true, 0⟩) ∧ (ptr 0x7FFF).cur.ops = [] ∧ (ptr 0x7FFF).others = [] ∧
      (ptr 0x7F80).Issues (.vst ⟨2, 1, true, .w1024, 0⟩) ∧ 0x7F80 + 128 ≤ (ptr 0x7F80).cur.ctl.spl.toNat := by decide +kernel

theorem witness_StoresAreReadBackThroughTheL1 :
    let l : L1Line := ⟨0, 1, 5, BitVec.allOnes 64, 0, 7, some 0, 0, 1, 0⟩
    ({ demo with l1 := [l] } : State).lineAt 0 1 (325 / 64) = some l ∧ 0 < [1#8, 2#8].length ∧ 325 % 64 + [1#8, 2#8].length ≤ 64 := by
  decide +kernel

theorem witness_FullEmptyOperationsIssue :
    let s := setS (ptr 0x200) 2 32
    let x := s.padObject 0 0x200
    (s.Issues (.ldwf ⟨0, 1, true, 0⟩) ∧ s.fePlace ⟨0, 1, true, 0⟩ .load 0x06 = .ok (padBase 0 + 0x200, x)) ∧
    (s.Issues (.ldtk ⟨3, 1, true, 0⟩) ∧ s.fePlace ⟨3, 1, true, 0⟩ .load 0x07 = .ok (padBase 0 + 0x200, x)) ∧
    (s.Issues (.stwe ⟨3, 1, true, 0⟩) ∧ s.fePlace ⟨3, 1, true, 0⟩ .store 0x08 (some (((s.readS 3).setWidth 32).setWidth 64)) = .ok (padBase 0 + 0x200, x)) ∧
    (s.Issues (.stfl ⟨3, 1, true, 0⟩) ∧ s.fePlace ⟨3, 1, true, 0⟩ .store 0x09 (some (((s.readS 3).setWidth 32).setWidth 64)) = .ok (padBase 0 + 0x200, x)) ∧
    (s.Issues (.fesetEmpty ⟨1, 2, true, true⟩) ∧ s.Issues (.fesetFull ⟨1, 2, true, true⟩) ∧ (s.base 1).toNat % 4 = 0 ∧
      1 ≤ (s.readS 2).toNat ∧ (s.readS 2).toNat ≤ 8192 ∧ s.fesetRuns (s.base 1) 32 = .ok [(padBase 0 + 0x200, 32)]) ∧
    s.Issues (.feget ⟨3, 1, true, 0⟩) ∧ (Claims.msAddr s ⟨3, 1, true, 0⟩ 4).toNat % 128 = 0 ∧ s.reach .fe .load 0x200 128 0x200 = .ok (.pad (padBase 0 + 0x200)) := by decide +kernel

theorem witness_FullEmptyWordsAreGranted :
    let a := withOp demo (.feRead (padBase 0 + 0x200) true) [outS 3 0]
    let b : State := { withOp demo (.feWrite (padBase 0 + 0x200) 9 true) [] with feEmpty := [padBase 0 + 0x200] }
    (a.feReady (padBase 0 + 0x200)).length = 1 ∧ a.task 1 = some a.cur ∧ (b.feReady (padBase 0 + 0x200)).length = 1 ∧
      b.task 1 = some b.cur ∧ (a.ctxOf 1).map Ctx.etch = some 0 := by decide +kernel

theorem witness_AtomicsIssue :
    let s := ptr 0x200
    let d : Dest := .pad (padBase 0 + 0x200)
    s.Issues (.ataddW ⟨2, 1, 3, .ar, .cl⟩) ∧ s.reachAligned .atomic .atomic 0x200 4 = .ok d ∧ s.farBefore false = false ∧
      s.etchReady 0x01 (2 + placeFlags d) (s.objectOf 0x200 d) (syncSeries (s.objectOf 0x200 d) d) none = .ok () ∧
      s.etchReady 0x01 (0 + placeFlags d) (s.objectOf 0x200 d) (syncSeries (s.objectOf 0x200 d) d) none = .ok () ∧
      s.Issues (.atcasD ⟨0, 1, 3, .rlx, .sy⟩) ∧ s.reachAligned .atomic .atomic 0x200 8 = .ok d := by decide +kernel

theorem witness_AtomicsReplaceTheirWord :
    demo.place (padBase 3 + 0x2FFFF8) = .pad 3 0x2FFFF8 ∧ (padBase 3 + 0x2FFFF8) % 8 = 0 ∧ (padBase 3 + 0x2FFFF8) % 4 = 0 := by
  decide +kernel

theorem witness_AcquireReleaseFenceIssue :
    let s := ptr 0x200
    let d : Dest := .pad (padBase 0 + 0x200)
    let obj := s.objectOf (s.base 1) d
    let ready (type cov : Nat) (v : Option Word) : Bool := match s.etchReady type (cov + placeFlags d) obj (syncSeries obj d) none v with
      | .ok _ => true
      | .error _ => false
    s.Issues (.acq ⟨2, 1, true, .cl⟩) ∧ s.reachAligned .plain .load (s.base 1) 8 = .ok d ∧ d.pa.isNone = false ∧ s.farBefore false = false ∧
      ready 0x02 0 none = true ∧ ready 0x02 2 none = true ∧ s.Issues (.rel ⟨2, 1, true, .sy⟩) ∧ s.reachAligned .plain .store (s.base 1) 8 = .ok d ∧
      s.storeTrap 0 = none ∧ ready 0x03 0 (some (s.readS 2)) = true ∧ ready 0x03 2 (some (s.readS 2)) = true ∧ s.Issues (.fence ⟨.co⟩) ∧ s.Issues (.fence ⟨.sy⟩) := by
  decide +kernel

theorem witness_AcquireReleaseFenceComplete :
    let s := ptr 0x200
    let one := s.putBytes (padBase 0 + 0x200) [some 1]
    s.Issues (.acq ⟨2, 1, true, .cl⟩) ∧ s.cur.cond (.s 2) ≠ .empty ∧ s.fabric.acqs = [] ∧ s.cur.ops = [] ∧ s.others = [] ∧ (s.ctxOf 1).map Ctx.etch = some 0 ∧
      s.cur.tls[3].failed = [] ∧ s.cur.tls[3].issued ≤ s.cur.tls[3].count ∧ (s.base 1).toNat % 8 = 0 ∧
      s.cur.ctl.spb.toNat ≤ (s.base 1).toNat ∧ (s.base 1).toNat + 8 ≤ s.cur.ctl.spl.toNat ∧ s.anyPoison (padBase 0 + 0x200) 8 = false ∧
      s.word (padBase 0 + 0x200) 8 = 0 ∧ one.Issues (.acq ⟨2, 1, true, .co⟩) ∧ one.word (padBase 0 + 0x200) 8 ≠ 0 ∧
      s.Issues (.rel ⟨2, 1, true, .sy⟩) ∧ s.l1 = [] ∧ s.Issues (.fence ⟨.co⟩) ∧ s.Issues (.fence ⟨.di⟩) := by decide +kernel

/-- The demo with a posted store that failed, ticket 1 of tl.fabric, and a wait for it. -/
def failedStore : State :=
  let t := ptr 1
  t.setCur fun t => t.updTl 3 fun _ => ⟨1, 1, [], [⟨1, ⟨cFabric, 2, 0x1000, none⟩, none, false⟩]⟩

theorem witness_AcquireReleaseFenceIssue_failed :
    failedStore.Issues (.fence ⟨.sy⟩) ∧
      (failedStore.cur.tls[3].failed.filter fun x => x.ticket ≤ failedStore.cur.tls[3].issued && !x.reported) =
        [⟨1, ⟨cFabric, 2, 0x1000, none⟩, none, false⟩] ∧
      failedStore.Issues (.tlwait ⟨2, 1, .fabric⟩) ∧ (failedStore.readS 1).toNat = 1 ∧ failedStore.cur.tls[3].issued = 1 ∧
      failedStore.cur.tls[3].count = 1 ∧
      (let s := setS failedStore 1 0x200
       s.Issues (.rel ⟨2, 1, true, .sy⟩) ∧ s.reachAligned .plain .store (s.base 1) 8 = .ok (.pad (padBase 0 + 0x200)) ∧
         s.covers .sy (.pad (padBase 0 + 0x200)) = true) := by decide +kernel

/-- The demo with sixteen bound pairs. -/
def boundFull : State := (setS (ptr 0x100) 2 0x208).setCur fun t =>
  { t with binds := (List.range 16).map fun i => ⟨BitVec.ofNat 64 (8 * i), 0, 8⟩ }

theorem witness_TimelinesBindsAndQueues_bind :
    let s := setS (ptr 0x100) 2 0x208
    let b : Bind := ⟨0x208, 0x100, 8⟩
    let had := s.setCur fun t => { t with binds := [b] }
    s.Issues (.bind ⟨2, 1, true, 8⟩) ∧ (s.readS 2).toNat % 8 = 0 ∧ (s.base 1).toNat % 2 ^ 8 = 0 ∧ b ∉ s.cur.binds ∧
      s.cur.binds.length < 16 ∧ had.Issues (.bind ⟨2, 1, true, 8⟩) ∧ b ∈ had.cur.binds ∧ boundFull.Issues (.bind ⟨2, 1, true, 8⟩) ∧
      b ∉ boundFull.cur.binds ∧ 16 ≤ boundFull.cur.binds.length ∧ had.Issues (.unbind ⟨2, 1, true, 8⟩) ∧
      (setS s 2 0x201).Issues (.bind ⟨2, 1, true, 8⟩) ∧ ((setS s 2 0x201).readS 2).toNat % 8 ≠ 0 ∧
      (setS s 1 0x180).Issues (.bind ⟨2, 1, true, 8⟩) ∧ ((setS s 1 0x180).base 1).toNat % 2 ^ 8 ≠ 0 := by decide +kernel

theorem witness_TimelinesBindsAndQueues_timelines :
    let s := (ptr 2).setCur fun t => t.updTl 4 fun _ => ⟨1, 2, [], []⟩
    s.Issues (.tlread ⟨2, .kv⟩) ∧ s.Issues (.tlwait ⟨3, 1, .kv⟩) ∧ (s.readS 1).toNat ≤ s.cur.tls[4].issued ∧
      s.cur.tls[4].count < (s.readS 1).toNat ∧ (setS s 1 3).Issues (.tlwait ⟨3, 1, .kv⟩) ∧
      s.cur.tls[4].issued < ((setS s 1 3).readS 1).toNat ∧ (setS s 1 1).Issues (.tlwait ⟨3, 1, .kv⟩) ∧
      ((setS s 1 1).readS 1).toNat ≤ s.cur.tls[4].count ∧ s.Issues (.tlbump ⟨2, .sw⟩) ∧
      s.cur.tls[5].count = s.cur.tls[5].issued ∧ s.cur.tls[5].early = [] := by decide +kernel

/-- The demo with queue 3 mapped, with a quota of 4 spilled entries. -/
def queued : State :=
  { demo with ctxs := [{ Ctx.supervisor with id := 1, qmap := 0x1000 }] }.putBytes (0x1000 + 48) ([0, 0x80, 0, 0, 4].map some)

/-- The entry of that queue in the map. -/
def queue3 : QMapEntry := ⟨0, 0, 4, 0⟩

theorem witness_TimelinesBindsAndQueues_queues :
    queued.Issues (.qpush ⟨1, 3⟩) ∧ queued.qmapOf queued.myCtx 3 = some queue3 ∧
      queued.etchReady 0x04 0 3 (.unit (queued.queueOf 1 queue3).seq) none (some (queued.readS 1)) = .ok () ∧ queued.Issues (.qpop ⟨1, 3⟩) ∧
      queued.etchReady 0x05 0 3 (.unit (queued.queueOf 1 queue3).seq) none = .ok () ∧ queued.Issues (.qstat ⟨1, 3⟩) ∧
      queued.Issues (.qpush ⟨1, 2⟩) ∧ queued.qmapOf queued.myCtx 2 = none := by decide +kernel

theorem witness_TimelinesBindsAndQueues_room : queued.quotaFull queued.myCtx queue3 3 = false := by
  have h : ¬ queue3.quota ≤ ((queued.queueOf queued.myCtx.id queue3).slotsOf 3).length + (queued.pushing queued.myCtx.id).count 3 := by
    decide +kernel
  simp [State.quotaFull, h]

/-- That queue with one entry on chip. -/
def queuedOne : State := queued.putQueue ⟨1, 0, 0, [⟨9, false, 3, none⟩], [], 1⟩

theorem witness_QueuesKeepTheirOrder :
    queued.Issues (.qpop ⟨2, 3⟩) ∧ queued.cur.cond (.s 2) ≠ .empty ∧ queued.cur.ops = [] ∧ queued.others = [] ∧ (queued.ctxOf 1).map Ctx.etch = some 0 ∧
      queued.ctxOf 1 = some queued.myCtx ∧ queued.qmapOf queued.myCtx 3 = some queue3 ∧ (queued.queueOf 1 queue3).entries = [] ∧
      (queued.queueOf 1 queue3).waiters = [] ∧ queuedOne.Issues (.qpop ⟨2, 3⟩) ∧ queuedOne.ctxOf 1 = some queuedOne.myCtx ∧
      queuedOne.qmapOf queuedOne.myCtx 3 = some queue3 ∧ (queuedOne.queueOf 1 queue3).entries = [⟨9, false, 3, none⟩] ∧
      (queuedOne.queueOf 1 queue3).waiters = [] := by decide +kernel

/-! ### Caches, translation buffers, watches, engines -/

/-- The demo with a page of node 0 at 0x500000, and register 1 pointing there. -/
def mapped : State := { ptr 0x500000 with tlb := [⟨.core 0, 1, 0x50, 0x2000001E, .page⟩] }

theorem witness_CacheAndTlbInstructions_lines :
    let none_ (s : State) (va : Word) : Bool := match s.reachLine va with
      | .ok none => true
      | _ => false
    let trap (s : State) (va : Word) (drops : Bool) : Bool := match s.reachLine va with
      | .error e => e.dropsHint == drops
      | _ => false
    none_ (ptr 0x200) (Claims.lineAddr (ptr 0x200) ⟨1, true, 1⟩) = true ∧
    (ptr 0x200).Issues (.pref ⟨1, true, 1⟩) ∧ (ptr 0x200).Issues (.flush ⟨1, true, 1⟩) ∧ (ptr 0x200).Issues (.inval ⟨1, true, 1⟩) ∧
    ((ptr 0x600000).Issues (.pref ⟨1, true, 0⟩) ∧ trap (ptr 0x600000) 0x600000 true = true) ∧
    ((ptr 0x9000).Issues (.pref ⟨1, true, 0⟩) ∧ trap (ptr 0x9000) 0x9000 false = true ∧ (ptr 0x9000).Issues (.flush ⟨1, true, 0⟩) ∧
      (ptr 0x9000).Issues (.inval ⟨1, true, 0⟩)) ∧
    mapped.Issues (.pref ⟨1, true, 1⟩) ∧ mapped.reachLine 0x500040 = .ok (some (.node 0x20000040)) ∧
    Claims.lineAddr mapped ⟨1, true, 1⟩ = 0x500040 ∧ mapped.blocked (.node 0x20000040) 64 = false ∧ mapped.t2Out 0x20000040 = false ∧
    (withOp mapped (.acq (.pad (padBase 0 + 0x300)) true false) []).blocked (.node 0x20000040) 64 = true ∧
    (withOp mapped (.acq (.pad (padBase 0 + 0x300)) true false) []).Issues (.pref ⟨1, true, 1⟩) ∧ mapped.Issues (.flush ⟨1, true, 1⟩) ∧
    mapped.Issues (.inval ⟨1, true, 1⟩) := by decide +kernel

theorem witness_CacheAndTlbInstructions_ways :
    let core (o w c : Nat) (r : Bool) : State := demo.updCore 0 fun x => { x with extOwner := o, extWays := w, converting := c, restoring := r }
    demo.Issues (.wayconv ⟨1, 6⟩) ∧ (demo.core 0).extWays + (demo.core 0).converting = 0 ∧ comingWays (demo.extOps 0 1) = 0 ∧
      (core 2 1 0 false).Issues (.wayconv ⟨1, 1⟩) ∧ ((core 2 1 0 false).core 0).extOwner ≠ 1 ∧
      (core 1 4 0 false).Issues (.wayconv ⟨1, 3⟩) ∧ 6 < ((core 1 4 0 false).core 0).extWays + 3 ∧
      (core 1 0 4 true).Issues (.wayconv ⟨1, 3⟩) ∧ ((core 1 0 4 true).core 0).restoring = true ∧
      (core 1 4 0 false).Issues (.wayrest ⟨1⟩) ∧ ((core 1 4 0 false).core 0).extOwner = 1 ∧ demo.Issues (.wayrest ⟨1⟩) := by
  decide +kernel

theorem witness_CacheAndTlbInstructions_tlb :
    sup.Issues (.tlbinvPage ⟨1, 2, true⟩) ∧ sup.Issues (.tlbinvCtx ⟨1, 0, true⟩) ∧ sup.cur.ctl.sv = true ∧ sup.cur.ops = [] ∧ demo.Issues (.tlbinvAll ⟨1, 0, true⟩) ∧ demo.cur.ctl.sv = false := by decide +kernel

/-- A watch entry of context 1. -/
def entry : Watch := ⟨7, 1, 0x500000, 64, 0, 0, 0, 0, 4, 0, 0, [0x20000000], 0, [], .armed, 0, 3⟩

theorem witness_WatchHaulAndBelayInstructions_watch :
    let s := ptr 0x200
    let psn : State := { s with poison := [(padBase 0 + 0x200) / 32] }
    let d : Dest := .pad (padBase 0 + 0x200)
    (s.Issues (.watch ⟨2, 1⟩) ∧ s.reach .plain .load 0x200 32 0x200 = .ok d ∧ s.mustStall d 32 = false ∧
      (s.readDest s.me d 32).2.2 = false) ∧
    (psn.Issues (.watch ⟨2, 1⟩) ∧ psn.reach .plain .load 0x200 32 0x200 = .ok d ∧ (psn.readDest psn.me d 32).2.2 = true) ∧
    ((ptr 0x208).Issues (.watch ⟨2, 1⟩) ∧ ((ptr 0x208).readS 1).toNat % 32 ≠ 0) ∧
    (ptr 7).Issues (.unwatch ⟨2, 1⟩) ∧ (ptr 7).watches = [] ∧
    ({ ptr 7 with watches := [entry] } : State).Issues (.unwatch ⟨2, 1⟩) ∧
    ([entry].find? fun w => w.id == ((ptr 7).readS 1).toNat && w.ctx == 1) = some entry := by decide +kernel

/-- A command that copies a row of 32 bytes from 0x200 to 0x400 of the scratchpad, as the fields of the shadow set. -/
def copyFields (src : Word) : Vector Word 11 := #v[src, 0x400, 32 + 0x10000, 0, 0, 0, 11 + 11 * 16, 0, 0, 0, 0]

/-- The demo with a shadow set. -/
def shadowed (f : Vector Word 11) : State := demo.setCur fun t => { t with shadow := f }

theorem witness_WatchHaulAndBelayInstructions_haul :
    let s := shadowed (copyFields 0x200)
    let bad := shadowed ((copyFields 0x200).set 5 6)
    let far := shadowed (copyFields 0x9000)
    s.Issues (.hset ⟨1, 10⟩) ∧ s.Issues (.hget ⟨1, 2⟩) ∧ s.Issues (.hgo ⟨1, 3⟩) ∧ s.hauls = [] ∧
      s.hgoTrap s.cur.shadow = none ∧ s.hgoBound s.cur.shadow = none ∧ bad.Issues (.hgo ⟨1, 3⟩) ∧
      bad.hgoTrap bad.cur.shadow = some (.now cIllegal 5) ∧ far.Issues (.hgo ⟨1, 3⟩) ∧ far.hgoTrap far.cur.shadow = none ∧
      far.hgoBound far.cur.shadow = some 0x9000 := by decide +kernel

/-- A belay channel of which die 0 sends to die 1, its ping held. -/
def channel2 : Channel :=
  ⟨2, 0x500000, 0x510000, 64, 1, 1, 1, false, 0,
    #v[⟨0, true, Vector.replicate 6 0, Vector.replicate 6 0, [], 0, 0⟩, BelayBuf.fresh 1]⟩

/-- The demo with that channel. -/
def belayed : State := { demo with ctxs := demo.ctxs.map fun c => { c with channels := [channel2] } }

theorem witness_WatchHaulAndBelayInstructions_belay :
    belayed.Issues (.blygrant ⟨false, 2⟩) ∧ belayed.myCtx.channel 2 = some channel2 ∧ belayed.ctxOf 1 = some belayed.myCtx ∧
      belayed.cur.ops = [] ∧ belayed.others = [] ∧ belayed.myCtx.etch = 0 ∧
      (channel2.bufs[bufIx false]).held = true ∧ belayed.etchReady 0x0B 0 4 (.unit 0) none (some ((channel2.bufs[bufIx false]).xfer.setWidth 64)) = .ok () ∧
      belayed.Issues (.blygrant ⟨true, 2⟩) ∧ (channel2.bufs[bufIx true]).held = false ∧ demo.Issues (.blygrant ⟨true, 2⟩) ∧
      demo.myCtx.channel 2 = none ∧ belayed.Issues (.blystat ⟨1, 2⟩) ∧ demo.Issues (.blystat ⟨1, 2⟩) := by decide +kernel

/-- The demo with mp registers of a product of one element each at 0x200, 0x400 and 0x600. -/
def mpSet (k : Word) : State := demo.setRegs fun g => { g with mp := #v[0x200, 0x400, 0x600, 1 + 0x10000 + k * 0x100000000, 0, 0, 0, 0] }

theorem witness_MatrixAndAttentionInstructions_mma :
    demo.Issues (.mpset ⟨1, 7⟩) ∧ demo.Issues (.mpget ⟨1, 0⟩) ∧ (mpSet 1).Issues (.mma ⟨1, true⟩) ∧ (mpSet 1).cur.ops = [] ∧ (mpSet 1).mmaCheck (MP.ofRegs (mpSet 1).cur.regs.mp (mpSet 1).fmt) = .ok [] ∧
      (mpSet 0).Issues (.mma ⟨1, true⟩) ∧
      (mpSet 0).mmaCheck (MP.ofRegs (mpSet 0).cur.regs.mp (mpSet 0).fmt) = .error (.now cIllegal 3) := by decide +kernel

/-- A KV space of context 1: one layer, one head, four tokens of 32 elements to a frame, 16 sequences. -/
def space3 : Space :=
  { id := 3, ctx := 1, srem := false, lend := false, tcode := 0, layers := 1, heads := 1, dblk := 1, nat := 0, policy := 0
    home := 0, nf := 8, stbase := 0x500000, ns := 16, fdtbase := 0x501000, fpebase := 0x502000
    pool := #v[(0x503000, 4), (0, 0), (0, 0)], wmlow := 0, wmhigh := 0, peer := 0, peersp := 0, credit := 0, stamp := 0
    demoteBlocked := false, goal := none, seqs := [], frames := [], moves := [], recalls := [], dirty := [], seq := 0, addr := 0x504000, addrCtx := 0 }

/-- The bytes of an ATTN record: one head, one query row, a ring of four slots at 0x2000. -/
def recBytes : List Byte :=
  natLe 4 0 ++ natLe 2 1 ++ natLe 1 1 ++ natLe 1 1 ++ natLe 6 0x1100 ++ natLe 2 0 ++ natLe 8 0x1200 ++ natLe 8 0x1400 ++ natLe 32 0 ++
    natLe 4 0x2000 ++ natLe 4 (4 * space3.ringSlot) ++ natLe 56 0

/-- The demo with the space, the record at 0x1000, register 1 naming its sequence 5 and register 2 the record. -/
def attending (h a : Word) : State :=
  { setS (setS demo 1 h) 2 a with spaces := [space3] }.putBytes (padBase 0 + 0x1000) (recBytes.map some)

theorem witness_MatrixAndAttentionInstructions_attn :
    let s := attending 0x3000005 0x1000
    let o : AttnOps := ⟨3, 1, 2, false, false, false, true⟩
    let args := s.bytesSeen (padBase 0 + 0x1000) 128
    let r := AttnRec.ofBytes args
    s.Issues (.attn o) ∧ s.cur.ops = [] ∧ s.streams = [] ∧ s.space (0x3000005 / 2 ^ 24) = some space3 ∧
      space3.ctx = s.cur.ctx ∧ 0x3000005 % 2 ^ 24 < space3.ns ∧ s.cur.belowWindow [(0x1000, 128)] = none ∧
      space3.recBad args false [] s.cur.ctl.spb.toNat (min s.cur.ctl.spl.toNat padSize) = none ∧ r.qAddr % 32 = 0 ∧ r.oAddr % 32 = 0 ∧
      r.mlAddr % 32 = 0 ∧
      s.cur.belowWindow [(r.qAddr, r.allRows * space3.dim * r.qSize), (r.oAddr, r.allRows * space3.dim * 4), (r.mlAddr, r.allRows * 8)] = none ∧
      s.etchReady 0x0D 0 0x3000005 (.unit 0) none = .ok () ∧
      (attending 0x4000005 0x1000).Issues (.attn o) ∧ (attending 0x4000005 0x1000).space 4 = none ∧
      (attending 0x3000010 0x1000).Issues (.attn o) ∧ space3.ns ≤ 0x3000010 % 2 ^ 24 ∧
      (attending 0x3000005 0x1020).Issues (.attn o) ∧ (0x1020 : Nat) % 128 ≠ 0 := by decide +kernel

/-- The bytes of an ATTN record with TREE 1: two query rows, the parents at 0x1600. -/
def treeBytes : List Byte :=
  natLe 4 0 ++ natLe 2 1 ++ natLe 1 2 ++ natLe 1 1 ++ natLe 6 0x1100 ++ natLe 2 0 ++ natLe 8 0x1200 ++ natLe 8 0x1400 ++ natLe 16 0 ++
    natLe 6 0x1600 ++ natLe 2 2 ++ natLe 8 0 ++ natLe 4 0x2000 ++ natLe 4 (4 * space3.ringSlot) ++ natLe 56 0

theorem witness_MatrixAndAttentionInstructions_tree :
    let s := ({ setS (setS demo 1 0x3000005) 2 0x1000 with spaces := [space3] }.putBytes (padBase 0 + 0x1000)
      (treeBytes.map some)).putBytes (padBase 0 + 0x1600) [some 0xFF, some 0]
    let args := s.bytesSeen (padBase 0 + 0x1000) 128
    let r := AttnRec.ofBytes args
    let parents := s.bytesSeen (padBase 0 + r.parent) r.s
    s.Issues (.attn ⟨3, 1, 2, false, false, true, false⟩) ∧ r.parent = 0x1600 ∧ r.s = 2 ∧ parents = [0xFF, 0] ∧
      s.cur.belowWindow [(r.parent, r.s)] = none ∧
      space3.recBad args true parents s.cur.ctl.spb.toNat (min s.cur.ctl.spl.toNat padSize) = none := by decide +kernel

/-- The demo with the space and an argument block at 0x1000 whose handle is `h`; register 1 points at `a`. -/
def kvArgs (h a : Nat) : State :=
  { setS demo 1 (BitVec.ofNat 64 a) with spaces := [space3] }.putBytes (padBase 0 + 0x1000) ((natLe 4 h).map some)

theorem witness_KvInstructions :
    let o : MSOps := ⟨2, 1, true, 0⟩
    let s := kvArgs 0x3000005 0x1000
    let t := { s with ctxs := s.ctxs }.setCtl fun c => { c with sv := true }
    s.Issues (.kvopen o) ∧ s.Issues (.kvquery o) ∧ (s.base 1).toNat = 0x1000 ∧ s.unperformedEarlier = false ∧
      field (s.bytesSeen (padBase 0 + 0x1000) 32) 0 4 = 0x3000005 ∧ s.space 3 = some space3 ∧ space3.ctx = s.cur.ctx ∧ 5 < space3.ns ∧
      s.etchReady 0x0C 0 0x3000005 (.unit 0) none = .ok () ∧ t.Issues (.kvspace ⟨2, 1, true, 4⟩) ∧ t.cur.ctl.sv = true ∧
      t.space 4 = none ∧ t.etchReady 0x0C 0 0x4000000 .none none = .ok () ∧ (kvArgs 5 0x1010).Issues (.kvwr o) ∧
      (kvArgs 5 0x8000).Issues (.kvwr o) ∧ ¬ (0x8000 + 32 ≤ (kvArgs 5 0x8000).cur.ctl.spl.toNat) ∧ (kvArgs 0x3000010 0x1000).Issues (.kvfree o) ∧
      space3.ns ≤ 0x3000010 % 2 ^ 24 := by decide +kernel

/-! ### Events -/

/-- An operation is found, outstanding in the focus. -/
def found (s : State) : Bool := match s.findOp 5 with
  | some (t, op) => decide (t = s.cur ∧ s.cur.ops = [op])
  | none => false

theorem witness_OperationsComplete_results :
    let rd : State := withOp demo (.heldRead [⟨.pad (padBase 0 + 0x200), 8, 0, List.replicate 8 true⟩] 0) [outS 3 0]
    let wr : State := withOp demo (.heldWrite [⟨.pad (padBase 0 + 0x200), 8, 0, List.replicate 8 true⟩] 9 0) []
    let mma : State := withOp demo (.mma ⟨#v[0x200, 0x400, 0x600, 0x100010001, 0, 0, 0, 0], 0, false, 1, [], [], false⟩) []
    found (withOp demo .div [outS 3 7]) ∧ found (withOp demo .x []) ∧ found (withOp demo .drain []) ∧ found (withOp demo .load [outS 3 7]) ∧
      found rd ∧ found wr ∧ rd.cur.ops.all (fun o => !rd.cur.mustWait o) ∧ wr.cur.ops.all (fun o => !wr.cur.mustWait o) ∧
      found (withOp demo (.qpop 3) [outS 3 0]) ∧ found mma ∧ found (withOp demo (.cmd (.flush 0x20000040)) []) ∧
      found (withOp demo (.spawn 0x400040 false) [outS 3 0]) := by decide +kernel

theorem witness_OperationsComplete_register :
    let s := putS (withOp demo .load [outS 3 7]) 3 ⟨0, .empty 1 0 none false⟩
    ∃ op, s.cur.ops = [op] ∧ op.outs = [outS 3 7] ∧ op.fail = none ∧ op.poison = false ∧ s.others = [] ∧
      s.cur.regs.s[3].st = .empty 1 0 none false := by
  exact ⟨_, rfl, by decide +kernel, rfl, rfl, rfl, by decide +kernel⟩

theorem witness_OperationsComplete_sync :
    let d : Dest := .pad (padBase 0 + 0x200)
    let s := withOp demo (.acq d true false) [outS 3 0]
    let far := withOp demo (.acq (.fabric 0x1000) true false) [outS 3 0]
    let rel := withOp demo (.rel d 7 0 true false) []
    let at_ := withOp demo (.atomic ⟨d, .add, true, 1, 0, .rlx, .cl, false, false, 0⟩) [outS 3 0]
    let fence := withOp demo (.fence 0 false) []
    let co := withOp demo (.fence 0 true) []
    let inv := withOp sup (.tlbinv .all (some 5)) []
    let left (s : State) : Bool := s.cur.ops.all (s.canSync s.cur)
    found s ∧ left s ∧ found far ∧ left far ∧ found rel ∧ left rel ∧ found at_ ∧ left at_ ∧ found fence ∧ fence.cur.stored 0 = true ∧
      found co ∧ co.cur.stored 0 = true ∧ found inv ∧ inv.translatedLeft .all 1 5 = false ∧ found (withOp sup (.tlbinv .ctx none) []) := by
  decide +kernel

/-- The object of an acquire, not zero. -/
def signalled : State := (withOp demo (.acq (.pad (padBase 0 + 0x200)) true false) [outS 3 0]).putBytes (padBase 0 + 0x200) [some 1]

theorem witness_OperationsComplete_acquired :
    found signalled = true ∧ (match signalled.cur.ops with
      | [op] => (match (signalled.acqGo signalled.cur op).findOp 5 with
        | some (_, op1) => decide (op1.kind = .load)
        | none => false)
      | _ => false) = true := by decide +kernel

theorem witness_OperationsComplete_remoteAcquire :
    let w : Nat × Request := (6, ⟨3, 1, 0, 0, 9, 0x40, .acq, false, 0x200, none, 0⟩)
    let s : State := demo.updFabric fun f => { f with acqs := [w] }
    (s.fabric.acqs.find? fun w => w.2.src == 1 && w.2.id == 3) = some w := by decide +kernel

theorem witness_OperationsComplete_ways :
    let s := withOp demo (.wayconv 2) []
    found s ∧ (s.extOps 0 1).all (fun o => 5 ≤ o.id && o.kind != .wayrest) = true ∧ found (withOp demo .wayrest []) ∧
      (demo.tasks.all fun t => t.ops.isEmpty) = true ∧ demo.hauls = [] := by
  decide +kernel

theorem witness_MemoryControllerEvents :
    let c : Nat := ctlBase 2 + 0x200
    let r : Retire := ⟨0, 1, 5⟩
    let late : State := { demo with retiring := [r] }.mcrPut (hmret 0 1 + 8) 8388607
    demo.place c = .control 2 0x200 ∧ c % 8 = 0 ∧ hasBlock 0 1 = true ∧ hasBlock 1 4 = true ∧
      (0x10203 : Word).getLsbD 16 = true ∧ (demo.mcrGet (hmrot 0 1)).getLsbD 17 = false ∧
      (0x10203 : Word).extractLsb' 0 8 ≠ (0x10203 : Word).extractLsb' 8 8 ∧ (0x10203 : Word).extractLsb' 8 8 ≠ 255#8 ∧
      (0x10203 : Word).extractLsb' 0 8 ≠ 255#8 ∧ demo.retireRefused 1 4 24 = some 3 ∧ (0x38 : Word).getLsbD 5 = true ∧
      ({ demo with retiring := [r] } : State).retiring.find? (fun x => x.die == r.die && x.stack == r.stack) = some r ∧
      (({ demo with retiring := [r] } : State).mcrGet (hmret 0 1 + 8)).toNat + 1 < 8388608 ∧
      late.retiring.find? (fun x => x.die == r.die && x.stack == r.stack) = some r ∧
      8388608 ≤ (late.mcrGet (hmret 0 1 + 8)).toNat + 1 ∧
      (demo.mcrGet (ctlBase 0 + 0x10000 + 0x200)).extractLsb' 0 8 ≠ 0#8 ∧ demo.place 0x20000000 = .node 0 ∧
      (demo.l2Sector 0x20000000).valid = false ∧
      (demo.mcrGet (ctlBase 0 + 0x10000 + 0x200)).extractLsb' 0 8 ≠ 0#8 ∧ ((demo.mcrPut (hmrot 0 1) 0x20203).mcrGet (hmrot 0 1)).getLsbD 17 = true ∧
      (match demo.place (padBase 2 + 0x240) with
        | .pad .. => true
        | _ => false) = true ∧ demo.poisoned (padBase 2 + 0x240) = false := by decide +kernel

theorem witness_MemoryControllerEvents_weights :
    let set : TaskSet := ⟨1, 1, 0, 0, 0, 0, 0, #v[1, 1, 1], 1, #v[0, 0, 0], 0, false, 0, 0, 0, 0, 0, none, 0, [], [], 1, false, 0⟩
    demo.place 0x0D0080000020 = .weights 1 0x20 ∧ demo.poisoned 0x0D0080000020 = false ∧ (1 : Word).getLsbD 0 = true ∧ demo.sets = [] ∧ ({ demo with sets := [set] } : State).sets ≠ [] ∧
      (2 : Word).getLsbD 0 = false := by decide +kernel

theorem witness_PoolWalkAndFillEvents :
    let r : T2Range := ⟨0x040000000000, 2 ^ 30, false⟩
    let s : State := { demo with t2 := [r] }
    0x040040000000 % 2 ^ 30 = 0 ∧ (s.t2.filter fun r => !r.withdrawn).length < 16 ∧ 0x040040000000 + 2 ^ 30 ≤ 0x080000000000 ∧
      (∀ x ∈ s.t2, x.withdrawn = false → 0x040040000000 + 2 ^ 30 ≤ x.base ∨ x.base + x.size ≤ 0x040040000000) ∧
      demo.board.poolUp = true ∧ demo.place 0x20000000 = .node 0 := by decide +kernel

/-- The demo with a segment of zeros at 0x500000 in node 0. -/
def code : State := { mapped with ctxs := mapped.ctxs.map fun c => { c with segs := [⟨0, 1, false, 0x500000, 1024, 0, 0x8000, 1, 0, [], 0, []⟩] } }

theorem witness_PoolWalkAndFillEvents_tables :
    let leaf : Word := 0x2000001E
    let s := demo.putBytes 0 ((natLe 8 0x20001).map some) |>.putBytes 0x20000 ((natLe 8 0x30001).map some)
    let t := s.putBytes (0x30000 + 8 * 0x50) ((natLe 8 leaf.toNat).map some)
    let near : TlbEntry := ⟨.cluster (sliceOf 0), 1, 0x50, leaf, .page⟩
    let c : State := { demo with tlb := [near] }
    c.tlbHit 1 0x500000 [.core 0] = none ∧ c.tlbHit 1 0x500000 [.cluster (sliceOf 0)] = some near ∧ 0 < near.tlb.size ∧
      (0x500000 : Word).extractLsb' 48 16 = 0#16 ∧ demo.tlb = [] ∧ (demo.ctxOf 1).isSome = true ∧
      (match demo.walk 0 0x500000 with
        | .leaf .. => false
        | _ => true) = true ∧
      (match t.walk 0 0x500000 with
        | .leaf e b => e == leaf && !b
        | _ => false) = true ∧ code.cachedBlock 0 1 0x500000 = none ∧
      (match code.fillBlock 0 1 false 0x500000 with
        | .ok _ => true
        | .error _ => false) = true ∧
      demo.cachedBlock 0 1 0x400000 = none ∧ (match demo.fillBlock 0 1 false 0x400000 with
        | .ok _ => false
        | .error _ => true) = true := by decide +kernel

/-- A copy of 32 bytes from 0x200 to 0x400 at the core 0, of engine command number 8. -/
def haul8 (st : HaulSt) (eng : Option Nat) : Haul :=
  { id := 8, task := 1, ctx := 1, loc := 0, q := 0, fields := copyFields 0x200, ticket := 1, depth := 0, rnd := 0, srkey := 0
    srctr := 0, mcstat := 0, st := st, row := 0, fault := none, tile := none, k := 0, order := 0, eng := eng, sv := false, got := []
    convx := false }

/-- The demo with that command. -/
def hauling (st : HaulSt) (eng : Option Nat) : State := { demo with hauls := [haul8 st eng] }

theorem witness_HaulAndCollectiveEvents_hauls :
    let p := hauling .pending none
    let r := hauling .running (some 0)
    (p.hauls.filter fun h => h.eng == some 0).length < 4 ∧ p.takeFor 0 = some (haul8 .pending none) ∧
      Shadow.belay (copyFields 0x200) = false ∧ Shadow.net (copyFields 0x200) = false ∧
      r.hauls.find? (fun x => x.id == 8) = some (haul8 .running (some 0)) ∧ r.haulWaits 8 = false ∧
      r.foldWaits (haul8 .running (some 0)) = false ∧
      (hauling .sent none).hauls.find? (fun x => x.id == 8) = some (haul8 .sent none) ∧ (hauling .sent none).haulWaits 8 = false ∧
      (hauling .posted none).hauls.find? (fun x => x.id == 8) = some (haul8 .posted none) ∧ (hauling .posted none).haulWaits 8 = false ∧
      (let d : State := (hauling .sent none).updFabric fun f => { f with reds := [⟨1, 0, 0, none, [], true⟩] }
       d.haulWaits 8 = false ∧ Shadow.op (copyFields 0x200) ≠ 5 ∧
         (d.red 1 (Shadow.group (copyFields 0x200)) 0).map Reduction.closed = some true) ∧
      (hauling (.waiting 3) (some 0)).hauls.find? (fun x => x.st == .waiting 3 && sliceDie x.engine == 0) =
        some (haul8 (.waiting 3) (some 0)) := by decide +kernel

/-- Page tables from address 0x10000 that map the page at 0x500000 to node 0. -/
def tabled (s : State) : State :=
  ((State.putBytes { s with ctxs := s.ctxs.map fun c => { c with ptroot := 0x10000 } } 0x10000 ((natLe 8 0x20001).map some)).putBytes 0x20000 ((natLe 8 0x30001).map some)).putBytes (0x30000 + 8 * 0x50)
    ((natLe 8 0x2000001E).map some)

theorem witness_BivouacResults_spill :
    let e : BivEntry := ⟨3, 4, [5], false, 9, none⟩
    let s : State := demo.setCur fun t => { t with biv := [e] }
    s.task 1 = some s.cur ∧ s.ctxOf 1 = some s.myCtx ∧ (s.cur.biv.find? fun x => x.n == e.n && x.slot.isNone) = some e ∧
      (s.ringPut ⟨1, 0, 1, 0⟩ s.myCtx.bqring 0 (e.bytes 0)).isSome = false ∧
      ((tabled { s with ctxs := s.ctxs.map fun c => { c with bqring := 0x500000 } }).ringPut ⟨1, 0, 1, 0⟩ 0x500000 0
        (e.bytes 0)).isSome = true := by decide +kernel

/-- The demo with the fabric on, in the torus of sixteen modules an edge; context 1 exports a page of node 0. -/
def fabric : State :=
  let s : State := { demo with
    ctxs := [{ Ctx.supervisor with id := 1, fctx := 9, exptab := 0x8000, mcg := (Vector.replicate 16 0).set 2 0x1000010 }] }
  ((tabled s).mcrPut fxid 0x10000FFF000).putBytes 0x8000 ((natLe 8 0 ++ natLe 8 0x10000 ++ natLe 8 0x500000 ++ [15]).map some)

theorem witness_HaulAndCollectiveEvents_multicast :
    let q : Request := ⟨1, 1, 0, 0, 9, 0x40, .store [some 1, some 2], false, 0, none, 0⟩
    let h : Haul := { haul8 .sent none with fields := ((copyFields 0x200).set 5 5).set 8 2 }
    let s : State := { fabric with hauls := [h] }
    fabric.fabricOn = true ∧ fabric.envOk 1 0 0 = true ∧ (fabric.exported 9 0x40 2 3 .store).map Prod.snd = some [(0x20000040, 2)] ∧
      fabric.exported 8 0x40 2 3 .store = none ∧ s.fabric.held = [] ∧ s.fabric.sent = [] ∧ q.kind = .store [some 1, some 2] ∧
      s.hauls.find? (fun x => x.id == 8 && x.st == .sent && Shadow.op x.fields == 5) = some h ∧
      (((s.ctxOf 1).bind fun c => c.box (Shadow.group h.fields)).map Box.count) = some 2 := by decide +kernel

theorem witness_HaulAndCollectiveEvents_reduction :
    let c : Contribution := ⟨⟨1, 0, 0⟩, 9, 2, 0, 4, 3, 0, 32, [1], List.replicate 32 0, false⟩
    let r : Reduction := ⟨1, 2, 0, none, [], false⟩
    let s : State := fabric.updFabric fun f => { f with reds := [r] }
    let t : State := fabric.updFabric fun f => { f with reds := [{ r with closed := true }] }
    fabric.envOk c.env.src c.env.inc c.env.expect = true ∧
      (fabric.ctxs.find? fun y => y.id != 0 && y.fctx == c.fctx).map Ctx.id = some 1 ∧
      (((fabric.ctxOf 1).bind fun x => x.box 2).map fun b => ((b.kids fabric.mid).contains 1, (b.index fabric.mid).isSome)) =
        some (true, true) ∧ fabric.red 1 2 0 = none ∧ s.red 1 2 0 = some r ∧
      (t.red 1 2 0).map Reduction.closed = some true := by decide +kernel

theorem witness_HaulAndCollectiveEvents_belay :
    let b : BelayBuf := ⟨0, false, Vector.replicate 6 0, (Vector.replicate 6 0).set 0 1, [], 0, 0⟩
    let c : Channel := { channel2 with bufs := #v[b, BelayBuf.fresh 1] }
    let s : State := { demo with ctxs := demo.ctxs.map fun x => { x with channels := [c] } }
    s.ctxOf 1 = some s.myCtx ∧ s.myCtx.channel 2 = some c ∧ (c.bufs[bufIx false]).held = false ∧ c.senders = [0] ∧ c.cmds = 1 ∧
      dieCount (c.bufs[bufIx false]).done 0 = 1 := by decide +kernel

theorem witness_FabricRequestsAndAnswers :
    let o : OutReq := ⟨4, 1, 1, 5, 0x1000, 0, 8, true, none, 0, 16, false, 0, none, none⟩
    let s : State := fabric.updFabric fun f => { f with out := [o] }
    demo.fabricOn = false ∧ fabric.fabricOn = true ∧ fabric.envOk 1 7 0 = false ∧ fabric.envOk 1 0 0 = true ∧ s.fabricOn = true ∧
      s.asked 4 1 = true ∧ s.envOk 1 0 0 = true ∧ (s.fabric.out.find? fun x => x.id == 4) = some o ∧ o ∈ s.fabric.out ∧
      o.haul = none ∧ o.store = true ∧ o.done = none := by decide +kernel

theorem witness_FabricRequestsAndAnswers_turn :
    let q : Request := ⟨1, 1, 0, 0, 9, 0x40, .load 8, false, 0x200, some 5, 0⟩
    let w : Request := ⟨2, 1, 0, 0, 9, 0x48, .load 8, false, 0x208, none, 0⟩
    let a : Request := ⟨3, 1, 0, 0, 9, 0x40, .acq, false, 0x200, none, 0⟩
    let s := State.putBytes { fabric with ctxs := fabric.ctxs.map fun c => { c with etch := 2, etchcb := 0x500000 } } 0x20000018
      ((natLe 8 0x508000).map some)
    s.fabricOn = true ∧ s.envOk 1 0 0 = true ∧ s.earlyTurn q = true ∧ s.earlyTurn { q with turn := some 0 } = false ∧
      s.fabric.waits = [] ∧ comesAfter w q = true ∧ s.earlyTurn a = false ∧ (s.serve a).2.1 = .ok ∧ leNat (s.serve a).2.2.1 = 0 ∧
      (s.serve a).2.2.2.1 = false := by decide +kernel

theorem witness_PortEvents_links :
    let b (f : Board → Board) : State := { demo with board := f demo.board }
    demo.board.mainRail = true ∧ demo.board.bringing = false ∧ demo.board.svcStop = false ∧ 1 ∈ linkNos ∧ 1 ∉ demo.board.linksDown ∧
      (b fun x => { x with bringing := true }).board.bringing = true ∧ (b fun x => { x with svcStop := true }).board.svcStop = true ∧
      (b fun x => { x with mainRail := false }).board.mainRail = false ∧ 1 ∈ (b fun x => { x with linksDown := [1] }).board.linksDown := by
  decide +kernel

theorem witness_PortEvents :
    let up (n : Word) : State := demo.mcrPut (fxport 1 2) n
    ((up 2).mcrGet (fxport 1 2)).extractLsb' 0 2 = 2#2 ∧ ((up 3).mcrGet (fxport 1 2)).extractLsb' 0 2 = 3#2 ∧
      ((up 2).mcrGet (fxport 1 2)).getLsbD 1 = true ∧ (demo.mcrGet (fxport 1 2)).getLsbD 1 = false ∧
      (0x10000000000 : Word).getLsbD 40 = true ∧ fabric.fabricOn = true ∧ (5 : Word).getLsbD 40 = false ∧
      ({ demo with board := { demo.board with mainRail := false } } : State).board.mainRail = false := by decide +kernel

/-- A frame of tier T0 in slot 0 with two tokens. -/
def frame1 : Frame := ⟨1, 0, false, 0, 0, false, false, 0, 0, 0, 2, false, 0, false, false, 0, 0⟩

/-- The space of `space3` with module 1 as its peer, a credit of two, and one frame, number 4. -/
def lending (f : Frame) (m : List Move) : State :=
  { fabric with spaces := [{ space3 with peer := 1, peersp := 6, credit := 2, frames := [(4, f)], moves := m }] }

theorem witness_LendingAndMoves_lender :
    let lent : Frame := { frame1 with lentOut := true, peer := 1, size := 512, layer := 512 }
    let x : LendFrame := ⟨List.replicate 512 0, [], 512⟩
    let s := lending lent []
    let one : State := { fabric with spaces := [{ space3 with peer := 1 }] }
    let p : Space := { space3 with peer := 1, credit := 2 }
    s.ctlOk ⟨1, 0, 0⟩ = true ∧ demo.ctlOk ⟨1, 0, 0⟩ = false ∧ (s.space 3).isSome = true ∧ (one.space 3).map Space.credit = some 0 ∧
      one.ctlOk ⟨1, 0, 0⟩ = true ∧ roundUp 256 x.layer ≤ p.slotSize 0 ∧ x.data.length ≤ x.layer * p.layers ∧
      p.freeId = some 0 ∧ p.freeSlot 0 = some 0 ∧ fabric.slotStop p 0 0 x.layer = none ∧ lent.refcnt ≠ 0 ∧ ((s.space 3).bind fun p => p.frame 4) = some lent ∧ frame1.readers = 0 ∧
      256 + 256 ≤ lent.size ∧ fabric.space 3 = none := by
  decide +kernel

/-- A move of frame 4. -/
def move4 (tier : Nat) (why : MoveWhy) (held put : Bool) : Move := ⟨4, tier, 0, why, held, put, none, [], false, none, none⟩

theorem witness_LendingAndMoves_borrower :
    let s := lending frame1 [move4 3 .auto false true]
    let k := lending frame1 [move4 3 (.kv 2) false true]
    let away (f : Frame) : Frame := { f with lentIn := true, peer := 1, slot := 9, tier := 3 }
    let b := lending (away frame1) []
    let gone : State := fabric.updFabric fun f => { f with sent := [(⟨fabric.mid, 0, 0⟩, .lendPut 1 3 4 6 0 ⟨[], [], 0⟩)] }
    let r : State := { b with spaces := b.spaces.map fun p => { p with recalls := [4] } }
    let none_ : State := { r with spaces := r.spaces.map fun p => { p with pool := #v[(0x503000, 0), (0, 0), (0, 0)] } }
    s.ctlOk ⟨1, 0, 0⟩ = true ∧
      ((s.space 3).bind fun p => p.moves.find? fun m => m.ident == 4 && m.tier == 3 && m.put && m.lenderIdent.isNone) =
        some (move4 3 .auto false true) ∧
      ((k.space 3).bind fun p => p.moves.find? fun m => m.ident == 4 && m.tier == 3 && m.put && m.lenderIdent.isNone) =
        some (move4 3 (.kv 2) false true) ∧
      (b.spaces.map fun p => (p.frames.find? fun y => y.2.lentIn && !y.2.lost && y.2.peer == 1 && y.2.slot == 9).map Prod.fst) = [some 4] ∧
      gone.space 3 = none ∧ gone.putSpace 1 3 4 = some 6 ∧ gone.ctlOk ⟨1, 0, 0⟩ = true ∧
      (r.space 3).map (fun p => (p.recalls, p.homeTier, p.frame 4)) = some ([4], some 0, some (away frame1)) ∧ r.ringFull 1 = false ∧
      (r.ctxOf 1).map Ctx.etch ≠ some 2 ∧ (none_.space 3).map Space.homeTier = some none ∧
      ((s.space 3).bind fun p => p.moves.find? fun x => x.ident == 4 && x.tier == 3 && x.put && !x.held) =
        some (move4 3 .auto false true) := by decide +kernel

/-- An ATTN of the focused task, stream 9, of operation 5, on sequence 5 of `space3`. -/
def stream9 : Stream where
  id := 9
  task := 1
  ctx := 1
  loc := 0
  handle := 0x3000005
  recVa := 0x1000
  args := recBytes
  parents := []
  causal := false
  tree := false
  resume := false
  prefetch := false
  ticket := 1
  op := 5
  assigned := false
  len := 2
  first := 0
  last := 1
  block := 0
  nextPage := 0
  slotNo := 0
  frame := none
  opened := []
  landed := []
  got := []
  asked := false
  stuck := none
  fault := none
  key := ([], false)
  rows := []
  saved := []
  folding := none
  stop := 0
  stopBlock := 0
  foot := []
  spoiled := false

/-- `space3` with sequence 5 open: one block in frame 4, two tokens. -/
def opened (f : Frame) : Space :=
  { space3 with seqs := [(5, ⟨0x505000, 2, 4, 1, 0, 0, [⟨true, 4, 2, ⟨0, 0, false, 0⟩⟩], []⟩)], frames := [(4, f)], peer := 1, peersp := 6 }

/-- The demo with that space, its pool mapped, and a stream. -/
def streaming (f : Frame) (x : Stream) : State :=
  tabled { withOp demo (.attn 9) [outS 3 0] with spaces := [opened f], streams := [x] }

/-- Frame 4 as a stream has it open. -/
def opened4 : Opened := ⟨4, 0, 0, 0, 2, 0, []⟩

theorem witness_LendingAndMoves_reply :
    let l : LendReq := ⟨7, 1, .stream 9, 3, 4, 6, 9, 0⟩
    let away : Frame := { frame1 with lentIn := true, peer := 1, slot := 9, tier := 3 }
    let asking (f : Frame) (l : LendReq) : State :=
      State.updFabric { lending f [{ move4 0 .auto false false with asked := true }] with
        streams := [{ stream9 with asked := true }]
        kvcmds := [⟨2, 1, 1, 0, .ktrim, 0x3000005, recBytes.take 32, 0x1000, false, 0, 1, 5, false, false, 0, 0, none, none, [], none, [],
          none, true, true, false, none, none⟩] } fun x => { x with lends := [l] }
    let found (s : State) (l : LendReq) : Bool :=
      decide ((s.fabric.lends.find? fun l => l.id == 7 && l.target == 1 && l.rspace == 6 && l.rident == 9 && l.off == 0) = some l)
    let m := { l with by_ := .move 3 4 }
    let k := { l with by_ := .split 2 }
    (asking away l).ctlOk ⟨1, 0, 0⟩ = true ∧ found (asking away l) l = true ∧ (asking away l).lendWanted l = true ∧
      (asking away l).lendHolds l = true ∧ (asking frame1 l).lendWanted l = true ∧ (asking frame1 l).lendHolds l = false ∧
      found (asking away m) m = true ∧ (asking away m).lendWanted m = true ∧ found (asking away k) k = true ∧
      (asking away k).lendWanted k = true ∧ found ({ asking away l with streams := [] }) l = true ∧
      ({ asking away l with streams := [] } : State).lendWanted l = false := by decide +kernel

theorem witness_LendingAndMoves_moves :
    let s := lending frame1 [move4 1 .auto false false]
    let h := lending { frame1 with hold := true } [move4 1 .auto true false]
    ((s.space 3).bind fun p => p.moves.find? fun m => m.ident == 4) = some (move4 1 .auto false false) ∧
      ((h.space 3).bind fun p => p.moves.find? fun m => m.ident == 4) = some (move4 1 .auto true false) ∧
      ((h.space 3).bind fun p => p.frame 4) = some { frame1 with hold := true } ∧ s.fabricOn = true ∧ s.incarnation = 0 ∧
      s.peerInc 1 = 0 ∧ (∀ p ∈ s.spaces, ∀ x ∈ p.frames, x.2.lentOut = true → x.2.peer ≠ 1) := by decide +kernel

/-- The demo with a KVTRIM at its controller. -/
def trimming (waits : Bool) : State :=
  { withOp demo (.kv 2) [outS 3 0] with
    spaces := [opened frame1]
    kvcmds := [⟨2, 1, 1, 0, .ktrim, 0x3000005, recBytes.take 32, 0x1000, false, 0, 1, 5, false, waits, 0, 0, none, none, [], none, [],
      none, false, true, false, none, none⟩] }

theorem witness_KvAndAttentionEvents_commands :
    let s := trimming false
    let w := trimming true
    let busy := withOp s (.acq (.pad (padBase 0 + 0x300)) true false) []
    let unsent : State := { busy with kvcmds := s.kvcmds.map fun c => { c with sent := false, op := 6 } }
    (s.kvcmds.map fun c => (c.n, s.kvMay c, c.waits)) = [(2, true, false)] ∧
      (unsent.kvcmds.map fun c => (c.n, c.sent, (unsent.task 1).map fun t => t.unperformedBefore c.op)) = [(2, false, some true)] ∧
      (w.kvcmds.all fun c => c.n == 2 && c.waits && (((w.updKv 2 fun x => { x with waits := false }).kvWork
        { c with waits := false }).kvcmds.all fun x => x.n != 2 || !x.waits)) = true := by decide +kernel

theorem witness_KvAndAttentionEvents_assign :
    let s := streaming frame1 stream9
    let closed : State := { s with spaces := [{ opened frame1 with seqs := [] }] }
    s.stream 9 = some stream9 ∧ ((s.streams.filter fun y => dieOf y.loc == dieOf 0).find? fun y => !y.assigned && s.streamTurn y) = some stream9 ∧
      (s.streams.filter fun y => dieOf y.loc == dieOf 0 && y.assigned).length < dieStreams (dieOf 0) ∧
      (s.task 1).map (fun t => decide (∀ o ∈ t.ops, o.id < 5 → o.padPending = false)) = some true ∧
      s.streamSpace stream9 = some (opened frame1) ∧ ((opened frame1).seqOf 5).st = 1 ∧ (s.ctxOf 1).map Ctx.etch = some 0 ∧
      (s.findOp 5).map (fun p => p.2.etch) = some none ∧ closed.stream 9 = some stream9 ∧
      ((closed.streamSpace stream9).map fun p => (p.seqOf 5).st) = some 0 ∧
      (closed.task 1).map (fun t => closed.myTurn t none (.unit 0)) = some true := by decide +kernel

theorem witness_KvAndAttentionEvents_open :
    let x : Stream := { stream9 with assigned := true }
    let s := streaming frame1 x
    let held := streaming { frame1 with hold := true } x
    let s1 := s.updSpace 3 fun p => p.readEntries 5 0 1
    let bare : State := { s with mem := [] }
    let foreign : State := { s with ctxs := s.ctxs ++ [{ Ctx.supervisor with id := 2, prot := true }] }.putKey 0 ⟨true, 2, 0, 4⟩
    let at_ := (opened frame1).frameBase 0 0 0
    let n := (x.span (opened frame1) 0).2
    let unit := Via.engine (sliceOf x.loc)
    s.stream 9 = some x ∧ x.atEnd = false ∧ s.streamSpace x = some (opened frame1) ∧ ((opened frame1).seqOf 5).st = 1 ∧
      ((opened frame1).seqOf 5).blocks[x.block]? = some ⟨true, 4, 2, ⟨0, 0, false, 0⟩⟩ ∧ (opened frame1).frame 4 = some frame1 ∧
      frame1.hold = false ∧ frame1.lost = false ∧ frame1.tier < 2 ∧ x.stuck = none ∧
      s1.kvStop 1 at_ n unit = none ∧ ((bare.updSpace 3 fun p => p.readEntries 5 0 1).kvStop 1 at_ n unit).map Prod.fst = some false ∧
      ((foreign.updSpace 3 fun p => p.readEntries 5 0 1).kvStop 1 at_ n unit).map Prod.fst = some true ∧
      ((held.streamSpace x).bind fun p => p.frame 4) = some { frame1 with hold := true } := by decide +kernel

theorem witness_KvAndAttentionEvents_pages :
    let x : Stream := { stream9 with assigned := true, frame := some opened4 }
    let s := streaming { frame1 with readers := 1 } x
    let y : Stream := { x with nextPage := 2 }
    let t := streaming { frame1 with readers := 1 } y
    let l : Landed := ⟨0, 0, 2, 0, 0, false⟩
    let z : Stream := { x with landed := [l] }
    let u := streaming { frame1 with readers := 1 } z
    let r := AttnRec.ofBytes x.args
    s.stream 9 = some x ∧ s.streamSpace x = some (opened { frame1 with readers := 1 }) ∧ x.nextPage < 2 * r.hc ∧
      x.landed.length < x.slots (opened { frame1 with readers := 1 }) ∧ opened4.tier ≠ 3 ∧ t.stream 9 = some y ∧
      y.nextPage = 2 * r.hc ∧ t.streamSpace y = some (opened { frame1 with readers := 1 }) ∧ frame1.refcnt ≠ 0 ∧
      u.stream 9 = some z ∧ u.streams = [z] ∧ (opened { frame1 with readers := 1 }).frame 4 = some { frame1 with readers := 1 } := by
  decide +kernel

theorem witness_KvAndAttentionEvents_end :
    let x : Stream := { stream9 with assigned := true, block := 1 }
    let y : Stream := { stream9 with assigned := true, stop := 4 }
    let s := streaming frame1 x
    let t := streaming frame1 y
    s.stream 9 = some x ∧ x.atEnd = true ∧ s.streams = [x] ∧ (s.findOp 5).map (fun p => p.2.fail) = some none ∧
      s.streamSpace x = some (opened frame1) ∧ t.stream 9 = some y ∧ (t.findOp 5).map (fun p => p.2.fail) = some none := by
  decide +kernel

/-- A ready task of context 1 for cluster 0, of task set 2, with a window and a kernel that runs once. -/
def task9 (st : TaskStatus) : Task :=
  { Task.blank with
    id := 9, ctx := 1, status := st, setId := 2, elig := [0, 1], loop := { LoopRec.none with kernel := 0x400400, trip := 1 }
    ctl := { Ctl.start with spb := 0x8000, spl := 0x10000, tvec := 0x500000 } }

/-- Its task set, of three tasks: two ends in cluster 0 and one in die 0. -/
def set2 : TaskSet :=
  ⟨2, 1, 0x600000, 0, 0, 0, 0, #v[3, 1, 1], 1, #v[0, 0, 0], 0, false, 0, 0, 0, 0, 0, none, 0, [(0, 2)], [(0, 1)], 3, false, 0⟩

/-- The demo with both. -/
def tasked (t : Task) : State := { demo with others := [t], sets := [set2] }

theorem witness_LaunchAndEndEvents_start :
    let sub : Submission := ⟨1, 0x600000, .mailbox 7 0⟩
    let r := tasked (task9 .ready)
    let b := tasked (task9 .bound)
    (({ demo with subs := [sub] } : State).subs.find? fun x => ({ demo with subs := [sub] } : State).subReady x) = some sub ∧
      (demo.ctxOf 1).isSome = true ∧ r.readyOrder = [task9 .ready] ∧ r.bindSlice (task9 .ready) = some (0, 1) ∧
      demo.readyOrder = [] ∧ b.task 9 = some (task9 .bound) ∧ b.startable (task9 .bound) = true ∧ b.setOf (task9 .bound) = some set2 ∧
      (b.ctxOf 1).map Ctx.etch = some 0 := by decide +kernel

theorem witness_LaunchAndEndEvents_watch :
    let x : Trigger := ⟨3, 0x40, 1, 0, 1⟩
    let s (m : Nat) : State := { demo with watches := [{ entry with mode := m }], triggers := [x] }
    (s 2).firstSubmission entry.die = some x ∧ (s 0).triggerOf 7 = some (entry, x) ∧ (s 2).triggerOf 7 = some ({ entry with mode := 2 }, x) ∧ (s 2).journalFull = false ∧
      (task9 .bound).loop.prologue = 0 ∧ (task9 .bound).loop.trip ≠ 0 := by decide +kernel

theorem witness_LaunchAndEndEvents_end :
    let t : Task := task9 .ending
    let c : Task := { t with counted := true }
    let s := tasked t
    let s1 := ((s.lostTickets t).flushCtx t.loc t.ctx).countEnd t
    let k : Task := { t with claims := [(2, false, 0)] }
    let g : State := { tasked k with ctxs := demo.ctxs.map fun c => { c with channels := [channel2] } }
    s.countTurn t = true ∧ (tasked c).task 9 = some c ∧ (tasked c).quiet c = true ∧ s.task 9 = some t ∧ s.quiet t = true ∧
      s.claimLeft t = none ∧ (s1.task 9).map (fun t1 => decide (∀ o ∈ t1.ops, o.lasts = false)) = some true ∧ s1.ringFull 1 = false ∧
      g.task 9 = some k ∧ g.quiet k = true ∧ g.claimLeft k = some (channel2, false) ∧ g.nextTurn k (.unit 0) = true ∧
      ((s.setOf t).map TaskSet.wkey).getD 0 = 0 ∧ (s.sets.find? fun y => y.ctx == 1 && y.id == 2) = some set2 ∧
      Tbl.get 0 set2.cl 0 ≠ 0 ∧ sliceBase 0 + 0 = 0 ∧ sliceDie 0 = 0 ∧ Tbl.get 0 set2.di 0 ≠ 0 ∧ Tbl.get 0 set2.di 0 < set2.left := by
  decide +kernel

theorem witness_LaunchAndEndEvents_notification :
    let s : State := { demo.mcrPut (jreg 0x60) 0x0002_0001_0000 with board := { demo.board with ntfSince := 4 } }
    s.board.hostUp = true ∧ s.board.ntfSince ≠ 0 ∧ s.jget 0x60 16 16 ≠ 0 := by decide +kernel

/-- A victim at core 0 of cluster 0, so that only its place fits task 9, which needs every register. -/
def full (v : Task) (t : Task) : State :=
  { demo with
    ctxs := demo.ctxs.map fun c => { c with imgn := 2, imgsz := 0x350000, imgbase := 0x20000000 }
    cores := (List.range 15).map fun k => (k + 1, { Core.init with failed := true })
    cur := { demo.cur with loc := 200 }
    others := [v, t], sets := [set2] }

/-- A task of the whole register file. -/
def victim (st : TaskStatus) (im : Option Nat) : Task := { task9 st with id := 8, parkedLong := true, image := im }

theorem witness_SwapAndTimeEvents_swap :
    let t := task9 .ready
    let v := victim .parked none
    let s := full v t
    let w := victim .stopped none
    let u := full w t
    s.task 8 = some v ∧ (s.ctxOf 1).map (fun c => s.freeImage c) = some (some 0) ∧ s.savable v = true ∧
      ((s.victims (s.stuckIn (sliceOf 0))).find? fun p => p.2.1 && p.2.2.id == 8) = some (t, true, v) ∧ u.task 8 = some w ∧
      u.savable w = true ∧ u.preemptStands w = false ∧
      (let p := { w with preemptFor := some 9 }
       let f := (full p t).mcrPut (ptreg 0 8) 0x0001_0001_0004
       f.savable p = true ∧ f.preemptStands p = true ∧ f.freedFor t p = true ∧ f.stuckIn (sliceOf 0) = [t]) := by decide +kernel

theorem witness_SwapAndTimeEvents_belay :
    let v : Task := { victim .bound none with tiles := [⟨2, 2, 0, 0, 0, 0⟩] }
    let s := full v (task9 .ready)
    s.task 8 = some v ∧ s.waitsBelay v = true ∧
      ((s.victims (s.stuckIn (sliceOf 0))).find? fun p => p.2.1 && p.2.2.id == 8) = some (task9 .ready, true, v) := by decide +kernel

theorem witness_SwapAndTimeEvents_restore :
    let v := victim .bound (some 1)
    let s := full v (task9 .ready)
    s.task 8 = some v ∧ s.waysFree v = true ∧ (s.ctxOf 1).map (fun c => s.etchFull c) = some false := by
  decide +kernel

/-- A partition 0 that may be pre-empted after a quantum, with an age limit. -/
def quantum (v : Task) : State :=
  (full v (task9 .ready)).mcrPut (ptreg 0 8) 0x0001_0001_0004

theorem witness_SwapAndTimeEvents_time :
    let r := victim .running none
    let p := victim .parked none
    let h := victim .halted none
    let open_ (t : Task) : State := { full t (task9 .ready) with sec := { demo.sec with unlocked := true, admits := BitVec.allOnes 256 } }
    let dog : Task := { r with ctl := { r.ctl with wdint := 5, wdcnt := 5 } }
    (quantum r).task 8 = some r ∧ (quantum r).yields r = true ∧ (quantum r).hasImage r = true ∧ (task9 .ready).ready = true ∧
      ((quantum r).ptTimes 0).2 ≠ 0 ∧ (quantum r).task 9 = some (task9 .ready) ∧ (open_ r).debugs 1 = true ∧
      (open_ h).task 8 = some h ∧ (full h (task9 .ready)).debugs 1 = false ∧ (full p (task9 .ready)).task 8 = some p ∧ dog.wdExpired = true ∧
      (full dog (task9 .ready)).task 8 = some dog := by decide +kernel

theorem witness_SwapAndTimeEvents_bark :
    let u : State := { demo with ctxs := demo.ctxs.map fun c => { c with tvec := 0x500000 } }
    u.cur.ctl.intrap = false ∧ u.myCtx.tvec ≠ 0 ∧ u.cur.status = .running := by decide +kernel

/-! The security controller. -/

/-- A command block: the number of the command and its arguments. -/
def cmd (op a0 a1 a2 : Nat) : List Byte := natLe 8 op ++ natLe 8 a0 ++ natLe 8 a1 ++ natLe 8 a2 ++ natLe 32 0

/-- A machine with a command of the management port at the head of the queue. -/
def asked (s : State) (op a0 a1 a2 : Nat) : State := s.updSec fun x => { x with queue := [.port (cmd op a0 a1 a2)] }

/-- Whether the head of the queue is a well-formed command of a number. -/
def headed (s : State) (op : Nat) : Bool :=
  match s.sec.queue with
  | [e] => scFormed ((s.scTouch e).scBytes e) && field ((s.scTouch e).scBytes e) 0 2 == op
  | _ => false

/-- The descriptor of a context 3 of key slot 7. -/
def descriptor : List Byte :=
  natLe 2 3 ++ natLe 2 9 ++ natLe 4 7 ++ natLe 8 0x20000 ++ natLe 8 0x30000 ++ List.replicate 16 0 ++ natLe 8 0x40000 ++ natLe 16 0 ++
    natLe 8 0x600000 ++ natLe 8 64 ++ natLe 8 0x50000 ++ natLe 8 0x700000 ++ natLe 8 4 ++ natLe 8 0x60000 ++ natLe 4 2 ++
    natLe 4 0x350000 ++ natLe 8 0x800000 ++ natLe 8 0 ++ natLe 8 0x90000 ++ List.replicate 112 0

/-- The demo with it at 0x10000, and key slot 7 assigned to context 3. -/
def described : State := (demo.putBytes 0x10000 (descriptor.map some)).putKey 7 ⟨true, 3, 0, 4⟩

theorem witness_SecurityCommands_contexts :
    let w := described.descTouch 0x10000
    headed (asked described 1 0x10000 0 0) 1 = true ∧ (w.readDesc 0x10000).map Ctx.id = some 3 ∧ w.ctxOf 3 = none ∧
      (w.readDesc 0x10000).map (fun c => ((w.key c.keyslot).assigned, (w.key c.keyslot).owner)) = some (true, 3) ∧
      headed (asked demo 2 1 0 0) 2 = true ∧ (demo.ctxOf 1).isSome = true ∧ headed (asked demo 3 7 1 0) 3 = true ∧
      (demo.key 7).assigned = false ∧ headed (asked described 3 7 1 0) 3 = true ∧ (described.key 7).assigned = true ∧
      headed (asked demo 4 7 0 0) 4 = true ∧ headed (asked (demo.putKey 7 ⟨true, 1, 0, 4⟩) 4 7 0 0) 4 = true ∧
      (∀ c ∈ demo.ctxs, c.id = 1 → c.prot = false) ∧ (∀ c ∈ demo.ctxs, c.keyslot ≠ 7) ∧ demo.rotates 7 = false ∧
      headed (asked (demo.putKey 7 ⟨true, 1, 0, 4⟩) 5 1 7 0) 5 = true ∧
      ((demo.putKey 7 ⟨true, 1, 0, 4⟩).key 7).owner = 1 := by decide +kernel

/-- The SHA-256 of 1024 bytes of zero, computed outside. -/
def zerosHash : List Byte := [0x5f, 0x70, 0xbf, 0x18, 0xa0, 0x86, 0x00, 0x70, 0x16, 0xe9, 0x48, 0xb0, 0x4a, 0xed, 0x3b, 0x82,
  0x10, 0x3a, 0x36, 0xbe, 0xa4, 0x17, 0x55, 0xb6, 0xcd, 0xdf, 0xaf, 0x10, 0xac, 0xe3, 0xc6, 0xef]

/-- The header of a segment 5 of 1 KiB at 0x508000, at 0x504000 of the mapped page. -/
def headered : State :=
  (tabled demo).putBytes 0x20004000 ((natLe 4 5 ++ natLe 4 0 ++ natLe 8 0x508000 ++ natLe 4 1024 ++ natLe 4 0 ++ natLe 4 0x8000 ++ natLe 4 0 ++
    zerosHash).map some)

theorem witness_SecurityCommands_segments :
    let w := (asked headered 6 0x50001 0x504000 0).segTouch (cmd 6 0x50001 0x504000 0)
    headed (asked headered 6 0x50001 0x504000 0) 6 = true ∧ (w.readHead 1 0x504000 5).map SegHead.hash = some zerosHash ∧
      (w.readHead 1 0x504000 5).map SegHead.signed = some false ∧
      (w.ctxBytes 1 1026 0x508000 1024).map Prod.snd = some false ∧ (w.ctxOf 1).map Ctx.segs = some [] ∧
      headed (asked code 7 0x10001 0 0) 7 = true ∧ (code.ctxOf 1).map (fun c => c.segs.map Seg.id) = some [1] ∧ code.sets = [] := by
  decide +kernel

theorem witness_SecurityCommands_others :
    headed (asked demo 8 0 0 0) 8 = true ∧ headed (asked demo 9 0x10000 0 0) 9 = true ∧ headed (asked demo 10 0 0 0) 10 = true ∧
      headed (asked demo 11 2 0 0) 11 = true ∧ (asked demo 11 2 0 0).raising = some 2 ∧ headed (asked demo 11 0 0 0) 11 = true ∧
      (asked demo 11 0 0 0).raising = none ∧ (asked demo 11 65 0 0).raising = none ∧ headed (asked demo 11 65 0 0) 11 = true ∧
      demo.sec.blowing = none ∧ demo.sec.fuses.contains (false, false) = true ∧ demo.sec.arb = 0 ∧ (demo.sec.fuses.filter fun p => !p.1 && !p.2).length = 64 ∧
      headed (asked demo 12 1 0 0) 12 = true ∧ demo.sets = [] ∧ headed (asked (tasked (task9 .ready)) 12 1 0 0) 12 = true ∧
      set2.ctx = 1 ∧ ({ demo.sec with fuses := [(true, true)] } : Sec).arb = 1 := by decide +kernel

theorem witness_BoardEvents :
    let off : State := { demo with board := { demo.board with mainRail := false } }
    (List.replicate 64 (0 : Byte)).length = 64 ∧ demo.sec.queue.length < 16 ∧ demo.board.mainRail = true ∧ demo.board.hostUp = true ∧
      demo.place (ctlBase 1 + 0x300) = .control 1 0x300 ∧ (ctlBase 1 + 0x300) % 8 = 0 ∧ demo.place 0x1000 = .node 0 ∧
      demo.inTables 0x1000 64 = true ∧ off.board.mainRail = false ∧
      (let u := demo.outsideTouch 0x1000 64
       let f : State := { demo with ctxs := demo.ctxs ++ [{ Ctx.supervisor with id := 2, prot := true }] }.putKey 0 ⟨true, 2, 0, 4⟩
       let p := demo.putSector 0x1000 ⟨255, 1⟩
       u.refused 0 0x1000 = false ∧ u.anyPoison 0x1000 64 = false ∧ (f.outsideTouch 0x1000 64).refused 0 0x1000 = true ∧
         (p.outsideTouch 0x1000 64).refused 0 0x1000 = false ∧ (p.outsideTouch 0x1000 64).anyPoison 0x1000 64 = true) := by
  decide +kernel

/-! ### Decoding and steps -/

theorem witness_EncodedSlotsDecode :
    let sl : Slot := ⟨true, .ldd ⟨9, 10, true, 1⟩⟩
    sl.i.wf = true ∧ encode sl = some 0xE0C92A01 ∧ decodeSlot 0xE0C92A01 = .ok sl := by decide +kernel

/-- The demo fetching at its pc. -/
def fetching (w : Nat) : State := demo.withFetchWord 32 w

/-- Whether the fetch finds a word alone in its bundle. -/
def fetches (s : State) (w : Nat) : Bool :=
  match s.fetchBlock with
  | .ok (s1, b) => bundleWords b.bytes 8 (s1.cur.pc.toNat % 1024) == ([w], true)
  | .error _ => false

theorem witness_StepRunsTheDecodedInstruction :
    let s := fetching 0xE0C92A01
    let m : State := s.setCur fun t => { t with pc := 0x400002 }
    s.agenda = [] ∧ s.turn = [] ∧ s.cur.status = .running ∧ s.cur.wdExpired = false ∧ fetches s 0xE0C92A01 = true ∧
      s.cur.pc.toNat % 4 = 0 ∧ m.cur.pc.toNat % 4 ≠ 0 ∧
      (match m.fetchBlock with
        | .ok _ => true
        | .error _ => false) = true ∧
      (match demo.fetchBlock with
        | .ok _ => false
        | .error _ => true) = true ∧ demo.scr.waiting = none ∧
      (match decodeBundle [0x07C40000, 0x8E00000F] true with
        | .ok (_ :: _ :: _) => true
        | _ => false) = true ∧ (match decodeBundle [0x80000001] true with
        | .error k => k == some 0
        | _ => false) = true := by decide +kernel

theorem witness_MemoryReadsBack : Memory.wf (demo.putBytes 0x100 [some 1, none, some 3]).mem = true ∧ Memory.wf demo.mem = true := by
  decide +kernel
theorem witness_SecurityCommands_hash : Sha.sha256 (List.replicate 1024 0) = zerosHash := by decide +kernel


/-! ### Ill-formed operands (07 R145) and the words that would encode them -/

/-- None of these is an instruction of the machine. -/
def illFormed (l : List Instr) : Bool := l.all fun i => !i.wf

theorem test_ill_formed_scalar : illFormed [
    .shli ⟨1, 2, false, 64⟩, .shri ⟨1, 2, false, 64⟩, .sari ⟨1, 2, false, 0x1FF⟩, .enter ⟨0⟩, .leave ⟨0⟩, .dbnz ⟨0, 4⟩,
    .crd ⟨1, 0x1B⟩, .cwr ⟨1, 0xFF⟩] = true := by decide +kernel

theorem test_ill_formed_vector : illFormed [
    .vadd ⟨0, 1, 2, .w1024, .f8, false, false⟩, .vfma ⟨0, 1, 2, .w512, .f8, false, false⟩, .vabs ⟨0, 1, .w1024, .f8, false⟩,
    .vscan ⟨0, 1, .w1024, .f8, false⟩, .vshl ⟨0, 1, 2, .w1024, .f32, false, false⟩, .vminu ⟨0, 1, 2, .w1024, .bf16, false, false⟩,
    .vadds ⟨0, 1, 2, .w1024, .f8, false, false⟩, .vmulh ⟨0, 1, 2, .w1024, .f64, false, false⟩,
    .vcmp ⟨.ltu, 0, 1, .w1024, .f32, false, false, false⟩, .vcmp ⟨.un, 0, 1, .w1024, .i32, false, false, false⟩,
    .vcmp ⟨.eq, 0, 1, .w1024, .f8, false, false, false⟩, .vaddsc ⟨0, 1, 2, .w1024, .f8, false⟩, .vmulsc ⟨0, 1, 2, .w1024, .f8, false⟩,
    .vfmasc ⟨0, 1, 2, .w1024, .f8, false⟩, .vaddi ⟨0, 1, 2, .w1024, .f16⟩, .vshli ⟨0, 1, 8, .w1024, .i8⟩,
    .vshri ⟨0, 1, 16, .w1024, .i16⟩, .vsari ⟨0, 1, 2, .w1024, .f32⟩, .vli ⟨0, 1, .w1024, .f8⟩, .viota ⟨0, .w1024, .f8⟩,
    .vdefer ⟨31, 1, 0, 0⟩, .vdrain ⟨31, 0, 0, 0⟩] = true := by decide +kernel

theorem test_ill_formed_special : illFormed [
    .vexp2 ⟨0, 1, .w1024, .f16, false⟩, .verf ⟨0, 1, .w1024, .f64, false⟩, .vrng ⟨0, 1, 2, .w1024, .f32, false⟩,
    .vredsum ⟨1, 0, .f8, .w1024⟩, .vargmax ⟨1, 0, .f8, .w1024⟩, .vsort ⟨0, 1, 2, .w1024, .i16, false, false⟩,
    .vsort ⟨31, 1, 2, .w1024, .i32, false, false⟩, .vmrg ⟨0, 2, 4, .w1024, .f64, false, false⟩,
    .vmrg ⟨31, 2, 4, .w1024, .f32, false, false⟩, .vmrg ⟨0, 31, 4, .w1024, .f32, false, false⟩,
    .vmrg ⟨0, 2, 31, .w1024, .f32, false, false⟩] = true := by decide +kernel

theorem test_ill_formed_memory : illFormed [
    .attn ⟨1, 2, 3, false, false, true, true⟩, .vgath ⟨0, 1, 2, .w1024, .e16, false⟩, .vscat ⟨0, 1, 2, .w1024, .e8, false⟩,
    .bind ⟨1, 2, false, 7⟩, .unbind ⟨1, 2, false, 41⟩, .hset ⟨1, 11⟩, .hget ⟨1, 15⟩, .wayconv ⟨1, 0⟩, .wayconv ⟨1, 7⟩,
    .tlbinvCtx ⟨1, 2, false⟩, .tlbinvAll ⟨1, 2, false⟩] = true := by decide +kernel

theorem test_ill_formed_words : refuses [
    0x04055440, 0x84455440, 0x04855440, 0x8E000000, 0x8E400000, 0x80000001, 0x9FC00000, 0x8F400001] = true := by
  decide +kernel

/-! ### Worked encodings of the specification (07 to 10, 12, 17, 20, 22) -/

theorem test_worked_words : decodesTo [
    (0x20C81157, ⟨false, .vfma ⟨4, 1, 2, .w1024, .f32, true, true⟩⟩),
    (0xE0C92A01, ⟨true, .ldd ⟨9, 10, true, 1⟩⟩),
    (0x8CDDFFFA, ⟨true, .br ⟨3, true, false, 0x1FFFA⟩⟩),
    (0x8712105C, ⟨true, .cmp ⟨2, .lt, 4, 5, true, true, false⟩⟩),
    (0x86840123, ⟨true, .li ⟨4, 0x123⟩⟩),
    (0x86C44567, ⟨true, .lsi ⟨4, 0x4567⟩⟩),
    (0xEE042604, ⟨true, .acq ⟨4, 9, true, .sy⟩⟩),
    (0xF84C0602, ⟨true, .kvfork ⟨12, 1, true, 2⟩⟩),
    (0xEC5A5D9B, ⟨true, .atxchD ⟨26, 23, 25, .rel, .sy⟩⟩),
    (0x8F400000, ⟨true, .rte⟩),
    (0x8E00000F, ⟨true, .enter ⟨15⟩⟩),
    (0x8E40000F, ⟨true, .leave ⟨15⟩⟩)] = true := by decide +kernel

/-! ### Single steps -/

/-- What an instruction leaves in a scalar register, at once or as a result on its way, and the pc. -/
def after (i : Instr) (s : State) (r : SReg) : Option (Word × Word) :=
  match exec i s with
  | .next t =>
    let coming := (t.cur.pend.find? fun p => p.out.dst == .s r).map fun p => p.out.data.setWidth 64
    let begun := (t.cur.ops.flatMap Op.outs).find? fun o => o.dst == .s r
    some (coming.getD ((begun.map fun o => o.data.setWidth 64).getD (t.readS r)), t.cur.pc)
  | _ => none

/-- Two scalar registers set. -/
def two (a b : Word) : State := setS (setS demo 2 a) 3 b

/-! Wrap-around, signs and the corners of division (08 R157 to R160). -/

theorem test_add_wraps : after (.add ⟨1, 2, 3, true, true⟩) (two (BitVec.allOnes 64) 2) 1 = some (1, 0x400004) := by decide +kernel

theorem test_mulh_signed : after (.mulh ⟨1, 2, 3, true, true⟩) (two (BitVec.allOnes 64) 1) 1 = some (BitVec.allOnes 64, 0x400004) := by
  decide +kernel

theorem test_sar_copies_the_sign :
    after (.sar ⟨2, 2, 3, true, true⟩) (two 0x8000000000000000 68) 2 = some (0xF800000000000000, 0x400004) := by decide +kernel

theorem test_addi_sign_extends : after (.addi ⟨1, 2, true, 0x1FF⟩) (two 0 0) 1 = some (BitVec.allOnes 64, 0x400004) := by decide +kernel

theorem test_div_truncates :
    after (.div ⟨1, 2, 3, true, true⟩) (two (0xFFFFFFFFFFFFFFF9) 2) 1 = some (0xFFFFFFFFFFFFFFFD, 0x400004) := by decide +kernel

theorem test_rem_by_zero : after (.rem ⟨1, 2, 3, true, true⟩) (two 17 0) 1 = some (17, 0x400004) := by decide +kernel

theorem test_zero_discards : after (.add ⟨0, 2, 3, true, true⟩) (two 4 5) 0 = some (0, 0x400004) := by decide +kernel

/-! Floating point (08 R165): 1.5 + 2.25 = 3.75; the tie 2^24 + 1 goes to even. -/

theorem test_fadd_f32 : after (.fadd ⟨1, 2, 3, true, true, .f32⟩) (two 0x3FC00000 0x40100000) 1 = some (0x40700000, 0x400004) := by
  decide +kernel

theorem test_fadd_ties_to_even : after (.fadd ⟨1, 2, 3, true, true, .f32⟩) (two 0x4B800000 0x3F800000) 1 = some (0x4B800000, 0x400004) := by
  decide +kernel

/-! Transfers and traps (08 R172 to R178, 20 R337). -/

theorem test_branch_offset_is_signed :
    after (.br ⟨0, false, false, 0x1FFFA⟩) demo 0 = some (0, 0x3FFFE8) := by decide +kernel

/-- The pc, c.EPC, c.CAUSE[7:0] and c.STATUS.INTRAP after an instruction. -/
def trapped (i : Instr) (s : State) : Option (Word × Word × BitVec 8 × Bool) :=
  match exec i s with
  | .next t => some (t.cur.pc, t.cur.ctl.epc, t.cur.ctl.cause.extractLsb' 0 8, t.cur.ctl.intrap)
  | _ => none

theorem test_svc_goes_to_the_handler : trapped (.svc ⟨5⟩) demo = some (0x500000, 0x400004, 0x13, true) := by decide +kernel

theorem test_rte_returns : trapped .rte inTrap = some (0x400100, 0x400100, 0, false) := by decide +kernel

/-! A vector sum of 8-bit elements wraps in its lane (09 R191). -/

theorem test_vadd_i8_wraps :
    (match exec (.vadd ⟨1, 2, 3, .w1024, .i8, true, true⟩) (setV (setV demo 2 0xFF80) 3 0x0180) with
      | .next t => ((t.cur.pend.find? fun p => p.out.dst == .v 1).map fun p => p.out.data.extractLsb' 0 16)
      | _ => none) = some 0x0000#16 := by decide +kernel

/-! A store and a load of the scratchpad (10 R222): little-endian, and the load sign-extends. -/

theorem test_store_bytes :
    (match exec (.stw ⟨2, 3, true, 1⟩) (two 0x11223384 0x200) with
      | .next t => t.bytes (padBase 0 + 0x204) 4
      | _ => []) = [0x84, 0x33, 0x22, 0x11] := by decide +kernel

theorem test_load_sign_extends :
    after (.ldb ⟨1, 3, true, 4⟩) ((two 0 0x200).putBytes (padBase 0 + 0x204) [some 0x84]) 1 = some (0xFFFFFFFFFFFFFF84, 0x400004) := by
  decide +kernel

/-! A step runs the word at the pc (06 R134): here ADDI s1, s2, 5 with the E bit. -/

theorem test_step_fetches :
    (match step ((two 7 0).withFetchWord 32 0x80C10A05) with
      | .next t => some (t.cur.pc, t.readS 1)
      | _ => none) = some (0x400004, 12) := by decide +kernel

end Sys2Proof.Tests
end

section
/-! PROOFS. The statements of 01_main_memory.md: the one form of memory (O57), the controllers and the weight stores (O40), the
ranges of tier T2, evictions, TLBs and instruction fills (O41). The lemmas say once what each operation of the home slices, of a
control register's fields and of the controllers does; the statements are assembled from them. -/

namespace Sys2Proof.Machine

/-! ### A table is determined by what is read from it (log 2) -/

/-- A table whose keys lie above `l` reads the default up to `l`. -/
theorem Tbl.get_of_le_okFrom {α : Type} [DecidableEq α] {d : α} {t : Tbl α} {l k : Nat}
    (h : Tbl.okFrom d (some l) t = true) (hk : k ≤ l) : Tbl.get d t k = d := by
  induction t generalizing l with
  | nil => rfl
  | cons e t ih =>
    obtain ⟨k', v⟩ := e
    simp only [Tbl.okFrom, Bool.and_eq_true, decide_eq_true_eq] at h
    obtain ⟨⟨hl, -⟩, ht⟩ := h
    rw [Tbl.get, if_neg (by omega)]
    exact ih ht (by omega)

/-- Two tables in their one form that read alike are one table. -/
theorem Tbl.eq_of_get_eq {α : Type} [DecidableEq α] {d : α} {m n : Tbl α} {lo : Option Nat}
    (hm : Tbl.okFrom d lo m = true) (hn : Tbl.okFrom d lo n = true) (h : ∀ q, Tbl.get d m q = Tbl.get d n q) : m = n := by
  induction m generalizing n lo with
  | nil =>
    cases n with
    | nil => rfl
    | cons e n =>
      simp only [Tbl.okFrom, Bool.and_eq_true, decide_eq_true_eq] at hn
      exact absurd (by simpa [Tbl.get] using (h e.1).symm) hn.1.2
  | cons e m ih =>
    obtain ⟨k, v⟩ := e
    simp only [Tbl.okFrom, Bool.and_eq_true, decide_eq_true_eq] at hm
    obtain ⟨⟨-, hv⟩, hm⟩ := hm
    cases n with
    | nil => exact absurd (by simpa [Tbl.get] using h k) hv
    | cons e' n =>
      obtain ⟨k', v'⟩ := e'
      simp only [Tbl.okFrom, Bool.and_eq_true, decide_eq_true_eq] at hn
      obtain ⟨⟨-, hv'⟩, hn⟩ := hn
      have hkey : k = k' := by
        rcases Nat.lt_trichotomy k k' with hlt | heq | hgt
        · have hk := h k
          rw [Tbl.get, if_pos rfl, Tbl.get, if_neg (by omega), Tbl.get_of_le_okFrom hn hlt.le] at hk
          exact absurd hk hv
        · exact heq
        · have hk := h k'
          rw [Tbl.get, if_neg (by omega), Tbl.get, if_pos rfl, Tbl.get_of_le_okFrom hm hgt.le] at hk
          exact absurd hk.symm hv'
      subst hkey
      have hval : v = v' := by simpa [Tbl.get] using h k
      have hrest : m = n := by
        refine ih hm hn fun q => ?_
        by_cases hq : k = q
        · rw [Tbl.get_of_le_okFrom hm hq.ge, Tbl.get_of_le_okFrom hn hq.ge]
        · simpa [Tbl.get, hq] using h q
      rw [hval, hrest]

end Sys2Proof.Machine

namespace Sys2Proof.Proofs

open Sys2Proof.Machine

/-- Settles O57: every writer of memory keeps its form and reads back (the laws of memory), and a table in its form is determined
by what is read from it. -/
theorem memoryReadsBack : Obligations.MemoryReadsBack :=
  ⟨Memory.wf_putByte, State.byte_putByte, Memory.wf_putBytes, State.byte_putBytes, Memory.wf_clearPad,
    fun _ _ hm hn h => Tbl.eq_of_get_eq hm hn h⟩

end Sys2Proof.Proofs

namespace Sys2Proof.Machine

/-! ### Fields of a control register (01 R28) -/

/-- A field read as a number is the number of its bits. -/
theorem Word.get_eq_toNat_extractLsb' (v : Word) (lo n : Nat) : Word.get v lo n = (v.extractLsb' lo n).toNat := by
  rw [Word.get, BitVec.extractLsb'_toNat, Nat.shiftRight_eq_div_pow]

/-- A mask of `n` bits from bit `lo` holds those bits alone. -/
theorem getLsbD_bitsAt {lo n : Nat} (h : lo + n ≤ 64) (i : Nat) :
    (bitsAt lo n).getLsbD i = decide (lo ≤ i ∧ i < lo + n) := by
  rw [bitsAt, BitVec.getLsbD_ofNat, Nat.testBit_mul_two_pow, Nat.testBit_two_pow_sub_one, ← Bool.decide_and, ← Bool.decide_and]
  exact decide_eq_decide.mpr (by omega)

/-- A register written under a mask takes the new bits there and keeps its own elsewhere. -/
theorem getLsbD_under (mask new old : Word) (i : Nat) :
    (under mask new old).getLsbD i = if mask.getLsbD i then new.getLsbD i else old.getLsbD i := by
  by_cases hi : i < 64
  · simp only [under, BitVec.getLsbD_or, BitVec.getLsbD_and, BitVec.getLsbD_not, hi, decide_true, Bool.true_and]
    cases mask.getLsbD i <;> simp
  · simp [BitVec.getLsbD_of_ge _ i (Nat.le_of_not_lt hi)]

/-- Bits that a write of 1 clears keep their value outside the mask. -/
theorem getLsbD_w1c_of_not_mask {mask new old : Word} {i : Nat} (h : mask.getLsbD i = false) :
    (w1c mask new old).getLsbD i = old.getLsbD i := by
  by_cases hi : i < 64
  · simp only [w1c, BitVec.getLsbD_and, BitVec.getLsbD_not, h, hi, Bool.and_false, Bool.not_false, decide_true, Bool.and_true]
  · simp [BitVec.getLsbD_of_ge _ i (Nat.le_of_not_lt hi)]

/-- Two words that agree on the bits of a field have the same field. -/
theorem extractLsb'_congr {v w : Word} {lo n : Nat} (h : ∀ i, lo ≤ i → i < lo + n → v.getLsbD i = w.getLsbD i) :
    v.extractLsb' lo n = w.extractLsb' lo n := by
  refine BitVec.eq_of_getLsbD_eq fun i hi => ?_
  simp only [BitVec.getLsbD_extractLsb', hi, decide_true, Bool.true_and]
  exact h _ (by omega) (by omega)

/-- A field written under its own mask holds the field that was written. -/
theorem extractLsb'_under_bitsAt {lo n : Nat} (h : lo + n ≤ 64) (new old : Word) :
    (under (bitsAt lo n) new old).extractLsb' lo n = new.extractLsb' lo n :=
  extractLsb'_congr fun i h1 h2 => by rw [getLsbD_under, getLsbD_bitsAt h, if_pos (by simp [h1, h2])]

/-- A field apart from the one written keeps its value. -/
theorem extractLsb'_under_bitsAt_of_disjoint {lo n lo' n' : Nat} (h : lo + n ≤ 64) (hd : lo' + n' ≤ lo ∨ lo + n ≤ lo')
    (new old : Word) : (under (bitsAt lo n) new old).extractLsb' lo' n' = old.extractLsb' lo' n' :=
  extractLsb'_congr fun i h1 h2 => by
    rw [getLsbD_under, getLsbD_bitsAt h, if_neg]
    simp only [decide_eq_true_eq]
    omega

/-- A number placed at a field is what the field holds. -/
theorem extractLsb'_ofNat_mul_two_pow {lo n : Nat} (h : lo + n ≤ 64) (c : Nat) :
    (BitVec.ofNat 64 (c * 2 ^ lo)).extractLsb' lo n = BitVec.ofNat n c := by
  refine BitVec.eq_of_getLsbD_eq fun i hi => ?_
  have h64 : lo + i < 64 := by omega
  simp only [BitVec.getLsbD_extractLsb', BitVec.getLsbD_ofNat, Nat.testBit_mul_two_pow, hi, h64, Nat.le_add_right,
    Nat.add_sub_cancel_left, decide_true, Bool.true_and]

/-- A count of `n` bits that rises by one, wrapping. -/
theorem extractLsb'_under_count {lo n : Nat} (h : lo + n ≤ 64) (v : Word) :
    (under (bitsAt lo n) (BitVec.ofNat 64 ((Word.get v lo n + 1) % 2 ^ n * 2 ^ lo)) v).extractLsb' lo n =
      v.extractLsb' lo n + 1 := by
  rw [extractLsb'_under_bitsAt h, extractLsb'_ofNat_mul_two_pow h, Word.get_eq_toNat_extractLsb']
  exact BitVec.eq_of_toNat_eq (by simp)

/-! ### Writes of HMROT and HMRET (01 R24, R26, R28) -/

/-- GO with two different slots that are keys, while no pass runs, starts a pass at stripe 0 (01 R24). -/
theorem State.hmrotWrite_go {s : State} {die stack : Nat} {v : Word} (hgo : v.getLsbD 16 = true)
    (hidle : (s.mcrGet (hmrot die stack)).getLsbD 17 = false) (hne : v.extractLsb' 0 8 ≠ v.extractLsb' 8 8)
    (hold : v.extractLsb' 0 8 ≠ 255#8) (hnew : v.extractLsb' 8 8 ≠ 255#8) :
    s.hmrotWrite die stack v = (s.mcrPut (hmrot die stack) (w1c (bitsAt 18 2) v
      (under (bitsAt 0 16 ||| bitsAt 20 2) v (s.mcrGet (hmrot die stack))) ||| bitsAt 17 1)).mcrPut (hmrot die stack + 8) 0 := by
  have get_ne : ∀ {a b : BitVec 8}, a ≠ b → (a.toNat == b.toNat) = false := fun h =>
    beq_false_of_ne fun e => h (BitVec.eq_of_toNat_eq e)
  have h1 : (Word.get v 0 8 == Word.get v 8 8) = false := by
    simpa only [Word.get_eq_toNat_extractLsb'] using get_ne hne
  have h2 : (Word.get v 0 8 == 255) = false := by rw [Word.get_eq_toNat_extractLsb']; exact get_ne hold
  have h3 : (Word.get v 8 8 == 255) = false := by rw [Word.get_eq_toNat_extractLsb']; exact get_ne hnew
  simp only [State.hmrotWrite, hgo, hidle, h1, h2, h3, Bool.not_true, Bool.or_self, Bool.false_eq_true, if_false]

/-- The word that starts a pass has RUN set and the slots that were written. -/
theorem hmrotStarted_fields (v old : Word) :
    let x := w1c (bitsAt 18 2) v (under (bitsAt 0 16 ||| bitsAt 20 2) v old) ||| bitsAt 17 1
    x.getLsbD 17 = true ∧ x.extractLsb' 0 16 = v.extractLsb' 0 16 := by
  have hrun : (bitsAt 17 1).getLsbD 17 = true := by decide
  refine ⟨by rw [BitVec.getLsbD_or, hrun, Bool.or_true], extractLsb'_congr fun i _ hi => ?_⟩
  have hclear : (bitsAt 18 2).getLsbD i = false := by
    rw [getLsbD_bitsAt (by decide)]; exact decide_eq_false (by omega)
  rw [BitVec.getLsbD_or, getLsbD_w1c_of_not_mask hclear, getLsbD_under, BitVec.getLsbD_or, getLsbD_bitsAt (by decide),
    getLsbD_bitsAt (by decide), getLsbD_bitsAt (by decide)]
  have h1 : decide (0 ≤ i ∧ i < 0 + 16) = true := decide_eq_true (by omega)
  have h2 : decide (17 ≤ i ∧ i < 17 + 1) = false := decide_eq_false (by omega)
  simp only [h1, h2, Bool.true_or, Bool.or_false, if_true]

/-- The state of a channel put leaves every other register alone. -/
theorem State.mcrGet_putChan_of_ne {s : State} {die stack chan st pa : Nat} (h : pa ≠ hmch die stack chan) :
    (s.putChan die stack chan st).mcrGet pa = s.mcrGet pa := by rw [State.putChan, State.mcrGet_mcrPut, if_neg h]

/-- HMRET is no channel's register. -/
theorem hmret_ne_hmch {die stack chan : Nat} (h : chan < 32) : hmret die stack ≠ hmch die stack chan := by
  simp only [hmret, hmch]; omega

/-- GO of a retirement that is refused leaves the reason in RESULT (01 R26, R28). -/
theorem State.hmretWrite_refused {s : State} {die stack r : Nat} {v : Word} (hgo : v.getLsbD 5 = true)
    (hr : s.retireRefused die stack (v.toNat % 32) = some r) :
    ((s.hmretWrite die stack v).mcrGet (hmret die stack)).extractLsb' 10 3 = BitVec.ofNat 3 r := by
  have hchan : Word.get v 0 5 = v.toNat % 32 := by simp [Word.get]
  have hne : hmret die stack ≠ hmch die stack (v.toNat % 32) := hmret_ne_hmch (Nat.mod_lt _ (by decide))
  have hput : ∀ new : Word, (under (bitsAt 10 3) (BitVec.ofNat 64 (r * 2 ^ 10)) new).extractLsb' 10 3 = BitVec.ofNat 3 r :=
    fun new => by rw [extractLsb'_under_bitsAt (by decide), extractLsb'_ofNat_mul_two_pow (by decide)]
  simp only [State.hmretWrite, hgo, hchan, hr, Bool.not_true, Bool.false_eq_true, if_false]
  split
  · rw [State.mcrGet_putChan_of_ne hne, State.mcrGet_mcrPut, if_pos rfl, hput]
  · rw [State.mcrGet_mcrPut, if_pos rfl, hput]

/-! ### Rotation within a scrub pass (01 R23, R24) -/

/-- A sector re-encrypted changes no byte and no register. -/
theorem State.rekeySector_keeps (s : State) (pa new : Nat) :
    (s.rekeySector pa new).mem = s.mem ∧ (s.rekeySector pa new).mcr = s.mcr := by
  unfold State.rekeySector
  split <;> exact ⟨rfl, rfl⟩

/-- Sectors re-encrypted change no byte and no register. -/
theorem State.rekeySectors_keep (s : State) (new : Nat) (pas : List Nat) :
    (pas.foldl (fun s pa => s.rekeySector pa new) s).mem = s.mem ∧
      (pas.foldl (fun s pa => s.rekeySector pa new) s).mcr = s.mcr :=
  List.foldlRecOn pas _ (motive := fun t : State => t.mem = s.mem ∧ t.mcr = s.mcr) ⟨rfl, rfl⟩ fun t ⟨hm, hr⟩ pa _ =>
    ⟨(t.rekeySector_keeps pa new).1.trans hm, (t.rekeySector_keeps pa new).2.trans hr⟩

/-- A running rotation that has come to a stripe short of the last goes on, with the frontier there (01 R24). -/
theorem State.rotate_short {s : State} {die stack k : Nat} (hk : k < stripes)
    (hrun : (s.mcrGet (hmrot die stack)).getLsbD 17 = true) :
    (s.rotate die stack k).mem = s.mem ∧ ((s.rotate die stack k).mcrGet (hmrot die stack)).getLsbD 17 = true ∧
      ((s.rotate die stack k).mcrGet (hmrot die stack + 8)).toNat = max (s.mcrGet (hmrot die stack + 8)).toNat k := by
  have hne : hmrot die stack ≠ hmrot die stack + 8 := by omega
  have hmax : max (s.mcrGet (hmrot die stack + 8)).toNat k < 2 ^ 64 :=
    max_lt (BitVec.isLt _) (hk.trans (by decide))
  simp only [State.rotate, hrun, hk, Bool.not_true, Bool.false_eq_true, if_false, if_true]
  obtain ⟨hmem, hmcr⟩ := s.rekeySectors_keep (Word.get (s.mcrGet (hmrot die stack)) 8 8)
    (s.sectorsAt die stack fun pa m => m.slot == Word.get (s.mcrGet (hmrot die stack)) 0 8 &&
      (s.mcrGet (hmrot die stack + 8)).toNat ≤ s.stripeOf pa && s.stripeOf pa < k)
  refine ⟨by rw [State.mcrPut_mem, hmem], ?_, ?_⟩
  · rw [State.mcrGet_mcrPut, if_neg hne, State.mcrGet, hmcr]
    exact hrun
  · rw [State.mcrGet_mcrPut, if_pos rfl, BitVec.toNat_ofNat, Nat.mod_eq_of_lt hmax]

/-! ### WSCTL (04 R93, R94) -/

/-- OPEN is not among the bits of WSCTL that a write of the error count or of ERR changes. -/
theorem wsctlNew_open (v old : Word) : (w1c (bitsAt 1 1) v (under (bitsAt 32 16) v old)).getLsbD 0 = old.getLsbD 0 := by
  rw [getLsbD_w1c_of_not_mask (by decide), getLsbD_under, if_neg (by decide)]

/-- OPEN 1 opens a weight store while no task set is live (04 R93). -/
theorem State.wsctlWrite_open {s : State} {k : Nat} {v : Word} (hv : v.getLsbD 0 = true) (hs : s.sets = []) :
    ((s.wsctlWrite k v).mcrGet (wsctl k)).getLsbD 0 = true ∧ (s.wsctlWrite k v).mem = s.mem := by
  simp only [State.wsctlWrite, hv, hs, ne_eq, not_true_eq_false, Bool.not_true, Bool.false_eq_true, if_false]
  refine ⟨?_, State.mcrPut_mem ..⟩
  rw [State.mcrGet_mcrPut, if_pos rfl]
  simp

/-- OPEN 1 while a task set is live sets ERR and leaves OPEN (04 R93). -/
theorem State.wsctlWrite_refused {s : State} {k : Nat} {v : Word} (hv : v.getLsbD 0 = true) (hs : s.sets ≠ []) :
    ((s.wsctlWrite k v).mcrGet (wsctl k)).getLsbD 1 = true ∧
      ((s.wsctlWrite k v).mcrGet (wsctl k)).getLsbD 0 = (s.mcrGet (wsctl k)).getLsbD 0 := by
  simp only [State.wsctlWrite, hv, hs, ne_eq, not_false_eq_true, Bool.not_true, Bool.false_eq_true, if_false, if_true]
  rw [State.mcrGet_mcrPut, if_pos rfl, BitVec.getLsbD_or, BitVec.getLsbD_or, wsctlNew_open]
  simp

/-- OPEN 0 seals the store, and every core's generation advances (04 R93, log 67). -/
theorem State.wsctlWrite_seal {s : State} {k : Nat} {v : Word} (hv : v.getLsbD 0 = false) :
    ∃ x : Word, x.getLsbD 0 = false ∧ s.wsctlWrite k v = (s.mcrPut (wsctl k) x).advanceAll := by
  refine ⟨w1c (bitsAt 1 1) v (under (bitsAt 32 16) v (s.mcrGet (wsctl k))) &&& ~~~1, by simp, ?_⟩
  simp only [State.wsctlWrite, hv, Bool.not_false, if_true]

end Sys2Proof.Machine

namespace Sys2Proof.Machine

/-! ### The events of the memory controllers (01 R19, R20, R23, R24, R26 to R28; 04 R93, R94; 20 R352) -/

theorem exec_registerWrite (pa : Nat) (v : Word) (s : State) : exec (.registerWrite pa v) s = execRegisterWrite pa v s := rfl

theorem exec_keyRotate (die stack : Nat) (v : Word) (s : State) :
    exec (.keyRotate die stack v) s = execKeyRotate die stack v s := rfl

theorem exec_channelRetire (die stack : Nat) (v : Word) (s : State) :
    exec (.channelRetire die stack v) s = execChannelRetire die stack v s := rfl

theorem exec_retireStripeRebuild (die stack : Nat) (s : State) :
    exec (.retireStripeRebuild die stack) s = execRetireStripeRebuild die stack s := rfl

theorem exec_scrubPass (die stack : Nat) (x : ScrubSpan) (s : State) :
    exec (.scrubPass die stack x) s = execScrubPass die stack x s := rfl

theorem exec_hbmLinkRetrain (die stack : Nat) (s : State) :
    exec (.hbmLinkRetrain die stack) s = execHbmLinkRetrain die stack s := rfl

theorem exec_memoryRead (pa : Nat) (found : EccFound) (rebuilt : Bool) (s : State) :
    exec (.memoryRead pa found rebuilt) s = execMemoryRead pa found rebuilt s := rfl

theorem exec_wsUnseal (k : Nat) (v : Word) (s : State) : exec (.wsUnseal k v) s = execWsUnseal k v s := rfl

theorem exec_wsSeal (k : Nat) (v : Word) (s : State) : exec (.wsSeal k v) s = execWsSeal k v s := rfl

theorem exec_wsRefreshPhase (k : Nat) (s : State) : exec (.wsRefreshPhase k) s = execWsRefreshPhase k s := rfl

/-- A register of the memory control space written from outside the cores takes the effect of the write. -/
theorem registerWrite_control {s : State} {pa die off : Nat} (v : Word) (hp : s.place pa = .control die off) (ha : pa % 8 = 0) :
    exec (.registerWrite pa v) s = .next (s.regWrite pa v) := by
  simp only [exec_registerWrite, execRegisterWrite, hp, ha, if_true]

/-- KEY_ROTATE at a stack that the die has is a write of its HMROT (01 R24). -/
theorem keyRotate_block {s : State} {die stack : Nat} (v : Word) (hd : die < 6) (hb : hasBlock die stack = true) :
    exec (.keyRotate die stack v) s = .next (s.hmrotWrite die stack v) := by
  rw [exec_keyRotate, execKeyRotate, if_pos ⟨hd, hb⟩]

/-- CHANNEL_RETIRE at a stack that the die has is a write of its HMRET (01 R26). -/
theorem channelRetire_block {s : State} {die stack : Nat} (v : Word) (hd : die < 6) (hb : hasBlock die stack = true) :
    exec (.channelRetire die stack v) s = .next (s.hmretWrite die stack v) := by
  rw [exec_channelRetire, execChannelRetire, if_pos ⟨hd, hb⟩]

/-- GO of HMROT leaves RUN set, the slots as written and the frontier at 0. -/
theorem hmrotWrite_go_fields {s : State} {die stack : Nat} {v : Word} (hgo : v.getLsbD 16 = true)
    (hidle : (s.mcrGet (hmrot die stack)).getLsbD 17 = false) (hne : v.extractLsb' 0 8 ≠ v.extractLsb' 8 8)
    (hold : v.extractLsb' 0 8 ≠ 255#8) (hnew : v.extractLsb' 8 8 ≠ 255#8) :
    ((s.hmrotWrite die stack v).mcrGet (hmrot die stack)).getLsbD 17 = true ∧
      ((s.hmrotWrite die stack v).mcrGet (hmrot die stack)).extractLsb' 0 16 = v.extractLsb' 0 16 ∧
      (s.hmrotWrite die stack v).mcrGet (hmrot die stack + 8) = 0 := by
  have hapart : hmrot die stack ≠ hmrot die stack + 8 := by omega
  obtain ⟨hrun, hslots⟩ := hmrotStarted_fields v (s.mcrGet (hmrot die stack))
  rw [State.hmrotWrite_go hgo hidle hne hold hnew, State.mcrGet_mcrPut, if_neg hapart, State.mcrGet_mcrPut, if_pos rfl]
  exact ⟨hrun, hslots, by rw [State.mcrGet_mcrPut, if_pos rfl]⟩

/-- A stripe rebuilt short of the last moves the frontier (01 R26). -/
theorem retireStripeRebuild_short {s : State} {r : Retire}
    (hr : s.retiring.find? (fun x => x.die == r.die && x.stack == r.stack) = some r)
    (hf : (s.mcrGet (hmret r.die r.stack + 8)).toNat + 1 < stripes) :
    exec (.retireStripeRebuild r.die r.stack) s = .next
      (s.mcrPut (hmret r.die r.stack + 8) (BitVec.ofNat 64 ((s.mcrGet (hmret r.die r.stack + 8)).toNat + 1))) := by
  simp only [exec_retireStripeRebuild, execRetireStripeRebuild, hr, hf, if_true]

/-- The last stripe rebuilt retires the channel (01 R26). -/
theorem retireStripeRebuild_last {s : State} {r : Retire}
    (hr : s.retiring.find? (fun x => x.die == r.die && x.stack == r.stack) = some r)
    (hf : stripes ≤ (s.mcrGet (hmret r.die r.stack + 8)).toNat + 1) :
    exec (.retireStripeRebuild r.die r.stack) s = .next (s.retireDone r) := by
  simp only [exec_retireStripeRebuild, execRetireStripeRebuild, hr, Nat.not_lt.mpr hf, if_false]

/-- The condition under which a pass does nothing does not hold of a controller whose interval is not 0. -/
theorem scrubber_runs {s : State} {die stack : Nat} (hd : die < 6) (hb : hasBlock die stack = true)
    (hi : (s.mcrGet (ctlBase die + stack * 0x10000 + 0x200)).extractLsb' 0 8 ≠ 0#8) :
    ¬ (6 ≤ die ∨ hasBlock die stack = false ∨ Word.get (s.mcrGet (ctlBase die + stack * 0x10000 + 0x200)) 0 8 = 0) := by
  rw [Word.get_eq_toNat_extractLsb', hb]
  rintro (h | h | h)
  · omega
  · cases h
  · exact hi (BitVec.eq_of_toNat_eq h)

/-- A pass that comes to a stripe short of the last carries its rotation there (01 R24). -/
theorem scrubPass_short {s : State} {die stack k : Nat} (hits : List ScrubHit) (hd : die < 6) (hb : hasBlock die stack = true)
    (hi : (s.mcrGet (ctlBase die + stack * 0x10000 + 0x200)).extractLsb' 0 8 ≠ 0#8) (hk : k < stripes) :
    exec (.scrubPass die stack ⟨k, hits⟩) s = .next (s.rotate die stack k) := by
  rw [exec_scrubPass, execScrubPass, if_neg (scrubber_runs hd hb hi), if_pos hk]

/-- A pass that has come to the last stripe ends (01 R23). -/
theorem scrubPass_end {s : State} {die stack : Nat} (hits : List ScrubHit) (hd : die < 6) (hb : hasBlock die stack = true)
    (hi : (s.mcrGet (ctlBase die + stack * 0x10000 + 0x200)).extractLsb' 0 8 ≠ 0#8) :
    exec (.scrubPass die stack ⟨stripes, hits⟩) s = .next (s.scrubEnd die stack hits) := by
  rw [exec_scrubPass, execScrubPass, if_neg (scrubber_runs hd hb hi), if_neg (Nat.lt_irrefl stripes)]

/-- A pass counted in the scrub register: the count rises by one, wrapping, and the other fields stay. -/
theorem scrubCount_fields (v : Word) :
    let x := under (bitsAt 48 16) (BitVec.ofNat 64 ((Word.get v 48 16 + 1) % 65536 * 2 ^ 48)) v
    x.extractLsb' 48 16 = v.extractLsb' 48 16 + 1 ∧ x.extractLsb' 0 48 = v.extractLsb' 0 48 :=
  ⟨extractLsb'_under_count (by decide) v, extractLsb'_under_bitsAt_of_disjoint (by decide) (by decide) _ v⟩

/-- The end of a pass counts it in the upper 16 bits of the scrub register, which keeps its other bits, and logs it (01 R23). -/
theorem State.scrubEnd_counts (s : State) (die stack : Nat) (hits : List ScrubHit) :
    let reg := ctlBase die + stack * 0x10000 + 0x200
    let found := hits.foldl (fun s h => s.scrubFound die stack h) s
    let a := (found.sectorsAt die stack fun pa _ => found.stale pa).foldl (fun s pa => s.sectorLost pa 3) found
    let b := ((List.range 32).foldl (fun t c => t.suspect die stack c (correctedOn (hits.filter (s.scrubs die stack)) c)) a).rotate
      die stack stripes
    ∃ x : Word, s.scrubEnd die stack hits = (b.mcrPut reg x).errLog die 6 stack 0xFF 0 0 0 ∧
      x.extractLsb' 48 16 = (b.mcrGet reg).extractLsb' 48 16 + 1 ∧ x.extractLsb' 0 48 = (b.mcrGet reg).extractLsb' 0 48 := by
  intro reg found a b
  refine ⟨_, ?_, scrubCount_fields (b.mcrGet reg)⟩
  rfl

/-- A link that trains again does so under the next session key; HMSTAT counts it, and the event is logged (01 R19, R28). -/
theorem hbmLinkRetrain_counts {s : State} {die stack : Nat} (hd : die < 6) (hb : hasBlock die stack = true) (hs : stack ≠ 4) :
    let link := 4 * die + stack
    let t : State := { s with linkKey := Tbl.put 0 s.linkKey link (Tbl.get 0 s.linkKey link + 1) }
    ∃ x : Word, exec (.hbmLinkRetrain die stack) s = .next ((t.mcrPut (hmstat die stack) x).errLog die 5 stack 0xFF 0 0 0) ∧
      x.extractLsb' 6 16 = (s.mcrGet (hmstat die stack)).extractLsb' 6 16 + 1 ∧
      x.extractLsb' 0 6 = (s.mcrGet (hmstat die stack)).extractLsb' 0 6 ∧
      x.extractLsb' 22 42 = (s.mcrGet (hmstat die stack)).extractLsb' 22 42 := by
  have hlink : ¬ (6 ≤ die ∨ hasBlock die stack = false ∨ stack = 4) := by
    rw [hb]
    rintro (h | h | h)
    · omega
    · cases h
    · exact hs h
  rw [exec_hbmLinkRetrain, execHbmLinkRetrain, if_neg hlink]
  exact ⟨_, rfl, extractLsb'_under_count (by decide) _, extractLsb'_under_bitsAt_of_disjoint (by decide) (by decide) _ _,
    extractLsb'_under_bitsAt_of_disjoint (by decide) (by decide) _ _⟩

/-- A read of a sector that no slice holds checks it in memory (01 R20). -/
theorem memoryRead_node {s : State} {pa n : Nat} (found : EccFound) (rebuilt : Bool) (hp : s.place pa = .node n)
    (hv : (s.l2Sector pa).valid = false) : exec (.memoryRead pa found rebuilt) s = .next (s.eccCheck pa found rebuilt) := by
  simp only [exec_memoryRead, execMemoryRead, hp, hv, Bool.false_eq_true, if_false]

/-- An uncorrectable error in a good granule of a weight store (04 R94). -/
theorem memoryRead_weights {s : State} {pa k o : Nat} (rebuilt : Bool) (hg : s.poisoned pa = false)
    (hp : s.place pa = .weights k o) : exec (.memoryRead pa .uncorrectable rebuilt) s = .next (s.weightLost k pa) := by
  simp only [exec_memoryRead, execMemoryRead, hp, hg, and_self, if_true]

/-- An uncorrectable error in a good granule of a scratchpad (20 R352). -/
theorem memoryRead_pad {s : State} {pa k o : Nat} (rebuilt : Bool) (hg : s.poisoned pa = false)
    (hp : s.place pa = .pad k o) : exec (.memoryRead pa .uncorrectable rebuilt) s = .next (s.padLost pa) := by
  simp only [exec_memoryRead, execMemoryRead, hp, hg, and_self, if_true]

/-- WS_UNSEAL is a write of WSCTL with OPEN 1 (04 R93). -/
theorem wsUnseal_open {s : State} {k : Nat} {v : Word} (hk : k < 4) (hv : v.getLsbD 0 = true) :
    exec (.wsUnseal k v) s = .next (s.wsctlWrite k v) := by
  rw [exec_wsUnseal, execWsUnseal, if_pos ⟨hk, hv⟩]

/-- WS_SEAL is a write of WSCTL with OPEN 0 (04 R93). -/
theorem wsSeal_closed {s : State} {k : Nat} {v : Word} (hk : k < 4) (hv : v.getLsbD 0 = false) :
    exec (.wsSeal k v) s = .next (s.wsctlWrite k v) := by
  rw [exec_wsSeal, execWsSeal, if_pos ⟨hk, by rw [hv]; rfl⟩]

/-- The refresh window of a store moves to the next of its eight partitions, and no other window moves (04 R94). -/
theorem wsRefreshPhase_moves (s : State) (k : Fin 4) :
    ∃ t, exec (.wsRefreshPhase k.val) s = .next t ∧ t.wsPhase[k] = (s.wsPhase[k] / 2048 + 1) % 8 * 2048 ∧
      ∀ j : Fin 4, j ≠ k → t.wsPhase[j] = s.wsPhase[j] := by
  refine ⟨_, by rw [exec_wsRefreshPhase, execWsRefreshPhase, dif_pos k.isLt], ?_, fun j hj => ?_⟩
  · exact Vector.getElem_set_self k.isLt
  · exact Vector.getElem_set_ne k.isLt j.isLt fun h => hj (Fin.ext h.symm)

end Sys2Proof.Machine

namespace Sys2Proof.Proofs

open Sys2Proof.Machine

/-- Settles O40, clause by clause from what each event of the controllers does: a rotation leaves registers but its own alone, and
a field of a register is written under its own mask. -/
theorem memoryControllerEvents : Obligations.MemoryControllerEvents := by
  refine ⟨⟨?write, ?go, ?rebuild, ?scrub, ?retrain, ?node, ?poison⟩, ?weights⟩
  case write => exact fun _ _ _ _ v hp ha => registerWrite_control v hp ha
  case go =>
    exact fun _ _ _ v hd hb => ⟨keyRotate_block v hd hb, channelRetire_block v hd hb, hmrotWrite_go_fields,
      fun hgo _ hr _ => State.hmretWrite_refused hgo hr⟩
  case rebuild => exact fun _ _ hr => ⟨retireStripeRebuild_short hr, retireStripeRebuild_last hr⟩
  case scrub =>
    intro s die stack hits hd hb reg hi
    refine ⟨?_, fun k hk hrun => ⟨_, scrubPass_short hits hd hb hi hk, State.rotate_short hk hrun⟩⟩
    obtain ⟨x, hx, hcount, hrest⟩ := s.scrubEnd_counts die stack hits
    exact ⟨x, (scrubPass_end hits hd hb hi).trans (congrArg _ hx), hcount, hrest⟩
  case retrain => exact fun _ _ _ hd hb hs => hbmLinkRetrain_counts hd hb hs
  case node => exact fun _ _ _ found rebuilt hp hv => memoryRead_node found rebuilt hp hv
  case poison => exact fun _ _ _ _ rebuilt hg => ⟨memoryRead_weights rebuilt hg, memoryRead_pad rebuilt hg⟩
  case weights =>
    intro s k v
    refine ⟨fun hv hs => ⟨_, wsUnseal_open k.isLt hv, State.wsctlWrite_open hv hs⟩,
      fun hv hs => ⟨_, wsUnseal_open k.isLt hv, State.wsctlWrite_refused hv hs⟩, fun hv => ?_, wsRefreshPhase_moves s k⟩
    obtain ⟨x, hx, hseal⟩ := State.wsctlWrite_seal (s := s) (k := k) hv
    exact ⟨x, hx, by rw [wsSeal_closed k.isLt hv, hseal]⟩

end Sys2Proof.Proofs

namespace Sys2Proof.Machine

/-! ### What the work at the home slices leaves alone (04 R79 to R83) -/

/-- The machine `s` with memory, its metadata, the lines of the home slices, the errors met and charged, and the triggers of
watches as they are in `t`. -/
def State.withHomeOf (s t : State) : State :=
  { s with
    mem := t.mem, sectors := t.sectors, l2 := t.l2, charged := t.charged, found := t.found, triggers := t.triggers }

/-- Between `s` and `t` work was done at the home slices and in the memory behind them alone. -/
def State.HomeOnly (s t : State) : Prop := t = s.withHomeOf t

theorem State.HomeOnly.refl (s : State) : s.HomeOnly s := rfl

theorem State.HomeOnly.trans {s t u : State} (h : s.HomeOnly t) (h' : t.HomeOnly u) : s.HomeOnly u :=
  calc u = t.withHomeOf u := h'
    _ = (s.withHomeOf t).withHomeOf u := congrArg (fun x : State => x.withHomeOf u) h
    _ = s.withHomeOf u := rfl

theorem State.HomeOnly.l1 {s t : State} (h : s.HomeOnly t) : t.l1 = s.l1 := Eq.trans (congrArg State.l1 h) rfl

theorem State.HomeOnly.free {s t : State} (h : s.HomeOnly t) : t.free = s.free := Eq.trans (congrArg State.free h) rfl

/-- A run of steps that each work at the home slices works there alone. -/
theorem State.HomeOnly.foldl {β : Type} {f : State → β → State} {s t : State} (l : List β) (h : s.HomeOnly t)
    (hf : ∀ t b, State.HomeOnly t (f t b)) : s.HomeOnly (l.foldl f t) :=
  List.foldlRecOn l f h fun t ht b _ => ht.trans (hf t b)

/-- Between `s` and `t` work was done at the home slices and in the L1s alone, with free choices of the lines that go. -/
def State.HomeAndL1Only (s t : State) : Prop := t = { s.withHomeOf t with l1 := t.l1, free := t.free }

theorem State.HomeAndL1Only.refl (s : State) : s.HomeAndL1Only s := rfl

theorem State.HomeOnly.andL1 {s t : State} (h : s.HomeOnly t) : s.HomeAndL1Only t := by
  rw [State.HomeAndL1Only, h.l1, h.free]
  exact h

theorem State.HomeAndL1Only.trans {s t u : State} (h : s.HomeAndL1Only t) (h' : t.HomeAndL1Only u) : s.HomeAndL1Only u :=
  Eq.trans h' (congrArg (fun x : State => { x.withHomeOf u with l1 := u.l1, free := u.free }) h)

theorem State.HomeAndL1Only.putLines (s : State) (l1 : List L1Line) (l2 : List L2Line) :
    s.HomeAndL1Only { s with l1 := l1, l2 := l2 } := rfl

theorem State.HomeAndL1Only.foldl {β : Type} {f : State → β → State} {s t : State} (l : List β) (h : s.HomeAndL1Only t)
    (hf : ∀ t b, State.HomeAndL1Only t (f t b)) : s.HomeAndL1Only (l.foldl f t) :=
  List.foldlRecOn l f h fun t ht b _ => ht.trans (hf t b)

theorem State.HomeAndL1Only.board {s t : State} (h : s.HomeAndL1Only t) : t.board = s.board :=
  Eq.trans (congrArg State.board h) rfl

/-- Bytes written change memory alone. -/
theorem State.putBytes_homeOnly (s : State) (pa : Nat) (bs : List (Option Byte)) : s.HomeOnly (s.putBytes pa bs) := by
  induction bs generalizing s pa with
  | nil => rfl
  | cons b bs ih =>
    cases b with
    | none => exact ih s (pa + 1)
    | some b => exact State.HomeOnly.trans (t := s.putByte pa b) rfl (ih _ (pa + 1))

/-- A sector read from memory into its slice is work at the home (01 R20, 04 R82). -/
theorem State.fetchSector_homeOnly (s : State) (pa : Nat) : s.HomeOnly (s.fetchSector pa) := by
  unfold State.fetchSector
  dsimp only
  split_ifs <;> rfl

/-- A write merged into a sector, with the watches that it triggers, is work at the home (04 R81, R82). -/
theorem State.mergeSector_homeOnly (s : State) (unit : Nat) (a : Agent) (pa : Nat) (bs : List (Option Byte)) :
    s.HomeOnly (s.mergeSector unit a pa bs) := by
  unfold State.mergeSector
  split
  · rfl
  · have hfill : s.HomeOnly (if wholeSector pa bs = true then s else s.fetchSector pa) := by
      split
      · exact .refl s
      · exact s.fetchSector_homeOnly pa
    dsimp only
    generalize (if wholeSector pa bs = true then s else s.fetchSector pa) = s1 at hfill ⊢
    split
    · exact hfill
    · exact State.HomeOnly.foldl _ (hfill.trans ((s1.putBytes_homeOnly pa bs).trans rfl)) fun t p =>
        (rfl : t.HomeOnly (t.watched a p.1 p.2))

/-- A dirty sector written to memory is work at the home (04 R82). -/
theorem State.writeSector_homeOnly (s : State) (pa owner : Nat) (poison bad : Bool) :
    s.HomeOnly (s.writeSector pa owner poison bad) := by
  unfold State.writeSector
  split
  · rfl
  · dsimp only
    split <;> rfl

/-- The dirty bytes of an L1 line merged into the home's line change no L1. -/
theorem State.mergeLine_homeOnly (s : State) (l : L1Line) : s.HomeOnly (s.mergeLine l) := by
  unfold State.mergeLine
  split
  · rfl
  · exact s.mergeSector_homeOnly ..

/-- Nor do dirty bytes that are written back with an error (20 R352). -/
theorem State.mergeLost_homeOnly (s : State) (l : L1Line) : s.HomeOnly (s.mergeLost l) := by
  unfold State.mergeLost
  dsimp only
  split
  · rfl
  · split
    · exact s.mergeLine_homeOnly l
    · exact (s.mergeLine_homeOnly l).trans rfl

/-! ### Evictions (04 R82, R83) -/

/-- Whether an eviction takes a line out of an L1: it is of the line that is evicted, at a core of a cluster whose presence bit is
set (04 R83). -/
def State.evicts (s : State) (line : Nat) (l : L1Line) : Bool :=
  l.line / 4 == line && (((s.l2At (256 * line)).map L2Line.presence).getD 0).getLsbD (sliceOf l.loc)

/-- The machine once the L1 lines that an eviction takes out have been written back. -/
def State.writtenBack (s : State) (line : Nat) (bad : List Nat) : State :=
  (s.l1.filter (s.evicts line)).foldl (fun s l => if bad.contains (4 + l.line % 4) then s.mergeLost l else s.mergeLine l) s

/-- The dirty sectors of a line written to memory, as an eviction does. -/
def State.writeOut (s : State) (line : Nat) (bad : List Nat) (out : List (Nat × Nat × Bool)) : State :=
  out.foldl (fun s e => s.writeSector (256 * line + 64 * e.1) e.2.1 e.2.2 (bad.contains e.1)) s

/-- An eviction in its parts: the L1s write back, they and the home slice drop the line, its dirty sectors go to memory. -/
theorem State.evictLine_eq (s : State) (line : Nat) (bad : List Nat) :
    let u := s.writtenBack line bad
    s.evictLine line bad =
      State.writeOut { u with l1 := u.l1.filter fun l => !s.evicts line l, l2 := u.l2.filter fun l => l.line != line } line bad
        (((u.l2At (256 * line)).map L2Line.dirtyOnes).getD []) := rfl

/-- L1 lines written back stay in their L1s until they are dropped. -/
theorem State.writtenBack_homeOnly (s : State) (line : Nat) (bad : List Nat) : s.HomeOnly (s.writtenBack line bad) := by
  refine State.HomeOnly.foldl _ (.refl s) fun t l => ?_
  split
  · exact t.mergeLost_homeOnly l
  · exact t.mergeLine_homeOnly l

/-- Sectors written to memory are work at the home. -/
theorem State.writeOut_homeOnly (s : State) (line : Nat) (bad : List Nat) (out : List (Nat × Nat × Bool)) :
    s.HomeOnly (s.writeOut line bad out) := State.HomeOnly.foldl _ (.refl s) fun t _ => t.writeSector_homeOnly ..

/-- A sector written to memory leaves the slices as they are. -/
theorem State.writeSector_l2 (s : State) (pa owner : Nat) (poison bad : Bool) : (s.writeSector pa owner poison bad).l2 = s.l2 := by
  unfold State.writeSector
  split
  · rfl
  · dsimp only
    split <;> rfl

/-- Sectors written to memory leave the slices as they are. -/
theorem State.writeOut_l2 (s : State) (line : Nat) (bad : List Nat) (out : List (Nat × Nat × Bool)) :
    (s.writeOut line bad out).l2 = s.l2 :=
  List.foldlRecOn out _ (motive := fun t : State => t.l2 = s.l2) rfl fun t ht _ _ => (t.writeSector_l2 ..).trans ht

/-- An eviction leaves the L1 lines that it does not take out, and those alone. -/
theorem State.evictLine_l1 (s : State) (line : Nat) (bad : List Nat) :
    (s.evictLine line bad).l1 = s.l1.filter fun l => !s.evicts line l := by
  rw [State.evictLine_eq, (State.writeOut_homeOnly ..).l1, (s.writtenBack_homeOnly line bad).l1]

/-- A line that is evicted is held no longer by its home slice (04 R82). -/
theorem State.l2At_evictLine (s : State) (pa : Nat) (bad : List Nat) : (s.evictLine (pa / 256) bad).l2At pa = none := by
  rw [State.l2At, State.evictLine_eq, State.writeOut_l2]
  exact List.find?_eq_none.mpr fun l hl => by simpa using (List.mem_filter.mp hl).2

/-- An eviction works at the home slices and in the L1s alone (04 R82, R83). -/
theorem State.evictLine_homeAndL1Only (s : State) (line : Nat) (bad : List Nat) : s.HomeAndL1Only (s.evictLine line bad) := by
  rw [State.evictLine_eq]
  exact ((s.writtenBack_homeOnly line bad).andL1.trans (.putLines _ _ _)).trans (State.writeOut_homeOnly ..).andL1

end Sys2Proof.Machine

namespace Sys2Proof.Machine

/-! ### Writes at the home, and records (01 R29, R30; 04 R81, R82) -/

/-- A line that its slice is made to hold, and the line that goes for it, are work at the homes and in the L1s. -/
theorem State.holdLine_homeAndL1Only (s : State) (line : Nat) : s.HomeAndL1Only (s.holdLine line) := by
  unfold State.holdLine
  split
  · exact .refl s
  · have hroom : ∀ u : State, s.HomeAndL1Only u →
        s.HomeAndL1Only { u with l2 := ⟨line, Vector.replicate 4 L2Sector.init, 0⟩ :: u.l2 } :=
      fun u hu => hu.trans rfl
    dsimp only
    refine hroom _ ?_
    split
    · exact .refl s
    · split
      · exact State.HomeAndL1Only.trans (t := { s with free := s.free + 1 }) rfl (State.evictLine_homeAndL1Only ..)
      · exact .refl s

/-- A write at the home works at the home slices and in the L1s alone (04 R81). -/
theorem State.homeWrite_homeAndL1Only (s : State) (a : Agent) (pa : Nat) (bs : List (Option Byte)) :
    s.HomeAndL1Only (s.homeWrite a pa bs) :=
  State.HomeAndL1Only.foldl _ (.refl s) fun t _ =>
    (t.holdLine_homeAndL1Only _).trans (State.mergeSector_homeOnly ..).andL1

/-- A record in an error log leaves the pool link as it is. -/
theorem State.errLog_poolUp (s : State) (die type stack chan slot sym : Nat) (pa : Word) :
    (s.errLog die type stack chan slot sym pa).board.poolUp = s.board.poolUp := by
  unfold State.errLog
  split
  dsimp only
  split
  · rfl
  · split
    · rw [State.logDrop, State.mcrPut_board]
    · rw [State.mcrPut_board, (State.homeWrite_homeAndL1Only ..).board]
      rfl

/-- The record of a lost range leaves the pool link as it is. -/
theorem State.rangeLost_poolUp (s : State) (base : Nat) : (s.rangeLost base).board.poolUp = s.board.poolUp := by
  rw [State.rangeLost, State.errLog_poolUp]

/-! ### The events of tier T2 and of the slices (01 R16, 04 R82, R83) -/

theorem exec_t2RangeAssigned (base size : Nat) (s : State) :
    exec (.t2RangeAssigned base size) s = execT2RangeAssigned base size s := rfl

theorem exec_t2RangeWithdrawn (base : Nat) (s : State) : exec (.t2RangeWithdrawn base) s = execT2RangeWithdrawn base s := rfl

theorem exec_poolLinkFail (s : State) : exec .poolLinkFail s = execPoolLinkFail s := rfl

theorem exec_l2Eviction (pa : Nat) (bad : List Nat) (s : State) : exec (.l2Eviction pa bad) s = execL2Eviction pa bad s := rfl

theorem exec_pageWalk (va : Word) (s : State) : exec (.pageWalk va) s = execPageWalk va s := rfl

theorem exec_icacheFill (va : Word) (s : State) : exec (.icacheFill va) s = execIcacheFill va s := rfl

/-- Ranges apart do not meet. -/
theorem meet_eq_false {a n b m : Nat} (h : b + m ≤ a ∨ a + n ≤ b) : meet a n b m = false := by
  simp only [meet, Bool.and_eq_false_iff, decide_eq_false_iff_not]
  omega

/-- A range that may be placed is listed in place of the withdrawn ones that it covers (01 R16, log 101). -/
theorem t2RangeAssigned_placed {s : State} {base size : Nat} (halign : base % 2 ^ 30 = 0) (hlow : 0x040000000000 ≤ base)
    (hsize : 0 < size) (hhigh : base + size ≤ 0x080000000000) (hroom : (s.t2.filter fun r => !r.withdrawn).length < 16)
    (hfree : ∀ r ∈ s.t2, r.withdrawn = false → base + size ≤ r.base ∨ r.base + r.size ≤ base) :
    exec (.t2RangeAssigned base size) s =
      .next { s with t2 := (s.t2.filter fun r => !meet r.base r.size base size) ++ [⟨base, size, false⟩] } := by
  have hclear : ((s.t2.filter fun r => !r.withdrawn).any fun r => meet r.base r.size base size) = false := by
    refine List.any_eq_false.mpr fun r hr => ?_
    obtain ⟨hr, hw⟩ := List.mem_filter.mp hr
    rw [meet_eq_false (hfree r hr (by simpa using hw))]
    exact Bool.false_ne_true
  rw [exec_t2RangeAssigned, execT2RangeAssigned]
  simp only [halign, hlow, hsize, hhigh, hroom, hclear, beq_self_eq_true, decide_true, Bool.and_self, Bool.not_false, if_true]

/-- A withdrawn range is marked and recorded (01 R16). -/
theorem t2RangeWithdrawn_marks {s : State} {r : T2Range} (hr : r ∈ s.t2) (hw : r.withdrawn = false) :
    exec (.t2RangeWithdrawn r.base) s = .next (State.rangeLost
      { s with t2 := s.t2.map fun x => if x.base = r.base then { x with withdrawn := true } else x } r.base) := by
  have hlive : (s.t2.any fun x => x.base == r.base && !x.withdrawn) = true :=
    List.any_eq_true.mpr ⟨r, hr, by simp [hw]⟩
  simp only [exec_t2RangeWithdrawn, execT2RangeWithdrawn, hlive, if_true]

/-- Every range of a base that is withdrawn is marked. -/
theorem withdrawn_of_mem_map {l : List T2Range} {base : Nat} {x : T2Range}
    (hx : x ∈ l.map fun y => if y.base = base then { y with withdrawn := true } else y) (hb : x.base = base) :
    x.withdrawn = true := by
  obtain ⟨y, -, rfl⟩ := List.mem_map.mp hx
  by_cases h : y.base = base
  · rw [if_pos h]
  · rw [if_neg h] at hb
    exact absurd hb h

/-- A failure of a pool link that is up takes it down, and every range within reach is recorded as lost (01 R16). -/
theorem poolLinkFail_up {s : State} (h : s.board.poolUp = true) :
    exec .poolLinkFail s = .next ((s.t2.filter fun r => !r.withdrawn).foldl (fun s r => s.rangeLost r.base)
      { s with board := { s.board with poolUp := false } }) := by
  rw [exec_poolLinkFail, execPoolLinkFail, if_pos h]

/-- The records of lost ranges leave the pool link as it is. -/
theorem rangesLost_poolUp (l : List T2Range) (s : State) :
    (l.foldl (fun s r => s.rangeLost r.base) s).board.poolUp = s.board.poolUp := by
  induction l generalizing s with
  | nil => rfl
  | cons r l ih => rw [List.foldl_cons, ih, State.rangeLost_poolUp]

/-- The pool link is down after its failure. -/
theorem poolLinkFail_down {s : State} (h : s.board.poolUp = true) :
    ∃ t, exec .poolLinkFail s = .next t ∧ t.board.poolUp = false := by
  refine ⟨_, poolLinkFail_up h, ?_⟩
  rw [rangesLost_poolUp]

/-- An eviction at a memory node evicts the line of its address (04 R82). -/
theorem l2Eviction_node {s : State} {pa n : Nat} (bad : List Nat) (hp : s.place pa = .node n) :
    exec (.l2Eviction pa bad) s = .next (s.evictLine (pa / 256) bad) := by
  simp only [exec_l2Eviction, execL2Eviction, hp, Place.isNode, if_true]

/-- An L1 line that an eviction leaves was there before, and its cluster has no presence bit if it is of the line evicted. -/
theorem State.mem_evictLine_l1 {s : State} {pa : Nat} {bad : List Nat} {l : L1Line}
    (hl : l ∈ (s.evictLine (pa / 256) bad).l1) :
    l ∈ s.l1 ∧ (l.line / 4 = pa / 256 → ∀ x, s.l2At pa = some x → x.presence.getLsbD (sliceOf l.loc) = false) := by
  rw [State.evictLine_l1] at hl
  obtain ⟨hl, hstay⟩ := List.mem_filter.mp hl
  refine ⟨hl, fun hline x hx => ?_⟩
  have hat : s.l2At (256 * (pa / 256)) = some x := by
    rw [← hx, State.l2At, State.l2At, Nat.mul_div_cancel_left _ (by decide)]
  simpa [State.evicts, hline, hat] using hstay

/-! ### TLBs and instruction fills (20 R342, R344, 23 R365) -/

/-- A miss of a core's TLB takes the entry of its cluster's (20 R344). -/
theorem pageWalk_cluster {s : State} {va : Word} {c : Ctx} {e : TlbEntry} (hva : va.extractLsb' 48 16 = 0#16)
    (hc : s.ctxOf s.cur.ctx = some c) (hmiss : s.tlbHit c.id va.toNat [.core s.cur.loc] = none)
    (hhit : s.tlbHit c.id va.toNat [.cluster (sliceOf s.cur.loc)] = some e) :
    exec (.pageWalk va) s = .next (s.tlbPut { e with tlb := .core s.cur.loc }) := by
  simp only [exec_pageWalk, execPageWalk, hva, hc, hmiss, hhit, ne_eq, not_true_eq_false, Option.isSome_none,
    Bool.false_eq_true, if_false]

/-- A walk that ends in a leaf puts it into the cluster's TLB and the core's (20 R342, R344, log 64). -/
theorem pageWalk_leaf {s : State} {va : Word} {c : Ctx} {e : Word} {block : Bool} (hva : va.extractLsb' 48 16 = 0#16)
    (hc : s.ctxOf s.cur.ctx = some c) (hcore : s.tlbHit c.id va.toNat [.core s.cur.loc] = none)
    (hcluster : s.tlbHit c.id va.toNat [.cluster (sliceOf s.cur.loc)] = none) (hwalk : s.walk c.ptroot va.toNat = .leaf e block) :
    let x : TlbEntry := ⟨.cluster (sliceOf s.cur.loc), c.id, va.toNat / 2 ^ 16, e, leafSpan e block⟩
    exec (.pageWalk va) s = .next ((s.tlbPut x).tlbPut { x with tlb := .core s.cur.loc }) := by
  simp only [exec_pageWalk, execPageWalk, hva, hc, hcore, hcluster, hwalk, ne_eq, not_true_eq_false, Option.isSome_none,
    Bool.false_eq_true, if_false]

/-- A walk that ends in no leaf caches nothing (20 R344). -/
theorem pageWalk_fault {s : State} {va : Word} {c : Ctx} (hva : va.extractLsb' 48 16 = 0#16)
    (hc : s.ctxOf s.cur.ctx = some c) (hcore : s.tlbHit c.id va.toNat [.core s.cur.loc] = none)
    (hcluster : s.tlbHit c.id va.toNat [.cluster (sliceOf s.cur.loc)] = none)
    (hno : ∀ e block, s.walk c.ptroot va.toNat ≠ .leaf e block) : exec (.pageWalk va) s = .next s := by
  simp only [exec_pageWalk, execPageWalk, hva, hc, hcore, hcluster, ne_eq, not_true_eq_false, Option.isSome_none,
    Bool.false_eq_true, if_false]
  cases hwalk : s.walk c.ptroot va.toNat with
  | leaf e block => exact absurd hwalk (hno e block)
  | fail => rfl
  | hole => rfl

/-- An entry put is in its TLB. -/
theorem State.mem_tlbPut (s : State) (x : TlbEntry) : x ∈ (s.tlbPut x).tlb := List.mem_cons_self ..

/-- The elements of a list with a property are one fewer once one of them is erased. -/
theorem length_filter_erase {α : Type} [DecidableEq α] {l : List α} {p : α → Bool} {v : α} (hv : v ∈ l.filter p) :
    ((l.erase v).filter p).length + 1 = (l.filter p).length := by
  rw [← List.erase_filter, List.length_erase_of_mem hv]
  exact Nat.sub_add_cancel (List.length_pos_of_mem hv)

/-- A TLB that keeps to its size keeps to it when an entry is put (20 R344). -/
theorem State.tlbPut_size {s : State} {x : TlbEntry} (h : (s.tlb.filter fun e => e.tlb == x.tlb).length ≤ x.tlb.size)
    (hpos : 0 < x.tlb.size) : ((s.tlbPut x).tlb.filter fun e => e.tlb == x.tlb).length ≤ x.tlb.size := by
  have hcons : ∀ l : List TlbEntry,
      ((x :: l).filter fun e => e.tlb == x.tlb).length = (l.filter fun e => e.tlb == x.tlb).length + 1 := fun l => by simp
  unfold State.tlbPut
  dsimp only
  rw [hcons]
  split
  · assumption
  · rename_i hfull
    dsimp only
    rw [length_filter_erase]
    · exact h
    · rw [List.getD_eq_getElem _ _ (Nat.mod_lt _ (by omega))]
      exact List.getElem_mem _

/-- An instruction block that is there and authentic is put into the cache as the fill says (23 R365). -/
theorem icacheFill_ok {s t : State} {va : Word} (hmiss : s.cachedBlock s.cur.loc s.cur.ctx va.toNat = none)
    (hf : s.fillBlock s.cur.loc s.cur.ctx s.cur.ctl.sv va = .ok t) : exec (.icacheFill va) s = .next t := by
  simp only [exec_icacheFill, execIcacheFill, hmiss, hf, Option.isSome_none, Bool.false_eq_true, if_false]

/-- Of a block that is not, the errors that its read has met stay. -/
theorem icacheFill_error {s t : State} {va : Word} {x : Trap} (hmiss : s.cachedBlock s.cur.loc s.cur.ctx va.toNat = none)
    (hf : s.fillBlock s.cur.loc s.cur.ctx s.cur.ctl.sv va = .error (t, x)) : exec (.icacheFill va) s = .next t := by
  simp only [exec_icacheFill, execIcacheFill, hmiss, hf, Option.isSome_none, Bool.false_eq_true, if_false]

end Sys2Proof.Machine

namespace Sys2Proof.Proofs

open Sys2Proof.Machine

/-- Settles O41, clause by clause: the records of lost ranges leave the link down, an eviction drops
exactly the L1 lines that its presence bits name, and a full TLB loses an entry before it takes one. -/
theorem poolWalkAndFillEvents : Obligations.PoolWalkAndFillEvents := by
  refine ⟨⟨?assigned, ?withdrawn, fun _ h => poolLinkFail_down h, ?evicted⟩, ?walk, ?size, ?fill⟩
  case assigned =>
    intro s base size halign hlow hsize hhigh hroom hfree
    refine ⟨_, t2RangeAssigned_placed halign hlow hsize hhigh hroom hfree, by simp, fun r hr hw => ?_, rfl⟩
    exact List.mem_append_left _ (List.mem_filter.mpr ⟨hr, by rw [meet_eq_false (hfree r hr hw)]; rfl⟩)
  case withdrawn =>
    exact fun s r hr hw => ⟨_, t2RangeWithdrawn_marks hr hw, fun x hx hb => withdrawn_of_mem_map hx hb, rfl⟩
  case evicted =>
    exact fun s pa n bad hp =>
      ⟨_, l2Eviction_node bad hp, rfl, s.l2At_evictLine pa bad, fun l hl => State.mem_evictLine_l1 hl⟩
  case walk =>
    exact fun s va c hva hc hcore => ⟨fun _ hhit => pageWalk_cluster hva hc hcore hhit, fun hcluster =>
      ⟨fun _ _ => pageWalk_leaf hva hc hcore hcluster, pageWalk_fault hva hc hcore hcluster⟩⟩
  case size => exact fun s x h hpos => ⟨s.mem_tlbPut x, State.tlbPut_size h hpos⟩
  case fill => exact fun s t va hmiss => ⟨icacheFill_ok hmiss, fun x => icacheFill_error hmiss⟩

end Sys2Proof.Proofs
end

section
/-! PROOFS. The statements of 02_cairn_store.md: lending messages and moves of frames (O45). The lemmas say once how long a
controller's read is, and what each event does in each of its cases; the statement is assembled from them. -/

namespace Sys2Proof.Machine

/-! ### The length of what a controller reads (02 R33, R381) -/

/-- A fold whose every step appends a known number of elements to its list appends their sum. -/
theorem length_foldl_append {σ α β : Type} {f : σ × List β → α → σ × List β} {size : α → Nat}
    (hf : ∀ acc a, (f acc a).2.length = acc.2.length + size a) (l : List α) (acc : σ × List β) :
    (l.foldl f acc).2.length = acc.2.length + (l.map size).sum := by
  induction l generalizing acc with
  | nil => rfl
  | cons a l ih => rw [List.foldl_cons, ih, hf, List.map_cons, List.sum_cons, Nat.add_assoc]

/-- The pieces at 256-byte boundaries make up the range that is cut. -/
theorem sum_cuts {fuel n : Nat} {a : Word} (h : n ≤ 256 * fuel - a.toNat % 256) :
    ((cuts fuel a n).map Prod.snd).sum = n := by
  induction fuel generalizing a n with
  | zero => rw [cuts, List.map_nil, List.sum_nil]; omega
  | succ fuel ih =>
    rw [cuts]
    split
    · rename_i hn
      exact hn.symm
    · rw [List.map_cons, List.sum_cons, ih]
      · exact Nat.add_sub_cancel' (Nat.min_le_left ..)
      · rw [BitVec.toNat_add, BitVec.toNat_ofNat]
        omega

/-- The pieces at 32-byte boundaries make up the range that is cut. -/
theorem sum_granules {fuel a n : Nat} (h : n ≤ 32 * fuel - a % 32) : ((granules fuel a n).map Prod.snd).sum = n := by
  induction fuel generalizing a n with
  | zero => rw [granules, List.map_nil, List.sum_nil]; omega
  | succ fuel ih =>
    rw [granules]
    split
    · rename_i hn
      exact hn.symm
    · rw [List.map_cons, List.sum_cons, ih (by omega)]
      exact Nat.add_sub_cancel' (Nat.min_le_left ..)

/-- As many bytes are read from memory as are asked for. -/
theorem State.length_bytes (s : State) (pa n : Nat) : (s.bytes pa n).length = n := by
  induction n generalizing pa with
  | zero => rfl
  | succ n ih => rw [State.bytes, List.length_cons, ih]

/-- As many bytes with their poison are read from memory as are asked for. -/
theorem State.length_pbytes (s : State) (pa n : Nat) : (s.pbytes pa n).length = n := by
  simp only [State.pbytes, List.length_flatMap, List.length_map, State.length_bytes]
  exact sum_granules (by omega)

/-- A controller reads as many bytes as it asks for, poisoned zeros among them (log 45). -/
theorem State.length_kvRead (s : State) (ctx : Nat) (va : Word) (n : Nat) (via : Via) :
    (s.kvRead ctx va n via).2.length = n := by
  unfold State.kvRead
  rw [length_foldl_append (size := Prod.snd), sum_cuts (by omega), List.length_nil, Nat.zero_add]
  intro acc p
  split
  · rw [List.length_append, State.length_pbytes]
  · rw [List.length_append, List.length_replicate]

/-! ### The events of lending and of moves (02 R42, R48, R49, R51 to R53, R381) -/

theorem exec_lendPut (e : Envelope) (space ident sp fmt : Nat) (x : LendFrame) (s : State) :
    exec (.lendPut e space ident sp fmt x) s = execLendPut e space ident sp fmt x s := rfl

theorem exec_lendAck (e : Envelope) (space ident : Nat) (l : Option Nat) (s : State) :
    exec (.lendAck e space ident l) s = execLendAck e space ident l s := rfl

theorem exec_lendFree (e : Envelope) (space ident : Nat) (s : State) :
    exec (.lendFree e space ident) s = execLendFree e space ident s := rfl

theorem exec_lendRecall (e : Envelope) (ident : Nat) (s : State) : exec (.lendRecall e ident) s = execLendRecall e ident s := rfl

theorem exec_lendGone (e : Envelope) (space : Option Nat) (s : State) :
    exec (.lendGone e space) s = execLendGone e space s := rfl

theorem exec_lendAckTimeout (space ident : Nat) (s : State) :
    exec (.lendAckTimeout space ident) s = execLendAckTimeout space ident s := rfl

theorem exec_lendingRead (e : Envelope) (id space ident off len : Nat) (s : State) :
    exec (.lendingRead e id space ident off len) s = execLendingRead e id space ident off len s := rfl

theorem exec_lendingReadReply (e : Envelope) (space ident off : Nat) (st : FabStatus) (y : LendReply) (bad : List Nat)
    (s : State) : exec (.lendingReadReply e space ident off st y bad) s = execLendingReadReply e space ident off st y bad s := rfl

theorem exec_moveHold (sid id : Nat) (s : State) : exec (.moveHold sid id) s = execMoveHold sid id s := rfl

theorem exec_moveSwitch (sid id : Nat) (s : State) : exec (.moveSwitch sid id) s = execMoveSwitch sid id s := rfl

theorem exec_incarnationNotice (e : Envelope) (s : State) :
    exec (.incarnationNotice e) s = execIncarnationNotice e s := rfl

/-- A control-class message of another incarnation is dropped and counted (03 R60, R66). -/
theorem lendingMessages_dropped {s : State} {e : Envelope} (hctl : s.ctlOk e = false) :
    (∀ a b c d bs, exec (.lendPut e a b c d bs) s = .next (s.countDrop false)) ∧
    (∀ a b l, exec (.lendAck e a b l) s = .next (s.countDrop false)) ∧
    (∀ a b, exec (.lendFree e a b) s = .next (s.countDrop false)) ∧
    (∀ a, exec (.lendRecall e a) s = .next (s.countDrop false)) ∧
    (∀ a, exec (.lendGone e a) s = .next (s.countDrop false)) ∧
    ∀ a b c st bs bad, exec (.lendingReadReply e a b c st bs bad) s = .next (s.countDrop false) := by
  have hdrop : (!s.ctlOk e) = true := by rw [hctl]; rfl
  refine ⟨?put, ?ack, ?free, ?recalled, ?gone, ?reply⟩
  case put => intros; rw [exec_lendPut, execLendPut, if_pos hdrop]
  case ack => intros; rw [exec_lendAck, execLendAck.eq_def, if_pos hdrop]
  case free => intros; rw [exec_lendFree, execLendFree, if_pos hdrop]
  case recalled => intros; rw [exec_lendRecall, execLendRecall, if_pos hdrop]
  case gone => intros; rw [exec_lendGone, execLendGone, if_pos hdrop]
  case reply => intros; rw [exec_lendingReadReply, execLendingReadReply, if_pos hdrop]

/-! ### The lender (02 R51 to R53, R381) -/

/-- What a receiving space does not take, whatever room it has: it lends nothing or not to the sender, its credit is used up, or
the frame's layers are too large for its slots or too many (02 R51, log 46). -/
def Space.declines (p : Space) (peer : Nat) (x : LendFrame) : Prop :=
  p.credit = 0 ∨ p.peer ≠ peer ∨ p.credit ≤ (p.frames.filter fun y => y.2.lentOut).length ∨
    p.slotSize 0 < roundUp 256 x.layer ∨ x.layer * p.layers < x.data.length

/-- A frame that the receiving space does not take is refused. -/
theorem lendPut_declined {s : State} {e : Envelope} {sp : Nat} {p : Space} {x : LendFrame} (space ident fmt : Nat)
    (hctl : s.ctlOk e = true) (hp : s.space sp = some p) (h : p.declines e.src x) :
    exec (.lendPut e space ident sp fmt x) s = .next (s.control e.src (.lendAck e.src space ident none)) := by
  rw [exec_lendPut, execLendPut, hctl, hp]
  exact if_pos h

/-- So is one for which the space has no free identity or no free slot. -/
theorem lendPut_full {s : State} {e : Envelope} {sp : Nat} {p : Space} {x : LendFrame} (space ident fmt : Nat)
    (hctl : s.ctlOk e = true) (hp : s.space sp = some p) (h : p.freeId = none ∨ p.freeSlot 0 = none) :
    exec (.lendPut e space ident sp fmt x) s = .next (s.control e.src (.lendAck e.src space ident none)) := by
  by_cases hd : p.declines e.src x
  · exact lendPut_declined space ident fmt hctl hp hd
  · rw [exec_lendPut, execLendPut, hctl, hp]
    refine (if_neg hd).trans ?_
    rcases h with hid | hslot
    · rw [hid]
    · rw [hslot]
      cases p.freeId <;> rfl

/-- A frame that fits is taken with its poison, answered with its identity, and the space's marks are checked (02 R44, R51). -/
theorem lendPut_taken {s : State} {e : Envelope} {sp id slot : Nat} {p : Space} {x : LendFrame} (space ident fmt : Nat)
    (hctl : s.ctlOk e = true) (hp : s.space sp = some p) (hd : ¬ p.declines e.src x) (hid : p.freeId = some id)
    (hslot : p.freeSlot 0 = some slot) (hstop : s.slotStop p 0 slot x.layer = none) :
    let f : Frame := ⟨1, 0, false, 0, fmt, false, true, e.src, 0, slot, p.tokens, false, 0, false, false, x.data.length, x.layer⟩
    exec (.lendPut e space ident sp fmt x) s = .next ((((((s.updSpace p.id fun p =>
      { p with frames := p.frames ++ [(id, f)] }).putFrame p 0 0 slot x.layer (Pb.ofGranules x.data x.bad)).control e.src
        (.lendAck e.src space ident (some id)))).checkMarks p.id).kvSync s) := by
  rw [exec_lendPut, execLendPut, hctl, hp]
  refine (if_neg hd).trans ?_
  rw [hid, hslot]
  exact if_neg (by rw [hstop]; exact Bool.false_ne_true)

/-- A frame that the lender holds for the sender is freed, or drains while it has readers (02 R50, R52). -/
theorem lendFree_held {s : State} {e : Envelope} {space ident : Nat} {p : Space} {f : Frame} (hctl : s.ctlOk e = true)
    (hp : s.space space = some p) (hf : p.frame ident = some f) (hout : f.lentOut = true) (hpeer : f.peer = e.src) :
    exec (.lendFree e space ident) s = .next ((if f.readers = 0 then s.freeFrame space ident
      else s.updSpace space fun p => p.updFrame ident fun f => { f with refcnt := 0 }).kvSync s) := by
  rw [exec_lendFree, execLendFree, hctl, hp, Option.bind_some, hf]
  have hmine : f.lentOut = true ∧ f.peer = e.src := ⟨hout, hpeer⟩
  exact if_pos hmine

/-- A lending read of a frame that the lender holds for the reader is answered with as many bytes as it asks for (02 R381). -/
theorem lendingRead_held {s : State} {e : Envelope} {id space ident off len : Nat} {p : Space} {f : Frame}
    (hon : s.fabricOn = true) (henv : s.envOk e.src e.inc e.expect = true) (hp : s.space space = some p)
    (hf : p.frame ident = some f) (hout : f.lentOut = true) (hpeer : f.peer = e.src) (href : f.refcnt ≠ 0)
    (hsize : off + len ≤ f.size) :
    ∃ (v : State) (x : Pb), x.length = len ∧ exec (.lendingRead e id space ident off len) s =
      .next (v.send (.lendingReply e.src space ident off .ok ⟨id, Pb.bytes x⟩ (Pb.granules x))) := by
  have hserved : ¬ (!f.lentOut || f.peer != e.src || f.refcnt == 0 || decide (f.size < off + len)) = true := by
    simp [hout, hpeer, href, hsize]
  rw [exec_lendingRead, execLendingRead, hon, henv, hp, Option.bind_some, hf]
  refine ⟨_, _, ?_, if_neg hserved⟩
  rw [length_foldl_append (size := fun _ => 1) fun acc i => by rw [List.length_append, State.length_kvRead]]
  simp

/-- One of a space that is not there is answered with ACCESS. -/
theorem lendingRead_no_space {s : State} {e : Envelope} {space : Nat} (id ident off len : Nat) (hon : s.fabricOn = true)
    (henv : s.envOk e.src e.inc e.expect = true) (hp : s.space space = none) :
    exec (.lendingRead e id space ident off len) s =
      .next (s.send (.lendingReply e.src space ident off .access ⟨id, []⟩ [])) := by
  rw [exec_lendingRead, execLendingRead, hon, henv, hp]
  rfl

/-! ### The borrower (02 R45, R49, R51 to R53) -/

/-- An acknowledgment of a move that waits for one holds the move for its switch (02 R49). -/
theorem lendAck_accepted {s : State} {e : Envelope} {space ident : Nat} {p : Space} {m : Move} (l : Nat)
    (hctl : s.ctlOk e = true) (hp : s.space space = some p)
    (hm : (p.moves.find? fun m => m.ident == ident && m.tier == 3 && m.put && m.lenderIdent.isNone) = some m) :
    exec (.lendAck e space ident (some l)) s =
      .next (((s.updMove space ident fun m => { m with lenderIdent := some l }).holdMove space ident).kvSyncBy (s.moveTask m) s) := by
  rw [exec_lendAck, execLendAck.eq_def, hctl, hp, Option.bind_some, hm]
  rfl

/-- A refusal abandons the move, and ends automatic demotion where that was its cause (02 R45, R51). -/
theorem lendAck_refused {s : State} {e : Envelope} {space ident : Nat} {p : Space} {m : Move}
    (hctl : s.ctlOk e = true) (hp : s.space space = some p)
    (hm : (p.moves.find? fun m => m.ident == ident && m.tier == 3 && m.put && m.lenderIdent.isNone) = some m) :
    exec (.lendAck e space ident none) s = .next ((if m.why = .auto then (s.abandon space ident 3).updSpace space fun p =>
      { p with goal := none, demoteBlocked := true } else s.abandon space ident 3).kvSyncBy (s.moveTask m) s) := by
  rw [exec_lendAck, execLendAck.eq_def, hctl, hp, Option.bind_some, hm]
  rfl

/-- A frame accepted for a space that is gone is given back to the space that its LEND_PUT named (02 R49, log 53). -/
theorem lendAck_returned {s : State} {e : Envelope} {space ident r : Nat} (l : Nat) (hctl : s.ctlOk e = true)
    (hp : s.space space = none) (hr : s.putSpace e.src space ident = some r) :
    exec (.lendAck e space ident (some l)) s = .next (s.control e.src (.lendFree e.src r l)) := by
  rw [exec_lendAck, execLendAck.eq_def, hctl, hp, hr]
  rfl

/-- A recall joins those that wait (02 R53, log 103). -/
theorem lendRecall_one {s : State} {e : Envelope} {ident : Nat} {p : Space} {x : Nat × Frame} (hctl : s.ctlOk e = true)
    (hs : s.spaces = [p])
    (hx : (p.frames.find? fun y => y.2.lentIn && !y.2.lost && y.2.peer == e.src && y.2.slot == ident) = some x) :
    exec (.lendRecall e ident) s =
      .next ((s.updSpace p.id fun p => { p with recalls := insertNat x.1 p.recalls }).kvSync s) := by
  rw [exec_lendRecall, execLendRecall, hctl, hs, List.foldl_cons, hx]
  rfl

/-- The one recall that waits moves its frame home where a tier has room, and else goes on waiting (02 R53). -/
theorem State.recallStep_one {s : State} {p : Space} {id : Nat} {f : Frame} (hp : s.space p.id = some p)
    (hr : p.recalls = [id]) (hf : p.frame id = some f) (hin : f.lentIn = true) (hlost : f.lost = false)
    (hmig : f.mig = false) (hpin : f.pin = false) (hring : s.ringFull p.ctx = false)
    (hetch : (s.ctxOf p.ctx).map Ctx.etch ≠ some 2) :
    s.recallStep p.id = (p.homeTier.map fun t => s.beginMove p.id id t .recall).getD s := by
  rw [State.recallStep, hp]
  simp only [hr, List.foldl_cons, List.foldl_nil, hp, Option.bind_some, hf, Option.map_some, hin, hlost, hmig, hpin, hring,
    Bool.not_true, Bool.or_self, Bool.false_eq_true, if_false, if_neg hetch]
  cases p.homeTier <;> rfl

/-- A lender that is gone is lost (02 R52, R53). -/
theorem lendGone_taken {s : State} {e : Envelope} (space : Option Nat) (hctl : s.ctlOk e = true) :
    exec (.lendGone e space) s = .next ((s.lenderLost e.src space).kvSync s) := by
  rw [exec_lendGone, execLendGone, hctl]
  rfl

/-- A lender that does not answer a LEND_PUT is lost (03 R73). -/
theorem lendAckTimeout_waiting {s : State} {sid id : Nat} {p : Space} {m : Move} (hp : s.space sid = some p)
    (hm : (p.moves.find? fun x => x.ident == id && x.tier == 3 && x.put && !x.held) = some m) :
    exec (.lendAckTimeout sid id) s = .next ((s.lenderLost p.peer none).kvSync s) := by
  rw [exec_lendAckTimeout, execLendAckTimeout, hp, Option.bind_some, hm]
  rfl

/-! ### Replies to lending reads (02 R42, R48, R381) -/

/-- The machine once a lending read waits for its answer no longer. -/
def State.lendEnded (s : State) (l : LendReq) : State :=
  s.updFabric fun f => { f with lends := f.lends.filter fun y => y.id != l.id }

/-- The answer to a lending read that is outstanding gives its bytes, or its failure. -/
theorem lendingReadReply_found {s : State} {e : Envelope} {sp ident off : Nat} {y : LendReply} {l : LendReq} (st : FabStatus)
    (bad : List Nat) (hctl : s.ctlOk e = true)
    (hl : (s.fabric.lends.find? fun l => l.id == y.id && l.target == e.src && l.rspace == sp && l.rident == ident &&
      l.off == off) = some l) :
    exec (.lendingReadReply e sp ident off st y bad) s =
      .next ((if st = .ok then s.lendGot l (Pb.ofGranules y.data bad) else s.lendFailed l st).kvSync s) := by
  rw [exec_lendingReadReply, execLendingReadReply, hctl, hl]
  rfl

/-- Bytes that nothing waits for are dropped. -/
theorem State.lendGot_unwanted {s : State} {l : LendReq} (x : Pb) (hw : s.lendWanted l = false) :
    s.lendGot l x = s.lendEnded l := by
  rw [State.lendGot, hw]
  rfl

/-- Bytes that a stream waits for go to it. -/
theorem State.lendGot_stream {s : State} {l : LendReq} {k : Nat} (x : Pb) (hw : s.lendWanted l = true)
    (hl : l.by_ = .stream k) :
    s.lendGot l x = (s.lendEnded l).updStream k fun z => { z with asked := false, got := z.got ++ x } := by
  rw [State.lendGot, hw, hl]
  rfl

/-- Bytes that a move waits for go to it. -/
theorem State.lendGot_move {s : State} {l : LendReq} {q k : Nat} (x : Pb) (hw : s.lendWanted l = true)
    (hl : l.by_ = .move q k) :
    s.lendGot l x = (s.lendEnded l).updMove q k fun m => { m with asked := false, bytes := m.bytes ++ x } := by
  rw [State.lendGot, hw, hl]
  rfl

/-- Bytes that a split waits for go to its command. -/
theorem State.lendGot_split {s : State} {l : LendReq} {k : Nat} (x : Pb) (hw : s.lendWanted l = true)
    (hl : l.by_ = .split k) :
    s.lendGot l x = (s.lendEnded l).updKv k fun c => { c with asked := false, bytes := c.bytes ++ x } := by
  rw [State.lendGot, hw, hl]
  rfl

/-- ACCESS stops the stream that asked, and loses the frame where it is borrowed still (02 R381). -/
theorem State.lendFailed_access_stream {s : State} {l : LendReq} {k : Nat} (hw : s.lendWanted l = true)
    (hl : l.by_ = .stream k) :
    s.lendFailed l .access = if s.lendHolds l then ((s.lendEnded l).stopStream k 2).loseFrame l.space l.ident
      else (s.lendEnded l).stopStream k 2 := by
  rw [State.lendFailed, hw, hl]
  rfl

/-! ### Moves, and lives of other modules (02 R49, R53) -/

/-- A move that is there is copied. -/
theorem moveHold_found {s : State} {sid id : Nat} {p : Space} {m : Move} (hp : s.space sid = some p)
    (hm : (p.moves.find? fun m => m.ident == id) = some m) :
    exec (.moveHold sid id) s = .next ((s.moveCopy sid m).kvSyncBy (s.moveTask m) s) := by
  rw [exec_moveHold, execMoveHold, hp, Option.bind_some, hm]

/-- A held automatic move within the module, of a frame without readers, gives the frame its new place in one step. -/
theorem moveSwitch_auto {s : State} {sid id : Nat} {p : Space} {m : Move} {f : Frame} (hp : s.space sid = some p)
    (hm : (p.moves.find? fun m => m.ident == id) = some m) (hf : p.frame id = some f) (hheld : m.held = true)
    (hread : f.readers = 0) (hin : f.lentIn = false) (hwhy : m.why = .auto) (htier : m.tier ≠ 3) :
    exec (.moveSwitch sid id) s = .next (((s.updSpace sid fun q => (q.dropMove id).updFrame id fun f => { f with
      tier := m.tier, fmt := p.fmtAfter f m.tier, slot := m.slot, lentIn := false, peer := 0 }).etchMove p m
        (p.fmtAfter f m.tier)).kvSyncBy 0 s) := by
  have hlent : (m.tier == 3) = false := beq_false_of_ne htier
  have htask : s.moveTask m = 0 := by rw [State.moveTask, hwhy]
  simp only [exec_moveSwitch, execMoveSwitch, hp, hm, hf, hheld, hread, hin, hwhy, hlent, htask, if_neg htier, Bool.not_true,
    bne_self_eq_false, Bool.or_self, Bool.false_and, Bool.false_eq_true, if_false]

/-- A notice for this life of the module is logged; where it names the incarnation of the peer table, that is all (02 R53). -/
theorem incarnationNotice_same {s : State} {e : Envelope} (hon : s.fabricOn = true) (hex : e.expect = s.incarnation)
    (hinc : e.inc = s.peerInc e.src) :
    exec (.incarnationNotice e) s = .next (s.updFabric fun f => { f with log := f.log ++ [(e.src, e.inc)] }) := by
  rw [exec_incarnationNotice, execIncarnationNotice, hon]
  exact (if_neg (not_not_intro hex)).trans (if_pos hinc)

/-- A peer in another life is lost, as a borrower and as a lender (02 R53). -/
theorem incarnationNotice_other {s : State} {e : Envelope} (hon : s.fabricOn = true) (hex : e.expect = s.incarnation)
    (hinc : e.inc ≠ s.peerInc e.src) :
    exec (.incarnationNotice e) s = .next ((((s.updFabric fun f => { f with log := f.log ++ [(e.src, e.inc)] }).borrowerLost
      e.src).lenderLost e.src none).kvSync s) := by
  rw [exec_incarnationNotice, execIncarnationNotice, hon]
  exact (if_neg (not_not_intro hex)).trans (if_neg hinc)

end Sys2Proof.Machine

namespace Sys2Proof.Proofs

open Sys2Proof.Machine

/-- Settles O45, clause by clause: what the lender and the borrower do with each message, where the bytes of a lending read go,
and how a move ends. -/
theorem lendingAndMoves : Obligations.LendingAndMoves := by
  refine ⟨⟨?put, ?ack, ?free, ?returned, ?recalled, ?home, fun _ _ space hctl => lendGone_taken space hctl,
    fun _ _ hctl => lendingMessages_dropped hctl, fun _ _ _ hp hm => lendAckTimeout_waiting hp hm, ?read, ?noRead⟩,
    ?reply, ?hold, ?switch, ?notice⟩
  case put =>
    intro s e space ident sp fmt x p hctl hp
    refine ⟨lendPut_declined space ident fmt hctl hp, lendPut_full space ident fmt hctl hp,
      fun id slot hpeer hheld hslot hdata hid hfree hstop => lendPut_taken space ident fmt hctl hp ?_ hid hfree hstop⟩
    rintro (h | h | h | h | h)
    · omega
    · exact h hpeer
    all_goals omega
  case ack =>
    intro s e space ident p m hctl hp hm
    have hno := lendAck_refused hctl hp hm
    exact ⟨fun l => lendAck_accepted l hctl hp hm, fun hwhy => by rw [hno, if_neg hwhy], fun hwhy => by rw [hno, if_pos hwhy]⟩
  case free =>
    intro s e space ident p f hctl hp hf hout hpeer
    have hfree := lendFree_held hctl hp hf hout hpeer
    exact ⟨fun h => by rw [hfree, if_pos h], fun h => by rw [hfree, if_neg h]⟩
  case returned => exact fun _ _ _ _ l _ hctl hp hr => lendAck_returned l hctl hp hr
  case recalled => exact fun _ _ _ _ _ hctl hs hx => lendRecall_one hctl hs hx
  case home =>
    intro s p id t f hp hr hf hin hlost hmig hpin hring hetch
    have hstep := State.recallStep_one hp hr hf hin hlost hmig hpin hring hetch
    exact ⟨fun h => by rw [hstep, h]; rfl, fun h => by rw [hstep, h]; rfl⟩
  case read =>
    exact fun _ _ _ _ _ _ _ _ _ hon henv hp hf hout hpeer href hsize =>
      lendingRead_held hon henv hp hf hout hpeer href hsize
  case noRead => exact fun _ _ id _ ident off len hon henv hp => lendingRead_no_space id ident off len hon henv hp
  case reply =>
    intro s e sp ident off y bad l hctl hl
    have hok := lendingReadReply_found .ok bad hctl hl
    have haccess := lendingReadReply_found .access bad hctl hl
    rw [if_pos rfl] at hok
    rw [if_neg (by decide)] at haccess
    refine ⟨fun hw => ⟨fun k hk => ⟨?_, fun hh => ?_, fun hh => ?_⟩, fun q k hk => ?_, fun k hk => ?_⟩, fun hw => ?_⟩
    · rw [hok, State.lendGot_stream _ hw hk]; rfl
    · rw [haccess, State.lendFailed_access_stream hw hk, if_pos hh]; rfl
    · rw [haccess, State.lendFailed_access_stream hw hk, hh]; rfl
    · rw [hok, State.lendGot_move _ hw hk]; rfl
    · rw [hok, State.lendGot_split _ hw hk]; rfl
    · rw [hok, State.lendGot_unwanted _ hw]; rfl
  case hold => exact fun _ _ _ _ _ hp hm => moveHold_found hp hm
  case switch =>
    exact fun _ _ _ _ _ _ hp hm hf hheld hread hin hwhy htier => moveSwitch_auto hp hm hf hheld hread hin hwhy htier
  case notice =>
    exact fun _ _ hon hex => ⟨incarnationNotice_same hon hex, fun hinc _ => incarnationNotice_other hon hex hinc⟩

end Sys2Proof.Proofs
end

section
/-! PROOFS. The statements of 03_fenob_fabric.md: requests of other modules and their answers (O43), the ports, the enabling of the
fabric and the links within the package (O44). The lemmas say once what each operation does to the register it changes. -/

namespace Sys2Proof.Machine

/-! ### Requests of other modules (03 R61, R65 to R67) -/

theorem exec_remoteRequest (q : Request) (s : State) : exec (.remoteRequest q) s = execRemoteRequest q s := rfl

/-- A request that passes its checks and waits for nothing is performed and answered (03 R65). -/
theorem remoteRequest_performed {s : State} {q : Request} (hon : s.fabricOn = true)
    (henv : s.envOk q.src q.inc q.expect = true) (hturn : s.mustQueue s.fabric.waits q = false) :
    exec (.remoteRequest q) s = .next (s.answerRemote q) := by
  rw [exec_remoteRequest, execRemoteRequest, hon, henv, hturn]
  rfl

/-- A request other than a posted store, a release or an ACQ, not refused with ACCESS, gets a reply that names the incarnations
which the module finds after the request was performed (03 R66, R67). -/
theorem State.answerRemote_reply {s : State} {q : Request} (hpost : isPosted q = false) (hacq : q.kind ≠ .acq)
    (hst : (s.serve q).2.1 ≠ .access) :
    let r := s.serve q
    s.answerRemote q = r.1.send
      (.reply q.src ⟨q.id, r.1.mid, r.1.incarnation, r.1.peerInc q.src, r.2.1, r.2.2.1, r.2.2.2.1, r.2.2.2.2⟩) := by
  have hyet : ∀ st bytes bad, isNotYet q st bytes bad = false := fun st bytes bad => by
    rw [isNotYet, beq_false_of_ne hacq, Bool.false_and, Bool.false_and, Bool.false_and]
  simp only [State.answerRemote, State.answerReq, hyet, hst, hpost, Bool.false_eq_true, if_false]

/-- The last packet sent is known from the machine that sent it. -/
theorem State.send_inj {s : State} {p p' : Packet} (h : s.send p = s.send p') : p = p' := by
  have hsent : s.fabric.sent ++ [(s.envelope p, p)] = s.fabric.sent ++ [(s.envelope p', p')] :=
    congrArg (fun t => t.fabric.sent) h
  simpa using congrArg (fun l => l.map Prod.snd) (List.append_cancel_left hsent)

/-! ### A remote atomic on the peer table (03 R61, R66, R77) -/

/-- Little-endian bytes put into memory. -/
def State.putNat (s : State) (pa n x : Nat) : State := s.putBytes pa ((natLe n x).map some)

/-- A machine with the fabric on, whose context 1 exports a page of node 0 for every access; the peer table lies on that page. -/
def peerTableExported : State :=
  let c : Ctx := { Ctx.supervisor with id := 1, fctx := 9, exptab := 0x8000, ptroot := 0x10000 }
  let walked := (({ State.reset with ctxs := [c] }.putNat 0x10000 8 0x20001).putNat 0x20000 8 0x30001).putNat 0x30280 8 0x2000001E
  let exporting := ((walked.putNat 0x8008 8 0x10000).putNat 0x8010 8 0x500000).putNat 0x8018 1 15
  (exporting.mcrPut fxid 0x10000FFF000).mcrPut (fxid + 8) 0x20000000

/-- Module 1 exchanges the word of the peer table that holds its own incarnation: from 0 to 5. -/
def peerTableExchange : Request := ⟨1, 1, 0, 0, 9, 0, .atomic .xch false 0x50000 0 .rlx .sy, false, 0, none, 0⟩

/-- The exchange is granted. -/
theorem peerTableExchange_granted :
    peerTableExported.fabricOn = true ∧ peerTableExported.envOk 1 0 0 = true ∧
      peerTableExported.earlyTurn peerTableExchange = false ∧ peerTableExported.fabric.waits = [] ∧
      (peerTableExported.serve peerTableExchange).2.1 = .ok := by decide +kernel

/-- The exchange changes the incarnation that the module expects of module 1. -/
theorem peerTableExchange_peerInc :
    peerTableExported.peerInc 1 = 0 ∧ (peerTableExported.serve peerTableExchange).1.peerInc 1 = 5 := by decide +kernel

end Sys2Proof.Machine

namespace Sys2Proof.Proofs

open Sys2Proof.Machine

/-- Refutes O43: the statement's reply expects the incarnation that the peer table named before the request was performed, the
model's the one it names afterwards; an atomic on an exported peer table makes them differ. -/
theorem not_fabricRequestsAndAnswers : ¬ Obligations.FabricRequestsAndAnswers := by
  rintro ⟨hrequest, -⟩
  obtain ⟨hon, henv, hturn, hwaits, hok⟩ := peerTableExchange_granted
  obtain ⟨hbefore, hafter⟩ := peerTableExchange_peerInc
  have hst : (peerTableExported.serve peerTableExchange).2.1 ≠ .access := by rw [hok]; decide
  have hqueue : peerTableExported.mustQueue peerTableExported.fabric.waits peerTableExchange = false := by
    rw [State.mustQueue, hturn, hwaits]; rfl
  obtain ⟨-, -, -, hserved⟩ := hrequest peerTableExported peerTableExchange
  obtain ⟨-, -, hreply⟩ := hserved hon henv hturn (by rw [hwaits]; exact fun _ h => absurd h List.not_mem_nil)
  have hstated := hreply nofun nofun nofun
  rw [if_neg hst, remoteRequest_performed hon henv hqueue, State.answerRemote_reply rfl (by decide) hst] at hstated
  have hsame := State.send_inj (Host.Outcome.next.inj hstated)
  simp only [Packet.reply.injEq, Reply.mk.injEq] at hsame
  obtain ⟨-, -, -, -, hinc, -⟩ := hsame
  exact absurd (hafter.symm.trans (hinc.trans hbefore)) (by decide)

end Sys2Proof.Proofs

namespace Sys2Proof.Machine

/-! ### A port's register (03 R59, R74, R77; 23 R368) -/

/-- A field set holds the number that was set, as far as it fits. -/
theorem extractLsb'_setField {lo n : Nat} (h : lo + n ≤ 64) (v : Word) (x : Nat) :
    (setField v lo n x).extractLsb' lo n = BitVec.ofNat n x := by
  rw [setField, extractLsb'_under_bitsAt h, extractLsb'_ofNat_mul_two_pow h]
  exact BitVec.eq_of_toNat_eq (by simp)

/-- A field apart from the one set keeps its value. -/
theorem extractLsb'_setField_of_disjoint {lo n lo' n' : Nat} (h : lo + n ≤ 64) (hd : lo' + n' ≤ lo ∨ lo + n ≤ lo') (v : Word)
    (x : Nat) : (setField v lo n x).extractLsb' lo' n' = v.extractLsb' lo' n' :=
  extractLsb'_under_bitsAt_of_disjoint h hd _ v

/-- STATE after it was set. -/
theorem portState_state (v : Word) (st : Nat) : (portState v st).extractLsb' 0 2 = BitVec.ofNat 2 st := by
  rw [portState, extractLsb'_setField_of_disjoint (by decide) (by decide), extractLsb'_setField (by decide)]

/-- LANES goes with STATE. -/
theorem portState_lanes (v : Word) (st : Nat) :
    (portState v st).extractLsb' 2 2 = BitVec.ofNat 2 (if st = 2 then 3 else if st = 3 then 2 else 0) := by
  rw [portState, extractLsb'_setField (by decide)]

/-- The fields above STATE and LANES keep their values when those are set. -/
theorem portState_above {lo n : Nat} (h : 4 ≤ lo) (v : Word) (st : Nat) :
    (portState v st).extractLsb' lo n = v.extractLsb' lo n := by
  rw [portState, extractLsb'_setField_of_disjoint (by decide) (by omega), extractLsb'_setField_of_disjoint (by decide) (by omega)]

/-- STATE and LANES are the low four bits of FXPORT. -/
theorem portState_nibble (v : Word) (st : Nat) : (portState v st).extractLsb' 0 4 =
    BitVec.ofNat 2 (if st = 2 then 3 else if st = 3 then 2 else 0) ++ BitVec.ofNat 2 st := by
  rw [← portState_lanes v, ← portState_state v]
  exact (BitVec.extractLsb'_append_extractLsb'_eq_extractLsb' (start₁ := 0) (len₁ := 2) (len₂ := 2) rfl).symm

/-- TAGERR rises by one and saturates. -/
theorem portTagErr_count (v : Word) :
    ((portTagErr v).extractLsb' 4 16).toNat = min 65535 ((v.extractLsb' 4 16).toNat + 1) := by
  rw [portTagErr, extractLsb'_setField (by decide), Word.get_eq_toNat_extractLsb', BitVec.toNat_ofNat]
  exact Nat.mod_eq_of_lt (by omega)

/-- A tag failure alone leaves STATE. -/
theorem portTagErr_state (v : Word) : (portTagErr v).extractLsb' 0 2 = v.extractLsb' 0 2 :=
  extractLsb'_setField_of_disjoint (by decide) (by decide) v _

/-- The session number rises by one, wrapping. -/
theorem nextSession_session (v : Word) : (nextSession v).extractLsb' 36 16 = v.extractLsb' 36 16 + 1 :=
  extractLsb'_under_count (by decide) v

/-- The fields below the session number keep their values when it rises. -/
theorem nextSession_below {lo n : Nat} (h : lo + n ≤ 36) (v : Word) :
    (nextSession v).extractLsb' lo n = v.extractLsb' lo n :=
  extractLsb'_setField_of_disjoint (by decide) (.inl h) v _

/-- A port is live when the upper bit of STATE is set (03 R77). -/
theorem two_le_get_state (v : Word) : 2 ≤ Word.get v 0 2 ↔ v.getLsbD 1 = true := by
  rw [BitVec.getLsbD, Nat.testBit_eq_decide_div_mod_eq, decide_eq_true_eq, Word.get]
  omega

/-! ### A port changed -/

/-- The register of a port that exists is changed as asked. -/
theorem State.mcrGet_updPort {s : State} {die port : Nat} (hd : die < 6) (hp : port < 6) (f : Word → Word) :
    (s.updPort die port f).mcrGet (fxport die port) = f (s.mcrGet (fxport die port)) := by
  rw [State.updPort, if_pos ⟨hd, hp⟩, State.mcrGet_mcrPut, if_pos rfl]

/-- The loss of a route changes no register. -/
theorem State.mcrGet_routeLost (s : State) (die pa : Nat) : (s.routeLost die).mcrGet pa = s.mcrGet pa := rfl

/-- The register of a port is changed as asked, also where a route is lost with the port. -/
theorem State.mcrGet_changePort {s : State} {die port : Nat} (hd : die < 6) (hp : port < 6) (f : Word → Word) :
    (s.changePort die port f).mcrGet (fxport die port) = f (s.mcrGet (fxport die port)) := by
  unfold State.changePort
  dsimp only
  split
  · rw [State.mcrGet_routeLost, State.mcrGet_updPort hd hp]
  · exact State.mcrGet_updPort hd hp f

theorem exec_laneFail (die port : Nat) (s : State) : exec (.laneFail die port) s = execLaneFail die port s := rfl

theorem exec_flitTagFail (die port : Nat) (third : Bool) (s : State) :
    exec (.flitTagFail die port third) s = execFlitTagFail die port third s := rfl

theorem exec_linkRekey (die port : Nat) (s : State) : exec (.linkRekey die port) s = execLinkRekey die port s := rfl

theorem exec_offPackageLinkKeying (die port peer : Nat) (ok : Bool) (s : State) :
    exec (.offPackageLinkKeying die port peer ok) s = execOffPackageLinkKeying die port peer ok s := rfl

/-- The loss of a lane takes a port of four lanes to three and one of three lanes down (03 R59). -/
theorem laneFail_port (s : State) {die port : Nat} (hd : die < 6) (hp : port < 6) :
    let v := s.mcrGet (fxport die port)
    ∃ t, exec (.laneFail die port) s = .next t ∧
      (v.extractLsb' 0 2 = 2#2 → t.mcrGet (fxport die port) = portState v 3) ∧
      (v.extractLsb' 0 2 = 3#2 → t.mcrGet (fxport die port) = portState v 0) := by
  rw [exec_laneFail]
  refine ⟨_, rfl, fun h => ?_, fun h => ?_⟩ <;>
    rw [State.mcrGet_changePort hd hp, Word.get_eq_toNat_extractLsb', h] <;> rfl

/-- A tag failure at a live port counts, and the third one sends it into training (03 R74). -/
theorem flitTagFail_live {s : State} {die port : Nat} (hd : die < 6) (hp : port < 6)
    (hlive : (s.mcrGet (fxport die port)).getLsbD 1 = true) (third : Bool) {t : State}
    (ht : exec (.flitTagFail die port third) s = .next t) :
    t.mcrGet (fxport die port) =
      if third then portState (portTagErr (s.mcrGet (fxport die port))) 1 else portTagErr (s.mcrGet (fxport die port)) := by
  rw [exec_flitTagFail, execFlitTagFail] at ht
  cases ht
  rw [State.mcrGet_changePort hd hp, if_neg (Nat.not_lt.mpr ((two_le_get_state _).mpr hlive))]

/-- A live port takes a new session key (03 R74, log 89). -/
theorem linkRekey_live {s : State} {die port : Nat} (hd : die < 6) (hp : port < 6)
    (hlive : (s.mcrGet (fxport die port)).getLsbD 1 = true) {t : State} (ht : exec (.linkRekey die port) s = .next t) :
    t.mcrGet (fxport die port) = nextSession (s.mcrGet (fxport die port)) := by
  rw [exec_linkRekey, execLinkRekey] at ht
  cases ht
  rw [State.mcrGet_updPort hd hp, if_neg (Nat.not_lt.mpr ((two_le_get_state _).mpr hlive))]

/-- A port that is not live comes up with its peer, or goes on training (23 R368, 03 R77). -/
theorem offPackageLinkKeying_training {s : State} {die port : Nat} (hd : die < 6) (hp : port < 6)
    (hdown : (s.mcrGet (fxport die port)).getLsbD 1 = false) (peer : Nat) (ok : Bool) :
    ∃ t, exec (.offPackageLinkKeying die port peer ok) s = .next t ∧ t.mcrGet (fxport die port) =
      if ok then setField (nextSession (portState (s.mcrGet (fxport die port)) 2)) 52 12 peer
      else portTagErr (portState (s.mcrGet (fxport die port)) 1) := by
  rw [exec_offPackageLinkKeying]
  refine ⟨_, rfl, ?_⟩
  rw [State.mcrGet_updPort hd hp, if_neg]
  rw [two_le_get_state, hdown]
  exact Bool.false_ne_true

/-! ### A write of FXID (03 R60, R77; 02 R52, R53) -/

/-- A packet sent changes no register. -/
theorem State.send_mcr (s : State) (p : Packet) : (s.send p).mcr = s.mcr := rfl

/-- Packets sent to several modules change no register. -/
theorem State.sends_mcr (s : State) (p : State → Nat → Packet) (l : List Nat) :
    (l.foldl (fun s m => s.send (p s m)) s).mcr = s.mcr :=
  List.foldlRecOn l _ (motive := fun t : State => t.mcr = s.mcr) rfl fun t ht m _ => (t.send_mcr (p t m)).trans ht

/-- The announcement of a new incarnation changes no register. -/
theorem State.announce_mcr (s : State) : s.announce.mcr = s.mcr := by
  rw [State.announce, State.updFabric_mcr]
  split
  · split
    · rfl
    · exact s.sends_mcr _ _
  · rfl

/-- The bits of FXID that a write changes: MID only while the fabric is off (03 R60). -/
def State.fxidMask (s : State) : Word :=
  (if s.fabricOn then 0 else bitsAt 0 12) ||| bitsAt 12 12 ||| bitsAt 40 1

/-- FXID after a write. -/
theorem State.mcrGet_fxidWrite (s : State) (v : Word) :
    (s.fxidWrite v).mcrGet fxid = under s.fxidMask v (s.mcrGet fxid) := by
  have hput : ∀ t : State, t.mcr = (s.mcrPut fxid (under s.fxidMask v (s.mcrGet fxid))).mcr →
      t.mcrGet fxid = under s.fxidMask v (s.mcrGet fxid) := fun t ht => by
    rw [State.mcrGet, ht]
    exact (s.mcrGet_mcrPut fxid fxid _).trans (if_pos rfl)
  apply hput
  unfold State.fxidWrite
  dsimp only
  split
  · rw [State.announce_mcr]
    exact State.sends_mcr _ _ _
  · split <;> rfl

/-- EN is written (03 R60). -/
theorem State.fxidWrite_fabricOn (s : State) (v : Word) : (s.fxidWrite v).fabricOn = v.getLsbD 40 := by
  have hen : s.fxidMask.getLsbD 40 = true := by
    rw [State.fxidMask, BitVec.getLsbD_or, getLsbD_bitsAt (by decide)]
    exact Bool.or_true _
  rw [State.fabricOn, State.mcrGet_fxidWrite, getLsbD_under, if_pos hen]

/-- MID stays while the fabric is on (03 R60). -/
theorem State.fxidWrite_mid {s : State} (v : Word) (hon : s.fabricOn = true) : (s.fxidWrite v).mid = s.mid := by
  have hfield : ∀ t : State, t.mid = ((t.mcrGet fxid).extractLsb' 0 12).toNat := fun t => by simp [State.mid]
  rw [hfield, hfield, State.mcrGet_fxidWrite]
  refine congrArg _ (extractLsb'_congr fun i _ hi => ?_)
  rw [getLsbD_under, if_neg]
  simp only [State.fxidMask, hon, if_true, BitVec.ofNat_eq_ofNat, BitVec.zero_or, BitVec.getLsbD_or, Bool.or_eq_true,
    getLsbD_bitsAt (show 12 + 12 ≤ 64 by decide), getLsbD_bitsAt (show 40 + 1 ≤ 64 by decide), decide_eq_true_eq]
  omega

/-- EN cleared drops what waits at this module (log 13). -/
theorem State.fxidWrite_off {s : State} {v : Word} (hoff : v.getLsbD 40 = false) :
    (s.fxidWrite v).fabric = { s.fabric with waits := [], acqs := [] } := by
  simp only [State.fxidWrite, hoff, Bool.false_and, Bool.false_eq_true, if_false]
  rfl

theorem exec_fabricEnable (v : Word) (s : State) : exec (.fabricEnable v) s = execFabricEnable v s := rfl

theorem exec_fabricDisable (v : Word) (s : State) : exec (.fabricDisable v) s = execFabricDisable v s := rfl

/-! ### The links within the package (23 R368, 01 R28, log 114) -/

/-- LINKUP of a stack is set as asked. -/
theorem State.setLinkUp_bit (s : State) {link : Nat} (h : link ∈ linkNos) (up : Bool) :
    ((s.setLinkUp link up).mcrGet (hmstat (link / 4) (link % 4))).getLsbD 5 = up := by
  rw [State.setLinkUp, if_pos h, State.mcrGet_mcrPut, if_pos rfl, getLsbD_under, if_pos (by decide)]
  cases up <;> decide

/-- LINKUP is all that is changed. -/
theorem State.setLinkUp_keeps (s : State) (link : Nat) (up : Bool) :
    (s.setLinkUp link up).board = s.board ∧ (s.setLinkUp link up).linkKey = s.linkKey := by
  unfold State.setLinkUp
  split
  · exact ⟨State.mcrPut_board .., State.mcrPut_linkKey ..⟩
  · exact ⟨rfl, rfl⟩

theorem exec_inPackageLinkAuth (link : Nat) (ok : Bool) (s : State) :
    exec (.inPackageLinkAuth link ok) s = execInPackageLinkAuth link ok s := rfl

/-- Whether the module is up: powered, past bring-up and not in the service-required state. -/
def State.isUp (s : State) : Bool := s.board.mainRail && !s.board.bringing && !s.board.svcStop

/-- The machine with a link within the package held down. -/
def State.linkHeld (s : State) (link : Nat) : State :=
  { s with board := { s.board with linksDown := insertNat link s.board.linksDown } }

/-- The machine with a link within the package let go under a new session key. -/
def State.linkLetGo (s : State) (link : Nat) : State :=
  { s with
    linkKey := Tbl.put 0 s.linkKey link (Tbl.get 0 s.linkKey link + 1)
    board := { s.board with linksDown := eraseNat link s.board.linksDown } }

/-- A link let go has the next session key. -/
theorem State.linkLetGo_key (s : State) (link : Nat) :
    Tbl.get 0 (s.linkLetGo link).linkKey link = Tbl.get 0 s.linkKey link + 1 := by
  rw [State.linkLetGo, Tbl.get_put, if_pos rfl]

/-- A failed proof while the module is up takes the link down. -/
theorem inPackageLinkAuth_failed_up {s : State} (link : Nat) (h : s.isUp = true) :
    exec (.inPackageLinkAuth link false) s = .next ((s.linkHeld link).setLinkUp link false) := by
  rw [exec_inPackageLinkAuth, execInPackageLinkAuth]
  exact congrArg Host.Outcome.next (if_pos h)

/-- A failed proof before the module is up stops it in the service-required state. -/
theorem inPackageLinkAuth_failed_starting {s : State} (link : Nat) (h : s.isUp = false) :
    exec (.inPackageLinkAuth link false) s =
      .next ((s.linkHeld link).updBoard fun b => { b with mainRail := true, bringing := false, svcStop := true }) := by
  rw [exec_inPackageLinkAuth, execInPackageLinkAuth]
  exact congrArg Host.Outcome.next (if_neg (Bool.eq_false_iff.mp h))

/-- A proof that passes on a link that is not held down changes nothing. -/
theorem inPackageLinkAuth_passed_free {s : State} {link : Nat} (h : link ∉ s.board.linksDown) :
    exec (.inPackageLinkAuth link true) s = .next s := by
  rw [exec_inPackageLinkAuth, execInPackageLinkAuth]
  exact congrArg Host.Outcome.next ((if_pos rfl).trans (if_neg fun hc => h (List.contains_iff_mem.mp hc)))

/-- A proof that passes on a link held down lets it up again. -/
theorem inPackageLinkAuth_passed_held {s : State} {link : Nat} (h : link ∈ s.board.linksDown) :
    exec (.inPackageLinkAuth link true) s =
      .next ((s.linkLetGo link).setLinkUp link (s.board.mainRail && !s.board.svcStop)) := by
  rw [exec_inPackageLinkAuth, execInPackageLinkAuth]
  exact congrArg Host.Outcome.next ((if_pos rfl).trans (if_pos (List.contains_iff_mem.mpr h)))

end Sys2Proof.Machine

namespace Sys2Proof.Proofs

open Sys2Proof.Machine

/-- Settles O44, clause by clause: what each event leaves in the register of the port, in FXID or in LINKUP. -/
theorem portEvents : Obligations.PortEvents := by
  refine ⟨?lanes, ?keying, ?enabling, ?links⟩
  case lanes =>
    intro s die port hd hp
    obtain ⟨a, ha, hfour, hthree⟩ := laneFail_port s hd hp
    refine ⟨a, _, _, _, ha, rfl, rfl, rfl, fun h => ?_, fun h => ?_, fun hlive => ?_⟩
    · rw [hfour h, portState_nibble]; rfl
    · rw [hthree h, portState_nibble]; rfl
    · rw [linkRekey_live hd hp hlive rfl, flitTagFail_live hd hp hlive false rfl, flitTagFail_live hd hp hlive true rfl,
        if_neg Bool.false_ne_true, if_pos rfl, portState_state, portState_above (by decide)]
      exact ⟨nextSession_session _, nextSession_below (by decide) _, portTagErr_state _, portTagErr_count _, rfl,
        portTagErr_count _⟩
  case keying =>
    intro s die port peer hd hp _ hdown
    obtain ⟨a, ha, hup⟩ := offPackageLinkKeying_training hd hp hdown peer true
    obtain ⟨b, hb, htrain⟩ := offPackageLinkKeying_training hd hp hdown peer false
    rw [if_pos rfl] at hup
    rw [if_neg Bool.false_ne_true] at htrain
    refine ⟨a, b, ha, ?_, ?_, hb, ?_⟩
    · rw [hup, extractLsb'_setField_of_disjoint (by decide) (by decide), nextSession_below (by decide), portState_state]
    · rw [hup, extractLsb'_setField (by decide)]
    · rw [htrain, portTagErr_state, portState_state]
  case enabling =>
    refine fun s v => ⟨fun hen => ⟨?_, (s.fxidWrite_fabricOn v).trans hen, s.fxidWrite_mid v⟩, fun hoff => ⟨s.fxidWrite v, ?_,
      (s.fxidWrite_fabricOn v).trans hoff, State.fxidWrite_off hoff⟩⟩
    · rw [exec_fabricEnable, execFabricEnable, if_pos hen]
    · rw [exec_fabricDisable, execFabricDisable, hoff]; rfl
  case links =>
    refine fun s link => ⟨?_, inPackageLinkAuth_passed_free, fun hheld => ?_⟩
    · have hdown : link ∈ insertNat link s.board.linksDown := (mem_insertNat ..).mpr (.inl rfl)
      cases hup : s.isUp with
      | true =>
        obtain ⟨hboard, -⟩ := (s.linkHeld link).setLinkUp_keeps link false
        obtain ⟨⟨hrail, hbring⟩, hstop⟩ :
            (s.board.mainRail = true ∧ s.board.bringing = false) ∧ s.board.svcStop = false := by simpa [State.isUp] using hup
        refine ⟨_, inPackageLinkAuth_failed_up link hup, ?_, ?_, ?_, fun hlink _ _ _ => ⟨State.setLinkUp_bit _ hlink false, ?_⟩⟩
        · rw [hboard]; exact hdown
        · rw [hboard]; exact hrail
        · simp [hrail, hbring, hstop]
        · rw [hboard]; exact hstop
      | false =>
        refine ⟨_, inPackageLinkAuth_failed_starting link hup, hdown, rfl, fun _ => ⟨rfl, rfl⟩, fun _ hrail hbring hstop => ?_⟩
        simp [State.isUp, hrail, hbring, hstop] at hup
    · obtain ⟨-, hkey⟩ := (s.linkLetGo link).setLinkUp_keeps link (s.board.mainRail && !s.board.svcStop)
      exact ⟨_, inPackageLinkAuth_passed_held hheld, by rw [hkey, State.linkLetGo_key], fun hlink => State.setLinkUp_bit _ hlink _⟩

end Sys2Proof.Proofs
end

section
/-! PROOFS. The statements of 04_on_chip_memory.md: stores into own L1 lines (O28), the ends of outstanding operations (O39), engines,
belay transfers, multicasts and reductions (O42). The lemmas say once what each completion does where its condition holds. -/

namespace Sys2Proof.Machine

/-! ### Bytes of a number and of a line (04 R84) -/

/-- The bytes of a little-endian number are those it was made from; above them it is zero. -/
theorem leNat_byte (bs : List Byte) (i : Nat) : leNat bs / 2 ^ (8 * i) % 2 ^ 8 = (bs.getD i 0).toNat := by
  induction bs generalizing i with
  | nil => simp [leNat]
  | cons b bs ih =>
    have hb : b.toNat < 256 := b.isLt
    cases i with
    | zero => simp only [leNat, List.getD_cons_zero]; omega
    | succ i =>
      have htail : leNat (b :: bs) / 2 ^ 8 = leNat bs := by simp only [leNat]; omega
      rw [List.getD_cons_succ, ← ih, Nat.mul_succ, Nat.add_comm, Nat.pow_add, ← Nat.div_div_eq_div_mul, htail]

/-- A line made from its bytes holds them. -/
theorem lineOf_byte (bs : List Byte) {i : Nat} (hi : i < 64) : (lineOf bs).extractLsb' (8 * i) 8 = bs.getD i 0 := by
  refine BitVec.eq_of_getLsbD_eq fun j hj => ?_
  rw [BitVec.getLsbD_extractLsb', lineOf, BitVec.getLsbD_ofNat, BitVec.getLsbD, ← leNat_byte, Nat.testBit_mod_two_pow,
    Nat.testBit_div_two_pow, decide_eq_true (show 8 * i + j < 512 by omega), Bool.true_and, Nat.add_comm]

/-- The bits of the bytes that a store writes, which are all that it is given. -/
theorem foldl_storeMask (b : Nat) (bs : List Byte) (k m : Nat) :
    ((bs.map some).zipIdx k).foldl (fun m p => if p.1.isSome then m + 2 ^ (b + p.2) else m) m =
      m + (2 ^ bs.length - 1) * 2 ^ (b + k) := by
  induction bs generalizing k m with
  | nil => simp
  | cons x bs ih =>
    have hpos : 0 < 2 ^ bs.length := Nat.two_pow_pos _
    obtain ⟨n, hn⟩ : ∃ n, 2 ^ bs.length = n + 1 := ⟨2 ^ bs.length - 1, by omega⟩
    rw [List.map_cons, List.zipIdx_cons, List.foldl_cons, ih, List.length_cons, Nat.pow_succ, ← Nat.add_assoc b, Nat.pow_succ, hn]
    simp only [Option.isSome_some, if_true, Nat.add_sub_cancel, show (n + 1) * 2 - 1 = 2 * n + 1 by omega]
    ring

/-! ### Own lines of an L1 (04 R83, R84) -/

/-- The line found is the one asked for. -/
theorem State.lineAt_some {s : State} {loc ctx line : Nat} {l : L1Line} (h : s.lineAt loc ctx line = some l) :
    l.loc = loc ∧ l.ctx = ctx ∧ l.line = line := by
  have hl := List.find?_some h
  simp only [L1Line.is, Bool.and_eq_true, beq_iff_eq] at hl
  obtain ⟨⟨hloc, hline⟩, hctx⟩ := hl
  exact ⟨hloc, hctx, hline⟩

/-- A line that is put is found. -/
theorem State.lineAt_putLine (s : State) (l : L1Line) : (s.putLine l).lineAt l.loc l.ctx l.line = some l :=
  List.find?_cons_of_pos (by simp [L1Line.is])

/-- An agent's own line is ready to be used. -/
theorem State.openLine_own {s : State} {a : Agent} {line : Nat} {l : L1Line} (h : s.lineAt a.loc a.ctx line = some l) :
    s.openLine a line = (s, l) := by
  rw [State.openLine, h]

/-- A line with bytes stored into it from an offset by an agent. -/
def L1Line.stored (l : L1Line) (a : Agent) (off : Nat) (bs : List Byte) : L1Line :=
  { l with
    data := lineOf ((List.range 64).map fun i =>
      if off ≤ i then ((bs.map some).getD (i - off) none).getD (l.byte i) else l.byte i)
    dirty := l.dirty ||| bitsAt off bs.length
    depth := max l.depth a.depth
    task := a.task }

/-- A byte stored is the byte that was given. -/
theorem L1Line.byte_stored (l : L1Line) (a : Agent) {off i : Nat} {bs : List Byte} (hi : i < bs.length)
    (hoff : off + bs.length ≤ 64) : (l.stored a off bs).byte (off + i) = bs[i] := by
  have h64 : off + i < 64 := by omega
  rw [L1Line.byte, L1Line.stored, lineOf_byte _ h64, List.getD_eq_getElem _ _ (by simpa using h64)]
  simp [hi]

/-- A byte stored is dirty. -/
theorem L1Line.dirty_stored (l : L1Line) (a : Agent) {off i : Nat} {bs : List Byte} (hi : i < bs.length)
    (hoff : off + bs.length ≤ 64) : (l.stored a off bs).dirty.getLsbD (off + i) = true := by
  rw [L1Line.stored, BitVec.getLsbD_or, getLsbD_bitsAt hoff, decide_eq_true (by omega), Bool.or_true]

/-- A store into an agent's own line changes that line alone (04 R84). -/
theorem State.l1Store_own {s : State} {a : Agent} {pa : Nat} {l : L1Line} {bs : List Byte}
    (h : s.lineAt a.loc a.ctx (pa / 64) = some l) (hne : 0 < bs.length) :
    s.l1Store a pa (bs.map some) = s.putLine (l.stored a (pa % 64) bs) := by
  have hlen : 1 < 2 ^ bs.length := Nat.one_lt_two_pow (by omega)
  have hmask : (2 ^ bs.length - 1) * 2 ^ (pa % 64) ≠ 0 := Nat.mul_ne_zero (by omega) (Nat.two_pow_pos _).ne'
  simp only [State.l1Store, State.openLine_own h, foldl_storeMask, Nat.zero_add, Nat.add_zero, if_neg hmask]
  rfl

/-- A load of dirty bytes of an agent's own line delivers them as they stand, without poison (04 R84). -/
theorem State.l1Load_dirty {s : State} {a : Agent} {pa n : Nat} {l : L1Line} {mask : List Bool}
    (h : s.lineAt a.loc a.ctx (pa / 64) = some l) (hn : mask.length = n)
    (hd : ∀ i < n, l.dirty.getLsbD (pa % 64 + i) = true) :
    (s.l1Load a pa mask).2 = ((List.range n).map fun i => l.byte (pa % 64 + i), false) := by
  subst hn
  have hclean : ∀ p : Nat → Bool, (∀ i, l.dirty.getLsbD i = true → p i = false) →
      ((((List.range mask.length).map fun i => pa % 64 + i).filter fun i => mask.getD (i - pa % 64) false).any p) = false := by
    refine fun p hp => List.any_eq_false.mpr fun i hi => ?_
    obtain ⟨j, hj, rfl⟩ := List.mem_map.mp (List.mem_filter.mp hi).1
    exact Bool.eq_false_iff.mp (hp _ (hd j (List.mem_range.mp hj)))
  simp only [State.l1Load, State.openLine_own h]
  rw [if_neg (by rw [hclean _ fun i hi => by rw [L1Line.needs, hi]; rfl]; exact Bool.false_ne_true)]
  exact Prod.ext List.map_map (hclean _ fun i hi => by rw [L1Line.bad, hi]; rfl)

end Sys2Proof.Machine

namespace Sys2Proof.Proofs

open Sys2Proof.Machine

/-- Settles O28: the store changes the agent's own line alone, and the bytes it leaves dirty there are loaded as they stand. -/
theorem storesAreReadBackThroughTheL1 : Obligations.StoresAreReadBackThroughTheL1 := by
  intro s a pa bs l h hne hfit t all
  obtain ⟨hloc, hctx, hline⟩ := State.lineAt_some h
  have ht : t = s.putLine (l.stored a (pa % 64) bs) := State.l1Store_own h hne
  have hown : t.lineAt a.loc a.ctx (pa / 64) = some (l.stored a (pa % 64) bs) := by
    rw [ht, ← hloc, ← hctx, ← hline]
    exact State.lineAt_putLine ..
  have hload := State.l1Load_dirty (mask := all) hown (List.length_map ..) fun i hi => l.dirty_stored a hi hfit
  refine ⟨by rw [ht]; rfl, ?_, by rw [hload]⟩
  rw [hload]
  refine List.ext_getElem (by simp) fun i hi _ => ?_
  rw [List.getElem_map, List.getElem_range]
  exact l.byte_stored a (by simpa using hi) hfit

end Sys2Proof.Proofs

namespace Sys2Proof.Machine

/-! ### Operations end (06 R124, 08 R159, 09 R200, R206) -/

theorem exec_scalarDivComplete (id : Nat) (s : State) : exec (.scalarDivComplete id) s = execScalarDivComplete id s := rfl

theorem exec_xResultComplete (id : Nat) (s : State) : exec (.xResultComplete id) s = execXResultComplete id s := rfl

theorem exec_vdrainComplete (id : Nat) (s : State) : exec (.vdrainComplete id) s = execVdrainComplete id s := rfl

theorem exec_loadComplete (id : Nat) (s : State) : exec (.loadComplete id) s = execLoadComplete id s := rfl

theorem exec_mmaComplete (id : Nat) (s : State) : exec (.mmaComplete id) s = execMmaComplete id s := rfl

/-- All bits of a scalar register taken from a result. -/
theorem merge_outS (old : Word) (d : SReg) (x : Word) : merge old (outS d x) = x := by
  refine BitVec.eq_of_getLsbD_eq fun i hi => ?_
  have hi' : i < 1024 := by omega
  simp only [merge, outS, lowMask, BitVec.getLsbD_or, BitVec.getLsbD_and, BitVec.getLsbD_not, BitVec.getLsbD_setWidth,
    BitVec.getLsbD_ofNat, Nat.testBit_two_pow_sub_one, hi, hi', decide_true, Bool.not_true, Bool.and_false, Bool.false_or,
    Bool.true_and, Bool.and_true]

/-- A register whose only producer, none of them failed before it, delivers a scalar result is FULL and holds it (06 R124). -/
theorem Reg.fill_last {r : Reg 64} {before : Word} {psn : Bool} (h : r.st = .empty 1 before none psn) (d : SReg) (x : Word) :
    r.fill (outS d x) .data = ⟨x, .full⟩ := by
  simp [Reg.fill, h, merge_outS]

/-- A task that wakes keeps its registers and its operations. -/
theorem Task.wake_keeps (t : Task) (tick : Nat) : (t.wake tick).regs = t.regs ∧ (t.wake tick).ops = t.ops := by
  unfold Task.wake
  split
  · exact ⟨rfl, rfl⟩
  · split
    · exact ⟨rfl, rfl⟩
    · split <;> exact ⟨rfl, rfl⟩
    · exact ⟨rfl, rfl⟩

/-- Destinations filled leave the operations of the task as they are. -/
theorem Task.fills_ops (outs : List Out) (e : Ending) (t : Task) : (outs.foldl (fun t o => t.fill o e) t).ops = t.ops :=
  List.foldlRecOn outs _ (motive := fun u : Task => u.ops = t.ops) rfl fun u hu o _ => by
    obtain ⟨r, hr⟩ := u.fill_eq o e
    rw [hr]
    exact hu

/-- A task in which an operation has ended holds it no longer. -/
theorem Task.endOp_ops (t : Task) (op : Op) (tick : Nat) : (t.endOp op tick).ops = t.ops.filter fun o => o.id != op.id := by
  rw [Task.endOp, (Task.wake_keeps _ tick).2]
  exact Task.fills_ops ..

/-- An operation with one scalar result, neither failed nor poisoned, fills its register when it ends. -/
theorem Task.endOp_result (t : Task) {op : Op} {d : SReg} {x : Word} (tick : Nat) (ho : op.outs = [outS d x])
    (hf : op.fail = none) (hp : op.poison = false) (hd : d ≠ 0) :
    (t.endOp op tick).regs.s[d] = t.regs.s[d].fill (outS d x) .data := by
  rw [Task.endOp, (Task.wake_keeps _ tick).1]
  simp only [ho, hf, hp, List.foldl_cons, List.foldl_nil, Task.fill, outS, hd, if_false, Bool.false_eq_true]
  exact Vector.getElem_set_self d.isLt

/-- The ranges of a weight store among the operands of an MMA. -/
def State.weightsOf (s : State) (c : MmaCmd) : List (Nat × Nat) :=
  c.foot.filter fun r => match s.place r.1 with
    | .weights .. => true
    | _ => false

section
variable {s : State} {id : Nat} {t : Task} {op : Op} (h : s.findOp id = some (t, op))
include h

theorem State.completeKind_found {kind : OpKind} (hk : op.kind = kind) : s.completeKind id kind = s.finishOp t.id op := by
  simp only [State.completeKind, h, hk, if_true]

/-- The oldest X result of its task ends (09 R206). -/
theorem xResultComplete_oldest (hk : op.kind = .x) (hold : ∀ o ∈ t.ops, o.kind = .x → id ≤ o.id) :
    exec (.xResultComplete id) s = .next (s.finishOp t.id op) := by
  have hany : (t.ops.any fun o => o.id < id && o.kind == .x) = false := List.any_eq_false.mpr fun o ho hx => by
    rw [Bool.and_eq_true, decide_eq_true_eq, beq_iff_eq] at hx
    exact absurd (hold o ho hx.2) (Nat.not_le.mpr hx.1)
  simp only [exec_xResultComplete, execXResultComplete, h, hany, Bool.false_eq_true, if_false, State.completeKind_found h hk]

/-- An MMA behind no earlier access to the scratchpad reads its weights, writes its product and completes its ticket
(11 R252, R255). -/
theorem mmaComplete_first {c : MmaCmd} (hk : op.kind = .mma c) (hfirst : ∀ o ∈ t.ops, o.id < id → o.padPending = false) :
    exec (.mmaComplete id) s = .next (((((s.weightsOf c).foldl (fun s r => s.touch t.ctx r.1 r.2) s).mmaWrite t op c).finishOp t.id
      op).completeTicket t.id 1 c.ticket none none) := by
  have hbefore : t.padBefore id = false := List.any_eq_false.mpr fun o ho hx => by
    rw [Bool.and_eq_true, decide_eq_true_eq] at hx
    exact absurd hx.2 (Bool.eq_false_iff.mp (hfirst o ho hx.1))
  simp only [exec_mmaComplete, execMmaComplete, h, hk, hbefore, Bool.false_eq_true, if_false]
  rfl

end

/-! ### What waited is performed (10 R230 to R235, 20 R345) -/

theorem exec_acqWake (id : Nat) (s : State) : exec (.acqWake id) s = execAcqWake id s := rfl

theorem exec_acqRemoteNotYet (x : NotYet) (s : State) : exec (.acqRemoteNotYet x) s = execAcqRemoteNotYet x s := rfl

theorem exec_relPerform (id : Nat) (s : State) : exec (.relPerform id) s = execRelPerform id s := rfl

theorem exec_fencePerform (id : Nat) (s : State) : exec (.fencePerform id) s = execFencePerform id s := rfl

theorem exec_tlbinvComplete (id : Nat) (s : State) : exec (.tlbinvComplete id) s = execTlbinvComplete id s := rfl

/-- An ACQ waits at its object where that is an object of this module. -/
theorem Op.waitsHere_acq {op : Op} {d : Dest} {adv sent : Bool} (hk : op.kind = .acq d adv sent) (hd : d.pa.isSome = true) :
    op.waitsHere = true := by
  rw [Op.waitsHere, hk]
  cases d with
  | fabric fa => cases hd
  | pad | ext | node | weights | control => rfl

/-- A FENCE behind performed accesses, those of its core's scratchpad and L1 where it is .co, is performed: one of a wider scope
writes back and advances the generation (10 R235). -/
theorem State.fenceGo_performed {s : State} {t : Task} {op : Op} {upTo : Nat} {co : Bool} (hk : op.kind = .fence upTo co)
    (hs : t.stored upTo = true)
    (hp : ∀ o ∈ t.ops, o.id < op.id → o.unperformed = true → (!co || o.ofCore t.loc) = false) :
    s.fenceGo t op = if co then s.finishOp t.id op
      else (((s.storeLost t upTo).flushCtx t.loc t.ctx).advanceGen t.loc).finishOp t.id op := by
  have hany : (t.ops.any fun o => o.id < op.id && o.unperformed && (!co || o.ofCore t.loc)) = false :=
    List.any_eq_false.mpr fun o ho hx => by
      rw [Bool.and_eq_true, Bool.and_eq_true, decide_eq_true_eq] at hx
      obtain ⟨⟨hid, hu⟩, hcore⟩ := hx
      exact absurd hcore (Bool.eq_false_iff.mp (hp o ho hid hu))
  simp only [State.fenceGo, hk, hs, hany, Bool.not_true, Bool.or_self, Bool.false_eq_true, if_false]

/-- A request's ACQ that has waited for FXTMO is answered with zero and waits no longer (10 R232). -/
theorem acqRemoteNotYet_answered {s : State} {src id : Nat} {w : Nat × Request}
    (h : (s.fabric.acqs.find? fun w => w.2.src == src && w.2.id == id) = some w) :
    exec (.acqRemoteNotYet (.answer src id)) s =
      .next ((s.updFabric fun f => { f with acqs := f.acqs.erase w }).answerReq w.2 .ok (natLe 8 0) false 0) := by
  simp only [exec_acqRemoteNotYet, execAcqRemoteNotYet, h]

section
variable {s : State} {id : Nat} {t : Task} {op : Op} (h : s.findOp id = some (t, op))
include h

/-- An ACQ whose object is no longer zero is performed and ends (10 R232). -/
theorem acqWake_acquired {d : Dest} {adv sent : Bool} {t1 : Task} {op1 : Op} (hc : s.canSync t op = true)
    (hk : op.kind = .acq d adv sent) (hd : d.pa.isSome = true) (h1 : (s.acqGo t op).findOp id = some (t1, op1))
    (hk1 : op1.kind = .load) : exec (.acqWake id) s = .next ((s.acqGo t op).finishOp t1.id op1) := by
  simp only [exec_acqWake, execAcqWake, h, Op.waitsHere_acq hk hd, hc, Bool.not_true, Bool.or_self, Bool.false_eq_true, if_false,
    h1, hk1, if_true]

/-- An ACQ of a remote object that is answered "not yet" is sent again (10 R232). -/
theorem acqRemoteNotYet_again {fa : Word} {adv sent : Bool} (hc : s.canSync t op = true)
    (hk : op.kind = .acq (.fabric fa) adv sent) : exec (.acqRemoteNotYet (.again id)) s = .next (s.acqGo t op) := by
  simp only [exec_acqRemoteNotYet, execAcqRemoteNotYet, h, hk, hc, if_true]

theorem relPerform_rel {d : Dest} {v : Word} {upTo : Nat} {flush sent : Bool} (hc : s.canSync t op = true)
    (hk : op.kind = .rel d v upTo flush sent) : exec (.relPerform id) s = .next (s.relGo t op) := by
  simp only [exec_relPerform, execRelPerform, h, hk, hc, Bool.not_true, Bool.false_eq_true, if_false]

theorem relPerform_atomic {c : AtCmd} (hc : s.canSync t op = true) (hk : op.kind = .atomic c) :
    exec (.relPerform id) s = .next (s.atomicGo t op c) := by
  simp only [exec_relPerform, execRelPerform, h, hk, hc, Bool.not_true, Bool.false_eq_true, if_false]

theorem fencePerform_found : exec (.fencePerform id) s = .next (s.fenceGo t op) := by
  simp only [exec_fencePerform, execFencePerform, h]

/-- A TLBINV that has dropped its entries ends once no access translated with them is left (20 R345). -/
theorem tlbinvComplete_dropped {w : TlbWhat} {n : Nat} (hk : op.kind = .tlbinv w (some n))
    (hl : s.translatedLeft w t.ctx n = false) : exec (.tlbinvComplete id) s = .next (s.finishOp t.id op) := by
  simp only [exec_tlbinvComplete, execTlbinvComplete, h, hk, hl, Bool.false_eq_true, if_false]

theorem tlbinvComplete_waiting {w : TlbWhat} (hk : op.kind = .tlbinv w none) :
    exec (.tlbinvComplete id) s = .next (s.tlbinvGo t op) := by
  simp only [exec_tlbinvComplete, execTlbinvComplete, h, hk]

end

/-! ### Converted ways (04 R87, R88) -/

theorem exec_wayconvDrainDone (id : Nat) (s : State) : exec (.wayconvDrainDone id) s = execWayconvDrainDone id s := rfl

theorem exec_wayrestDone (id : Nat) (s : State) : exec (.wayrestDone id) s = execWayrestDone id s := rfl

theorem State.HomeAndL1Only.cores {s t : State} (h : s.HomeAndL1Only t) : t.cores = s.cores :=
  Eq.trans (congrArg State.cores h) rfl

/-- A line written back is work at the homes and in the L1s (04 R86). -/
theorem State.writeBack_homeAndL1Only (s : State) (l : L1Line) : s.HomeAndL1Only (s.writeBack l) := by
  unfold State.writeBack
  split
  · exact .refl s
  · exact (s.holdLine_homeAndL1Only _).trans (State.mergeLine_homeOnly ..).andL1

/-- Lines written back and dropped are work at the homes and in the L1s. -/
theorem State.dropLines_homeAndL1Only (s : State) (p : L1Line → Bool) : s.HomeAndL1Only (s.dropLines p) :=
  (State.HomeAndL1Only.foldl _ (.refl s) fun t l => t.writeBack_homeAndL1Only l).trans (.putLines _ _ _)

/-- The machine in which `n` drained ways of a core have become part of its scratchpad: their new range reads as zero
(04 R87). -/
def State.waysTaken (s : State) (loc n : Nat) : State :=
  let w := (s.core loc).extWays
  (s.clearPad loc (padSize + 0x8000 * w) (padSize + 0x8000 * (w + n))).updCore loc fun c =>
    { c with extWays := c.extWays + n, converting := c.converting - n }

theorem State.waysTaken_extWays (s : State) (loc n : Nat) :
    ((s.waysTaken loc n).core loc).extWays = (s.core loc).extWays + n := by
  rw [State.waysTaken, State.core_updCore, if_pos rfl]
  rfl

theorem State.waysTaken_byte (s : State) (loc : Nat) {n i : Nat} (hi : i < 0x8000 * n) :
    (s.waysTaken loc n).byte (padBase loc + padSize + 0x8000 * (s.core loc).extWays + i) = 0 := by
  have hclear := s.byte_clearPad loc (padSize + 0x8000 * (s.core loc).extWays) (padSize + 0x8000 * ((s.core loc).extWays + n))
    (padBase loc + padSize + 0x8000 * (s.core loc).extWays + i)
  rw [if_pos (by omega)] at hclear
  exact hclear

/-- The machine in which the lines of the ways that a core gives up have been written back and dropped (04 R87). -/
def State.waysDrained (s : State) (loc : Nat) : State :=
  let gone := (List.range 512).flatMap fun set => s.excess loc set
  s.tookFree.dropLines fun l => l.loc == loc && gone.contains l.line

/-- Draining ways changes no core's record of them. -/
theorem State.waysDrained_core (s : State) (loc l : Nat) : (s.waysDrained loc).core l = s.core l := by
  rw [State.core, State.waysDrained, (State.dropLines_homeAndL1Only ..).cores]
  rfl

section
variable {s : State} {id : Nat} {t : Task} {op : Op} (h : s.findOp id = some (t, op))
include h

/-- The oldest conversion of its context at a core, with no restoration outstanding, takes its ways once they have been
drained (04 R87). -/
theorem wayconvDrainDone_oldest {n : Nat} (hk : op.kind = .wayconv n) (hn : n ≠ 0)
    (hold : ∀ o ∈ s.extOps t.loc t.ctx, id ≤ o.id ∧ o.kind ≠ .wayrest) :
    exec (.wayconvDrainDone id) s = .next (((s.waysDrained t.loc).waysTaken t.loc n).finishOp t.id op) := by
  have hconv : op.converts = n := by rw [Op.converts, hk]
  have hfirst : ((s.extOps t.loc t.ctx).any fun o => o.id < id) = false := List.any_eq_false.mpr fun o ho hx =>
    absurd (hold o ho).1 (Nat.not_le.mpr (of_decide_eq_true hx))
  have hrest : ((s.extOps t.loc t.ctx).any fun o => o.kind == .wayrest) = false := List.any_eq_false.mpr fun o ho hx =>
    (hold o ho).2 (eq_of_beq hx)
  simp only [exec_wayconvDrainDone, execWayconvDrainDone, h, hconv, hn, hfirst, hrest, Bool.false_eq_true, or_self, if_false]
  rw [State.waysTaken, State.waysDrained_core]
  rfl

/-- A restoration behind performed accesses to the extension clears it and leaves the core what later conversions take
(04 R88). -/
theorem wayrestDone_clear (hk : op.kind = .wayrest)
    (hacc : ∀ x ∈ s.tasks, x.loc = t.loc → x.ctx = t.ctx → ∀ o ∈ x.ops, o.id < id → o.onExt = false)
    (hhaul : ∀ h ∈ s.hauls, h.loc = t.loc → h.ctx = t.ctx → id ≤ h.id) :
    let later := (s.extOps t.loc t.ctx).filter fun o => id < o.id
    exec (.wayrestDone id) s = .next (((s.clearPad t.loc padSize 0x400000).updCore t.loc fun c => { c with
      converting := (later.map Op.converts).sum
      restoring := later.any fun o => o.kind == .wayrest
      extOwner := if later.isEmpty then 0 else c.extOwner }).finishOp t.id op) := by
  have htasks : ((s.tasks.filter fun x => x.loc == t.loc && x.ctx == t.ctx).any fun x =>
      x.ops.any fun o => o.id < id && o.onExt) = false := by
    refine List.any_eq_false.mpr fun x hx => Bool.eq_false_iff.mp (List.any_eq_false.mpr fun o ho hb => ?_)
    simp only [List.mem_filter, Bool.and_eq_true, beq_iff_eq, decide_eq_true_eq] at hx hb
    obtain ⟨hmem, hloc, hctx⟩ := hx
    exact absurd hb.2 (Bool.eq_false_iff.mp (hacc x hmem hloc hctx o ho hb.1))
  have hhauls : (s.hauls.any fun h => h.loc == t.loc && h.ctx == t.ctx && h.id < id) = false := by
    refine List.any_eq_false.mpr fun x hx hb => ?_
    simp only [Bool.and_eq_true, beq_iff_eq, decide_eq_true_eq] at hb
    exact absurd (hhaul x hx hb.1.1 hb.1.2) (Nat.not_le.mpr hb.2)
  simp only [exec_wayrestDone, execWayrestDone, h, hk, htasks, hhauls, ne_eq, not_true_eq_false, Bool.false_eq_true, or_self,
    if_false]

end

end Sys2Proof.Machine

namespace Sys2Proof.Proofs

open Sys2Proof.Machine

/-- Settles O39, clause by clause from what each completion does where its condition holds. -/
theorem operationsComplete : Obligations.OperationsComplete := by
  refine ⟨⟨?results, ?register⟩, ?sync, fun s src id w => acqRemoteNotYet_answered, ?wayconv,
    fun s id t op => wayrestDone_clear⟩
  case results =>
    intro s id t op h
    refine ⟨fun hk => ?div, xResultComplete_oldest h, fun hk => ?drain, fun hk => ?load, fun ps sext hk hw => ?heldRead,
      fun c hk => ?cmd, fun va taken hk => ?spawn, fun ps x k hk hw => ?heldWrite, fun n hk => ?qpop,
      fun c => mmaComplete_first h⟩
    case div => rw [exec_scalarDivComplete, execScalarDivComplete, State.completeKind_found h hk]
    case drain => rw [exec_vdrainComplete, execVdrainComplete, State.completeKind_found h hk]
    case cmd | spawn | qpop => simp only [exec_loadComplete, execLoadComplete, h, hk]
    case load => simp only [exec_loadComplete, execLoadComplete, h, hk, State.accessComplete]
    case heldRead | heldWrite =>
      simp only [exec_loadComplete, execLoadComplete, h, hk, State.accessComplete, hw, Bool.false_eq_true, if_false]
  case register =>
    rintro s op d x - - - ho hf hp hd ⟨before, psn, hst⟩ u
    have hcur : u.cur = s.cur.endOp op s.tick := s.updTask_cur _
    have hreg : u.cur.regs.s[d] = ⟨x, .full⟩ := by
      rw [hcur, Task.endOp_result s.cur s.tick ho hf hp hd, Reg.fill_last hst]
    refine ⟨by rw [Task.readS, if_neg hd, hreg], ?_, ?_⟩
    · simp only [Task.cond, if_neg hd, hreg, Reg.cond]
    · rw [hcur, Task.endOp_ops]
      simp
  case sync =>
    intro s id t op h
    refine ⟨fun hc => ⟨fun d adv sent t1 op1 => acqWake_acquired h hc, fun fa adv sent => acqRemoteNotYet_again h hc,
      fun d v upTo fl sent => relPerform_rel h hc, fun c => relPerform_atomic h hc⟩,
      fun upTo hs => ⟨fun hk hp => ?_, fun hk hp => ?_⟩,
      fun w => ⟨fun n => tlbinvComplete_dropped h, tlbinvComplete_waiting h⟩⟩
    · rw [fencePerform_found h, State.fenceGo_performed hk hs fun o ho hid hu => absurd hu (Bool.eq_false_iff.mp (hp o ho hid))]
      rfl
    · rw [fencePerform_found h, State.fenceGo_performed hk hs hp]
      rfl
  case wayconv =>
    intro s id n t op h hk hn hold
    have hcore := s.waysDrained_core t.loc t.loc
    refine ⟨_, wayconvDrainDone_oldest h hk hn hold, ?_, fun i hi => ?_⟩
    · rw [State.waysTaken_extWays, hcore]
    · rw [← hcore]
      exact State.waysTaken_byte _ _ hi

end Sys2Proof.Proofs

namespace Sys2Proof.Machine

/-! ### Engines (04 R98, R99; 20 R346) -/

theorem exec_haulStart (slice : Nat) (s : State) : exec (.haulStart slice) s = execHaulStart slice s := rfl

theorem exec_haulComplete (id : Nat) (s : State) : exec (.haulComplete id) s = execHaulComplete id s := rfl

theorem exec_xfrespRetry (die : Nat) (v : Word) (s : State) : exec (.xfrespRetry die v) s = execXfrespRetry die v s := rfl

theorem exec_xfrespFailXlate (die : Nat) (v : Word) (s : State) :
    exec (.xfrespFailXlate die v) s = execXfrespFailXlate die v s := rfl

theorem exec_xfrespFailProt (die : Nat) (v : Word) (s : State) :
    exec (.xfrespFailProt die v) s = execXfrespFailProt die v s := rfl

/-- An engine of a cluster that is not busy takes the command that is its to take, and the command goes on there (04 R99). -/
theorem haulStart_takes {s : State} {slice : Nat} {h : Haul} (hslice : slice < 64)
    (hidle : (s.hauls.filter fun h => h.eng == some slice).length < 4) (htake : s.takeFor slice = some h)
    (hbelay : Shadow.belay h.fields = false) :
    exec (.haulStart slice) s = .next ((s.updHaul h.id fun h => { h with st := .running, eng := some slice }).haulGo
      { h with st := .running, eng := some slice }) := by
  have hfree : ¬ (64 ≤ slice ∨ 4 ≤ (s.hauls.filter fun h => h.eng == some slice).length) := by omega
  simp only [exec_haulStart, execHaulStart, if_neg hfree, htake, hbelay, Bool.false_eq_true, if_false]

section
variable {s : State} {h : Haul} (hfind : s.hauls.find? (fun x => x.id == h.id) = some h) (hans : s.haulWaits h.id = false)
include hfind hans

/-- A running command whose requests are answered performs its segments (04 R98). -/
theorem haulComplete_performs (hst : h.st = .running) (hfold : s.foldWaits h = false) (hok : h.fault = none) :
    exec (.haulComplete h.id) s = .next (s.haulWork h) := by
  simp only [exec_haulComplete, execHaulComplete, hfind, hst, hans, hfold, hok, Bool.or_self, Bool.false_eq_true, if_false]

/-- A running command of which a request has failed ends with that failure (04 R101). -/
theorem haulComplete_fails {x : Fail} (hst : h.st = .running) (hfold : s.foldWaits h = false) (hbad : h.fault = some x) :
    exec (.haulComplete h.id) s = .next (s.endHaul h (some x)) := by
  simp only [exec_haulComplete, execHaulComplete, hfind, hst, hans, hfold, hbad, Bool.or_self, Bool.false_eq_true, if_false]

/-- A command whose stores are acknowledged ends (04 R98). -/
theorem haulComplete_posted (hst : h.st = .posted) : exec (.haulComplete h.id) s = .next (s.endHaul h h.fault) := by
  simp only [exec_haulComplete, execHaulComplete, hfind, hst, hans, Bool.false_eq_true, if_false]

/-- A reduction whose node has sent its result ends (03 R71). -/
theorem haulComplete_sent (hst : h.st = .sent) (hbelay : Shadow.belay h.fields = false) (hop : Shadow.op h.fields ≠ 5)
    (hclosed : (s.red h.ctx (Shadow.group h.fields) h.k).map Reduction.closed = some true) :
    exec (.haulComplete h.id) s = .next (s.endHaul h h.fault) := by
  simp only [exec_haulComplete, execHaulComplete, hfind, hst, hans, hbelay, beq_false_of_ne hop, hclosed, Option.getD_some,
    Bool.not_true, Bool.and_false, Bool.or_self, Bool.false_eq_true, if_false]

end

/-- A command that is neither a task's tile nor a belay command ends: it is forgotten, its ticket completes, its task takes its
CONVX where it succeeded, and the commands behind it move up (04 R100, R101). -/
theorem State.endHaul_plain (s : State) {h : Haul} (f : Option Fail) (htile : h.tile = none)
    (hbelay : Shadow.belay h.fields = false) :
    s.endHaul h f = (((s.dropHaul h.id).completeTicket h.task 0 h.ticket f none).updTask h.task fun t =>
      { t with ctl := { t.ctl with convx := t.ctl.convx || (h.convx && f.isNone) } }).promote := by
  simp only [State.endHaul, htile, hbelay, Bool.false_eq_true, if_false]

/-! ### XFRESP (20 R346) -/

/-- The word that answers a token with an action. -/
def xfrespWord (tok act : Nat) : Word := BitVec.ofNat 64 (tok + act * 2 ^ 32)

theorem xfrespWord_toNat {tok act : Nat} (ht : tok < 2 ^ 32) (ha : act < 4) : (xfrespWord tok act).toNat = tok + act * 2 ^ 32 := by
  rw [xfrespWord, BitVec.toNat_ofNat, Nat.mod_eq_of_lt (by omega)]

/-- The low 32 bits name the token. -/
theorem xfrespWord_tok {tok : Nat} (ht : tok < 2 ^ 32) {act : Nat} (ha : act < 4) : (xfrespWord tok act).toNat % 2 ^ 32 = tok := by
  rw [xfrespWord_toNat ht ha]; omega

/-- The two bits above them are ACT. -/
theorem xfrespWord_act {tok : Nat} (ht : tok < 2 ^ 32) {act : Nat} (ha : act < 4) :
    (xfrespWord tok act).toNat / 2 ^ 32 % 4 = act := by
  rw [xfrespWord_toNat ht ha]; omega

/-- XFRESP keeps the 34 bits that an answer has. -/
theorem xfrespWord_kept {tok act : Nat} (ht : tok < 2 ^ 32) (ha : act < 4) :
    xfrespWord tok act &&& bitsAt 0 34 = xfrespWord tok act := by
  have hlow : bitsAt 0 34 = BitVec.ofNat 64 (2 ^ 34 - 1) := rfl
  refine BitVec.eq_of_toNat_eq ?_
  rw [hlow, BitVec.toNat_and, xfrespWord_toNat ht ha, BitVec.toNat_ofNat, Nat.mod_eq_of_lt (by decide),
    Nat.and_two_pow_sub_one_eq_mod, Nat.mod_eq_of_lt (by omega)]

/-- A write of XFRESP of a die answers the commands, then the controllers, of that die. -/
theorem State.regWrite_xfresp (s : State) {die : Nat} (hd : die < 6) (v : Word) :
    s.regWrite (ctlBase die + 0xB0000) v =
      ((s.mcrPut (ctlBase die + 0xB0000) (v &&& bitsAt 0 34)).xfresp die v).kvAnswer die v := by
  have hdie : (ctlBase die + 0xB0000 - ctlBase 0) / 0x1000000 = die := by simp only [ctlBase]; omega
  have hoff : (ctlBase die + 0xB0000 - ctlBase 0) % 0x1000000 = 0xB0000 := by simp only [ctlBase]; omega
  simp [State.regWrite, hdie, hoff]

/-- An answer to a token of a die is written to its XFRESP as it stands. -/
theorem State.answer_token (s : State) {die tok act : Nat} (hd : die < 6) (ht : tok < 2 ^ 32) (ha : act < 4) :
    s.answer die (xfrespWord tok act) act =
      ((s.mcrPut (ctlBase die + 0xB0000) (xfrespWord tok act)).xfresp die (xfrespWord tok act)).kvAnswer die
        (xfrespWord tok act) := by
  have hact : Word.get (xfrespWord tok act) 32 2 = act := xfrespWord_act ht ha
  rw [State.answer, if_pos ⟨hd, hact⟩, State.regWrite_xfresp s hd, xfrespWord_kept ht ha]

section
variable {s : State} {h : Haul} {die tok : Nat} (ht : tok < 2 ^ 32)
  (hfind : s.hauls.find? (fun x => x.st == .waiting tok && sliceDie x.engine == die) = some h)
include ht hfind

/-- The command that waits under a token goes on where the answer is to retry. -/
theorem State.xfresp_retry : s.xfresp die (xfrespWord tok 1) =
    (s.updHaul h.id fun _ => { h with st := .running, fault := none }).haulGo { h with st := .running, fault := none } := by
  simp only [State.xfresp, xfrespWord_tok ht (act := 1) (by decide), xfrespWord_act ht (act := 1) (by decide), hfind]

/-- It fails with XLATE where the answer asks for that. -/
theorem State.xfresp_failXlate : s.xfresp die (xfrespWord tok 2) =
    s.endHaul { h with st := .running, fault := none } (some ⟨cXlate, 0, (h.fault.map Fail.eval).getD 0, none⟩) := by
  simp only [State.xfresp, xfrespWord_tok ht (act := 2) (by decide), xfrespWord_act ht (act := 2) (by decide), hfind]

/-- It fails with PROT where the answer asks for that. -/
theorem State.xfresp_failProt : s.xfresp die (xfrespWord tok 3) =
    s.endHaul { h with st := .running, fault := none } (some ⟨cProt, 0, (h.fault.map Fail.eval).getD 0, none⟩) := by
  simp only [State.xfresp, xfrespWord_tok ht (act := 3) (by decide), xfrespWord_act ht (act := 3) (by decide), hfind]

end

/-! ### Belay transfers (18 R320) -/

theorem exec_belayTransferHeld (ctx ch : Nat) (pong : Bool) (s : State) :
    exec (.belayTransferHeld ctx ch pong) s = execBelayTransferHeld ctx ch pong s := rfl

/-- A buffer that a transfer holds from then on, its counts begun again (18 R320). -/
def BelayBuf.hold (b : BelayBuf) (xfer : BitVec 32) : BelayBuf :=
  { b with held := true, started := Vector.replicate 6 0, done := Vector.replicate 6 0, written := [], xfer := xfer }

/-- The machine in which a transfer of a channel holds its buffer, and XFERS has counted it. -/
def State.transferHeld (s : State) (ctx : Nat) (c : Channel) (pong : Bool) : State :=
  (s.updBuf ctx c.n pong fun b => b.hold (c.xfers + 1)).updCtx ctx fun y =>
    { y with channels := y.channels.map fun z => if z.n = c.n then { z with xfers := z.xfers + 1 } else z }

/-- The ticket of a command completed with its transfer. -/
def State.transferred (s : State) (h : Haul) : State :=
  ((s.dropHaul h.id).completeTicket h.task 0 h.ticket none none).updTask h.task fun y =>
    { y with ctl := { y.ctl with convx := y.ctl.convx || h.convx } }

/-- A transfer of which every sending die has completed its commands is held, and their tickets complete (18 R320). -/
theorem belayTransferHeld_complete {s : State} {x : Ctx} {c : Channel} {pong : Bool} (hx : s.ctxOf x.id = some x)
    (hc : x.channel c.n = some c) (hheld : (c.bufs[bufIx pong]).held = false)
    (hdone : ∀ d ∈ c.senders, dieCount (c.bufs[bufIx pong]).done d = c.cmds) :
    exec (.belayTransferHeld x.id c.n pong) s = .next ((s.hauls.filter fun h =>
      h.ctx == x.id && h.belayDone && Shadow.channel h.fields == c.n && Shadow.pong h.fields == pong).foldl State.transferred
        (s.transferHeld x.id c pong)).promote := by
  have hall : (c.senders.all fun d => dieCount (c.bufs[bufIx pong]).done d == c.cmds) = true :=
    List.all_eq_true.mpr fun d hd => beq_iff_eq.mpr (hdone d hd)
  simp only [exec_belayTransferHeld, execBelayTransferHeld, hx, Option.bind_some, hc, hheld, hall, Bool.not_true, Bool.or_self,
    Bool.false_eq_true, if_false]
  rfl

/-! ### Multicast and reductions (03 R70, R71; 21 R354, R355) -/

theorem exec_multicastDeliver (q : Request) (s : State) : exec (.multicastDeliver q) s = execMulticastDeliver q s := rfl

theorem exec_multicastComplete (id : Nat) (done : List Nat) (s : State) :
    exec (.multicastComplete id done) s = execMulticastComplete id done s := rfl

theorem exec_reductionContribution (c : Contribution) (s : State) :
    exec (.reductionContribution c) s = execReductionContribution c s := rfl

theorem exec_reductionTimeout (ctx group k : Nat) (s : State) :
    exec (.reductionTimeout ctx group k) s = execReductionTimeout ctx group k s := rfl

/-- A multicast's store that passes its checks is performed or refused, and acknowledged (03 R70). -/
theorem multicastDeliver_passed {s : State} {q : Request} (hon : s.fabricOn = true)
    (henv : s.envOk q.src q.inc q.expect = true) :
    exec (.multicastDeliver q) s = .next ((s.multicastHere q).1.send (.ack q.src q.id (s.multicastHere q).2 0)) := by
  simp only [exec_multicastDeliver, execMulticastDeliver, hon, henv, Bool.not_true, Bool.false_eq_true, if_false]

/-- A store that its entry of the table allows is performed (03 R61). -/
theorem State.multicastHere_store {s : State} {q : Request} {bs : List (Option Byte)} {c : Ctx} {ps : List (Nat × Nat)}
    (hk : q.kind = .store bs) (hx : s.exported q.fctx q.off bs.length 3 .store = some (c, ps)) :
    s.multicastHere q = ((s.writePieces (s.reqAgent c q) ps bs).poisonPieces c.id ps q.poison, .ok) := by
  simp only [State.multicastHere, hk, hx]

/-- A store that no entry allows is refused, charged and counted (03 R61, R77). -/
theorem State.multicastHere_refused {s : State} {q : Request} {bs : List (Option Byte)} (hk : q.kind = .store bs)
    (hx : s.exported q.fctx q.off bs.length 3 .store = none) :
    s.multicastHere q = ((s.exportCharge q.fctx q.off bs.length 3 .store).countRefusal q.src (s.refusal q.fctx),
      s.refusal q.fctx) := by
  simp only [State.multicastHere, hk, hx]

/-- A multicast ends once its own copy has come to this module (03 R70). -/
theorem multicastComplete_ends {s : State} {h : Haul} {b : Box} (done : List Nat)
    (hfind : s.hauls.find? (fun x => x.id == h.id && x.st == .sent && Shadow.op x.fields == 5) = some h)
    (hbox : ((s.ctxOf h.ctx).bind fun c => c.box (Shadow.group h.fields)) = some b)
    (hsent : ∀ e q, (e, Packet.multicast s.mid h.id q) ∉ s.fabric.sent)
    (hheld : ∀ x ∈ s.fabric.held, x.many = true → x.o.haul ≠ some h.id) :
    exec (.multicastComplete h.id done) s = .next (s.multicastEnd h b done) := by
  have hheld' : (s.fabric.held.any fun x => x.many && x.o.haul == some h.id) = false := List.any_eq_false.mpr fun x hx hb => by
    rw [Bool.and_eq_true, beq_iff_eq] at hb
    exact hheld x hx hb.1 hb.2
  simp only [exec_multicastComplete, execMulticastComplete, hfind, hbox, hheld', Bool.false_or]
  refine congrArg Host.Outcome.next (if_neg fun hany => ?_)
  obtain ⟨⟨e, p⟩, hp, hown⟩ := List.any_eq_true.mp hany
  cases p with
  | multicast m x q =>
    simp only [Bool.and_eq_true, beq_iff_eq] at hown
    obtain ⟨rfl, rfl⟩ := hown
    exact hsent e q hp
  | _ => cases hown

section
variable {s : State} {c : Contribution} {x : Ctx} {b : Box} (hon : s.fabricOn = true)
  (henv : s.envOk c.env.src c.env.inc c.env.expect = true) (hctx : s.sharedCtx c.fctx = some x)
  (hbox : x.box c.group = some b) (hkid : c.env.src ∈ b.kids s.mid) (hself : (b.index s.mid).isSome = true)
include hon henv hctx hbox hkid hself

/-- What becomes of a child's contribution to a group that this node is in depends on whether the wait has ended
(03 R71, 21 R355). -/
theorem reductionContribution_ofChild : exec (.reductionContribution c) s =
    if ((s.red x.id c.group c.k).map Reduction.closed).getD false then .next (s.send (.ack c.env.src c.id .unreachable 0))
    else .next (((s.updRed x.id c.group c.k fun r => { r with got := r.got ++ [c] }).send
      (.ack c.env.src c.id .ok 0)).redStep x.id c.group c.k) := by
  have hmember : (!(b.kids s.mid).contains c.env.src || (b.index s.mid).isNone) = false := by
    rw [List.contains_iff_mem.mpr hkid, ← Option.not_isSome, hself]
    rfl
  simp only [exec_reductionContribution, execReductionContribution, hon, henv, hctx, hbox, hmember, Bool.not_true,
    Bool.false_eq_true, if_false]

end

/-- The end of the wait combines what has come (21 R355). -/
theorem reductionTimeout_open {s : State} {r : Reduction} {b : Box} (hr : s.red r.ctx r.group r.k = some r)
    (hopen : r.closed = false) (hbox : ((s.ctxOf r.ctx).bind fun c => c.box r.group) = some b) :
    exec (.reductionTimeout r.ctx r.group r.k) s = .next (s.redClose r b) := by
  simp only [exec_reductionTimeout, execReductionTimeout, hr, hbox, hopen, Bool.false_eq_true, if_false]

end Sys2Proof.Machine

namespace Sys2Proof.Proofs

open Sys2Proof.Machine

/-- Settles O42, clause by clause from what each event does where its condition holds. -/
theorem haulAndCollectiveEvents : Obligations.HaulAndCollectiveEvents := by
  refine ⟨⟨fun s slice h => haulStart_takes, ?complete, ?xfresp, fun s h f => s.endHaul_plain f⟩,
    fun s x c pong => belayTransferHeld_complete, ?deliver, fun s h b done => multicastComplete_ends done, ?contribution,
    fun s r b => reductionTimeout_open⟩
  case complete =>
    intro s h hfind hans
    exact ⟨fun hst hfold => ⟨haulComplete_performs hfind hans hst hfold, fun x => haulComplete_fails hfind hans hst hfold⟩,
      haulComplete_posted hfind hans, haulComplete_sent hfind hans⟩
  case xfresp =>
    intro s h die tok hd ht hfind reg word h1 eval r
    have hput : ∀ v, (s.mcrPut reg v).hauls.find? (fun x => x.st == .waiting tok && sliceDie x.engine == die) = some h :=
      fun v => by rw [State.mcrPut_hauls, hfind]
    refine ⟨congrArg Host.Outcome.next ?_, congrArg Host.Outcome.next ?_, congrArg Host.Outcome.next ?_⟩
    · exact (s.answer_token hd ht (by decide)).trans (by rw [State.xfresp_retry ht (hput _)]; rfl)
    · exact (s.answer_token hd ht (by decide)).trans (by rw [State.xfresp_failXlate ht (hput _)]; rfl)
    · exact (s.answer_token hd ht (by decide)).trans (by rw [State.xfresp_failProt ht (hput _)]; rfl)
  case deliver =>
    intro s q bs hon henv hk
    refine ⟨fun c ps hx => ?_, fun hx => ?_⟩
    · rw [multicastDeliver_passed hon henv, State.multicastHere_store hk hx]
    · rw [multicastDeliver_passed hon henv, State.multicastHere_refused hk hx]
  case contribution =>
    intro s c x b hon henv hctx hbox hkid hself
    rw [reductionContribution_ofChild hon henv hctx hbox hkid hself]
    refine ⟨fun hopen => if_neg ?_, fun hclosed => if_pos ?_⟩
    · rcases hopen with hnone | hopen
      · simp [hnone]
      · simp [hopen]
    · rw [hclosed]; rfl

end Sys2Proof.Proofs
end

section
/-! PROOFS. The statements of 05_number_formats.md: reductions over the tree and scans (O22). The lemmas say once what the tree and the
running sums are as folds, and what an element that em leaves out contributes to them. -/

namespace Sys2Proof.Machine

/-! ### Elements of a width (06 R126, 09 R188) -/

/-- The bits of an element as a signed integer. -/
theorem toSigned_eq_toInt (w n : Nat) : toSigned w n = (BitVec.ofNat w n).toInt := by
  rw [toSigned, BitVec.toInt_eq_toNat_cond, BitVec.toNat_ofNat]
  cases w with
  | zero => simp [Nat.mod_one]
  | succ w =>
    rw [Nat.add_sub_cancel, Nat.pow_succ]
    by_cases h : n % (2 ^ w * 2) < 2 ^ w
    · rw [if_pos h, if_pos (by omega)]
    · rw [if_neg h, if_neg (by omega)]; push_cast; rfl

/-- A width has elements of every type, and at most 128. -/
theorem elems_bounds (w : Width) (dt : ElemType) : 0 < elems w dt ∧ elems w dt ≤ 128 := by
  cases w <;> cases dt <;> decide

/-- The INT types have no floating-point format. -/
theorem fmt_of_isInt {dt : ElemType} (h : dt.isInt = true) (f8 : Nat) : dt.fmt f8 = none := by
  cases dt with
  | i8 | i16 | i32 => rfl
  | bf16 | f16 | f32 | f64 | f8 => cases h

/-- A vector result depends on the elements of its width only. -/
theorem vecOut_congr {r : VReg} {z n : Nat} {act : Nat → Bool} {f g : Nat → Nat} (h : ∀ i < n, f i = g i) :
    vecOut r z n act f = vecOut r z n act g := by
  rw [vecOut, vecOut, List.map_congr_left fun i hi => h i (List.mem_range.mp hi)]

/-- A slot that reads em and one vector register and marks one destination breaks no limit of a bundle. -/
theorem breaksLimits_masked_mark (v : VReg) (w : Bool) (d : Dst) :
    breaksLimits [[.srcEm, .srcV v w, .mark d]] = false :=
  breaksLimits_single (.inl (by simp)) (Nat.zero_le _)

/-! ### The tree (05 R117) -/

section
variable {α : Type} (f : α → α → α)

theorem pairUp_length : ∀ xs : List α, (pairUp f xs).length = (xs.length + 1) / 2
  | [] => by simp [pairUp]
  | [_] => by simp [pairUp]
  | _ :: _ :: xs => by simp only [pairUp, List.length_cons, pairUp_length xs]; omega

variable [hassoc : Std.Associative f] {e : α}
include hassoc

/-- A level of the tree leaves the fold of an associative operation as it is. -/
theorem foldr_pairUp : ∀ xs : List α, (pairUp f xs).foldr f e = xs.foldr f e
  | [] => rfl
  | [_] => by simp [pairUp]
  | a :: b :: xs => by simp only [pairUp, List.foldr_cons, foldr_pairUp xs, hassoc.assoc]

/-- What an identity leaves alone on one level, it leaves alone on the next. -/
theorem pairUp_identity : ∀ {xs : List α}, (∀ x ∈ xs, f x e = x) → ∀ x ∈ pairUp f xs, f x e = x
  | [], _ => by simp [pairUp]
  | [_], h => by simpa [pairUp] using h
  | a :: b :: xs, h => by
    obtain ⟨-, hb, hxs⟩ : f a e = a ∧ f b e = b ∧ ∀ x ∈ xs, f x e = x := by simpa using h
    intro x hx
    rw [pairUp] at hx
    rcases List.mem_cons.mp hx with rfl | hx
    · rw [hassoc.assoc, hb]
    · exact pairUp_identity hxs x hx

/-- The tree over an associative operation is the fold over its elements. -/
theorem tree_eq_foldr (d : α) {fuel : Nat} {xs : List α} (hne : 0 < xs.length) (hlen : xs.length ≤ 2 ^ fuel)
    (hid : ∀ x ∈ xs, f x e = x) : tree f d fuel xs = xs.foldr f e := by
  induction fuel generalizing xs with
  | zero =>
    obtain ⟨x, rfl⟩ := List.length_eq_one_iff.mp (Nat.le_antisymm hlen hne)
    exact (hid x (List.mem_singleton_self x)).symm
  | succ fuel ih =>
    match xs with
    | [x] => exact (hid x (List.mem_singleton_self x)).symm
    | a :: b :: xs =>
      have hhalf := pairUp_length f (a :: b :: xs)
      rw [List.length_cons, List.length_cons] at hhalf hlen
      calc tree f d (fuel + 1) (a :: b :: xs) = tree f d fuel (pairUp f (a :: b :: xs)) := rfl
        _ = (pairUp f (a :: b :: xs)).foldr f e := ih (by omega) (by omega) (pairUp_identity f hid)
        _ = (a :: b :: xs).foldr f e := foldr_pairUp f _

variable [hcomm : Std.Commutative f] (hee : f e e = e)
include hcomm hee

/-- The identity changes no fold that begins with it. -/
theorem identity_foldr (xs : List α) : f e (xs.foldr f e) = xs.foldr f e := by
  induction xs with
  | nil => exact hee
  | cons x xs ih => rw [List.foldr_cons, hcomm.comm, hassoc.assoc, hcomm.comm _ e, ih]

/-- The fold in which the identity stands for the elements left out is the fold over the others. -/
theorem foldr_filter_identity {ι : Type} (on : ι → Bool) (x : ι → α) (is : List ι) :
    (is.map fun i => if on i then x i else e).foldr f e = ((is.filter on).map x).foldr f e := by
  induction is with
  | nil => rfl
  | cons i is ih =>
    by_cases h : on i
    · simp [h, ih]
    · simp [h, ih, identity_foldr f hee]

end

/-! ### Reductions (05 R117, 09 R211) -/

/-- The elements that em enables of the operand of a reduction, as signed integers. -/
def State.enabledInts (s : State) (o : VredOps) : List Int :=
  ((List.range (elems o.w o.dt)).filter (active s.em o.dt.bits)).map fun i =>
    (BitVec.ofNat o.dt.bits (elemAt (s.readV o.va) o.dt.bits i)).toInt

theorem exec_vredsum (o : VredOps) (s : State) : exec (.vredsum o) s =
    reduce (fun f => f.signed true 0) (fun _ => 0) Fmt.addBits (· + ·) o s := rfl

theorem exec_vredmax (o : VredOps) (s : State) : exec (.vredmax o) s =
    reduce (fun f => f.signed true f.infMag) (fun z => -2 ^ (z - 1)) (fun f _ => f.maxBits) max o s := rfl

theorem exec_vredmin (o : VredOps) (s : State) : exec (.vredmin o) s =
    reduce (fun f => f.infMag) (fun z => 2 ^ (z - 1) - 1) (fun f _ => f.minBits) min o s := rfl

section
variable {i : Instr} {o : VredOps} {s : State} {fid : Fmt → Nat} {iid : Nat → Int} {fp : Fmt → Rm → Nat → Nat → Nat}
  {int : Int → Int → Int} (he : ∀ s, exec i s = reduce fid iid fp int o s) (h : s.Issues i)
include he h

/-- A reduction over a floating-point type follows the tree. -/
theorem executes_reduce_fp {f : Fmt} (hf : o.dt.fmt 0 = some f) :
    Executes i s (s.beginX [outS o.sd (BitVec.ofNat 64 (tree (fp f s.rm) 0 8 ((List.range (elems o.w o.dt)).map fun i =>
      if active s.em o.dt.bits i then elemAt (s.readV o.va) o.dt.bits i else fid f)))] none false) :=
  executes_of_slot (us := fun _ => _) he rfl h (breaksLimits_masked_mark _ _ _) (by simp only [hf])

/-- A reduction over integers is the fold over the enabled elements, where the identity changes no element. -/
theorem executes_reduce_int [Std.Associative int] [Std.Commutative int] (hint : o.dt.isInt = true)
    (hee : int (iid o.dt.bits) (iid o.dt.bits) = iid o.dt.bits)
    (hid : ∀ x : BitVec o.dt.bits, int x.toInt (iid o.dt.bits) = x.toInt) :
    Executes i s (s.beginX [outS o.sd (BitVec.ofInt 64 ((s.enabledInts o).foldr int (iid o.dt.bits)))] none false) := by
  refine executes_of_slot (us := fun _ => _) he rfl h (breaksLimits_masked_mark _ _ _) ?_
  obtain ⟨hpos, hle⟩ := elems_bounds o.w o.dt
  simp only [fmt_of_isInt hint, toSigned_eq_toInt]
  rw [tree_eq_foldr int (e := iid o.dt.bits), foldr_filter_identity int hee, State.enabledInts]
  · simpa using hpos
  · simp; omega
  · intro x hx
    obtain ⟨k, -, rfl⟩ := List.mem_map.mp hx
    split
    · exact hid _
    · exact hee

end

/-- No number of `w` bits is below the least one. -/
theorem max_toInt_least {w : Nat} (x : BitVec w) : max x.toInt (-2 ^ (w - 1)) = x.toInt := max_eq_left (BitVec.le_toInt x)

/-- No number of `w` bits is above the largest one. -/
theorem min_toInt_largest {w : Nat} (x : BitVec w) : min x.toInt (2 ^ (w - 1) - 1) = x.toInt :=
  min_eq_left (Int.le_sub_one_of_lt BitVec.toInt_lt)

section
variable {s : State} {o : VredOps} (hint : o.dt.isInt = true)
include hint

/-- VREDSUM over integers gives the exact sum of the enabled elements. -/
theorem executes_vredsum_int (h : s.Issues (.vredsum o)) :
    Executes (.vredsum o) s (s.beginX [outS o.sd (BitVec.ofInt 64 (s.enabledInts o).sum)] none false) := by
  rw [List.sum_eq_foldr]
  exact executes_reduce_int (iid := fun _ => 0) (exec_vredsum o) h hint (Int.add_zero 0) fun x => Int.add_zero x.toInt

/-- VREDMAX over integers gives the largest enabled element, the least number of the type where there is none. -/
theorem executes_vredmax_int (h : s.Issues (.vredmax o)) :
    Executes (.vredmax o) s
      (s.beginX [outS o.sd (BitVec.ofInt 64 ((s.enabledInts o).foldr max (-2 ^ (o.dt.bits - 1))))] none false) :=
  executes_reduce_int (iid := fun z => -2 ^ (z - 1)) (exec_vredmax o) h hint (max_self (-2 ^ (o.dt.bits - 1) : Int))
    max_toInt_least

/-- VREDMIN over integers gives the least enabled element, the largest number of the type where there is none. -/
theorem executes_vredmin_int (h : s.Issues (.vredmin o)) :
    Executes (.vredmin o) s
      (s.beginX [outS o.sd (BitVec.ofInt 64 ((s.enabledInts o).foldr min (2 ^ (o.dt.bits - 1) - 1)))] none false) :=
  executes_reduce_int (iid := fun z => 2 ^ (z - 1) - 1) (exec_vredmin o) h hint (min_self (2 ^ (o.dt.bits - 1) - 1 : Int))
    min_toInt_largest

end

/-! ### Scans (05 R118, 09 R213) -/

/-- A running sum is the fold over the elements up to its own. -/
theorem scanSums_getD {α : Type} (f : α → α → α) {xs : List α} (acc d : α) {j : Nat} (hj : j < xs.length) :
    (scanSums f acc xs).getD j d = (xs.take (j + 1)).foldl f acc := by
  induction xs generalizing acc j with
  | nil => exact absurd hj (Nat.not_lt_zero j)
  | cons x xs ih =>
    cases j with
    | zero => rfl
    | succ j => exact ih (f acc x) (Nat.lt_of_succ_lt_succ hj)

/-- A running sum over the elements in index order. -/
theorem scanSums_range {α : Type} (f : α → α → α) (acc d : α) (x : Nat → α) {n j : Nat} (hj : j < n) :
    (scanSums f acc ((List.range n).map x)).getD j d = (List.range (j + 1)).foldl (fun a k => f a (x k)) acc := by
  rw [scanSums_getD f acc d (by simpa using hj), ← List.map_take, List.take_range, Nat.min_eq_left hj, List.foldl_map]

/-- Sums taken modulo `m` step by step, elements left out adding 0, are the sum of the others modulo `m`. -/
theorem foldl_addMod (m : Nat) (on : Nat → Bool) (x : Nat → Nat) (is : List Nat) (acc : Nat) :
    is.foldl (fun a k => (a + if on k then x k else 0) % m) (acc % m) = (acc + ((is.filter on).map x).sum) % m := by
  induction is generalizing acc with
  | nil => rfl
  | cons i is ih =>
    by_cases h : on i
    · simp [h, ih, Nat.add_assoc]
    · simp [h, ih]

theorem exec_vscan (o : VR1) (s : State) : exec (.vscan o) s = execVscan o s := rfl

section
variable {o : VR1} {s : State} (h : s.Issues (.vscan o))
include h

/-- A scan over integers gives the sums of the enabled elements so far, modulo 2^z. -/
theorem executes_vscan_int (hint : o.dt.isInt = true) :
    Executes (.vscan o) s (s.beginX [vecOut o.vd o.dt.bits (elems o.w o.dt) (active s.em o.dt.bits) fun i =>
      (((List.range (i + 1)).filter (active s.em o.dt.bits)).map (elemAt (s.readV o.va) o.dt.bits)).sum % 2 ^ o.dt.bits]
      none false) := by
  refine executes_of_slot (us := fun _ => _) (exec_vscan o) rfl h (breaksLimits_masked_mark _ _ _) ?_
  simp only [fmt_of_isInt hint]
  rw [vecOut_congr fun i hi => ?_]
  rw [scanSums_range _ 0 0 _ hi]
  simpa using foldl_addMod (2 ^ o.dt.bits) (active s.em o.dt.bits) (elemAt (s.readV o.va) o.dt.bits) (List.range (i + 1)) 0

/-- A scan over a floating-point type adds the elements in index order, the identity for those left out. -/
theorem executes_vscan_fp {f : Fmt} (hf : o.dt.fmt 0 = some f) :
    Executes (.vscan o) s (s.beginX [vecOut o.vd o.dt.bits (elems o.w o.dt) (active s.em o.dt.bits) fun i =>
      (List.range (i + 1)).foldl (fun acc k => f.addBits s.rm acc
        (if active s.em o.dt.bits k then elemAt (s.readV o.va) o.dt.bits k else f.signed true 0)) (f.signed true 0)]
      none false) := by
  refine executes_of_slot (us := fun _ => _) (exec_vscan o) rfl h (breaksLimits_masked_mark _ _ _) ?_
  simp only [hf]
  rw [vecOut_congr fun i hi => scanSums_range _ _ 0 _ hi]

end

end Sys2Proof.Machine

namespace Sys2Proof.Proofs

open Sys2Proof.Machine

/-- Settles O22: sum, maximum and minimum are associative, so that the tree over integers is the fold over the enabled elements; the
running sums are folds over the elements so far. -/
theorem reductionAndScanResults : Obligations.ReductionAndScanResults := by
  refine ⟨fun s o hint => ⟨executes_vredsum_int hint, executes_vredmax_int hint, executes_vredmin_int hint⟩,
    fun s o f hf => ⟨fun h => ?_, fun h => ?_, fun h => ?_⟩,
    fun s o h hint => executes_vscan_int h hint, fun s o f h hf => executes_vscan_fp h hf⟩
  · exact executes_reduce_fp (exec_vredsum o) h hf
  · exact executes_reduce_fp (exec_vredmax o) h hf
  · exact executes_reduce_fp (exec_vredmin o) h hf

end Sys2Proof.Proofs
end

section
/-! PROOFS. The statements of 08_isa_scalar_control.md: slots of the scalar class and integer arithmetic (08 R157 to R160: O1). The
lemmas say once what each form of the class executes as, and that what the model computes another way is what the rows say. -/

namespace Sys2Proof.Machine

/-! ### Slots of the scalar class -/

/-- A use that draws neither lanes nor stochastic words. -/
def Use.scalar : Use → Bool
  | .sto | .lanes _ => false
  | _ => true

/-- Scalar uses draw no lanes. -/
theorem lanesOf_scalar {us : List Use} (h : us.all Use.scalar = true) : lanesOf us = 0 :=
  List.foldlRecOn us _ (motive := fun n => n = 0) rfl fun n hn u hu => by
    have hu := List.all_eq_true.mp h u hu
    cases u <;> simp_all [Use.scalar]

/-- A slot of scalar uses alone in its bundle breaks no limit (06 R130). -/
theorem breaksLimits_scalar {us : List Use} (h : us.all Use.scalar = true) : breaksLimits [us] = false :=
  breaksLimits_single (.inl fun hs => by simpa [Use.scalar] using List.all_eq_true.mp h _ hs)
    ((lanesOf_scalar h).trans_le (Nat.zero_le _))

section
variable {i : Instr} {s : State} {us : List Use} {body : State → Except Stop State}
  (he : ∀ s, exec i s = s.slot us body) (hs : us.all Use.scalar = true) (h : s.Issues i)
include he hs h

/-- A scalar instruction that issues, and whose own execution succeeds, executes. -/
theorem executes_scalar {t : State} (hb : body s = .ok t) : Executes i s t :=
  executes_of_slot (us := fun _ => us) he rfl h (breaksLimits_scalar hs) hb

/-- A scalar instruction that issues, and whose own execution traps, raises that trap. -/
theorem raises_scalar {x : Trap} (hb : body s = .error (.trap x)) : Raises i s x :=
  raises_of_slot (us := fun _ => us) he rfl h (breaksLimits_scalar hs) hb

end

/-- Where an instruction issues, no bundle is being executed. -/
theorem State.Issues.fresh {s : State} {i : Instr} (h : s.Issues i) : s.Fresh := h.2.1

/-! ### Integer arithmetic (08 R157 to R160) -/

section
variable {i : Instr} {s : State}

/-- A three-register instruction executes. -/
theorem executes_alu {n : Nat} {f : Word → Word → Word} {o : RRR} (he : ∀ s, exec i s = alu n f o s) (h : s.Issues i) :
    Executes i s (s.later n (outS o.d (f (s.readS o.a) (s.readS o.b)))) :=
  executes_scalar he rfl h rfl

/-- A two-register instruction executes. -/
theorem executes_alu1 {f : Word → Word} {o : RR} (he : ∀ s, exec i s = alu1 f o s) (h : s.Issues i) :
    Executes i s (s.later 1 (outS o.d (f (s.readS o.a)))) :=
  executes_scalar he rfl h rfl

/-- An immediate instruction executes. -/
theorem executes_aluI {f : Word → Word} {o : RI} (he : ∀ s, exec i s = aluI f o s) (h : s.Issues i) :
    Executes i s (s.later 1 (outS o.d (f (s.readS o.a)))) :=
  executes_scalar he rfl h rfl

/-- A division issues as an operation that will deliver the quotient or the remainder. -/
theorem executes_division {signed quotient : Bool} {o : DivOps} (he : ∀ s, exec i s = division signed quotient o s)
    (h : s.Issues i) :
    let r := divide signed (s.readS o.a) (s.readS o.b)
    Executes i s (s.beginOp .div [outS o.d (if quotient then r.1 else r.2)] false) :=
  executes_scalar he rfl h rfl

end

/-- The high half of an integer's 128 bits is its quotient by 2^64. -/
theorem extractLsb'_ofInt_high (z : Int) : (BitVec.ofInt 128 z).extractLsb' 64 64 = BitVec.ofInt 64 (z / 2 ^ 64) := by
  refine BitVec.eq_of_toNat_eq ?_
  rw [BitVec.extractLsb'_toNat, BitVec.toNat_ofInt, BitVec.toNat_ofInt, Nat.shiftRight_eq_div_pow]
  omega

/-- The high half of the 128-bit product of two signed numbers is their product divided by 2^64. -/
theorem mulh_eq (a b : Word) :
    (a.signExtend 128 * b.signExtend 128).extractLsb' 64 64 = BitVec.ofInt 64 (a.toInt * b.toInt / 2 ^ 64) := by
  rw [BitVec.signExtend, BitVec.signExtend, ← BitVec.ofInt_mul, extractLsb'_ofInt_high]

/-- A rotation is a shift to the left and the bits that leave it (08 R157). -/
theorem rotl_eq (a b : Word) : a <<< shamt b ||| a >>> (64 - shamt b) = a.rotateLeft (b.toNat % 64) := by
  rw [BitVec.rotateLeft, BitVec.rotateLeftAux, Nat.mod_mod, shamt]

theorem min_eq (a b : Word) : (if b.slt a then b else a) = if a.toInt ≤ b.toInt then a else b := by
  simp only [BitVec.slt_iff_toInt_lt, ← Int.not_le, ite_not]

theorem max_eq (a b : Word) : (if a.slt b then b else a) = if b.toInt ≤ a.toInt then a else b := by
  simp only [BitVec.slt_iff_toInt_lt, ← Int.not_le, ite_not]

/-- The bits before the first that is set are as many as its place in the list, or all of them. -/
theorem leading_eq_find? (f : Nat → Bool) (n i : Nat) : i + leading f n i = ((List.range' i n).find? f).getD (i + n) := by
  induction n generalizing i with
  | zero => rfl
  | succ n ih =>
    rw [leading, List.range'_succ, List.find?_cons]
    cases f i with
    | true => rfl
    | false => exact (Nat.add_assoc ..).symm.trans ((ih (i + 1)).trans (by rw [Nat.add_assoc, Nat.add_comm 1]))

/-- The bits before the first that is set, from bit 0 on. -/
theorem leading_zero_eq_find? (f : Nat → Bool) (n : Nat) : leading f n 0 = ((List.range n).find? f).getD n := by
  simpa [List.range_eq_range'] using leading_eq_find? f n 0

/-- The zeros above the highest bit that is set (08 R160). -/
theorem clz_eq (a : Word) :
    leading (fun i => a.getLsbD (63 - i)) 64 0 = if a = 0 then 64 else 63 - a.toNat.log2 := by
  rw [leading_zero_eq_find?]
  split
  case isTrue h =>
    subst h
    rw [List.find?_eq_none.mpr (by simp)]
    rfl
  case isFalse h =>
    have hne : a.toNat ≠ 0 := fun h0 => h (BitVec.eq_of_toNat_eq h0)
    have hlt : a.toNat.log2 < 64 := (Nat.log2_lt hne).mpr a.isLt
    have hfirst : (List.range 64).find? (fun i => a.getLsbD (63 - i)) = some (63 - a.toNat.log2) := by
      refine List.find?_range_eq_some.mpr ⟨?_, List.mem_range.mpr (by omega), fun j hj => ?_⟩
      · rw [show 63 - (63 - a.toNat.log2) = a.toNat.log2 by omega]
        exact Nat.testBit_log2 hne
      · rw [Bool.not_eq_true', BitVec.getLsbD]
        exact Nat.testBit_lt_two_pow ((Nat.log2_lt hne).mp (by omega))
    rw [hfirst]
    rfl

/-- The bits that are set among the first `n` (08 R160). -/
theorem countBits_eq (f : Nat → Bool) (n : Nat) : countBits f n = (List.range n).countP f := by
  induction n with
  | zero => rfl
  | succ n ih =>
    rw [countBits, ih, List.range_succ, List.countP_append, List.countP_singleton]
    cases f n <;> rfl

/-- The signed quotient, rounded toward zero; the one that overflows wraps to its dividend (08 R159). -/
theorem divide_signed_quotient (a b : Word) :
    (divide true a b).1 = if b = 0 then BitVec.allOnes 64 else BitVec.ofInt 64 (a.toInt.tdiv b.toInt) := by
  unfold divide
  split
  · rfl
  · rw [if_pos rfl]
    split
    case isTrue h => rw [h.1, h.2]; decide
    case isFalse => rfl

/-- The signed remainder has the sign of its dividend; that of the quotient that overflows is 0 (08 R159). -/
theorem divide_signed_remainder (a b : Word) :
    (divide true a b).2 = if b = 0 then a else BitVec.ofInt 64 (a.toInt.tmod b.toInt) := by
  unfold divide
  split
  · rfl
  · rw [if_pos rfl]
    split
    case isTrue h => rw [h.1, h.2]; decide
    case isFalse => rfl

theorem divide_unsigned_quotient (a b : Word) :
    (divide false a b).1 = if b = 0 then BitVec.allOnes 64 else BitVec.ofNat 64 (a.toNat / b.toNat) := by
  unfold divide
  split
  · rfl
  · exact (BitVec.ofNat_toNat 64 (a / b)).symm.trans (by rw [BitVec.toNat_udiv])

theorem divide_unsigned_remainder (a b : Word) :
    (divide false a b).2 = if b = 0 then a else BitVec.ofNat 64 (a.toNat % b.toNat) := by
  unfold divide
  split
  · rfl
  · exact (BitVec.ofNat_toNat 64 (a % b)).symm.trans (by rw [BitVec.toNat_umod])

open Sys2Proof.Claims

/-- The rows of 08 R157 are instructions of their latency and result. -/
theorem exec_aluRows : ∀ row ∈ aluRows, ∀ (o : RRR) (s : State), exec (row.1 o) s = alu row.2.1 row.2.2 o s := by
  simp only [aluRows, List.forall_mem_cons, List.not_mem_nil, false_imp_iff, implies_true, and_true]
  exact ⟨fun _ _ => rfl, fun _ _ => rfl, fun _ _ => rfl, fun o s => congrArg (alu 3 · o s) (funext₂ mulh_eq),
    fun _ _ => rfl, fun _ _ => rfl, fun _ _ => rfl, fun _ _ => rfl, fun _ _ => rfl, fun _ _ => rfl,
    fun o s => congrArg (alu 1 · o s) (funext₂ rotl_eq), fun o s => congrArg (alu 1 · o s) (funext₂ min_eq),
    fun o s => congrArg (alu 1 · o s) (funext₂ max_eq)⟩

/-- The rows of 08 R160 are instructions of their result. -/
theorem exec_countRows : ∀ row ∈ countRows, ∀ (o : RR) (s : State),
    exec (row.1 o) s = alu1 (fun a => BitVec.ofNat 64 (row.2 a)) o s := by
  simp only [countRows, List.forall_mem_cons, List.not_mem_nil, false_imp_iff, implies_true, and_true]
  exact ⟨fun o s => congrArg (alu1 · o s) (funext fun a => congrArg (BitVec.ofNat 64) (clz_eq a)),
    fun o s => congrArg (alu1 · o s) (funext fun a => congrArg (BitVec.ofNat 64) (leading_zero_eq_find? a.getLsbD 64)),
    fun o s => congrArg (alu1 · o s) (funext fun a => congrArg (BitVec.ofNat 64) (countBits_eq a.getLsbD 64))⟩

/-- The rows of 08 R158 are instructions of their result. -/
theorem exec_immRows : ∀ row ∈ immRows, ∀ (o : RI) (s : State), exec (row.1 o) s = aluI (row.2 · o.imm) o s := by
  simp only [immRows, List.forall_mem_cons, List.not_mem_nil, false_imp_iff, implies_true, and_true]
  exact ⟨fun _ _ => rfl, fun _ _ => rfl, fun _ _ => rfl, fun _ _ => rfl, fun _ _ => rfl, fun _ _ => rfl, fun _ _ => rfl⟩

/-- A shift by 64 to 511 is no instruction (08 R158). -/
theorem shift_not_wf (o : RI) (h : 64 ≤ o.imm.toNat) :
    (Instr.shli o).wf = false ∧ (Instr.shri o).wf = false ∧ (Instr.sari o).wf = false := by
  have hlt : ¬ o.imm.toNat < 64 := Nat.not_lt.mpr h
  exact ⟨decide_eq_false hlt, decide_eq_false hlt, decide_eq_false hlt⟩

/-- The rows of 08 R159 are divisions that deliver their result. -/
theorem exec_divRows : ∀ row ∈ divRows, ∃ signed quotient : Bool, (∀ (o : DivOps) (s : State),
    exec (row.1 o) s = division signed quotient o s) ∧
      ∀ a b, (if quotient then (divide signed a b).1 else (divide signed a b).2) = row.2 a b := by
  simp only [divRows, List.forall_mem_cons, List.not_mem_nil, false_imp_iff, implies_true, and_true]
  exact ⟨⟨true, true, fun _ _ => rfl, divide_signed_quotient⟩, ⟨false, true, fun _ _ => rfl, divide_unsigned_quotient⟩,
    ⟨true, false, fun _ _ => rfl, divide_signed_remainder⟩, ⟨false, false, fun _ _ => rfl, divide_unsigned_remainder⟩⟩

/-- A division that is outstanding ends, its register filled. -/
theorem scalarDivComplete_found {s : State} {id : Nat} {t : Task} {op : Op} (h : s.findOp id = some (t, op))
    (hk : op.kind = .div) : exec (.scalarDivComplete id) s = .next (s.finishOp t.id op) := by
  rw [exec_scalarDivComplete, execScalarDivComplete, State.completeKind_found h hk]

end Sys2Proof.Machine

namespace Sys2Proof.Proofs

open Sys2Proof.Machine

/-- Settles O1: each row is an instruction of one of the four forms, which execute; the results that the model computes another way
(the high product, the counts, the divisions) agree with those of the rows. -/
theorem integerRegisterResults : Obligations.IntegerRegisterResults := by
  refine ⟨⟨fun row hrow s o h => executes_alu (exec_aluRows row hrow o) h,
    fun row hrow s o h => executes_alu1 (f := fun a => BitVec.ofNat 64 (row.2 a)) (exec_countRows row hrow o) h⟩,
    fun row hrow s o h => executes_aluI (f := (row.2 · o.imm)) (exec_immRows row hrow o) h, shift_not_wf, fun row hrow s o h => ?_,
    fun s id t op h hk => scalarDivComplete_found h hk⟩
  obtain ⟨signed, quotient, he, hresult⟩ := exec_divRows row hrow
  rw [← hresult]
  exact executes_division (he o) h

end Sys2Proof.Proofs
end

section
/-! PROOFS. Compares, predicates, constants, scalar floating point, control registers and masks (08 R161 to R171, R181, R186: O3, O4,
O5). -/

namespace Sys2Proof.Machine

open Sys2Proof.Claims

/-! ### Constants and selects (08 R161, R181, R186) -/

theorem exec_sel (o : SelOps) (s : State) : exec (.sel o) s = execSel o s := rfl
theorem exec_li (o : LiOps) (s : State) : exec (.li o) s = execLi o s := rfl
theorem exec_lsi (o : LiOps) (s : State) : exec (.lsi o) s = execLsi o s := rfl
theorem exec_rdcyc (o : DOnly) (s : State) : exec (.rdcyc o) s = execRdcyc o s := rfl
theorem exec_nop (s : State) : exec .nop s = execNop s := rfl

/-- A word shifted in from below is a sum: the bits do not meet (08 R161). -/
theorem lsi_eq (x : Word) (imm : BitVec 16) : x <<< 16 ||| imm.setWidth 64 = x * 2 ^ 16 + imm.setWidth 64 := by
  have hdisjoint : x <<< 16 &&& imm.setWidth 64 = 0#64 := by
    refine BitVec.eq_of_getLsbD_eq fun i _ => ?_
    by_cases h : i < 16
    · simp [h]
    · simp [BitVec.getLsbD_of_ge imm i (by omega)]
  rw [← BitVec.add_eq_or_of_and_eq_zero _ _ hdisjoint, BitVec.shiftLeft_eq_mul_twoPow]
  rfl

/-! ### Compares (08 R162) -/

theorem exec_cmp (o : CmpOps) (s : State) : exec (.cmp o) s = execCmp o s := rfl
theorem exec_cmpi (o : CmpiOps) (s : State) : exec (.cmpi o) s = execCmpi o s := rfl

/-- A condition of the integer unit on 64 bits is that of its name. -/
theorem holds_iff_intCond (cc : CcI) (x y : Word) : cc.holds x y = true ↔ intCond cc x y := by
  cases cc with
  | eq => exact beq_iff_eq
  | ne | bit => exact bne_iff_ne
  | lt => exact BitVec.slt_iff_toInt_lt
  | ltu => exact BitVec.ult_iff_toNat_lt
  | ge => rw [intCond, ← Int.not_lt, ← BitVec.slt_iff_toInt_lt, Bool.not_eq_true, CcI.holds, Bool.not_eq_true']
  | geu => rw [intCond, ← Nat.not_lt, ← BitVec.ult_iff_toNat_lt, Bool.not_eq_true, CcI.holds, Bool.not_eq_true']

/-- How CMP.w extends an operand for a condition. -/
def cmpExtend (cc : CcI) (x : BitVec 32) : Word := if cc.signed then x.signExtend 64 else x.setWidth 64

/-- A condition on operands of 32 bits is that on their extensions: signed conditions keep the number under sign extension, the others
under zero extension. -/
theorem intCond_cmpExtend (cc : CcI) (x y : BitVec 32) : intCond cc (cmpExtend cc x) (cmpExtend cc y) ↔ intCond cc x y := by
  have hnat (z : BitVec 32) : (z.setWidth 64).toNat = z.toNat := BitVec.toNat_setWidth_of_le (by decide)
  have hint (z : BitVec 32) : (z.signExtend 64).toInt = z.toInt := BitVec.toInt_signExtend_of_le (by decide)
  have hinj (a b : BitVec 32) : a.setWidth 64 = b.setWidth 64 ↔ a = b := by
    rw [← BitVec.toNat_inj, hnat, hnat, BitVec.toNat_inj]
  cases cc with
  | eq => exact hinj x y
  | ne => exact not_congr (hinj x y)
  | lt | ge => simp only [intCond, cmpExtend, CcI.signed, if_true, hint]
  | ltu | geu => simp only [intCond, cmpExtend, CcI.signed, Bool.false_eq_true, if_false, hnat]
  | bit =>
    simp only [intCond, cmpExtend, CcI.signed, Bool.false_eq_true, if_false, ← BitVec.setWidth_and]
    exact not_congr (hinj (x &&& y) 0)

/-- CMP writes its predicate with its condition, on 32 bits in the `.w` form. -/
theorem executes_cmp {s : State} {o : CmpOps} (h : s.Issues (.cmp o)) :
    ∃ b : Bool, Executes (.cmp o) s (s.later 1 (outP o.pd b)) ∧
      (b = true ↔
        if o.w32 then intCond o.cc ((s.readS o.a).setWidth 32) ((s.readS o.b).setWidth 32)
        else intCond o.cc (s.readS o.a) (s.readS o.b)) := by
  refine ⟨_, executes_scalar (exec_cmp o) rfl h rfl, ?_⟩
  cases o.w32 with
  | true => exact (holds_iff_intCond o.cc ..).trans (intCond_cmpExtend o.cc _ _)
  | false => exact holds_iff_intCond o.cc ..

/-! ### Predicates (08 R163, R164) -/

theorem exec_ppack (o : DOnly) (s : State) : exec (.ppack o) s = execPpack o s := rfl
theorem exec_punpack (o : AOnly) (s : State) : exec (.punpack o) s = execPunpack o s := rfl

/-- The rows of 08 R163 are instructions of their result. -/
theorem exec_plogRows : ∀ row ∈ plogRows, ∀ (o : PlogOps) (s : State), exec (row.1 o) s = plog row.2 o s := by
  have hxnor : (fun x y => !(x ^^ y)) = fun a b : Bool => a == b := by decide
  simp only [plogRows, List.forall_mem_cons, List.not_mem_nil, false_imp_iff, implies_true, and_true]
  exact ⟨fun _ _ => rfl, fun _ _ => rfl, fun _ _ => rfl, fun _ _ => rfl, fun _ _ => rfl, fun _ _ => rfl, fun _ _ => rfl,
    fun o s => congrArg (plog · o s) hxnor⟩

/-- A combination of two predicates executes. -/
theorem executes_plog {i : Instr} {s : State} {f : Bool → Bool → Bool} {o : PlogOps} (he : ∀ s, exec i s = plog f o s)
    (h : s.Issues i) : Executes i s (s.later 1 (outP o.pd (f (s.readP o.pa) (s.readP o.pb)))) :=
  executes_scalar he rfl h rfl

/-- PPACK reads every predicate into its bit, p0 as true, and nothing above them. -/
theorem executes_ppack {s : State} {o : DOnly} (h : s.Issues (.ppack o)) :
    ∃ x : Word, Executes (.ppack o) s (s.later 1 (outS o.d x)) ∧ (∀ p : PReg, x.getLsbD p.val = s.readP p) ∧ x.toNat < 256 := by
  refine ⟨_, executes_scalar (exec_ppack o) rfl h rfl, fun p => ?_, ?_⟩
  · have hone : (1 : BitVec 8).getLsbD p.val = (p == 0) := by revert p; decide
    rw [State.readP, BitVec.getLsbD_setWidth, BitVec.getLsbD_or, hone, decide_eq_true (by omega), Bool.true_and, Bool.or_comm]
  · rw [BitVec.toNat_setWidth_of_le (by decide)]
    exact BitVec.isLt _

/-! ### Scalar floating point (08 R165 to R168) -/

theorem exec_ffma (o : FRRR) (s : State) : exec (.ffma o) s = execFfma o s := rfl
theorem exec_fcmp (o : FcmpOps) (s : State) : exec (.fcmp o) s = execFcmp o s := rfl
theorem exec_fdiv (o : FRRR) (s : State) : exec (.fdiv o) s = execFdiv o s := rfl
theorem exec_fsqrt (o : FRR) (s : State) : exec (.fsqrt o) s = execFsqrt o s := rfl
theorem exec_fcvt (o : FcvtOps) (s : State) : exec (.fcvt o) s = execFcvt o s := rfl

/-- The rows of 08 R165 are instructions of their result. -/
theorem exec_fpRows : ∀ row ∈ fpRows, ∀ (o : FRRR) (s : State), exec (row.1 o) s = falu row.2 o s := by
  simp only [fpRows, List.forall_mem_cons, List.not_mem_nil, false_imp_iff, implies_true, and_true]
  exact ⟨fun _ _ => rfl, fun _ _ => rfl, fun _ _ => rfl, fun _ _ => rfl, fun _ _ => rfl⟩

/-- A scalar floating-point instruction of latency 4 executes. -/
theorem executes_falu {i : Instr} {s : State} {f : Fmt → Rm → Nat → Nat → Nat} {o : FRRR} (he : ∀ s, exec i s = falu f o s)
    (h : s.Issues i) : Executes i s (s.later 4 (outS o.d
      (BitVec.ofNat 64 (f o.f.fmt s.rm (s.readS o.a).toNat (s.readS o.b).toNat)))) :=
  executes_scalar he rfl h rfl

/-- A condition of FCMP is that of its name. -/
theorem holds_eq_fpCond (cc : CcF) (x y : FVal) : cc.holds x y = fpCond cc x y := by
  cases cc with
  | eq | ne | lt | le | un => rfl
  | or => exact (Bool.not_or ..).symm

section
variable {s : State} {o : FcvtOps} (h : s.Issues (.fcvt o))
include h

/-- FCVT without an overflow delivers the conversion. -/
theorem executes_fcvt_exact (hc : (cvtScalar o.src o.dst s.rm o.ovf (s.readS o.a).toNat).ovf = false) :
    Executes (.fcvt o) s
      (s.later 4 (outS o.d (BitVec.ofNat 64 (cvtScalar o.src o.dst s.rm o.ovf (s.readS o.a).toNat).bits))) :=
  executes_scalar (exec_fcvt o) rfl h (if_neg (Bool.eq_false_iff.mp hc))

/-- FCVT whose policy handles its overflow delivers the conversion and sets CONVX at commit. -/
theorem executes_fcvt_handled (hc : (cvtScalar o.src o.dst s.rm o.ovf (s.readS o.a).toNat).ovf = true) (hp : o.ovf ≠ .trap) :
    let t := s.later 4 (outS o.d (BitVec.ofNat 64 (cvtScalar o.src o.dst s.rm o.ovf (s.readS o.a).toNat).bits))
    Executes (.fcvt o) s { t with scr := { t.scr with convx := true } } :=
  executes_scalar (exec_fcvt o) rfl h ((if_pos hc).trans (if_neg hp))

/-- FCVT under policy `.trap` raises FP_TRAP on an overflow. -/
theorem raises_fcvt (hc : (cvtScalar o.src o.dst s.rm o.ovf (s.readS o.a).toNat).ovf = true) (hp : o.ovf = .trap) :
    Raises (.fcvt o) s (.now cFpTrap 0) :=
  raises_scalar (exec_fcvt o) rfl h ((if_pos hc).trans (if_pos hp))

end

/-! ### Control registers, fmt and masks (08 R169 to R171) -/

theorem exec_crd (o : DK) (s : State) : exec (.crd o) s = execCrd o s := rfl
theorem exec_cwr (o : AK) (s : State) : exec (.cwr o) s = execCwr o s := rfl
theorem exec_fmtset (o : AX) (s : State) : exec (.fmtset o) s = execFmtset o s := rfl
theorem exec_emsave (o : DOnly) (s : State) : exec (.emsave o) s = execEmsave o s := rfl
theorem exec_emload (o : AOnly) (s : State) : exec (.emload o) s = execEmload o s := rfl
theorem exec_emcomb (o : RR) (s : State) : exec (.emcomb o) s = execEmcomb o s := rfl
theorem exec_cmsave (o : DOnly) (s : State) : exec (.cmsave o) s = execCmsave o s := rfl
theorem exec_cmload (o : AOnly) (s : State) : exec (.cmload o) s = execCmload o s := rfl

/-- CRD of a register that the mode allows delivers its value; a free part of the value of c.WSREF is used up. -/
theorem executes_crd {s : State} {o : DK} (h : s.Issues (.crd o)) (hmode : ctlSupervisor o.k.toNat = true → s.cur.ctl.sv = true) :
    Executes (.crd o) s (if o.k.toNat = 0x013 then (s.later 1 (outS o.d (s.readCtl o.k.toNat))).tookFree
      else s.later 1 (outS o.d (s.readCtl o.k.toNat))) := by
  refine executes_of_slot (exec_crd o) rfl h (breaksLimits_scalar rfl) (if_neg ?_)
  rw [Bool.and_eq_true, Bool.not_eq_true']
  exact fun hdenied => Bool.false_ne_true (hdenied.2.symm.trans (hmode hdenied.1))

/-- CWR of a register that software may write, in a mode that allows it, delivers the value. -/
theorem executes_cwr {s : State} {o : AK} (h : s.Issues (.cwr o)) (hro : ctlReadOnly o.k.toNat = false)
    (hmode : ctlSupervisor o.k.toNat = true ∨ o.k.toNat = 0x012 → s.cur.ctl.sv = true) :
    Executes (.cwr o) s (s.later 1 (outOf (cwrDst o.k.toNat) (s.readS o.a))) := by
  refine executes_of_slot (exec_cwr o) rfl h (breaksLimits_scalar rfl) (if_neg ?_)
  rw [hro, Bool.false_or, Bool.and_eq_true, Bool.or_eq_true, beq_iff_eq, Bool.not_eq_true']
  exact fun hdenied => Bool.false_ne_true (hdenied.2.symm.trans (hmode hdenied.1))

end Sys2Proof.Machine

namespace Sys2Proof.Proofs

open Sys2Proof.Machine

/-- Settles O3: the constants and predicates by their meanings; a shifted word and its low half do not meet, and a `.w` compare is the
compare of the extended operands. -/
theorem compareSelectAndConstantResults : Obligations.CompareSelectAndConstantResults := by
  refine ⟨⟨fun s o h => executes_scalar (exec_sel o) rfl h rfl, fun s o h => executes_scalar (exec_li o) rfl h rfl,
    fun s o h => ?_, fun s o h => executes_scalar (exec_rdcyc o) rfl h rfl, fun s h => executes_scalar exec_nop rfl h rfl⟩,
    fun s o h => executes_cmp h, fun s o h => ⟨_, executes_scalar (exec_cmpi o) rfl h rfl, holds_iff_intCond o.cc ..⟩,
    fun row hrow s o h => executes_plog (exec_plogRows row hrow o) h, fun s o h => executes_ppack h,
    fun s o h => executes_scalar (exec_punpack o) rfl h rfl⟩
  rw [← lsi_eq]
  exact executes_scalar (exec_lsi o) rfl h rfl

/-- Settles O4: each instruction is its meaning, whose results are those of the rows; FCVT by the flag and the policy of its
conversion. -/
theorem scalarFloatingPointResults : Obligations.ScalarFloatingPointResults := by
  refine ⟨⟨fun row hrow s o h => executes_falu (exec_fpRows row hrow o) h,
    fun s o h => executes_scalar (exec_ffma o) rfl h rfl, fun s o h => ?_,
    fun s o h => executes_scalar (exec_fdiv o) rfl h rfl, fun s o h => executes_scalar (exec_fsqrt o) rfl h rfl⟩,
    fun s o h => ⟨executes_fcvt_exact h, executes_fcvt_handled h, raises_fcvt h⟩⟩
  rw [← holds_eq_fpCond]
  exact executes_scalar (exec_fcmp o) rfl h rfl

/-- Settles O5: CRD and CWR pass the checks of their mode; the moves of fmt, em and cm have none. -/
theorem controlRegisterAndMaskResults : Obligations.ControlRegisterAndMaskResults := by
  refine ⟨fun s o h hmode hk => ?_, fun s o h hk => ?_, fun s o h hro hmode => executes_cwr h hro hmode,
    fun s o h => executes_scalar (exec_fmtset o) rfl h rfl, fun s o h => executes_scalar (exec_emsave o) rfl h rfl,
    fun s o h => executes_scalar (exec_emload o) rfl h rfl, fun s o h => executes_scalar (exec_emcomb o) rfl h rfl,
    fun s o h => executes_scalar (exec_cmsave o) rfl h rfl, fun s o h => executes_scalar (exec_cmload o) rfl h rfl⟩
  · have hexec := executes_crd h hmode
    rwa [if_neg hk] at hexec
  · have hfree : ctlSupervisor o.k.toNat = false := by rw [hk]; rfl
    have hexec := executes_crd h fun hsup => absurd hsup (Bool.eq_false_iff.mp hfree)
    rwa [if_pos hk, hk] at hexec

end Sys2Proof.Proofs
end

section
/-! PROOFS. Transfers of control, frames and system transfers (08 R172 to R185: O6, O7), the handler that TRAP, SVC, BRK and RTE enter
and leave (O13, O14), and the parts of KNEXT (O16). -/

namespace Sys2Proof.Machine

open Sys2Proof.Claims

/-! ### Transfers (08 R172 to R175) -/

theorem exec_br (o : BrOps) (s : State) : exec (.br o) s = execBr o s := rfl
theorem exec_call (o : BrOps) (s : State) : exec (.call o) s = execCall o s := rfl
theorem exec_jmp (o : AOnly) (s : State) : exec (.jmp o) s = execJmp o s := rfl
theorem exec_callr (o : AOnly) (s : State) : exec (.callr o) s = execCallr o s := rfl
theorem exec_ret (s : State) : exec .ret s = execRet s := rfl
theorem exec_dbnz (o : DbnzOps) (s : State) : exec (.dbnz o) s = execDbnz o s := rfl

/-- The next bundle of an instruction alone in its bundle (08 R172). -/
theorem State.nextPc_fresh {s : State} (h : s.Fresh) : s.nextPc = s.cur.pc + 4 := by
  rw [State.nextPc, h]
  rfl

/-- The low bits of a word are 0 where the power of two divides it. -/
theorem extractLsb'_eq_zero_iff (x : Word) (n : Nat) : x.extractLsb' 0 n = 0#n ↔ x.toNat % 2 ^ n = 0 := by
  rw [← BitVec.toNat_inj, BitVec.extractLsb'_toNat, Nat.shiftRight_zero]
  rfl

theorem State.jumpTo_aligned (s : State) {a : Word} (h : a.toNat % 4 = 0) : s.jumpTo a = .ok (s.goto a) :=
  if_neg (not_not.mpr ((extractLsb'_eq_zero_iff a 2).mpr h))

theorem State.jumpTo_misaligned (s : State) {a : Word} (h : a.toNat % 4 ≠ 0) : s.jumpTo a = .error (.trap (.now cMisalign a)) :=
  if_pos (mt (extractLsb'_eq_zero_iff a 2).mp h)

/-- CALL, taken, writes lk with the next bundle address. -/
theorem executes_call {s : State} {o : BrOps} (h : s.Issues (.call o)) : Executes (.call o) s
    (if s.readP o.p != o.n then (s.goto (s.cur.pc + 4 * o.off.signExtend 64)).later 1 (outOf .lk (s.cur.pc + 4)) else s) := by
  rw [← State.nextPc_fresh h.fresh]
  exact executes_scalar (exec_call o) rfl h rfl

/-- CALLR to an aligned target writes lk with the next bundle address. -/
theorem executes_callr {s : State} {o : AOnly} (h : s.Issues (.callr o)) (ha : (s.readS o.a).toNat % 4 = 0) :
    Executes (.callr o) s ((s.later 1 (outOf .lk (s.cur.pc + 4))).goto (s.readS o.a)) := by
  rw [← State.nextPc_fresh h.fresh]
  exact executes_scalar (exec_callr o) rfl h (State.jumpTo_aligned _ ha)

/-- DBNZ transfers unless its count has come to 0. -/
theorem executes_dbnz {s : State} {o : DbnzOps} (h : s.Issues (.dbnz o)) :
    let d := s.readS o.d - 1
    let t := s.later 1 (outS o.d d)
    Executes (.dbnz o) s (if d = 0 then t else t.goto (s.cur.pc + 4 * o.off.signExtend 64)) :=
  executes_scalar (exec_dbnz o) rfl h (congrArg Except.ok (ite_not ..))

/-! ### Frames (08 R176, R177) -/

theorem exec_enter (o : FrameOps) (s : State) : exec (.enter o) s = execEnter o s := rfl
theorem exec_leave (o : FrameOps) (s : State) : exec (.leave o) s = execLeave o s := rfl

/-- Whether bytes lie in the task window (04 R89). -/
theorem Task.inWindow_iff (t : Task) (a : Word) (n : Nat) :
    t.inWindow a n = true ↔ t.ctl.spb.toNat ≤ a.toNat ∧ a.toNat + n ≤ t.ctl.spl.toNat := by
  rw [Task.inWindow, Bool.and_eq_true, decide_eq_true_eq, decide_eq_true_eq]

/-- What ENTER and LEAVE ask of the stack pointer is that it is 16-byte aligned. -/
theorem frame_aligned {sp : Word} (h : sp.toNat % 16 = 0) : ¬ sp.extractLsb' 0 4 ≠ 0#4 :=
  not_not.mpr ((extractLsb'_eq_zero_iff sp 4).mpr h)

theorem frame_misaligned {sp : Word} (h : sp.toNat % 16 ≠ 0) : sp.extractLsb' 0 4 ≠ 0#4 :=
  mt (extractLsb'_eq_zero_iff sp 4).mp h

section Enter
variable {s : State} {o : FrameOps} (h : s.Issues (.enter o))

/-- The stack pointer that ENTER makes. -/
def State.spEntered (s : State) (o : FrameOps) : Word := s.cur.regs.sp - BitVec.ofNat 64 (o.imm.toNat * 16)

include h

theorem raises_enter_misaligned (hsp : s.cur.regs.sp.toNat % 16 ≠ 0) :
    Raises (.enter o) s (.now cMisalign s.cur.regs.sp) :=
  raises_scalar (exec_enter o) rfl h (if_pos (frame_misaligned hsp))

variable (hsp : s.cur.regs.sp.toNat % 16 = 0)
include hsp

theorem raises_enter_limit
    (hlim : s.cur.regs.sp.toNat < o.imm.toNat * 16 ∨ (s.spEntered o).toNat < s.cur.ctl.slim.toNat) :
    Raises (.enter o) s (.now cStackLimit (s.spEntered o)) :=
  raises_scalar (exec_enter o) rfl h ((if_neg (frame_aligned hsp)).trans (if_pos hlim))

variable (hsize : o.imm.toNat * 16 ≤ s.cur.regs.sp.toNat) (hslim : s.cur.ctl.slim.toNat ≤ (s.spEntered o).toNat)
include hsize hslim

theorem raises_enter_window (hwin : s.cur.inWindow (s.spEntered o) 8 = false) :
    Raises (.enter o) s (.now cSpBound (s.spEntered o)) :=
  raises_scalar (exec_enter o) rfl h ((if_neg (frame_aligned hsp)).trans
    ((if_neg (not_or.mpr ⟨hsize.not_gt, hslim.not_gt⟩)).trans (if_pos (congrArg not hwin))))

/-- ENTER of a frame that it may make stores lk there, at once or behind the access that holds it back, and lowers sp. -/
theorem executes_enter (hwin : s.cur.inWindow (s.spEntered o) 8 = true) {t : State}
    (ht : (if s.blocked (.pad (padBase s.cur.loc + (s.spEntered o).toNat)) 8
      then s.beginOp
        (.heldWrite (whole (.pad (padBase s.cur.loc + (s.spEntered o).toNat)) 8) (s.cur.regs.lk.setWidth 1024) 0) [] false
      else s.padWrite (padBase s.cur.loc + (s.spEntered o).toNat) ((natLe 8 s.cur.regs.lk.toNat).map some)) = t) :
    Executes (.enter o) s (t.later 1 (outOf .sp (s.spEntered o))) := by
  rw [← ht]
  exact executes_scalar (exec_enter o) rfl h ((if_neg (frame_aligned hsp)).trans
    ((if_neg (not_or.mpr ⟨hsize.not_gt, hslim.not_gt⟩)).trans (if_neg (Bool.eq_false_iff.mp (congrArg not hwin)))))

end Enter

/-- LEAVE finds no fault with the place of its frame. -/
theorem leave_in_window {t : Task} {a : Word} {n : Nat} (hwin : t.inWindow a 8 = true) (hspl : a.toNat + n ≤ t.ctl.spl.toNat) :
    ¬ ((!t.inWindow a 8) = true ∨ t.ctl.spl.toNat < a.toNat + n) := by
  rw [hwin, Bool.not_true, Bool.false_eq_true, false_or]
  exact hspl.not_gt

section Leave
variable {s : State} {o : FrameOps} (h : s.Issues (.leave o))
include h

theorem raises_leave_misaligned (hsp : s.cur.regs.sp.toNat % 16 ≠ 0) :
    Raises (.leave o) s (.now cMisalign s.cur.regs.sp) :=
  raises_scalar (exec_leave o) rfl h (if_pos (frame_misaligned hsp))

variable (hsp : s.cur.regs.sp.toNat % 16 = 0)
include hsp

theorem raises_leave_window
    (hwin : ¬ (s.cur.inWindow s.cur.regs.sp 8 = true ∧ s.cur.regs.sp.toNat + o.imm.toNat * 16 ≤ s.cur.ctl.spl.toNat)) :
    Raises (.leave o) s (.now cSpBound s.cur.regs.sp) := by
  refine raises_scalar (exec_leave o) rfl h ((if_neg (frame_aligned hsp)).trans (if_pos ?_))
  rw [Bool.not_eq_true', ← Bool.not_eq_true, ← Nat.not_le]
  exact not_and_or.mp hwin

variable (hwin : s.cur.inWindow s.cur.regs.sp 8 = true)
  (hspl : s.cur.regs.sp.toNat + o.imm.toNat * 16 ≤ s.cur.ctl.spl.toNat)
  (hstall : s.mustStall (.pad (padBase s.cur.loc + s.cur.regs.sp.toNat)) 8 = false)
include hwin hspl hstall

theorem raises_leave_poison (hpsn : s.poisoned (padBase s.cur.loc + s.cur.regs.sp.toNat) = true) :
    Raises (.leave o) s (.now cPoison (s.freeVal 64)) :=
  raises_scalar (exec_leave o) rfl h ((if_neg (frame_aligned hsp)).trans ((if_neg (leave_in_window hwin hspl)).trans
    ((if_neg (Bool.eq_false_iff.mp hstall)).trans (if_pos hpsn))))

/-- LEAVE of a frame that it finds good loads lk and raises sp. -/
theorem executes_leave (hpsn : s.poisoned (padBase s.cur.loc + s.cur.regs.sp.toNat) = false) :
    Executes (.leave o) s
      ((s.later 1 (outOf .lk (BitVec.ofNat 64 (leNat (s.bytesSeen (padBase s.cur.loc + s.cur.regs.sp.toNat) 8))))).later 1
        (outOf .sp (s.cur.regs.sp + BitVec.ofNat 64 (o.imm.toNat * 16)))) :=
  executes_scalar (exec_leave o) rfl h ((if_neg (frame_aligned hsp)).trans ((if_neg (leave_in_window hwin hspl)).trans
    ((if_neg (Bool.eq_false_iff.mp hstall)).trans (if_neg (Bool.eq_false_iff.mp hpsn)))))

end Leave

/-- Where no store of the bundle itself is held, a slot sees the bytes of memory. -/
theorem State.bytesSeen_earlier {s : State} (h : ∀ op ∈ s.cur.ops, s.earlier op = true) (pa n : Nat) :
    s.bytesSeen pa n = s.bytes pa n := by
  have hnone : s.cur.ops.filter (fun o => !s.earlier o) = [] :=
    List.filter_eq_nil_iff.mpr fun op hop => by rw [h op hop]; decide
  simp [State.bytesSeen, hnone, List.zipIdx_map_fst]

/-! ### System transfers (08 R178 to R185) -/

theorem exec_trap (o : KOnly) (s : State) : exec (.trap o) s = execTrap o s := rfl
theorem exec_svc (o : KOnly) (s : State) : exec (.svc o) s = execSvc o s := rfl
theorem exec_brk (o : KOnly) (s : State) : exec (.brk o) s = execBrk o s := rfl
theorem exec_rte (s : State) : exec .rte s = execRte s := rfl
theorem exec_halt (s : State) : exec .halt s = execHalt s := rfl
theorem exec_texit (s : State) : exec .texit s = execTexit s := rfl
theorem exec_knext (s : State) : exec .knext s = execKnext s := rfl
theorem exec_tspawn (o : RR) (s : State) : exec (.tspawn o) s = execTspawn o s := rfl
theorem exec_etchmark (o : AK) (s : State) : exec (.etchmark o) s = execEtchmark o s := rfl

/-- TRAP, SVC and BRK have their code as the cause of the trap that follows their bundle (08 R178). -/
theorem exec_trapRows : ∀ row ∈ ([(.trap, 0x14), (.svc, 0x13), (.brk, 0x12)] : List ((KOnly → Instr) × Nat)),
    ∀ (o : KOnly) (s : State),
      exec (row.1 o) s = s.slot [.ctl] fun s => .ok (s.thenDo (.trap row.2 s.scr.slot (o.k.setWidth 64))) := by
  simp only [List.forall_mem_cons, List.not_mem_nil, false_imp_iff, implies_true, and_true]
  exact ⟨exec_trap, exec_svc, exec_brk⟩

/-- An instruction that only traps once its bundle has committed does so from slot 0. -/
theorem executes_trapAfter {i : Instr} {s : State} {c : Nat} {e : Word}
    (he : ∀ s, exec i s = s.slot [.ctl] fun s => .ok (s.thenDo (.trap c s.scr.slot e))) (h : s.Issues i) :
    Executes i s (s.thenDo (.trap c 0 e)) := by
  have hslot : s.scr.slot = 0 := by rw [h.fresh]; rfl
  exact executes_scalar he rfl h (by rw [hslot])

/-- KNEXT, at its end a synchronisation as well, goes on when its bundle has committed. -/
theorem executes_knext {s : State} (h : s.Issues .knext) : Executes .knext s (s.thenDo .knext) := by
  refine executes_of_slot exec_knext rfl h (breaksLimits_scalar ?_) rfl
  split <;> rfl

/-- A TSPAWN behind no earlier acquire or write is performed: a release, and its record waits for the dispatcher (08 R184). -/
theorem State.spawnGo_first {s : State} {t : Task} {op : Op} {va : Word} (hk : op.kind = .spawn va false)
    (hfirst : ∀ o ∈ t.ops, o.id < op.id → o.holds = false ∧ o.writes = false) :
    ∃ u : State, s.spawnGo t op = { u with subs := u.subs ++ [⟨t.ctx, va, .spawn t.id op.id⟩] } ∧
      u = (s.flushCtx t.loc t.ctx).updOp t.id { op with kind := .spawn va true } := by
  have hany : (t.ops.any fun o => o.id < op.id && (o.holds || o.writes)) = false := List.any_eq_false.mpr fun o ho hx => by
    rw [Bool.and_eq_true, decide_eq_true_eq] at hx
    obtain ⟨hholds, hwrites⟩ := hfirst o ho hx.1
    rw [hholds, hwrites] at hx
    exact Bool.false_ne_true hx.2
  exact ⟨_, by rw [State.spawnGo, hk]; exact if_neg (Bool.eq_false_iff.mp hany), rfl⟩

section
variable {s : State} {o : RR} (h : s.Issues (.tspawn o))
include h

/-- TSPAWN of an aligned record issues where the log takes its event. -/
theorem executes_tspawn (ha : (s.readS o.a).toNat % 64 = 0) (hlog : s.etchReady 0x0E 0 (s.readS o.a) .none none = .ok ()) :
    Executes (.tspawn o) s (((s.beginOp (.spawn (s.readS o.a) false) [outS o.d 0] false).reserveOp).lastGo State.spawnGo) := by
  refine executes_scalar (exec_tspawn o) rfl h ((if_neg (not_not.mpr ((extractLsb'_eq_zero_iff _ 6).mpr ha))).trans ?_)
  rw [hlog]

theorem raises_tspawn (ha : (s.readS o.a).toNat % 64 ≠ 0) : Raises (.tspawn o) s (.now cMisalign (s.readS o.a)) :=
  raises_scalar (exec_tspawn o) rfl h (if_pos (mt (extractLsb'_eq_zero_iff _ 6).mp ha))

end

/-- ETCHMARK leaves its record where the log takes its event (08 R185). -/
theorem executes_etchmark {s : State} {o : AK} (h : s.Issues (.etchmark o))
    (hlog : s.etchReady 0x0F 0 (o.k.setWidth 64) .none (some (s.readS o.a)) = .ok ()) :
    Executes (.etchmark o) s (s.etchDone s.cur.id 0x0F 0 (o.k.setWidth 64) (s.readS o.a) .none none).1 :=
  executes_scalar (exec_etchmark o) rfl h (by simp only [hlog])

/-! ### Handlers (08 R178, R179; 20 R337) -/

/-- A bundle of one slot that traps once it has committed enters its handler, the next bundle in c.EPC. -/
theorem State.commit_thenDo_trap {s : State} (h : s.Fresh) (hh : s.noHandler = false) (c : Nat) (e : Word) :
    (s.thenDo (.trap c 0 e)).commit = s.setCur fun k =>
      k.enter (BitVec.ofNat 64 c) e (k.pc + 4) none (k.pend.map fun p => { p with rem := p.rem - 1 }) := by
  rw [State.Fresh] at h
  have hcause : (Trap.now c e).causeWord 0 = BitVec.ofNat 64 c := by simp [Trap.causeWord, Trap.now]
  simp only [State.noHandler, State.myCtx, State.ctxOf] at hh
  simp only [State.commit, State.thenDo, State.setCtl, State.setCur, State.trapAfter, State.noHandler, State.myCtx, State.ctxOf,
    hh, hcause]
  rw [h]
  simp [Scratch.clean]

/-- A bundle of one slot that returns from its handler does so once it has committed. -/
theorem State.commit_thenDo_rte {s : State} (h : s.Fresh) : (s.thenDo .rte).commit = s.setCur Task.rte := by
  rw [State.Fresh] at h
  simp only [State.commit, State.thenDo, State.setCtl, State.setCur]
  rw [h]
  simp [Scratch.clean]

/-- Outside a handler, in a context that has one, a trap enters it. -/
theorem State.noHandler_eq_false {s : State} (hin : s.cur.ctl.intrap = false) (htv : s.myCtx.tvec ≠ 0) : s.noHandler = false := by
  rw [State.noHandler, hin, Bool.false_or]
  exact beq_false_of_ne htv

/-- RTE alone in its bundle, in a handler, returns from it. -/
theorem exec_rte_handler {s : State} (h : s.Fresh) (hsv : s.cur.ctl.sv = true) (hin : s.cur.ctl.intrap = true) :
    exec .rte s = .next (s.setCur Task.rte) := by
  have hready : s.Ready [.ctl, .illegalIf (s.cur.ctl.sv && !s.cur.ctl.intrap)] := ⟨h, by simp [State.readyFor, hin]⟩
  rw [← State.commit_thenDo_rte h]
  exact (exec_rte s).trans (slot_ok hready (breaksLimits_scalar rfl) (if_pos hsv))

/-- RTE with no result of the handler pending, and no held one due, resumes the held results (08 R179). -/
theorem Task.rte_resumes {t : Task} (hp : t.pend = []) (hh : ∀ p ∈ t.held, p.rem ≠ 0) :
    t.rte = { t with
      pc := t.ctl.epc, pend := t.held, held := [], ctl := { t.ctl with intrap := false, sv := t.ctl.psv } } := by
  have hdue : t.held.filter (fun p => p.rem == 0) = [] := List.filter_eq_nil_iff.mpr fun p hm => by simpa using hh p hm
  have hrest : t.held.filter (fun p => p.rem != 0) = t.held := List.filter_eq_self.mpr fun p hm => by simpa using hh p hm
  simp [Task.rte, hp, dueOrder, sortBy, hdue, hrest]

/-! ### KNEXT (08 R182) -/

/-- KNEXT changes no register. -/
theorem Task.knext_regs (t : Task) : t.knext.regs = t.regs := by
  unfold Task.knext Task.ended
  cases t.part with
  | prologue | kernel => dsimp only; split_ifs <;> rfl
  | epilogue => rfl

section
variable {t : Task} (hpre : t.preempt = false)
include hpre

theorem Task.knext_enters_kernel (hp : t.part = .prologue) (htrip : t.ctl.trip ≠ 0) :
    t.knext = { t with part := .kernel, pc := t.loop.kernel, ctl := { t.ctl with wdcnt := 0 } } := by
  simp only [Task.knext, hpre, hp, htrip, Bool.false_and, Bool.false_eq_true, if_false]

theorem Task.knext_skips_kernel (hp : t.part = .prologue) (htrip : t.ctl.trip = 0) (hepi : t.loop.epilogue ≠ 0) :
    t.knext = { t with part := .epilogue, pc := t.loop.epilogue, ctl := { t.ctl with wdcnt := 0 } } := by
  simp only [Task.knext, hpre, hp, htrip, hepi, if_true, Bool.false_and, Bool.false_eq_true, if_false]

theorem Task.knext_repeats_kernel (hp : t.part = .kernel) (hiter : t.ctl.iter + 1 ≠ t.ctl.trip) :
    t.knext = { t with pc := t.loop.kernel, ctl := { t.ctl with iter := t.ctl.iter + 1, wdcnt := 0 } } := by
  simp only [Task.knext, hpre, hp, hiter, Bool.false_and, Bool.false_eq_true, if_false]

theorem Task.knext_leaves_kernel (hp : t.part = .kernel) (hiter : t.ctl.iter + 1 = t.ctl.trip) (hepi : t.loop.epilogue ≠ 0) :
    t.knext = { t with
      part := .epilogue, pc := t.loop.epilogue, ctl := { t.ctl with iter := t.ctl.trip, wdcnt := 0 } } := by
  simp only [Task.knext, hpre, hp, hiter, hepi, if_true, Bool.false_and, Bool.false_eq_true, if_false]

end

/-- KNEXT behind the last part ends the task. -/
theorem Task.knext_ends {t : Task} (h : t.knextEnds = true) : t.knext.status = .ending := by
  unfold Task.knextEnds at h
  cases hp : t.part with
  | prologue =>
    rw [hp, Bool.and_eq_true, beq_iff_eq, beq_iff_eq] at h
    simp only [Task.knext, hp, h, if_true, Task.ended]
  | kernel =>
    rw [hp, Bool.and_eq_true, beq_iff_eq, beq_iff_eq] at h
    simp only [Task.knext, hp, h, if_true, Task.ended]
  | epilogue => simp only [Task.knext, hp, Task.ended]

end Sys2Proof.Machine

namespace Sys2Proof.Proofs

open Sys2Proof.Machine

/-- Settles O6: transfers by their meanings; ENTER and LEAVE by the first of their checks that fails, else by their effect. -/
theorem transferResults : Obligations.TransferResults := by
  refine ⟨⟨fun s o h => executes_scalar (exec_br o) rfl h rfl, fun s o h => executes_call h,
    fun s o h => ⟨fun ha => executes_scalar (exec_jmp o) rfl h (s.jumpTo_aligned ha),
      fun ha => raises_scalar (exec_jmp o) rfl h (s.jumpTo_misaligned ha)⟩,
    fun s o h => ⟨executes_callr h, fun ha => raises_scalar (exec_callr o) rfl h (State.jumpTo_misaligned _ ha)⟩,
    fun s h => ⟨fun ha => executes_scalar exec_ret rfl h (s.jumpTo_aligned ha),
      fun ha => raises_scalar exec_ret rfl h (s.jumpTo_misaligned ha)⟩,
    fun s o h => executes_dbnz h⟩, fun s o h => ?_, fun s o h => ?_⟩
  · refine ⟨raises_enter_misaligned h, raises_enter_limit h, fun hsp hsize hslim => ⟨fun hwin => ?_, fun hspb hspl => ?_⟩⟩
    · exact raises_enter_window h hsp hsize hslim (Bool.eq_false_iff.mpr (mt (Task.inWindow_iff ..).mp hwin))
    · have hwin := (Task.inWindow_iff s.cur (s.spEntered o) 8).mpr ⟨hspb, hspl⟩
      exact ⟨fun hb => executes_enter h hsp hsize hslim hwin (if_neg (Bool.eq_false_iff.mp hb)),
        fun hb => executes_enter h hsp hsize hslim hwin (if_pos hb)⟩
  · refine ⟨raises_leave_misaligned h, fun hsp hwin => raises_leave_window h hsp fun hin => hwin ?_,
      fun hsp hspb h8 hspl hstall => ?_⟩
    · obtain ⟨hspb, h8⟩ := (Task.inWindow_iff ..).mp hin.1
      exact ⟨hspb, h8, hin.2⟩
    · have hwin := (Task.inWindow_iff s.cur s.cur.regs.sp 8).mpr ⟨hspb, h8⟩
      exact ⟨raises_leave_poison h hsp hwin hspl hstall, executes_leave h hsp hwin hspl hstall,
        fun hops => congrArg leNat (State.bytesSeen_earlier hops _ 8)⟩

/-- Settles O7: each is its meaning under the mode, the alignment and the room in the log that it asks for; what it does after its
commit is noted in the bundle. -/
theorem systemTransfers : Obligations.SystemTransfers :=
  ⟨⟨fun _ o h => executes_trapAfter (exec_trap o) h, fun _ o h => executes_trapAfter (exec_svc o) h,
    fun _ o h => executes_trapAfter (exec_brk o) h,
    fun _ h hsv => executes_of_slot exec_rte rfl h (breaksLimits_scalar rfl) (if_pos hsv),
    fun _ h hsv => executes_scalar exec_halt rfl h (if_pos hsv), fun _ h => executes_scalar exec_texit rfl h rfl,
    fun _ h => executes_knext h⟩,
    fun _ _ h ha hlog => executes_tspawn h ha hlog, fun _ _ _ _ hk hfirst => State.spawnGo_first hk hfirst,
    fun _ _ h ha => raises_tspawn h ha, fun _ _ h hlog => executes_etchmark h hlog⟩

/-- Settles O13: the three execute, and their commit enters the handler. -/
theorem svcEntersTheHandler : Obligations.SvcEntersTheHandler := by
  intro row hrow s o h hin htv
  exact ⟨_, (executes_trapAfter (exec_trapRows row hrow o) h).trans
    (congrArg _ (State.commit_thenDo_trap h.fresh (State.noHandler_eq_false hin htv) row.2 _)),
    rfl, rfl, rfl, rfl, rfl, rfl, rfl, rfl, rfl⟩

/-- Settles O14: entering the handler holds the pending results and saves the pc and the mode; RTE finds them as they were. -/
theorem returnFromTrap : Obligations.ReturnFromTrap := by
  intro s c e h hin htv hrun hpend
  rw [State.takeTrap_now c 0 e (State.noHandler_eq_false hin htv)]
  refine ⟨_, exec_rte_handler h rfl rfl, ?_⟩
  rw [State.setCur_cur, Task.rte_resumes rfl hpend]
  exact ⟨rfl, rfl, rfl, rfl, rfl, rfl, rfl⟩

/-- Settles O16: the next part by the part, c.TRIP and c.ITER. -/
theorem knextParts : Obligations.KnextParts := by
  refine fun t hpre => ⟨fun hp htrip => ?_, fun hp htrip hepi => ?_, fun hp hiter => ?_, fun hp hiter hepi => ?_, Task.knext_ends,
    t.knext_regs⟩
  · rw [Task.knext_enters_kernel hpre hp htrip]
    exact ⟨rfl, rfl, rfl⟩
  · rw [Task.knext_skips_kernel hpre hp htrip hepi]
    exact ⟨rfl, rfl⟩
  · rw [Task.knext_repeats_kernel hpre hp hiter]
    exact ⟨rfl, hp, rfl⟩
  · rw [Task.knext_leaves_kernel hpre hp hiter hepi]
    exact ⟨rfl, rfl, rfl⟩

end Sys2Proof.Proofs
end

section
/-! PROOFS. The statements of 09_isa_vector_special.md, the V class: arithmetic, immediates and moves (O18). The lemmas say once
what a masked slot executes as, and what the model computes on the numbers of elements as an operation on their bits. -/

namespace Sys2Proof.Machine

open Sys2Proof.Claims

/-! ### Slots that draw lanes (06 R130, 09 R188) -/

/-- The lanes that a use draws. -/
def Use.drawn : Use → Nat
  | .lanes n => n
  | _ => 0

theorem lanesOf_eq_sum (us : List Use) : lanesOf us = (us.map Use.drawn).sum := by
  rw [List.sum_eq_foldl, List.foldl_map]
  exact congrArg (List.foldl · 0 us) (funext₂ fun n u => by cases u <;> rfl)

/-- Lanes are drawn by the one use that says so. -/
theorem lanesOf_append_lanes {us vs : List Use} (hu : us.all Use.scalar = true) (hv : vs.all Use.scalar = true) (n : Nat) :
    lanesOf (us ++ .lanes n :: vs) = n := by
  rw [lanesOf_eq_sum, List.map_append, List.map_cons, List.sum_append, List.sum_cons, ← lanesOf_eq_sum, ← lanesOf_eq_sum,
    lanesOf_scalar hu, lanesOf_scalar hv, Nat.zero_add]
  rfl

/-- A slot that draws the lanes of one vector width breaks no limit of a bundle. -/
theorem breaksLimits_lanes {us vs : List Use} {n : Nat} (hu : us.all Use.scalar = true) (hv : vs.all Use.scalar = true)
    (hn : n ≤ 2048) : breaksLimits [us ++ .lanes n :: vs] = false := by
  refine breaksLimits_single (.inl fun hs => ?_) ((lanesOf_append_lanes hu hv n).trans_le hn)
  rcases List.mem_append.mp hs with hs | hs
  · simpa [Use.scalar] using List.all_eq_true.mp hu _ hs
  · rcases List.mem_cons.mp hs with hs | hs
    · cases hs
    · simpa [Use.scalar] using List.all_eq_true.mp hv _ hs

theorem width_bits_le (w : Width) : w.bits ≤ 2048 := by cases w <;> decide

section
variable {i : Instr} {s : State} {us vs : List Use} {n : Nat} {body : State → Except Stop State}
  (he : ∀ s, exec i s = s.slot (us ++ .lanes n :: vs) body) (hu : us.all Use.scalar = true) (hv : vs.all Use.scalar = true)
  (hn : n ≤ 2048) (h : s.Issues i)
include he hu hv hn h

/-- A vector instruction that issues, and whose own execution succeeds, executes. -/
theorem executes_lanes {t : State} (hb : body s = .ok t) : Executes i s t :=
  executes_of_slot (us := fun _ => _) he rfl h (breaksLimits_lanes hu hv hn) hb

/-- A vector instruction that issues, and whose own execution traps, raises that trap. -/
theorem raises_lanes {x : Trap} (hb : body s = .error (.trap x)) : Raises i s x :=
  raises_of_slot (us := fun _ => _) he rfl h (breaksLimits_lanes hu hv hn) hb

end

/-- The check of an f8 element type draws no lanes. -/
theorem scalar_f8 (dt : ElemType) : (if dt = .f8 then [Use.f8] else []).all Use.scalar = true := by split <;> rfl

section
variable {i : Instr} {s t : State} {us : List Use} {w : Width} {dt : ElemType} {body : State → Except Stop State}
  (hu : us.all Use.scalar = true) (h : s.Issues i) (hb : body s = .ok t)
include hu h hb

/-- A slot of a vector width and an element type executes. -/
theorem executes_vec {vs : List Use} (he : ∀ s, exec i s = s.slot (us ++ (vecUses w dt ++ vs)) body)
    (hv : vs.all Use.scalar = true) : Executes i s t :=
  executes_lanes he hu ((List.all_append ..).trans (by rw [scalar_f8, hv]; rfl)) (width_bits_le w) h hb

/-- The same where the width and the element type come last. -/
theorem executes_vec_last (he : ∀ s, exec i s = s.slot (us ++ vecUses w dt) body) : Executes i s t :=
  executes_lanes he hu (scalar_f8 dt) (width_bits_le w) h hb

end

/-! ### Elements as bit vectors (09 R188, R190) -/

theorem lane_eq (x : VWord) (z i : Nat) : lane x z i = x.extractLsb' (z * i) z := by
  rw [lane, elemAt, BitVec.ofNat_toNat, BitVec.setWidth_eq]

/-- The number of an element is that of its bits. -/
theorem elemAt_eq (x : VWord) (z i : Nat) : elemAt x z i = (lane x z i).toNat := congrArg BitVec.toNat (lane_eq x z i).symm

theorem elemAt_lt (x : VWord) (z i : Nat) : elemAt x z i < 2 ^ z := BitVec.isLt _

theorem intBits_eq (z : Nat) (x : Int) : intBits z x = (BitVec.ofInt z x).toNat := by
  rw [intBits, BitVec.toNat_ofInt, Nat.cast_pow]; rfl

theorem toSigned_elemAt (x : VWord) (z i : Nat) : toSigned z (elemAt x z i) = (lane x z i).toInt := toSigned_eq_toInt ..

/-- Only the low bits of the results reach a vector register. -/
theorem packElems_congr {z : Nat} {f g : Nat → Nat} {is : List Nat} (h : ∀ i ∈ is, f i % 2 ^ z = g i % 2 ^ z) :
    packElems z (is.map f) = packElems z (is.map g) := by
  induction is with
  | nil => rfl
  | cons i is ih =>
    obtain ⟨hi, his⟩ := List.forall_mem_cons.mp h
    rw [List.map_cons, List.map_cons, packElems, packElems, hi, ih his]

/-- A masked result depends on the bits of its elements only. -/
theorem masked_eq_of_bits {s : State} {vd : VReg} {w : Width} {dt : ElemType} {f : Nat → Nat} {g : Nat → BitVec dt.bits}
    (h : ∀ i, BitVec.ofNat dt.bits (f i) = g i) : masked s vd w dt f = masked s vd w dt fun i => (g i).toNat := by
  have hmod : ∀ i, f i % 2 ^ dt.bits = (g i).toNat % 2 ^ dt.bits := fun i => by rw [← h, BitVec.toNat_ofNat, Nat.mod_mod]
  rw [masked, masked, vecOut, vecOut, packElems_congr fun i _ => hmod i]

section
variable {i : Instr} {s : State} {us : List Use} {lat : Nat} {vd : VReg} {w : Width} {dt : ElemType} {f : State → Nat → Nat}
  (he : ∀ s, exec i s = vmasked us lat vd w dt f s) (hs : us.all Use.scalar = true) (h : s.Issues i)
include he hs h

/-- A masked instruction executes, each element by what it computes. -/
theorem executes_vmasked {g : Nat → Nat} (hg : ∀ k, f s k = g k) : Executes i s (s.later lat (masked s vd w dt g)) := by
  rw [← funext hg]
  exact executes_vec (us := [_, _]) rfl h rfl he hs

/-- A masked instruction executes, each element by the bits of what it computes. -/
theorem executes_vmasked_bits {g : Nat → BitVec dt.bits} (hg : ∀ k, BitVec.ofNat dt.bits (f s k) = g k) :
    Executes i s (s.later lat (masked s vd w dt fun k => (g k).toNat)) := by
  rw [← masked_eq_of_bits hg]
  exact executes_vmasked he hs h fun _ => rfl

end

/-! ### Operations on the bits of elements (09 R191) -/

section
variable {z : Nat} (a b : BitVec z) (k : Nat)

theorem ofNat_intBits (x : Int) : BitVec.ofNat z (intBits z x) = BitVec.ofInt z x := by
  rw [intBits_eq, BitVec.ofNat_toNat, BitVec.setWidth_eq]

theorem toSigned_toNat : toSigned z a.toNat = a.toInt := by
  rw [toSigned_eq_toInt, BitVec.ofNat_toNat, BitVec.setWidth_eq]

theorem ofNat_and : BitVec.ofNat z (a.toNat &&& b.toNat) = a &&& b := by
  rw [← BitVec.toNat_and, BitVec.ofNat_toNat, BitVec.setWidth_eq]

theorem ofNat_or : BitVec.ofNat z (a.toNat ||| b.toNat) = a ||| b := by
  rw [← BitVec.toNat_or, BitVec.ofNat_toNat, BitVec.setWidth_eq]

theorem ofNat_xor : BitVec.ofNat z (a.toNat ^^^ b.toNat) = a ^^^ b := by
  rw [← BitVec.toNat_xor, BitVec.ofNat_toNat, BitVec.setWidth_eq]

theorem ofNat_complement : BitVec.ofNat z (2 ^ z - 1 - a.toNat) = ~~~a := by
  rw [← BitVec.toNat_not, BitVec.ofNat_toNat, BitVec.setWidth_eq]

theorem ofNat_mul_two_pow : BitVec.ofNat z (a.toNat * 2 ^ k) = a <<< k := by
  refine BitVec.eq_of_toNat_eq ?_
  rw [BitVec.toNat_ofNat, BitVec.toNat_shiftLeft, Nat.shiftLeft_eq]

theorem ofNat_div_two_pow : BitVec.ofNat z (a.toNat / 2 ^ k) = a >>> k := by
  rw [← Nat.shiftRight_eq_div_pow, ← BitVec.toNat_ushiftRight, BitVec.ofNat_toNat, BitVec.setWidth_eq]

theorem ofNat_sar : BitVec.ofNat z (intBits z (toSigned z a.toNat / 2 ^ k)) = a.sshiftRight k := by
  rw [ofNat_intBits, toSigned_toNat, BitVec.sshiftRight, Int.shiftRight_eq_div_pow]; rfl

theorem ofNat_minu : BitVec.ofNat z (min a.toNat b.toNat) = if a.toNat ≤ b.toNat then a else b := by
  rw [min_def]
  split <;> rw [BitVec.ofNat_toNat, BitVec.setWidth_eq]

theorem ofNat_maxu : BitVec.ofNat z (max a.toNat b.toNat) = if b.toNat ≤ a.toNat then a else b := by
  rw [max_comm, max_def]
  split <;> rw [BitVec.ofNat_toNat, BitVec.setWidth_eq]

/-- Saturation keeps a number within the signed range. -/
theorem saturate_eq_clamped (x : Int) : saturate z x = clamped z x := by
  have hpos : (0 : Int) < 2 ^ (z - 1) := by positivity
  rw [saturate, clampInt, clamped]
  split_ifs <;> omega

/-- The high half of a product of `2 * z` bits is the product divided by 2^z. -/
theorem ofNat_intBits_div (x : Int) : BitVec.ofNat z (intBits (2 * z) x / 2 ^ z) = BitVec.ofInt z (x / 2 ^ z) := by
  have hpos : (0 : Int) < 2 ^ z := by positivity
  have hsq : (2 : Int) ^ (2 * z) = 2 ^ z * 2 ^ z := by rw [Nat.two_mul, pow_add]
  have hcast : ((intBits (2 * z) x / 2 ^ z : Nat) : Int) = x % (2 ^ z * 2 ^ z) / 2 ^ z := by
    rw [intBits, hsq]
    push_cast
    rw [Int.toNat_of_nonneg (Int.emod_nonneg x (Int.mul_pos hpos hpos).ne')]
  have hquot : x / 2 ^ z = x % (2 ^ z * 2 ^ z) / 2 ^ z + 2 ^ z * (x / (2 ^ z * 2 ^ z)) := by
    rw [← Int.add_mul_ediv_left _ _ hpos.ne', ← Int.mul_assoc, Int.emod_add_mul_ediv]
  refine BitVec.eq_of_toNat_eq ?_
  rw [← BitVec.ofInt_natCast, hcast, hquot, BitVec.toNat_ofInt, BitVec.toNat_ofInt, Nat.cast_pow, Nat.cast_ofNat,
    Int.add_mul_emod_self_left]

end

/-! ### Arithmetic and logic of two vectors (09 R190, R191) -/

/-- A computation on elements of a type is one on numbers of its format, or one modulo 2^z on signed integers. -/
theorem onElems_eq_arith (dt : ElemType) (m : Rm) (fp : Fmt → Rm → Nat → Nat → Nat) (int : Int → Int → Int) (a b : Nat) :
    onElems dt m fp int a b = arith dt m fp int a b := by
  rw [onElems, arith]
  cases dt.fmt 0 with
  | some f => rfl
  | none => simp only [intBits_eq, toSigned_eq_toInt]

/-- The rows of 09 R191 with a rule for each group are arithmetic instructions of that rule. -/
theorem exec_vecArithRows : ∀ row ∈ vecArithRows, ∀ (o : VRR) (s : State), exec (row.1 o) s = varith row.2.1 row.2.2 o s := by
  have hmax : (max : Int → Int → Int) = fun a b => if b ≤ a then a else b := funext₂ fun a b => (max_comm a b).trans (max_def b a)
  simp only [vecArithRows, List.forall_mem_cons, List.not_mem_nil, false_imp_iff, implies_true, and_true]
  exact ⟨fun _ _ => rfl, fun _ _ => rfl, fun _ _ => rfl, fun _ _ => rfl,
    fun o s => congrArg (varith (fun f _ => f.maxBits) · o s) hmax⟩

/-- The rows of 09 R191 on bits are instructions whose result is the row's operation on the bits. -/
theorem exec_vecBitRows : ∀ row ∈ vecBitRows, ∃ f : Nat → Nat → Nat → Nat,
    (∀ (o : VRR) (s : State), exec (row.1 o) s = vlogic f o s) ∧
      ∀ {z : Nat} (a b : BitVec z), BitVec.ofNat z (f z a.toNat b.toNat) = row.2 z a b := by
  simp only [vecBitRows, List.forall_mem_cons, List.not_mem_nil, false_imp_iff, implies_true, and_true]
  refine ⟨⟨fun _ a b => a &&& b, fun _ _ => rfl, ofNat_and⟩, ⟨fun _ a b => a ||| b, fun _ _ => rfl, ofNat_or⟩,
    ⟨fun _ a b => a ^^^ b, fun _ _ => rfl, ofNat_xor⟩,
    ⟨fun z a b => a * 2 ^ (b % z), fun _ _ => rfl, fun a _ => ofNat_mul_two_pow a _⟩,
    ⟨fun z a b => a / 2 ^ (b % z), fun _ _ => rfl, fun a _ => ofNat_div_two_pow a _⟩,
    ⟨fun z a b => intBits z (toSigned z a / 2 ^ (b % z)), fun _ _ => rfl, fun a _ => ofNat_sar a _⟩,
    ⟨fun _ a b => min a b, fun _ _ => rfl, ofNat_minu⟩, ⟨fun _ a b => max a b, fun _ _ => rfl, ofNat_maxu⟩,
    ⟨fun z a b => intBits z (saturate z (toSigned z a + toSigned z b)), fun _ _ => rfl, fun a b => ?_⟩,
    ⟨fun z a b => intBits z (saturate z (toSigned z a - toSigned z b)), fun _ _ => rfl, fun a b => ?_⟩,
    ⟨fun z a b => intBits (2 * z) (toSigned z a * toSigned z b) / 2 ^ z, fun _ _ => rfl, fun a b => ?_⟩⟩
  · rw [ofNat_intBits, saturate_eq_clamped, toSigned_toNat, toSigned_toNat]
  · rw [ofNat_intBits, saturate_eq_clamped, toSigned_toNat, toSigned_toNat]
  · rw [ofNat_intBits_div, toSigned_toNat, toSigned_toNat]

section
variable {i : Instr} {s : State} {o : VRR}

/-- An arithmetic instruction of two vectors executes. -/
theorem executes_varith {fp : Fmt → Rm → Nat → Nat → Nat} {int : Int → Int → Int} (he : ∀ s, exec i s = varith fp int o s)
    (h : s.Issues i) : Executes i s (s.later (vecLatency o.dt) (masked s o.vd o.w o.dt fun k =>
      arith o.dt s.rm fp int (elemAt (s.readV o.va) o.dt.bits k) (elemAt (s.readV o.vb) o.dt.bits k))) :=
  executes_vmasked he rfl h fun _ => onElems_eq_arith ..

/-- An instruction on the bits of two vectors executes. -/
theorem executes_vlogic {f : Nat → Nat → Nat → Nat} {g : ∀ z, BitVec z → BitVec z → BitVec z} (he : ∀ s, exec i s = vlogic f o s)
    (hf : ∀ {z : Nat} (a b : BitVec z), BitVec.ofNat z (f z a.toNat b.toNat) = g z a b) (h : s.Issues i) :
    Executes i s (s.later 2 (masked s o.vd o.w o.dt fun k =>
      (g o.dt.bits (lane (s.readV o.va) o.dt.bits k) (lane (s.readV o.vb) o.dt.bits k)).toNat)) := by
  refine executes_vmasked_bits he rfl h fun k => ?_
  rw [elemAt_eq, elemAt_eq, hf]

end

/-! ### Multiply-adds and scalar operands (09 R191, R192) -/

theorem exec_vfma (o : VRR) (s : State) : exec (.vfma o) s = execVfma o s := rfl
theorem exec_vfnma (o : VRR) (s : State) : exec (.vfnma o) s = execVfnma o s := rfl
theorem exec_vfmasc (o : VSS) (s : State) : exec (.vfmasc o) s = execVfmasc o s := rfl
theorem exec_vaddsc (o : VSS) (s : State) : exec (.vaddsc o) s = execVaddsc o s := rfl
theorem exec_vmulsc (o : VSS) (s : State) : exec (.vmulsc o) s = execVmulsc o s := rfl

/-- A multiply-add into VD executes. -/
theorem executes_vmuladd {i : Instr} {s : State} {us : List Use} {neg : Bool} {vd va : VReg} {w : Width} {dt : ElemType}
    {b : State → Nat → Nat} (he : ∀ s, exec i s = vmuladd us neg vd va w dt b s) (hs : us.all Use.scalar = true) (h : s.Issues i) :
    Executes i s (s.later (vecLatency dt) (masked s vd w dt fun k =>
      mulAdd dt s.rm neg (elemAt (s.readV va) dt.bits k) (b s k) (elemAt (s.readV vd) dt.bits k))) := by
  refine executes_vmasked he (List.all_cons.trans hs) h fun k => ?_
  unfold mulAdd
  cases dt.fmt 0 with
  | some f => rfl
  | none =>
    simp only [intBits_eq, toSigned_eq_toInt]
    cases neg <;> rfl

/-- An arithmetic instruction with a scalar operand executes. -/
theorem executes_vscalar {i : Instr} {s : State} {fp : Fmt → Rm → Nat → Nat → Nat} {int : Int → Int → Int} {o : VSS}
    (he : ∀ s, exec i s = vscalar fp int o s) (h : s.Issues i) :
    Executes i s (s.later (vecLatency o.dt) (masked s o.vd o.w o.dt fun k =>
      arith o.dt s.rm fp int (elemAt (s.readV o.va) o.dt.bits k) ((s.readS o.s).toNat % 2 ^ o.dt.bits))) :=
  executes_vmasked he rfl h fun _ => onElems_eq_arith ..

/-! ### Signs, complements, moves and immediates (09 R191, R193, R195) -/

theorem exec_vabs (o : VR1) (s : State) : exec (.vabs o) s = execVabs o s := rfl
theorem exec_vneg (o : VR1) (s : State) : exec (.vneg o) s = execVneg o s := rfl
theorem exec_vnot (o : VR1) (s : State) : exec (.vnot o) s = execVnot o s := rfl
theorem exec_vmov (o : VR1) (s : State) : exec (.vmov o) s = execVmov o s := rfl
theorem exec_vmovu (o : VR1) (s : State) : exec (.vmovu o) s = execVmovu o s := rfl
theorem exec_vaddi (o : VII) (s : State) : exec (.vaddi o) s = execVaddi o s := rfl
theorem exec_vshli (o : VII) (s : State) : exec (.vshli o) s = execVshli o s := rfl
theorem exec_vshri (o : VII) (s : State) : exec (.vshri o) s = execVshri o s := rfl
theorem exec_vsari (o : VII) (s : State) : exec (.vsari o) s = execVsari o s := rfl
theorem exec_vli (o : VLiOps) (s : State) : exec (.vli o) s = execVli o s := rfl

/-- A sign operation is that of the format, or one on the bits of an integer. -/
theorem signOp_elemAt (dt : ElemType) {int : Int → Int} {fp : FVal → FVal} {g : BitVec dt.bits → BitVec dt.bits}
    (hg : ∀ a : BitVec dt.bits, BitVec.ofInt dt.bits (int a.toInt) = g a) (x : VWord) (k : Nat) :
    signOp dt int fp (elemAt x dt.bits k) = match dt.fmt 0 with
      | some f => f.round .rne (fp (f.decode (elemAt x dt.bits k)))
      | none => (g (lane x dt.bits k)).toNat := by
  unfold signOp
  cases dt.fmt 0 with
  | some f => rfl
  | none => simp only [intBits_eq, toSigned_elemAt, hg]

/-- The magnitude of an integer, on its bits: that of the most negative one is itself. -/
theorem ofInt_natAbs {z : Nat} (a : BitVec z) : BitVec.ofInt z a.toInt.natAbs = if a.toInt < 0 then -a else a := by
  split
  case isTrue hneg => rw [Int.ofNat_natAbs_of_nonpos hneg.le, BitVec.ofInt_neg, BitVec.ofInt_toInt]
  case isFalse hneg => rw [Int.natAbs_of_nonneg (Int.not_lt.mp hneg), BitVec.ofInt_toInt]

theorem ofInt_neg_toInt {z : Nat} (a : BitVec z) : BitVec.ofInt z (-a.toInt) = -a := by
  rw [BitVec.ofInt_neg, BitVec.ofInt_toInt]

/-- An immediate added modulo 2^z. -/
theorem ofNat_addi {z : Nat} (a : BitVec z) (x : Int) : BitVec.ofNat z (intBits z (a.toNat + x)) = a + BitVec.ofInt z x := by
  rw [ofNat_intBits, BitVec.ofInt_add, BitVec.ofInt_natCast, BitVec.ofNat_toNat, BitVec.setWidth_eq]

/-- An instruction on the bits of one vector executes. -/
theorem executes_vun_bits {i : Instr} {s : State} {lat : Nat} {f : Nat → Nat} {o : VR1} {g : BitVec o.dt.bits → BitVec o.dt.bits}
    (he : ∀ s, exec i s = vun lat f o s) (hf : ∀ a : BitVec o.dt.bits, BitVec.ofNat o.dt.bits (f a.toNat) = g a)
    (h : s.Issues i) :
    Executes i s (s.later lat (masked s o.vd o.w o.dt fun k => (g (lane (s.readV o.va) o.dt.bits k)).toNat)) := by
  refine executes_vmasked_bits he rfl h fun k => ?_
  rw [elemAt_eq, hf]

/-- An immediate instruction executes. -/
theorem executes_vimm {i : Instr} {s : State} {f : Nat → Nat → Nat} {o : VII} {g : BitVec o.dt.bits → BitVec o.dt.bits}
    (he : ∀ s, exec i s = vimm f o s) (hf : ∀ a : BitVec o.dt.bits, BitVec.ofNat o.dt.bits (f o.dt.bits a.toNat) = g a)
    (h : s.Issues i) :
    Executes i s (s.later 2 (masked s o.vd o.w o.dt fun k => (g (lane (s.readV o.va) o.dt.bits k)).toNat)) := by
  refine executes_vmasked_bits he rfl h fun k => ?_
  rw [elemAt_eq, hf]

/-- A magnitude that is an integer already is rounded to itself. -/
theorem roundAt_integer (neg : Bool) (m : Nat) : roundAt .rne neg m 1 0 0 = m := by
  simp [roundAt, roundsUp, Nat.mod_one]

/-- An integer within the bounds of an integer type is converted to its own bits. -/
theorem convInt_ofInt {w : Nat} {lo hi x : Int} (pol : Ovf) (hlo : lo ≤ x) (hhi : x ≤ hi) :
    (convInt w lo hi .rne pol (.ofInt x)).bits = intBits w x := by
  have hsigned : (if decide (x < 0) = true then -(x.natAbs : Int) else x.natAbs) = x := by
    by_cases hx : x < 0
    · rw [if_pos (decide_eq_true hx), Int.ofNat_natAbs_of_nonpos hx.le, neg_neg]
    · rw [if_neg (by simpa using hx), Int.natAbs_of_nonneg (Int.not_lt.mp hx)]
  simp only [FVal.ofInt, convInt, roundAt_integer, hsigned]
  rw [if_neg (by omega)]

/-- An immediate of 7 bits is exact in every INT type (09 R193). -/
theorem intElem_exact_int {dt : ElemType} (hdt : dt.isInt = true) (imm : BitVec 7) :
    (BitVec.ofNat dt.bits (intElem dt imm.toInt)).toInt = imm.toInt := by
  have hbits : 7 ≤ dt.bits := by cases dt <;> decide
  have hpow : (2 : Int) ^ (7 - 1) ≤ 2 ^ (dt.bits - 1) := pow_le_pow_right₀ (by decide) (by omega)
  have hlo := BitVec.le_toInt imm
  have hhi := BitVec.toInt_lt (x := imm)
  rw [intElem, ElemType.conv, fmt_of_isInt hdt, convInt_ofInt .sat (by omega) (by omega), ofNat_intBits]
  exact BitVec.toInt_signExtend_of_le hbits

/-- An immediate of 7 bits is exact in every FP type (09 R193). -/
theorem round_imm_exact : ∀ f ∈ [bf16, fp16, fp32, fp64], ∀ imm : BitVec 7,
    (f.decode (f.conv .rne .sat (.ofInt imm.toInt)).bits).eqv (.ofInt imm.toInt) = true := by decide +kernel

/-- An immediate of 7 bits is exact in every numeric type (09 R193). -/
theorem intElem_exact {dt : ElemType} (hdt : dt.isNum = true) (imm : BitVec 7) :
    match dt.fmt 0 with
      | some f => (f.decode (intElem dt imm.toInt)).eqv (.ofInt imm.toInt) = true
      | none => (BitVec.ofNat dt.bits (intElem dt imm.toInt)).toInt = imm.toInt := by
  cases dt with
  | f8 => cases hdt
  | i8 | i16 | i32 => exact intElem_exact_int rfl imm
  | bf16 | f16 | f32 | f64 => exact round_imm_exact _ (by decide) imm

/-- VLI writes its immediate. -/
theorem executes_vli {s : State} {o : VLiOps} (h : s.Issues (.vli o)) :
    Executes (.vli o) s (s.later (vecLatency o.dt) (masked s o.vd o.w o.dt fun _ => intElem o.dt o.imm.toInt)) :=
  executes_vmasked (exec_vli o) rfl h fun _ => rfl

/-! ### The bits of a vector result (06 R126, 09 R189, R195) -/

/-- Bit `k` of elements glued together is a bit of element `k / z`. -/
theorem testBit_packElems {z : Nat} (hz : 0 < z) (xs : List Nat) (k : Nat) :
    (packElems z xs).testBit k = (xs.getD (k / z) 0).testBit (k % z) := by
  induction xs generalizing k with
  | nil => simp [packElems]
  | cons x xs ih =>
    rw [packElems, Nat.add_comm, Nat.testBit_two_pow_mul_add _ (Nat.mod_lt _ (Nat.two_pow_pos z))]
    by_cases hk : k < z
    · rw [if_pos hk, Nat.div_eq_of_lt hk, Nat.mod_eq_of_lt hk, List.getD_cons_zero, Nat.testBit_mod_two_pow, decide_eq_true hk,
        Bool.true_and]
    · have hdiv : k / z = (k - z) / z + 1 := Nat.div_eq_sub_div hz (Nat.not_lt.mp hk)
      rw [if_neg hk, ih, hdiv, List.getD_cons_succ, Nat.mod_eq_sub_mod (Nat.not_lt.mp hk)]

/-- Bit `k` of elements below `n`. -/
theorem testBit_packElems_range {z : Nat} (hz : 0 < z) (f : Nat → Nat) (n k : Nat) :
    (packElems z ((List.range n).map f)).testBit k = (decide (k < z * n) && (f (k / z)).testBit (k % z)) := by
  rw [testBit_packElems hz]
  by_cases hk : k < z * n
  · rw [List.getD_eq_getElem _ _ (by simpa using Nat.div_lt_of_lt_mul hk)]
    simp [hk]
  · rw [List.getD_eq_default _ _ (by simpa using (Nat.le_div_iff_mul_le hz).mpr ((Nat.mul_comm ..).trans_le (Nat.not_lt.mp hk)))]
    simp [hk]

theorem getLsbD_merge {w : Nat} (old : BitVec w) (o : Out) {k : Nat} (hk : k < w) :
    (merge old o).getLsbD k = if o.mask.getLsbD k then o.data.getLsbD k else old.getLsbD k := by
  simp only [merge, BitVec.getLsbD_or, BitVec.getLsbD_and, BitVec.getLsbD_not, BitVec.getLsbD_setWidth, hk, decide_true,
    Bool.true_and]
  cases o.mask.getLsbD k <;> simp

/-- Bit `k` of an element's number is a bit of its register. -/
theorem testBit_elemAt (x : VWord) {z : Nat} (hz : 0 < z) (k : Nat) : (elemAt x z (k / z)).testBit (k % z) = x.getLsbD k := by
  rw [elemAt, ← BitVec.getLsbD, BitVec.getLsbD_extractLsb', decide_eq_true (Nat.mod_lt k hz), Bool.true_and, Nat.div_add_mod]

/-- A whole width written with the elements of a register holds that register's bits below the width. -/
theorem getLsbD_merge_vecAll (r : VReg) {z : Nat} (hz : 0 < z) (n : Nat) (x v : VWord) {k : Nat} (hk : k < 1024) :
    (merge v (vecAll r z n (elemAt x z))).getLsbD k = if k < z * n then x.getLsbD k else v.getLsbD k := by
  rw [getLsbD_merge _ _ hk, vecAll, vecOut, BitVec.getLsbD_ofNat, BitVec.getLsbD_ofNat, testBit_packElems_range hz,
    testBit_packElems_range hz, testBit_elemAt x hz, if_pos rfl, Nat.testBit_two_pow_sub_one, decide_eq_true hk,
    decide_eq_true (Nat.mod_lt k hz)]
  by_cases hkn : k < z * n <;> simp [hkn]

/-- An element's size is a number of bits above 0, and the elements of a width fill it. -/
theorem elems_fill (w : Width) (dt : ElemType) : 0 < dt.bits ∧ dt.bits * elems w dt = w.bits := by
  cases w <;> cases dt <;> decide

/-- VMOVU writes every bit below its width. -/
theorem executes_vmovu {s : State} {o : VR1} (h : s.Issues (.vmovu o)) :
    ∃ x, Executes (.vmovu o) s (s.later 2 x) ∧ x.dst = .v o.vd ∧ ∀ (v : VWord) (k : Nat), k < 1024 →
      (merge v x).getLsbD k = if k < o.w.bits then (s.readV o.va).getLsbD k else v.getLsbD k := by
  obtain ⟨hz, hfill⟩ := elems_fill o.w o.dt
  refine ⟨_, executes_vec_last rfl h rfl (exec_vmovu o), rfl, fun v k hk => ?_⟩
  rw [getLsbD_merge_vecAll o.vd hz _ _ v hk, hfill]

end Sys2Proof.Machine

namespace Sys2Proof.Proofs

open Sys2Proof.Machine

/-- Settles O18: each row is an instruction of one of the masked forms, which execute; what the model computes on numbers is what
the rows say of their bits. -/
theorem vectorArithmeticResults : Obligations.VectorArithmeticResults := by
  refine ⟨⟨?_, ?_⟩, ⟨?_, ?_, ?_, ?_, ?_⟩, ?_, ?_, ?_, ?_, ?_, ?_, ?_, ?_, ?_, ?_⟩
  · exact fun row hrow s o h => executes_varith (exec_vecArithRows row hrow o) h
  · intro row hrow s o h
    obtain ⟨f, he, hf⟩ := exec_vecBitRows row hrow
    exact executes_vlogic (he o) hf h
  · exact fun s o h => executes_vmuladd (b := fun s => elemAt (s.readV o.vb) o.dt.bits) (exec_vfma o) rfl h
  · exact fun s o h => executes_vmuladd (b := fun s => elemAt (s.readV o.vb) o.dt.bits) (exec_vfnma o) rfl h
  · exact fun s o h => executes_vmuladd (b := fun s _ => scalarElem s o.s o.dt) (exec_vfmasc o) rfl h
  · exact fun s o h => executes_vscalar (exec_vaddsc o) h
  · exact fun s o h => executes_vscalar (exec_vmulsc o) h
  · exact fun s o h => executes_vmasked (exec_vabs o) rfl h fun k =>
      signOp_elemAt o.dt (g := fun a => if a.toInt < 0 then -a else a) ofInt_natAbs _ k
  · exact fun s o h => executes_vmasked (exec_vneg o) rfl h fun k => signOp_elemAt o.dt ofInt_neg_toInt _ k
  · exact fun s o h => executes_vun_bits (exec_vnot o) ofNat_complement h
  · exact fun s o h => executes_vmasked (exec_vmov o) rfl h fun _ => rfl
  · exact fun s o h => executes_vmovu h
  · exact fun s o h => executes_vimm (g := (· + BitVec.ofInt _ o.imm.toInt)) (exec_vaddi o) (ofNat_addi · o.imm.toInt) h
  · exact fun s o h => executes_vimm (g := (· <<< o.imm.toNat)) (exec_vshli o) (ofNat_mul_two_pow · o.imm.toNat) h
  · exact fun s o h => executes_vimm (g := (· >>> o.imm.toNat)) (exec_vshri o) (ofNat_div_two_pow · o.imm.toNat) h
  · exact fun s o h => executes_vimm (g := (·.sshiftRight o.imm.toNat)) (exec_vsari o) (ofNat_sar · o.imm.toNat) h
  · exact fun s o h => ⟨_, executes_vli h, intElem_exact h.1 o.imm⟩

end Sys2Proof.Proofs
end

section
/-! PROOFS. Vector compares, selects, counts, element access and permutes (09 R194 to R198: O19). The lemmas say once which bits of
cm a compare writes, and that its conditions are those of their names. -/

namespace Sys2Proof.Machine

open Sys2Proof.Claims

/-! ### Compares (09 R194) -/

theorem exec_vcmp (o : VcmpOps) (s : State) : exec (.vcmp o) s = execVcmp o s := rfl

/-- A condition of VCMP on elements is that of its name. -/
theorem vcond_iff (cc : CcV) (dt : ElemType) {a b : Nat} (ha : a < 2 ^ dt.bits) (hb : b < 2 ^ dt.bits) :
    vcond cc dt a b = true ↔ vecCond cc dt a b := by
  unfold vcond vecCond
  cases dt.fmt 0 with
  | some f => cases cc <;> simp
  | none =>
    cases cc with
    | eq | ne => simp [toSigned_eq_toInt, BitVec.toInt_inj]
    | lt | le => simp [toSigned_eq_toInt]
    | ltu | leu => simp [Nat.mod_eq_of_lt ha, Nat.mod_eq_of_lt hb]
    | un | ord => simp

/-- A lane holds where the condition holds of each of its elements. -/
theorem laneHolds_iff (cc : CcV) (dt : ElemType) (a b : VWord) (l : Nat) :
    laneHolds cc dt a b l = true ↔ ∀ j < max 1 (32 / dt.bits),
      vecCond cc dt (elemAt a dt.bits (32 * l / dt.bits + j)) (elemAt b dt.bits (32 * l / dt.bits + j)) := by
  simp only [laneHolds, List.all_eq_true, List.mem_range, vcond_iff cc dt (elemAt_lt ..) (elemAt_lt ..), Nat.mul_comm l]

/-- A mask holds the bits that it is made from. -/
theorem getLsbD_laneMask (f : Nat → Bool) {l : Nat} (hl : l < 32) : (laneMask f).getLsbD l = f l := by
  rw [laneMask, BitVec.getLsbD_ofNat, testBit_packElems_range Nat.one_pos, Nat.div_one, Nat.mod_one, Nat.one_mul, decide_eq_true hl]
  cases f l <;> rfl

/-- What VCMP makes of the bit of a lane: one beyond the width keeps it, an inactive one keeps it with ACC and clears it without, an
active one has its condition, with ACC under the bit that was there. -/
def cmpBit (below on acc old holds : Bool) : Bool :=
  if below then (if on then holds && (!acc || old) else acc && old) else old

/-- VCMP writes cm, lane by lane. -/
theorem executes_vcmp {s : State} {o : VcmpOps} (h : s.Issues (.vcmp o)) :
    ∃ x, Executes (.vcmp o) s (s.later 2 x) ∧ x.dst = .cm ∧ ∀ l < 32,
      (merge s.cur.regs.cm x).getLsbD l = cmpBit (decide (l < o.w.bits / 32)) (s.em.getLsbD l) o.acc (s.cur.regs.cm.getLsbD l)
        (laneHolds o.cc o.dt (s.readV o.va) (s.readV o.vb) l) := by
  refine ⟨_, executes_vec_last rfl h rfl (exec_vcmp o), by split <;> rfl, fun l hl => ?_⟩
  have hwide : l < 1024 := by omega
  rw [getLsbD_merge _ _ hl]
  cases o.acc with
  | true | false =>
    simp only [if_true, if_false, Bool.false_eq_true, BitVec.getLsbD_setWidth, BitVec.getLsbD_and, getLsbD_laneMask _ hl, hwide,
      decide_true, Bool.true_and, cmpBit, Bool.and_eq_true]
    cases s.em.getLsbD l <;> simp [Bool.and_comm]

/-! ### Selects and counts (09 R195, R198) -/

theorem exec_vsel (o : VRR) (s : State) : exec (.vsel o) s = execVsel o s := rfl

/-- VSEL takes each element from the register that cm chooses. -/
theorem executes_vsel {s : State} {o : VRR} (h : s.Issues (.vsel o)) :
    Executes (.vsel o) s (s.later 2 (masked s o.vd o.w o.dt fun k =>
      if s.cur.regs.cm.getLsbD (k * o.dt.bits / 32) then elemAt (s.readV o.va) o.dt.bits k
      else elemAt (s.readV o.vb) o.dt.bits k)) := by
  refine executes_vmasked (exec_vsel o) rfl h fun k => ?_
  rw [active, apply_ite s.readV, apply_ite (elemAt · o.dt.bits k)]

/-- The number of the lanes that cm and em select. -/
theorem length_selectedLanes (s : State) (w : Width) : (selectedLanes s w).length =
    (List.range (w.bits / 32)).countP fun l => s.em.getLsbD l && s.cur.regs.cm.getLsbD l := List.countP_eq_length_filter.symm

/-- The first of the lanes that cm and em select. -/
theorem head?_selectedLanes (s : State) (w : Width) : (selectedLanes s w).head? =
    (List.range (w.bits / 32)).find? fun l => s.em.getLsbD l && s.cur.regs.cm.getLsbD l := List.head?_filter

/-- A count of lanes executes. -/
theorem executes_laneCount {i : Instr} {s : State} {o : VcntOps} (x : State → Word)
    (he : ∀ s, exec i s = s.slot [.srcEm, .write (.s o.sd), .lanes o.w.bits] fun s => .ok (s.later 2 (outS o.sd (x s))))
    (h : s.Issues i) : Executes i s (s.later 2 (outS o.sd (x s))) :=
  executes_lanes (us := [_, _]) (vs := []) he rfl rfl (width_bits_le o.w) h rfl

/-- VPOPC counts the lanes that cm and em select. -/
theorem executes_vpopc {s : State} {o : VcntOps} (h : s.Issues (.vpopc o)) :
    Executes (.vpopc o) s (s.later 2 (outS o.sd (BitVec.ofNat 64
      ((List.range (o.w.bits / 32)).countP fun l => s.em.getLsbD l && s.cur.regs.cm.getLsbD l)))) := by
  rw [← length_selectedLanes]
  exact executes_laneCount (fun s => BitVec.ofNat 64 (selectedLanes s o.w).length) (fun _ => rfl) h

/-- The first of a list of lanes as a number, all ones where there is none. -/
def firstLane : List Nat → Word
  | l :: _ => BitVec.ofNat 64 l
  | [] => BitVec.allOnes 64

/-- VFIRST finds the first of the lanes that cm and em select. -/
theorem executes_vfirst {s : State} {o : VcntOps} (h : s.Issues (.vfirst o)) :
    Executes (.vfirst o) s (s.later 2 (outS o.sd
      (match (List.range (o.w.bits / 32)).find? fun l => s.em.getLsbD l && s.cur.regs.cm.getLsbD l with
        | some l => BitVec.ofNat 64 l
        | none => BitVec.allOnes 64))) := by
  have hexec := executes_laneCount (fun s => firstLane (selectedLanes s o.w)) (fun _ => rfl) h
  rw [← head?_selectedLanes]
  cases hsel : selectedLanes s o.w with
  | nil | cons => rwa [hsel] at hexec

/-! ### Element access and permutes (09 R196, R197) -/

theorem exec_vbcast (o : VBc) (s : State) : exec (.vbcast o) s = execVbcast o s := rfl
theorem exec_vext (o : VextOps) (s : State) : exec (.vext o) s = execVext o s := rfl
theorem exec_vins (o : VSS) (s : State) : exec (.vins o) s = execVins o s := rfl
theorem exec_vperm (o : VRR) (s : State) : exec (.vperm o) s = execVperm o s := rfl
theorem exec_vslide (o : VSS) (s : State) : exec (.vslide o) s = execVslide o s := rfl
theorem exec_viota (o : VIota) (s : State) : exec (.viota o) s = execViota o s := rfl

/-- An element as a scalar register receives it: an integer with its sign extended. -/
theorem elemWord_elemAt (dt : ElemType) (x : VWord) (k : Nat) : elemWord dt (elemAt x dt.bits k) =
    if dt.isInt then (lane x dt.bits k).signExtend 64 else (lane x dt.bits k).setWidth 64 := by
  rw [elemWord, toSigned_elemAt, elemAt_eq, BitVec.ofNat_toNat]
  rfl

/-- VEXT executes. -/
theorem executes_vext {s : State} {o : VextOps} (h : s.Issues (.vext o)) :
    let x := lane (s.readV o.va) o.dt.bits ((s.readS o.sb).toNat % (o.w.bits / o.dt.bits))
    Executes (.vext o) s (s.later 3 (outS o.sd (if o.dt.isInt then x.signExtend 64 else x.setWidth 64))) := by
  intro x
  rw [← elemWord_elemAt]
  exact executes_vec_last rfl h rfl (exec_vext o)

end Sys2Proof.Machine

namespace Sys2Proof.Proofs

open Sys2Proof.Machine

/-- Settles O19: the bits of cm that VCMP writes, lane by lane; the other forms by their meanings. -/
theorem vectorCompareAndPermuteResults : Obligations.VectorCompareAndPermuteResults := by
  refine ⟨⟨fun s o h => ?_, fun s o h => executes_vsel h, fun s o h => executes_vpopc h,
    fun s o h => executes_vfirst h⟩, fun s o h => ?_,
    fun s o h => executes_vext h, fun s o h => ?_, fun s o h => ?_, fun s o h => ?_, fun s o h => ?_⟩
  · obtain ⟨x, hexec, hdst, hbits⟩ := executes_vcmp h
    refine ⟨x, hexec, hdst, fun l hl => ⟨fun hout => ?_, fun hin hon => ?_, fun hin hoff => ?_⟩⟩
    · simp [hbits l hl, cmpBit, Nat.not_lt.mpr hout]
    · have hholds := laneHolds_iff o.cc o.dt (s.readV o.va) (s.readV o.vb) l
      exact ⟨fun hacc => by simp [hbits l hl, cmpBit, hin, hon, hacc, hholds, and_comm],
        fun hacc => by simp [hbits l hl, cmpBit, hin, hon, hacc, hholds]⟩
    · simp [hbits l hl, cmpBit, hin, hoff]
  · exact executes_vmasked (exec_vbcast o) rfl h fun _ => rfl
  · exact executes_vec_last rfl h rfl (exec_vins o)
  · exact executes_vmasked (exec_vperm o) rfl h fun _ => rfl
  · exact executes_vmasked (exec_vslide o) rfl h fun _ => rfl
  · exact executes_vmasked (exec_viota o) rfl h fun _ => rfl

end Sys2Proof.Proofs
end

section
/-! PROOFS. VARGMAX, VSORT and VMRG (09 R212, R214 to R216: O23). The lemmas say once what a sort keeps, which entry the tree of
VARGMAX ends with, and that the sequential merge is the library's. -/

namespace Sys2Proof.Machine

open Sys2Proof.Claims

/-! ### Sorts (09 R215) -/

section
variable {α : Type} {le : α → α → Bool}

/-- An insertion is the library's. -/
theorem insertBy_eq_orderedInsert (x : α) (ys : List α) : insertBy le x ys = ys.orderedInsert (fun a b => le a b = true) x := by
  induction ys with
  | nil => rfl
  | cons y ys ih => rw [insertBy, List.orderedInsert, ih]

/-- A sort keeps the elements. -/
theorem sortBy_perm (xs : List α) : (sortBy le xs).Perm xs := by
  induction xs with
  | nil => exact .refl []
  | cons x xs ih =>
    rw [sortBy, insertBy_eq_orderedInsert]
    exact (List.perm_orderedInsert ..).trans (ih.cons x)

/-- `a` stands in order before `b`, and where `b` could stand before it, the order in which they came decides. -/
def StableLe (le : α → α → Bool) (came : α → α → Prop) (a b : α) : Prop := le a b = true ∧ (le b a = true → came a b)

variable {came : α → α → Prop} (htotal : ∀ a b, le a b = true ∨ le b a = true)
  (htrans : ∀ a b c, le a b = true → le b c = true → le a c = true)
include htotal htrans

/-- An element that came before those of a list in order is put among them in order. -/
theorem insertBy_stable {x : α} {ys : List α} (hx : ∀ y ∈ ys, came x y) (hys : ys.Pairwise (StableLe le came)) :
    (insertBy le x ys).Pairwise (StableLe le came) := by
  induction ys with
  | nil => exact List.pairwise_singleton _ x
  | cons y ys ih =>
    obtain ⟨hy, htail⟩ := List.pairwise_cons.mp hys
    rw [insertBy]
    split
    case isTrue hle =>
      refine List.pairwise_cons.mpr ⟨fun b hb => ⟨?_, fun _ => hx b hb⟩, hys⟩
      rcases List.mem_cons.mp hb with rfl | hb
      · exact hle
      · exact htrans x y b hle (hy b hb).1
    case isFalse hle =>
      refine List.pairwise_cons.mpr ⟨fun b hb => ?_, ih (fun b hb => hx b (List.mem_cons_of_mem y hb)) htail⟩
      rw [insertBy_eq_orderedInsert] at hb
      rcases List.mem_cons.mp ((List.perm_orderedInsert ..).mem_iff.mp hb) with rfl | hb
      · exact ⟨(htotal b y).resolve_left hle, fun hby => absurd hby hle⟩
      · exact hy b hb

/-- A sort puts a list in order, equal elements in the order they came in. -/
theorem sortBy_stable {xs : List α} (h : xs.Pairwise came) : (sortBy le xs).Pairwise (StableLe le came) := by
  induction xs with
  | nil => exact .nil
  | cons x xs ih =>
    obtain ⟨hx, hxs⟩ := List.pairwise_cons.mp h
    exact insertBy_stable htotal htrans (fun y hy => hx y ((sortBy_perm xs).mem_iff.mp hy)) (ih hxs)

end

/-- A sort by falling keys puts equal keys in the order they came in. -/
theorem sortBy_falling {α : Type} (key : α → Int) {came : α → α → Prop} {xs : List α} (h : xs.Pairwise came) :
    (sortBy (fun a b => decide (key b ≤ key a)) xs).Pairwise fun a b => key b < key a ∨ (key b = key a ∧ came a b) := by
  refine (sortBy_stable (by simp only [decide_eq_true_eq]; omega) (by simp only [decide_eq_true_eq]; omega) h).imp ?_
  intro a b ⟨hle, hcame⟩
  rw [decide_eq_true_eq] at hle hcame
  by_cases hkey : key a ≤ key b
  · exact .inr ⟨Int.le_antisymm hle hkey, hcame hkey⟩
  · exact .inl (Int.not_le.mp hkey)

/-- The types of VSORT and VMRG have elements of 32 bits. -/
theorem bits_of_sortable {dt : ElemType} (h : (dt == .i32 || dt == .f32) = true) : dt.bits = 32 := by
  rw [Bool.or_eq_true, beq_iff_eq, beq_iff_eq] at h
  rcases h with rfl | rfl <;> rfl

theorem exec_vsort (o : VRR) (s : State) : exec (.vsort o) s = execVsort o s := rfl

/-- The index, the key and the payload of the elements of VSORT's operands. -/
def State.sortPairs (s : State) (o : VRR) : List (Nat × Nat × Nat) :=
  (List.range (o.w.bits / 32)).map fun i => (i, elemAt (s.readV o.va) 32 i, elemAt (s.readV o.vb) 32 i)

/-- The pairs come in index order. -/
theorem State.sortPairs_ascending (s : State) (o : VRR) : (s.sortPairs o).Pairwise fun p q => p.1 < q.1 :=
  List.pairwise_map.mpr List.pairwise_lt_range

/-- VSORT executes on its enabled pairs sorted by falling keys. -/
theorem executes_vsort {s : State} {o : VRR} (h : s.Issues (.vsort o)) :
    let on (p : Nat × Nat × Nat) : Bool := s.em.getLsbD p.1
    let srt := sortBy (fun a b => decide (elemKey o.dt b.2.1 ≤ elemKey o.dt a.2.1)) ((s.sortPairs o).filter on)
    let out : List (Nat × Nat) := (srt.map fun p => (sortedOut o.dt p.2.1, p.2.2)) ++
      (((s.sortPairs o).filter fun p => !on p).map fun p => p.2)
    Executes (.vsort o) s (s.beginX [vecAll o.vd 32 (o.w.bits / 32) fun i => (out.getD i (0, 0)).1,
      vecAll (nextV o.vd) 32 (o.w.bits / 32) fun i => (out.getD i (0, 0)).2] none false) := by
  intro on srt out
  have hbits := bits_of_sortable (Bool.and_eq_true_iff.mp h.1).1
  have hon : ∀ k, active s.em 32 k = s.em.getLsbD k := fun k => by rw [active, Nat.mul_div_cancel _ (by decide)]
  have hexec := executes_scalar (exec_vsort o) rfl h rfl
  simp only [elems, hbits, hon] at hexec
  exact hexec

/-! ### The sequential merge (09 R216) -/

theorem exec_vmrg (o : VRR) (s : State) : exec (.vmrg o) s = execVmrg o s := rfl

/-- With room for all of its entries the merge is the library's: the first list's entry goes first where its key is not below. -/
theorem mergeKeys_eq_merge (key : Nat → Int) (fuel : Nat) (as bs : List (Nat × Nat)) (h : as.length + bs.length ≤ fuel) :
    mergeKeys key fuel as bs = as.merge bs fun a b => decide (key b.1 ≤ key a.1) := by
  induction fuel, as, bs using mergeKeys.induct key with
  | case1 as bs =>
    obtain ⟨ha, hb⟩ : as = [] ∧ bs = [] := by simpa using h
    simp [ha, hb, mergeKeys]
  | case2 fuel bs => simp [mergeKeys]
  | case3 fuel as hne => simp [mergeKeys]
  | case4 fuel a as b bs hlt ih =>
    rw [mergeKeys, if_pos hlt, ih (by simp at h ⊢; omega), List.cons_merge_cons_neg]
    simpa using hlt
  | case5 fuel a as b bs hlt ih =>
    rw [mergeKeys, if_neg hlt, ih (by simp at h ⊢; omega), List.cons_merge_cons_pos]
    simpa using hlt

/-- Two lists with falling keys merge into one. -/
theorem merge_falling (key : Nat → Int) {as bs : List (Nat × Nat)} (ha : as.Pairwise fun p q => key q.1 ≤ key p.1)
    (hb : bs.Pairwise fun p q => key q.1 ≤ key p.1) :
    (as.merge bs fun a b => decide (key b.1 ≤ key a.1)).Pairwise fun p q => key q.1 ≤ key p.1 := by
  simpa using List.pairwise_merge (le := fun a b : Nat × Nat => decide (key b.1 ≤ key a.1))
    (fun a b c hab hbc => by simp at *; omega) (fun a b => by simp; omega) as bs (by simpa using ha) (by simpa using hb)

/-- VMRG executes. -/
theorem executes_vmrg {s : State} {o : VRR} (h : s.Issues (.vmrg o)) :
    let n := o.w.bits / 32
    let list (v : VReg) : List (Nat × Nat) := (List.range n).map fun i =>
      (elemAt (s.readV v) 32 i, elemAt (s.readV (nextV v)) 32 i)
    let out := (mergeKeys (elemKey o.dt) (2 * n) (list o.va) (list o.vb)).map fun p => (sortedOut o.dt p.1, p.2)
    Executes (.vmrg o) s (s.beginX [vecAll o.vd 32 n fun i => (out.getD i (0, 0)).1,
      vecAll (nextV o.vd) 32 n fun i => (out.getD i (0, 0)).2, vecAll o.vb 32 n fun i => (out.getD (n + i) (0, 0)).1,
      vecAll (nextV o.vb) 32 n fun i => (out.getD (n + i) (0, 0)).2] none false) := by
  intro n list out
  obtain ⟨⟨⟨hdt, -⟩, -⟩, -⟩ : (((o.dt == .i32 || o.dt == .f32) = true ∧ runOk o.vd 2 = true) ∧ runOk o.va 2 = true) ∧
      runOk o.vb 2 = true := by simpa only [Instr.wf, Bool.and_eq_true] using h.1
  have hexec := executes_scalar (exec_vmrg o) rfl h rfl
  simp only [elems, bits_of_sortable hdt] at hexec
  exact hexec

/-! ### VARGMAX (05 R117, 09 R212) -/

theorem argNode_none_right (a : Option (Nat × Int)) : argNode a none = a := by cases a <;> rfl

/-- Of three entries the first of the largest remains, in whichever order they are compared. -/
theorem argNode_assoc : Std.Associative argNode where
  assoc a b c := by
    cases a with
    | none => rfl
    | some x =>
      cases c with
      | none => rw [argNode_none_right, argNode_none_right]
      | some z =>
        cases b with
        | none => rfl
        | some y =>
          grind [argNode]

/-- The entries of a list are in the order of their indices. -/
def IndexOrder (es : List (Option (Nat × Int))) : Prop := es.Pairwise fun a b => ∀ x ∈ a, ∀ y ∈ b, x.1 < y.1

/-- `x` is the first of the largest entries of a list. -/
def FirstLargest (es : List (Option (Nat × Int))) (x : Nat × Int) : Prop :=
  some x ∈ es ∧ ∀ y, some y ∈ es → y.2 < x.2 ∨ (y.2 = x.2 ∧ x.1 ≤ y.1)

/-- A node has no entry only where neither side has one. -/
theorem argNode_eq_none {a b : Option (Nat × Int)} : argNode a b = none ↔ a = none ∧ b = none := by
  unfold argNode
  split
  · split <;> simp
  · simp
  · simp

/-- The fold is none only where there are no entries. -/
theorem not_mem_of_foldr_argNode {es : List (Option (Nat × Int))} (h : es.foldr argNode none = none) (x : Nat × Int) :
    some x ∉ es := by
  induction es with
  | nil => exact List.not_mem_nil
  | cons e es ih =>
    obtain ⟨rfl, hes⟩ := argNode_eq_none.mp h
    exact fun hx => ih hes ((List.mem_cons.mp hx).resolve_left nofun)

/-- An entry whose key is no smaller than those after it is the first of the largest. -/
theorem firstLargest_head {x : Nat × Int} {es : List (Option (Nat × Int))} (hes : IndexOrder (some x :: es))
    (h : ∀ y, some y ∈ es → y.2 ≤ x.2) : FirstLargest (some x :: es) x := by
  refine ⟨List.mem_cons_self, fun y hy => ?_⟩
  rcases List.mem_cons.mp hy with heq | hy
  · cases heq; exact .inr ⟨rfl, Nat.le_refl _⟩
  · have hlt : x.1 < y.1 := (List.pairwise_cons.mp hes).1 _ hy x rfl y rfl
    have hle := h y hy
    omega

/-- The fold of a list of entries in index order is the first of its largest. -/
theorem firstLargest_of_foldr_argNode {es : List (Option (Nat × Int))} {x : Nat × Int} (hes : IndexOrder es)
    (h : es.foldr argNode none = some x) : FirstLargest es x := by
  induction es generalizing x with
  | nil => cases h
  | cons e es ih =>
    have htail := (List.pairwise_cons.mp hes).2
    rw [List.foldr_cons] at h
    cases e with
    | none =>
      obtain ⟨hmem, hmax⟩ := ih htail h
      exact ⟨List.mem_cons_of_mem _ hmem, fun y hy => hmax y ((List.mem_cons.mp hy).resolve_left nofun)⟩
    | some y =>
      cases hbest : es.foldr argNode none with
      | none =>
        rw [hbest] at h
        cases h
        exact firstLargest_head hes fun z hz => absurd hz (not_mem_of_foldr_argNode hbest z)
      | some z =>
        obtain ⟨hmem, hmax⟩ := ih htail hbest
        rw [hbest, argNode] at h
        split at h
        case isTrue hlt =>
          cases h
          refine ⟨List.mem_cons_of_mem _ hmem, fun w hw => ?_⟩
          rcases List.mem_cons.mp hw with heq | hw
          · cases heq; exact .inl hlt
          · exact hmax w hw
        case isFalse hge =>
          cases h
          exact firstLargest_head hes fun w hw => by have := hmax w hw; omega

/-- The key of the identity of VREDMAX. -/
def argIdentity (dt : ElemType) : Int :=
  match dt.fmt 0 with
  | some f => floatKey f (f.signed true f.infMag)
  | none => -2 ^ (dt.bits - 1)

/-- Whether the bits of an element are a number: in a format, no NaN. -/
def isNumber (dt : ElemType) (x : Nat) : Prop := ∀ f, dt.fmt 0 = some f → (f.decode x).isNan = false

/-- An element enters the tree where it is left out or is a number, under its index, with its key or the identity's. -/
theorem argEntry_iff (dt : ElemType) (on : Bool) (i x : Nat) (p : Nat × Int) :
    argEntry dt on i x = some p ↔ (on = true → isNumber dt x) ∧ p = (i, if on then elemKey dt x else argIdentity dt) := by
  unfold argEntry isNumber argIdentity elemKey
  cases dt.fmt 0 with
  | none => simp [eq_comm (a := p)]
  | some f =>
    cases on with
    | false => simp [eq_comm (a := p)]
    | true => cases hn : (f.decode x).isNan <;> simp [hn, eq_comm (a := p)]

/-- The elements of VARGMAX's operand: whether em enables each, and its entry. -/
def State.argElems (s : State) (o : VredOps) : List (Bool × Option (Nat × Int)) :=
  (List.range (elems o.w o.dt)).map fun i =>
    (active s.em o.dt.bits i, argEntry o.dt (active s.em o.dt.bits i) i (elemAt (s.readV o.va) o.dt.bits i))

/-- The entry at the root of VARGMAX's tree, none where no enabled element is a number. -/
def State.argBest (s : State) (o : VredOps) : Option (Nat × Int) :=
  if (s.argElems o).any fun x => x.1 && x.2.isSome then tree argNode none 8 ((s.argElems o).map Prod.snd) else none

/-- The index of an entry as VARGMAX delivers it. -/
def argWord : Option (Nat × Int) → Word
  | some p => BitVec.ofNat 64 p.1
  | none => BitVec.allOnes 64

/-- VARGMAX executes. -/
theorem executes_vargmax {s : State} {o : VredOps} (h : s.Issues (.vargmax o)) :
    Executes (.vargmax o) s (s.beginX [outS o.sd (argWord (s.argBest o))] none false) :=
  executes_scalar (us := [.srcEm, .srcV o.va true, .mark (.s o.sd)])
    (body := fun s => .ok (s.beginX [outS o.sd (argWord (s.argBest o))] none false)) (fun _ => rfl) rfl h rfl

section
variable (s : State) (o : VredOps)

/-- The element of an index enters the tree. -/
def State.argEnters (i : Nat) : Prop :=
  i < elems o.w o.dt ∧ (active s.em o.dt.bits i = true → isNumber o.dt (elemAt (s.readV o.va) o.dt.bits i))

/-- The key with which it enters. -/
def State.argKey (i : Nat) : Int :=
  if active s.em o.dt.bits i then elemKey o.dt (elemAt (s.readV o.va) o.dt.bits i) else argIdentity o.dt

/-- The entries are those of the elements that enter. -/
theorem State.some_mem_argElems (p : Nat × Int) :
    some p ∈ (s.argElems o).map Prod.snd ↔ s.argEnters o p.1 ∧ p.2 = s.argKey o p.1 := by
  simp only [State.argElems, List.map_map, List.mem_map, List.mem_range, Function.comp_apply, argEntry_iff, State.argEnters,
    State.argKey]
  constructor
  · rintro ⟨i, hi, hnum, rfl⟩
    exact ⟨⟨hi, hnum⟩, rfl⟩
  · rintro ⟨⟨hi, hnum⟩, hkey⟩
    exact ⟨p.1, hi, hnum, Prod.ext rfl hkey⟩

theorem State.argElems_indexOrder : IndexOrder ((s.argElems o).map Prod.snd) := by
  rw [State.argElems, List.map_map]
  refine List.pairwise_map.mpr (List.pairwise_lt_range.imp fun hlt x hx y hy => ?_)
  obtain ⟨-, rfl⟩ := (argEntry_iff ..).mp hx
  obtain ⟨-, rfl⟩ := (argEntry_iff ..).mp hy
  exact hlt

/-- An enabled element is a number. -/
theorem State.any_argElems : ((s.argElems o).any fun x => x.1 && x.2.isSome) = true ↔
    ∃ i, s.argEnters o i ∧ active s.em o.dt.bits i = true := by
  simp only [State.argElems, List.any_map, List.any_eq_true, List.mem_range, Function.comp_apply, Bool.and_eq_true,
    Option.isSome_iff_exists, argEntry_iff, State.argEnters]
  constructor
  · rintro ⟨i, hi, hon, p, hnum, -⟩
    exact ⟨i, ⟨hi, hnum⟩, hon⟩
  · rintro ⟨i, ⟨hi, hnum⟩, hon⟩
    exact ⟨i, hi, hon, _, hnum, rfl⟩

/-- The tree is the fold over its entries. -/
theorem State.argBest_eq_foldr (hany : ∃ i, s.argEnters o i ∧ active s.em o.dt.bits i = true) :
    s.argBest o = ((s.argElems o).map Prod.snd).foldr argNode none := by
  obtain ⟨hpos, hle⟩ := elems_bounds o.w o.dt
  rw [State.argBest, if_pos ((s.any_argElems o).mpr hany)]
  exact tree_eq_foldr argNode (hassoc := argNode_assoc) none (by simpa [State.argElems] using hpos)
    (by simp [State.argElems]; omega) fun x _ => argNode_none_right x

/-- Where an enabled element is a number, VARGMAX gives the first index of the largest key among the elements that enter. -/
theorem State.argBest_largest (hany : ∃ i, s.argEnters o i ∧ active s.em o.dt.bits i = true) :
    s.argEnters o (argWord (s.argBest o)).toNat ∧ ∀ j, s.argEnters o j →
      s.argKey o j < s.argKey o (argWord (s.argBest o)).toNat ∨
        (s.argKey o j = s.argKey o (argWord (s.argBest o)).toNat ∧ (argWord (s.argBest o)).toNat ≤ j) := by
  rw [s.argBest_eq_foldr o hany]
  cases hbest : ((s.argElems o).map Prod.snd).foldr argNode none with
  | none =>
    obtain ⟨i, hi, -⟩ := hany
    exact absurd ((s.some_mem_argElems o (i, s.argKey o i)).mpr ⟨hi, rfl⟩) (not_mem_of_foldr_argNode hbest _)
  | some p =>
    obtain ⟨hmem, hmax⟩ := firstLargest_of_foldr_argNode (s.argElems_indexOrder o) hbest
    obtain ⟨henters, hkey⟩ := (s.some_mem_argElems o p).mp hmem
    have hindex : (argWord (some p)).toNat = p.1 := by
      have hlt := henters.1
      have hle := (elems_bounds o.w o.dt).2
      rw [argWord, BitVec.toNat_ofNat]
      omega
    rw [hindex, ← hkey]
    exact ⟨henters, fun j hj => hmax _ ((s.some_mem_argElems o (j, s.argKey o j)).mpr ⟨hj, rfl⟩)⟩

/-- Where no enabled element is a number, it gives all ones. -/
theorem State.argBest_none (hno : ∀ i < elems o.w o.dt, active s.em o.dt.bits i = true →
    ¬ isNumber o.dt (elemAt (s.readV o.va) o.dt.bits i)) : argWord (s.argBest o) = BitVec.allOnes 64 := by
  rw [State.argBest, if_neg]
  · rfl
  · rw [s.any_argElems o]
    rintro ⟨i, ⟨hi, hnum⟩, hon⟩
    exact hno i hi hon (hnum hon)

end

end Sys2Proof.Machine

namespace Sys2Proof.Proofs

open Sys2Proof.Machine

/-- Settles O23: the root of VARGMAX's tree is the first largest entry, since its nodes are associative; a sort by insertion is
stable; the merge is the library's. -/
theorem sortAndMergeResults : Obligations.SortAndMergeResults := by
  refine ⟨fun s o h => ⟨_, executes_vargmax h, s.argBest_none o, s.argBest_largest o⟩, fun s o h => ?_,
    fun s o h => executes_vmrg h, fun key as bs => ?_⟩
  · exact ⟨_, sortBy_perm _, sortBy_falling (fun p => elemKey o.dt p.2.1) ((s.sortPairs_ascending o).filter _),
      executes_vsort h⟩
  · rw [mergeKeys_eq_merge key _ as bs (Nat.le_refl _)]
    exact ⟨List.merge_perm_append _, merge_falling key⟩

end Sys2Proof.Proofs
end

section
/-! PROOFS. The bivouac queue: VDEFER, VDRAIN and VDSTAT (09 R199 to R203: O20). The lemmas say once what a spill and a fetch do,
and which entries of a queue a tag takes. -/

namespace Sys2Proof.Machine

open Sys2Proof.Claims

/-! ### Spilling and fetching (09 R199, R200, R202) -/

/-- The on-chip entries of a core are in the order of their appends. -/
theorem State.bivAt_ascending (s : State) (loc : Nat) : (s.bivAt loc).Pairwise fun x y => x.2 ≤ y.2 :=
  (sortBy_stable (came := fun _ _ => True) (by simp only [decide_eq_true_eq]; omega) (by simp only [decide_eq_true_eq]; omega)
    (List.pairwise_iff_getElem.mpr fun _ _ _ _ _ => trivial)).imp fun h => of_decide_eq_true h.1

/-- The on-chip entries of a core are those of its tasks. -/
theorem State.mem_bivAt (s : State) (loc id n : Nat) :
    (id, n) ∈ s.bivAt loc ↔ ∃ t ∈ s.tasks, t.loc = loc ∧ t.id = id ∧ ∃ e ∈ t.biv, e.n = n ∧ e.slot = none := by
  rw [State.bivAt, (sortBy_perm _).mem_iff]
  simp only [List.mem_flatMap, List.mem_filter, List.mem_map, beq_iff_eq, Option.isNone_iff_eq_none, Prod.mk.injEq]
  constructor
  · rintro ⟨t, ⟨ht, hloc⟩, e, ⟨he, hslot⟩, hid, hn⟩
    exact ⟨t, ht, hloc, hid, e, he, hn, hslot⟩
  · rintro ⟨t, ht, hloc, hid, e, he, hn, hslot⟩
    exact ⟨t, ⟨ht, hloc⟩, e, ⟨he, hslot⟩, hid, hn⟩

/-- The charge of a poisoned walk is work at the home slices. -/
theorem State.walkCharge_homeOnly (s : State) (ctx : Nat) (t : Trap) : s.HomeOnly (s.walkCharge ctx t) := by
  rw [State.walkCharge]
  cases t.walk with
  | none => exact .refl s
  | some pa =>
    dsimp only
    rw [State.walkLost, State.chargeOnce]
    split_ifs <;> rfl

/-- A write that cannot be made changes at most the home slices. -/
theorem State.ctxMiss_homeOnly (s : State) (ctx : Nat) (va : Word) (n : Nat) : s.HomeOnly (s.ctxMiss ctx va n) := by
  rw [State.ctxMiss]
  split
  · exact .refl s
  · next t _ =>
    cases t with
    | none => exact .refl s
    | some t => exact s.walkCharge_homeOnly ctx t

theorem State.HomeOnly.cur {s t : State} (h : s.HomeOnly t) : t.cur = s.cur := Eq.trans (congrArg State.cur h) rfl

theorem State.HomeOnly.others {s t : State} (h : s.HomeOnly t) : t.others = s.others := Eq.trans (congrArg State.others h) rfl

section
variable {s : State} {t : Task} {c : Ctx} {e : BivEntry} (ht : s.task t.id = some t) (hc : s.ctxOf t.ctx = some c)
  (he : (t.biv.find? fun x => x.n == e.n && x.slot.isNone) = some e)
include ht hc he

/-- An entry whose slot can be written leaves the chip for the lowest free slot of its context's ring. -/
theorem State.spillBiv_put {u : State} (hput : s.ringPut ⟨t.ctx, t.depth, t.id, t.loc⟩ c.bqring (freeSlotOf (s.bivSlots t.ctx))
    (e.bytes (t.ctl.taskid.toNat % 2 ^ 32)) = some u) :
    s.spillBiv t.id e.n = u.updTask t.id fun v => { v with biv := v.biv.map fun x =>
      if x.n = e.n then { x with words := [], slot := some (freeSlotOf (s.bivSlots t.ctx)) } else x } := by
  simp only [State.spillBiv, ht, hc, he, hput]

/-- An entry whose slot cannot be written stays on the chip (log 100). -/
theorem State.spillBiv_miss (hput : s.ringPut ⟨t.ctx, t.depth, t.id, t.loc⟩ c.bqring (freeSlotOf (s.bivSlots t.ctx))
    (e.bytes (t.ctl.taskid.toNat % 2 ^ 32)) = none) :
    (s.spillBiv t.id e.n).cur = s.cur ∧ (s.spillBiv t.id e.n).others = s.others := by
  have hmiss : s.spillBiv t.id e.n = s.ctxMiss t.ctx (ringSlot c.bqring (freeSlotOf (s.bivSlots t.ctx))) 64 := by
    simp only [State.spillBiv, ht, hc, he, hput]
  rw [hmiss]
  exact ⟨(s.ctxMiss_homeOnly ..).cur, (s.ctxMiss_homeOnly ..).others⟩

end

/-- One entry fetched, after those of a list. -/
def State.fetchOne (c : Ctx) (acc : State × List BivEntry) (e : BivEntry) : State × List BivEntry :=
  match e.slot with
  | none => (acc.1, acc.2 ++ [e])
  | some k =>
    let r := acc.1.ringGet c.id c.bqring k
    (r.1, acc.2 ++ [e.back r.2.1 r.2.2])

theorem State.fetchBiv_eq_foldl (s : State) (c : Ctx) (es : List BivEntry) :
    s.fetchBiv c es = es.foldl (State.fetchOne c) (s, []) := rfl

theorem State.fetchOne_onChip (c : Ctx) (acc : State × List BivEntry) {e : BivEntry} (h : e.slot = none) :
    State.fetchOne c acc e = (acc.1, acc.2 ++ [e]) := by rw [State.fetchOne, h]

theorem State.length_fetchOne (c : Ctx) (acc : State × List BivEntry) (e : BivEntry) :
    (State.fetchOne c acc e).2.length = acc.2.length + 1 := by
  rw [State.fetchOne]
  split <;> exact List.length_append

/-- Entries that are all on the chip are fetched as they stand. -/
theorem State.fetchBiv_onChip (s : State) (c : Ctx) {es : List BivEntry} (h : ∀ e ∈ es, e.slot = none) :
    s.fetchBiv c es = (s, es) := by
  have hfold (es : List BivEntry) (h : ∀ e ∈ es, e.slot = none) (acc : State × List BivEntry) :
      es.foldl (State.fetchOne c) acc = (acc.1, acc.2 ++ es) := by
    induction es generalizing acc with
    | nil => rw [List.append_nil]; rfl
    | cons e es ih =>
      obtain ⟨he, hes⟩ := List.forall_mem_cons.mp h
      rw [List.foldl_cons, ih hes, State.fetchOne_onChip c acc he, List.append_assoc]
      rfl
  exact hfold es h (s, [])

/-- As many entries are fetched as are asked for. -/
theorem State.length_fetchBiv (s : State) (c : Ctx) (es : List BivEntry) : (s.fetchBiv c es).2.length = es.length := by
  have hfold (acc : State × List BivEntry) : (es.foldl (State.fetchOne c) acc).2.length = acc.2.length + es.length := by
    induction es generalizing acc with
    | nil => rfl
    | cons e es ih => rw [List.foldl_cons, ih, State.length_fetchOne, List.length_cons]; omega
  exact (hfold (s, [])).trans (Nat.zero_add _)

/-! ### VDEFER (09 R201) -/

/-- A use of each of some vector registers, where no such use draws lanes. -/
theorem scalar_map (f : VReg → Use) (vs : List VReg) (h : ∀ v, (f v).scalar = true) : (vs.map f).all Use.scalar = true := by
  simp [h]

/-- The lanes that VDEFER appends. -/
def State.deferLanes (s : State) : List Nat := (List.range 32).filter fun l => s.em.getLsbD l && s.cur.regs.cm.getLsbD l

/-- The entries that VDEFER appends, one a lane. -/
def State.deferEntries (s : State) (o : VdfOps) : List BivEntry :=
  s.deferLanes.map fun l => ⟨o.path.toNat, ((s.readS o.s).toNat + l) % 2 ^ 32,
    (List.range (o.n.toNat + 1)).map fun k => BitVec.ofNat 32 (elemAt (s.readV ⟨(o.va.val + k) % 32, by omega⟩) 32 l), false,
    s.nextId + l, none⟩

theorem State.length_deferEntries (s : State) (o : VdfOps) : (s.deferEntries o).length = s.deferLanes.length := List.length_map ..

/-- VDEFER as a slot over its entries. -/
theorem exec_vdefer (o : VdfOps) (s : State) : exec (.vdefer o) s =
    s.slot ([.srcEm, .srcS o.s true, .write .em] ++ .lanes 1024 :: (vrun o.va (o.n.toNat + 1)).map fun v => .srcV v true) fun s =>
      if s.myCtx.bqcap < s.bivCount s.cur.ctx + (s.deferEntries o).length then
        .error (.trap (.now cProt (BitVec.ofNat 64 (s.bivCount s.cur.ctx))))
      else
        let t : State := { s.setCur fun t => { t with biv := t.biv ++ s.deferEntries o } with nextId := s.nextId + 32 }
        .ok ((t.spillExcess s.cur.loc).later 2 (outOf .em (s.em &&& ~~~s.cur.regs.cm))) := by
  have hmask (x y : BitVec 32) : x &&& ~~~(x &&& y) = x &&& ~~~y := by
    refine BitVec.eq_of_getLsbD_eq fun i hi => ?_
    cases hx : x.getLsbD i <;> simp [hx]
  change execVdefer o s = _
  simp only [execVdefer, hmask, BitVec.getLsbD_and, vrun, List.map_map]
  rfl

section
variable {s : State} {o : VdfOps} (h : s.Issues (.vdefer o))
include h

/-- VDEFER appends its entries where the context has room, spills those beyond the core's space, and drops their lanes from em. -/
theorem executes_vdefer (hroom : s.bivCount s.cur.ctx + s.deferLanes.length ≤ s.myCtx.bqcap) :
    let t : State := { s.setCur fun t => { t with biv := t.biv ++ s.deferEntries o } with nextId := s.nextId + 32 }
    Executes (.vdefer o) s ((t.spillExcess s.cur.loc).later 2 (outOf .em (s.em &&& ~~~s.cur.regs.cm))) := by
  refine executes_lanes (exec_vdefer o) rfl (scalar_map _ _ fun _ => rfl) (by decide) h (if_neg ?_)
  rw [s.length_deferEntries o]
  exact Nat.not_lt.mpr hroom

/-- VDEFER raises PROT, with the entries held, where the context has no room. -/
theorem raises_vdefer (hfull : s.myCtx.bqcap < s.bivCount s.cur.ctx + s.deferLanes.length) :
    Raises (.vdefer o) s (.now cProt (BitVec.ofNat 64 (s.bivCount s.cur.ctx))) := by
  refine raises_lanes (exec_vdefer o) rfl (scalar_map _ _ fun _ => rfl) (by decide) h (if_pos ?_)
  rwa [s.length_deferEntries o]

end

/-! ### VDRAIN (09 R202) -/

/-- The entries taken from a queue are the first of their tag; the others of the tag stay, and so do all of other tags. -/
theorem takeTag_parts (tag k : Nat) (es : List BivEntry) :
    (takeTag tag k es).1 = (es.filter fun e => e.tag == tag).take k ∧
    (takeTag tag k es).2.filter (fun e => e.tag == tag) = (es.filter fun e => e.tag == tag).drop k ∧
    (takeTag tag k es).2.filter (fun e => e.tag != tag) = es.filter fun e => e.tag != tag := by
  induction es generalizing k with
  | nil => simp [takeTag]
  | cons e es ih =>
    rw [takeTag]
    by_cases htag : e.tag = tag
    · cases k with
      | zero => simp [htag, ih]
      | succ k => simp [htag, ih]
    · simp [htag, ih]

/-- What VDRAIN delivers of entry `i` into its register `j`: a word of it, or its index into the last, register `n`. -/
def drainWord (got : List BivEntry) (n i j : Nat) : Nat :=
  match got[i]? with
  | some e => if j = n then e.ix else (e.words.getD j 0).toNat
  | none => 0

theorem drainWord_index (got : List BivEntry) (n i : Nat) : drainWord got n i n = (got[i]?.map BivEntry.ix).getD 0 := by
  rw [drainWord]
  cases got[i]? with
  | none => rfl
  | some e => exact if_pos rfl

theorem drainWord_word (got : List BivEntry) {n j : Nat} (hj : j ≠ n) (i : Nat) :
    drainWord got n i j = (got[i]?.map fun e => (e.words.getD j 0).toNat).getD 0 := by
  rw [drainWord]
  cases got[i]? with
  | none => rfl
  | some e => exact if_neg hj

/-- The results of VDRAIN. -/
def drainOuts (o : VdfOps) (got : List BivEntry) : List Out :=
  ((vrun o.va (o.n.toNat + 1 + 1)).zipIdx.map fun p =>
    vecOut p.1 32 32 (fun i => decide (i < got.length)) fun i => drainWord got (o.n.toNat + 1) i p.2) ++
    [outS o.s (BitVec.ofNat 64 got.length), outOf .em (laneMask fun i => decide (i < got.length))]

/-- The machine in which VDRAIN has taken its entries and begun its operation. -/
def State.drained (s : State) (o : VdfOps) : State :=
  let r := s.fetchBiv s.myCtx (takeTag o.path.toNat 32 s.cur.biv).1
  (r.1.beginOpWith .drain (drainOuts o r.2) false none (r.2.any BivEntry.poison) false).setCur fun t =>
    { t with biv := (takeTag o.path.toNat 32 s.cur.biv).2 }

/-- VDRAIN as a slot. -/
theorem exec_vdrain (o : VdfOps) (s : State) : exec (.vdrain o) s =
    s.slot ([.mark .em, .mark (.s o.s)] ++ .lanes 1024 :: (vrun o.va (o.n.toNat + 1 + 1)).map fun v => .mark (.v v)) fun s =>
      .ok (s.drained o) := rfl

/-- VDRAIN executes. -/
theorem executes_vdrain {s : State} {o : VdfOps} (h : s.Issues (.vdrain o)) : Executes (.vdrain o) s (s.drained o) :=
  executes_lanes (exec_vdrain o) rfl (scalar_map _ _ fun _ => rfl) (by decide) h rfl

section
variable (o : VdfOps) (got : List BivEntry)

theorem length_drainOuts : (drainOuts o got).length = o.n.toNat + 4 := by
  simp [drainOuts, vrun]

/-- The result for a vector register. -/
theorem drainOuts_vector {j : Nat} (hj : j ≤ o.n.toNat + 1) : (drainOuts o got)[j]? =
    some (vecOut ⟨(o.va.val + j) % 32, by omega⟩ 32 32 (fun i => decide (i < got.length))
      fun i => drainWord got (o.n.toNat + 1) i j) := by
  have hlt : j < o.n.toNat + 1 + 1 := by omega
  simp [drainOuts, vrun, List.getElem?_append, hlt]

/-- The last vector register takes the indices. -/
theorem drainOuts_index : (drainOuts o got)[o.n.toNat + 1]? =
    some (vecOut ⟨(o.va.val + (o.n.toNat + 1)) % 32, by omega⟩ 32 32 (fun i => decide (i < got.length))
      fun i => (got[i]?.map BivEntry.ix).getD 0) := by
  rw [drainOuts_vector o got (Nat.le_refl _), funext (drainWord_index got _)]

/-- The others take the words. -/
theorem drainOuts_word {j : Nat} (hj : j ≤ o.n.toNat) : (drainOuts o got)[j]? =
    some (vecOut ⟨(o.va.val + j) % 32, by omega⟩ 32 32 (fun i => decide (i < got.length))
      fun i => (got[i]?.map fun e => (e.words.getD j 0).toNat).getD 0) := by
  rw [drainOuts_vector o got (Nat.le_succ_of_le hj), funext (drainWord_word got (by omega))]

/-- A mask of the lanes below a number. -/
theorem laneMask_lt (n : Nat) : laneMask (fun i => decide (i < n)) = BitVec.ofNat 32 (2 ^ n - 1) := by
  refine BitVec.eq_of_getLsbD_eq fun i hi => ?_
  rw [getLsbD_laneMask _ hi, BitVec.getLsbD_ofNat, Nat.testBit_two_pow_sub_one, decide_eq_true hi, Bool.true_and]

/-- The results for the count and em. -/
theorem drainOuts_count : (drainOuts o got)[o.n.toNat + 2]? = some (outS o.s (BitVec.ofNat 64 got.length)) := by
  simp [drainOuts, vrun]

theorem drainOuts_em : (drainOuts o got)[o.n.toNat + 3]? = some (outOf .em (BitVec.ofNat 32 (2 ^ got.length - 1))) := by
  simp [drainOuts, vrun, laneMask_lt]

end

/-! ### VDSTAT (09 R203) -/

theorem exec_vdstat (o : VdstatOps) (s : State) : exec (.vdstat o) s = execVdstat o s := rfl

/-- VDSTAT counts the entries of its tag, and all of them. -/
theorem executes_vdstat {s : State} {o : VdstatOps} (h : s.Issues (.vdstat o)) :
    Executes (.vdstat o) s (s.later 2 (outS o.sd (BitVec.ofNat 64
      ((s.cur.biv.countP fun e => e.tag == (s.readS o.sb).toNat % 256) % 2 ^ 32 + s.cur.biv.length * 2 ^ 32)))) := by
  refine executes_scalar (exec_vdstat o) rfl h ?_
  have hbiv : s.scr.biv.getD s.cur.biv = s.cur.biv := by rw [h.fresh]; rfl
  rw [hbiv, List.countP_eq_length_filter]

end Sys2Proof.Machine

namespace Sys2Proof.Proofs

open Sys2Proof.Machine

/-- Settles O20: VDEFER by the room of its context; a spill by whether its slot can be written; VDRAIN by the entries that its tag
takes from the queue, and the results made from them. -/
theorem bivouacResults : Obligations.BivouacResults := by
  refine ⟨fun s o h => ⟨executes_vdefer h, raises_vdefer h⟩, fun s loc => ⟨rfl, s.bivAt_ascending loc, s.mem_bivAt loc⟩,
    fun s t c e ht hc he => ⟨fun u hput => State.spillBiv_put ht hc he hput, fun hput => ?_⟩, fun s o h => ?_,
    fun s o h => executes_vdstat h⟩
  · obtain ⟨hcur, hothers⟩ := State.spillBiv_miss ht hc he hput
    exact ⟨congrArg Task.biv hcur, hothers⟩
  · obtain ⟨htaken, hleft, hothers⟩ := takeTag_parts o.path.toNat 32 s.cur.biv
    have hexec := executes_vdrain h
    rw [State.drained, htaken] at hexec
    exact ⟨fun hchip => s.fetchBiv_onChip _ hchip, s.length_fetchBiv .., _, _, hexec, hothers, hleft, length_drainOuts ..,
      drainOuts_count .., drainOuts_em .., drainOuts_index .., fun _ hj => drainOuts_word _ _ hj⟩

end Sys2Proof.Proofs
end

section
/-! PROOFS. Special functions, random words, the softmax merge, conversions and quantisation (09 R205 to R210, R217: O21). The
lemmas say once what a slot that may round stochastically executes as, and what the model computes over lists as a result for each
element. -/

namespace Sys2Proof.Machine

open Sys2Proof.Claims

/-! ### Special functions, random words and the softmax merge (09 R205, R210, R217) -/

/-- The rows of 09 R205 are special functions of their result. -/
theorem exec_specialRows : ∀ row ∈ specialRows, ∀ (o : VR1) (s : State), exec (row.1 o) s = special row.2 o s := by
  simp only [specialRows, List.forall_mem_cons, List.not_mem_nil, false_imp_iff, implies_true, and_true]
  exact ⟨fun _ _ => rfl, fun _ _ => rfl, fun _ _ => rfl, fun _ _ => rfl, fun _ _ => rfl, fun _ _ => rfl, fun _ _ => rfl,
    fun _ _ => rfl, fun _ _ => rfl, fun _ _ => rfl, fun _ _ => rfl⟩

/-- A special function executes. -/
theorem executes_special {i : Instr} {s : State} {f : Nat → Nat} {o : VR1} (he : ∀ s, exec i s = special f o s)
    (h : s.Issues i) :
    Executes i s (s.beginX [masked s o.vd o.w .f32 fun k => f (elemAt (s.readV o.va) 32 k)] none false) :=
  executes_scalar he rfl h rfl

theorem exec_vrng (o : VSS) (s : State) : exec (.vrng o) s = execVrng o s := rfl
theorem exec_smerge (o : XmOps) (s : State) : exec (.smerge o) s = execSmerge o s := rfl

theorem toNat_low_half (x : Word) : (x.extractLsb' (32 * 0) 32).toNat = x.toNat % 2 ^ 32 := by
  rw [BitVec.extractLsb'_toNat, Nat.mul_zero, Nat.shiftRight_zero]

theorem toNat_high_half (x : Word) : (x.extractLsb' (32 * 1) 32).toNat = x.toNat / 2 ^ 32 := by
  rw [BitVec.extractLsb'_toNat, Nat.shiftRight_eq_div_pow]
  omega

/-- SMERGE executes. -/
theorem executes_smerge {s : State} {o : XmOps} (h : s.Issues (.smerge o)) :
    let lanes (v : VReg) : List Nat := (List.range 32).map fun i => elemAt (s.readV v) 32 i
    let part (r : SReg) (k : Nat) : Nat := ((s.readS r).extractLsb' (32 * k) 32).toNat
    let r := softmaxMerge (part o.sd 0) (part o.sd 1) (lanes o.vd) (part o.sa 0) (part o.sa 1) (lanes o.va)
    Executes (.smerge o) s (s.beginX
      [vecAll o.vd 32 32 fun i => r.2.2.getD i 0, outS o.sd (BitVec.ofNat 64 (r.1 + r.2.1 * 2 ^ 32))] none false) := by
  intro lanes part r
  refine executes_scalar (exec_smerge o) rfl h ?_
  simp only [r, part, toNat_low_half, toNat_high_half]
  rfl

/-! ### Slots that may round stochastically (05 R114, 06 R130) -/

/-- What a slot counts as written, it writes or marks. -/
theorem mem_of_mem_writers {d : Dst} {us : List Use} (h : d ∈ writers us) : .write d ∈ us ∨ .mark d ∈ us := by
  rw [writers, List.mem_eraseDups] at h
  obtain ⟨u, hu, hd⟩ := List.mem_filterMap.mp h
  cases u with
  | write e | mark e =>
    dsimp only at hd
    split at hd
    · cases hd
    · cases hd; simp [hu]
  | _ => cases hd

section
variable {i : Instr} {s : State} {us : List Use} {sto : Bool} {body : State → Except Stop State}
  (he : ∀ s, exec i s = s.slot (us ++ if sto then [.sto] else []) body) (hs : us.all Use.scalar = true)
  (hw : .write (.cr 0x011) ∉ us) (hm : .mark (.cr 0x011) ∉ us) (h : s.Issues i)
include he hs hw hm h

/-- A slot that may round stochastically, and does not write its counter, executes. -/
theorem executes_sto {t : State} (hb : body s = .ok t) : Executes i s t := by
  refine executes_of_slot (us := fun _ => _) he rfl h (breaksLimits_single (.inr fun hcr => ?_) ?_) hb
  · have := mem_of_mem_writers hcr
    cases sto <;> simp_all
  · have hlanes := lanesOf_scalar hs
    rw [lanesOf_eq_sum] at hlanes ⊢
    rw [List.map_append, List.sum_append, hlanes]
    cases sto <;> decide

end

/-! ### Conversions and quantisation (05 R111, R112, 09 R207 to R209) -/

/-- One element of VCVT. -/
def State.cvtElem (s : State) (o : VcvtOps) (i : Nat) : Conv :=
  o.dtt.conv s.f8 (s.rndMode o.rnd i) o.ovf (o.dtf.value s.f8 (elemAt (s.readV o.va) o.dtf.bits i))

/-- The machine in which VCVT has begun its operation. -/
def State.converted (s : State) (o : VcvtOps) : State :=
  let z := max o.dtf.bits o.dtt.bits
  s.convResult o.ovf ((List.range (o.w.bits / z)).filter fun i => active s.em z i && (s.cvtElem o i).ovf)
    [vecOut o.vd o.dtt.bits (o.w.bits / z) (active s.em z) fun i => (s.cvtElem o i).bits]

/-- VCVT as a slot. -/
theorem exec_vcvt (o : VcvtOps) (s : State) : exec (.vcvt o) s =
    s.slot ([.srcEm, .srcV o.va true, .mark (.v o.vd)] ++ (if o.dtf = .f8 ∨ o.dtt = .f8 then [.f8] else []) ++
        if o.rnd == .rsto then [.sto] else []) fun s =>
      .ok (if o.rnd == .rsto then (s.converted o).tookSto 1 else s.converted o) := rfl

/-- VCVT executes. -/
theorem executes_vcvt {s : State} {o : VcvtOps} (h : s.Issues (.vcvt o)) :
    Executes (.vcvt o) s (if o.rnd = .rsto then (s.converted o).tookSto 1 else s.converted o) := by
  refine executes_sto (exec_vcvt o) ?_ ?_ ?_ h ?_
  · split <;> rfl
  · split <;> simp
  · split <;> simp
  · simp only [beq_iff_eq]

/-- What VQUANT does with SD: a block's scale goes there, that of FP8 elements comes from there. -/
def quantScale (o : VqOps) : List Use :=
  match Machine.QFmt.block o.qf with
  | some _ => [.mark (.s o.sd)]
  | none => [.srcS o.sd true]

/-- The rounding mode of an element of VQUANT. -/
def State.quantMode (s : State) (o : VqOps) (i : Nat) : Rm := if o.sr then s.stoMode i else .rne

/-- The machine in which VQUANT has begun its operation on a block. -/
def State.quantizedBlock (s : State) (o : VqOps) (b : BlockFmt) : State :=
  let k := b.encode (s.quantMode o) o.ovf (f32Values (s.readV o.va))
  s.convResult o.ovf k.ovf
    [vecAll o.vd b.elemBits 32 fun i => k.elems.getD i 0, outS o.sd (BitVec.ofNat 64 (if b.isKd then k.x0 + 256 * k.x1 else k.x0))]

/-- One element of VQUANT to FP8 of a given scale. -/
def State.quantElem (s : State) (o : VqOps) (p : FVal × Nat) : Conv :=
  if (s.readS o.sd).toNat % 256 = 0xFF then ⟨(QFmt.fp8 o.qf).qnan, false⟩
  else (QFmt.fp8 o.qf).conv (s.quantMode o p.2) o.ovf (p.1.scale (127 - (((s.readS o.sd).toNat % 256 : Nat) : Int)))

/-- The machine in which VQUANT has begun its operation on FP8 elements. -/
def State.quantizedElems (s : State) (o : VqOps) : State :=
  let cs := (f32Values (s.readV o.va)).zipIdx.map (s.quantElem o)
  s.convResult o.ovf ((cs.zipIdx.filter fun p => p.1.ovf).map Prod.snd) [vecAll o.vd 8 32 fun i => (cs.map Conv.bits).getD i 0]

/-- The machine in which VQUANT has begun its operation. -/
def State.quantized (s : State) (o : VqOps) : State :=
  match Machine.QFmt.block o.qf with
  | some b => s.quantizedBlock o b
  | none => s.quantizedElems o

/-- VQUANT as a slot. -/
theorem exec_vquant (o : VqOps) (s : State) : exec (.vquant o) s =
    s.slot ([.srcV o.va true, .mark (.v o.vd)] ++ quantScale o ++ if o.sr then [.sto] else []) fun s =>
      .ok (if o.sr then (s.quantized o).tookSto 1 else s.quantized o) := rfl

/-- VQUANT executes. -/
theorem executes_vquant {s : State} {o : VqOps} (h : s.Issues (.vquant o)) :
    Executes (.vquant o) s (if o.sr then (s.quantized o).tookSto 1 else s.quantized o) := by
  refine executes_sto (exec_vquant o) ?_ ?_ ?_ h rfl
  · rw [quantScale]
    split <;> rfl
  · rw [quantScale]
    split <;> simp
  · rw [quantScale]
    split <;> simp

/-- A list made from the numbers below `n`, with the place of each element. -/
theorem zipIdx_map_range {α : Type} (f : Nat → α) (n : Nat) :
    ((List.range n).map f).zipIdx = (List.range n).map fun i => (f i, i) :=
  List.ext_getElem (by simp) fun i _ _ => by simp

/-- VQUANT to FP8, element by element. -/
theorem State.quantizedElems_eq (s : State) (o : VqOps) :
    let one (i : Nat) : Conv := s.quantElem o (fp32.decode (elemAt (s.readV o.va) 32 i), i)
    s.quantizedElems o = s.convResult o.ovf ((List.range 32).filter fun i => (one i).ovf)
      [vecAll o.vd 8 32 fun i => (one i).bits] := by
  intro one
  have helems : (f32Values (s.readV o.va)).zipIdx.map (s.quantElem o) = (List.range 32).map one := by
    rw [f32Values, zipIdx_map_range, List.map_map]; rfl
  have hovf : ((((List.range 32).map one).zipIdx.filter fun p => p.1.ovf).map Prod.snd) =
      (List.range 32).filter fun i => (one i).ovf := by
    rw [zipIdx_map_range, List.filter_map, List.map_map]
    exact List.map_id _
  simp only [State.quantizedElems, helems, hovf, vecAll, List.map_map]
  rw [vecOut_congr fun i hi => ?_]
  simp [hi]

theorem exec_vdequant (o : VdqOps) (s : State) : exec (.vdequant o) s = execVdequant o s := rfl

end Sys2Proof.Machine

namespace Sys2Proof.Proofs

open Sys2Proof.Machine

/-- Settles O21: the special functions by their rows; a conversion by the results of its elements and those of them that
overflow. -/
theorem specialFunctionResults : Obligations.SpecialFunctionResults := by
  refine ⟨⟨fun row hrow s o h => executes_special (exec_specialRows row hrow o) h,
    fun s o h => executes_scalar (exec_vrng o) rfl h rfl, fun s o h => executes_smerge h⟩, fun s o h => executes_vcvt h,
    fun s o b h hb => ?_, fun s o h hb => ?_, fun s o h => executes_scalar (exec_vdequant o) rfl h rfl⟩
  · have hexec := executes_vquant h
    simp only [State.quantized, hb] at hexec
    exact hexec
  · have hexec := executes_vquant h
    simp only [State.quantized, hb, State.quantizedElems_eq] at hexec
    exact hexec

end Sys2Proof.Proofs
end

section
/-! PROOFS. Where loads and stores of the M class issue, and what their checks raise (10 R219 to R226, R239, R240: O24, O25). The
lemmas say once what each form executes as; an access that the core may send answers a next state. -/

namespace Sys2Proof.Machine

open Sys2Proof.Claims

/-! ### Slots of the M class -/

/-- The use of an address field draws neither lanes nor stochastic words. -/
theorem baseUse_scalar (a : SReg) (wa : Bool) {us : List Use} (h : us.all Use.scalar = true) :
    (baseUse a wa ++ us).all Use.scalar = true := by
  rw [List.all_append, h, Bool.and_true, baseUse]
  split <;> rfl

section
variable {i : Instr} {s : State} {us : List Use} {body : State → Except Stop State} {r : Except Stop State}
  (he : ∀ s, exec i s = s.slot us body) (hs : us.all Use.scalar = true) (h : s.Issues i) (hb : body s = r)
include he hs h hb

/-- An instruction whose own execution is an access that answers a state executes to it. -/
theorem executes_access (hr : ∃ t, r = .ok t) : ∃ t, r = .ok t ∧ Executes i s t := by
  obtain ⟨t, ht⟩ := hr
  exact ⟨t, ht, executes_scalar he hs h (hb.trans ht)⟩

/-- An instruction whose own execution stops at a trap raises it. -/
theorem raises_access {x : Trap} (hr : r = .error (.trap x)) : Raises i s x := raises_scalar he hs h (hb.trans hr)

end

/-- A load that the core may send is issued (03 R67). -/
theorem State.load_ok {s : State} {ps : List Piece} (h : maySend s false ps) (dst : Dst) (mask : BitVec 1024) (sext : Nat) :
    ∃ t, s.load dst mask sext ps = .ok t := by
  have hgo : ¬ ((ps.filter Piece.remote).length ≠ 0 ∧ s.farBefore false = true ∧
      32 < s.remoteLoads s.cur.loc + (ps.filter Piece.remote).length) := by
    rintro ⟨hn, hfar, hmany⟩
    obtain h0 | hnone | hroom := h
    · exact hn h0
    · exact Bool.false_ne_true (hnone.symm.trans hfar)
    · exact absurd hmany hroom.not_gt
  unfold State.load
  rw [if_neg hgo]
  dsimp only
  split <;> exact ⟨_, rfl⟩

/-- A store that the core may send is issued (03 R65). -/
theorem State.store_ok {s : State} {ps : List Piece} (h : maySend s true ps) (x : VWord) : ∃ t, s.store x ps = .ok t := by
  have hgo : ¬ ((ps.filter Piece.remote).length ≠ 0 ∧ s.farBefore true = true ∧
      64 < s.remoteStores s.cur.loc + (ps.filter Piece.remote).length) := by
    rintro ⟨hn, hfar, hmany⟩
    obtain h0 | hnone | hroom := h
    · exact hn h0
    · exact Bool.false_ne_true (hnone.symm.trans hfar)
    · exact absurd hmany hroom.not_gt
  unfold State.store
  rw [if_neg hgo]
  exact ⟨_, rfl⟩

/-! ### The checks of an address (10 R219, R220) -/

section
variable {s : State} {w : Way} {k : Acc} {va : Word} {n : Nat}

theorem State.reachAligned_misaligned (h : va.toNat % n ≠ 0) : s.reachAligned w k va n = trapNow cMisalign va := if_pos h

theorem State.reachAligned_aligned (h : va.toNat % n = 0) : s.reachAligned w k va n = s.reach w k va n va :=
  if_neg (not_not.mpr h)

/-- An address of the local window leads there (04 R89). -/
theorem State.reach_local (report : Word) (h : va.toNat < padSize) :
    s.reach w k va n report = if s.cur.inWindow va n then .ok (.pad (padBase s.cur.loc + va.toNat)) else trapNow cSpBound report := by
  have hlocal : va.toNat < 0x400000 := h.trans (by decide)
  rw [State.reach, if_pos hlocal, State.reachLocal]
  exact if_pos h

/-- Bytes of the scratchpad outside the task window are not reached (10 R220). -/
theorem State.reachAligned_outside (ha : va.toNat % n = 0) (h : va.toNat < padSize)
    (hw : ¬ (s.cur.ctl.spb.toNat ≤ va.toNat ∧ va.toNat + n ≤ s.cur.ctl.spl.toNat)) :
    s.reachAligned w k va n = trapNow cSpBound va := by
  rw [State.reachAligned_aligned ha, State.reach_local va h, if_neg (mt (Task.inWindow_iff ..).mp hw)]

/-- Bytes of the task window are reached. -/
theorem State.reach_window (report : Word) (hn : 0 < n) (hw : inOwnWindow s va n) :
    s.reach w k va n report = .ok (.pad (padBase s.cur.loc + va.toNat)) := by
  obtain ⟨hlo, hhi, hpad⟩ := hw
  rw [State.reach_local report (by omega), if_pos ((Task.inWindow_iff ..).mpr ⟨hlo, hhi⟩)]

end

/-! ### Scalar accesses (10 R222, R223) -/

theorem exec_ldx (o : MROps) (s : State) : exec (.ldx o) s = execLdx o s := rfl
theorem exec_stx (o : MROps) (s : State) : exec (.stx o) s = execStx o s := rfl

/-- The rows of 10 R222 that load are loads of their size and extension. -/
theorem exec_loadRows : ∀ row ∈ loadRows, ∀ (o : MSOps) (s : State), exec (row.1 o) s = loadMS row.2.1 row.2.2 o s := by
  simp only [loadRows, List.forall_mem_cons, List.not_mem_nil, false_imp_iff, implies_true, and_true]
  exact ⟨fun _ _ => rfl, fun _ _ => rfl, fun _ _ => rfl, fun _ _ => rfl, fun _ _ => rfl, fun _ _ => rfl, fun _ _ => rfl⟩

/-- The rows of 10 R222 that store are stores of their size. -/
theorem exec_storeRows : ∀ row ∈ storeRows, ∀ (o : MSOps) (s : State), exec (row.1 o) s = storeMS row.2 o s := by
  simp only [storeRows, List.forall_mem_cons, List.not_mem_nil, false_imp_iff, implies_true, and_true]
  exact ⟨fun _ _ => rfl, fun _ _ => rfl, fun _ _ => rfl, fun _ _ => rfl⟩

section
variable {s : State} {va : Word} {z : Nat} {t : Dest}

/-- A scalar load of an address that passes its checks is a load of one piece. -/
theorem State.loadS_reached (d : SReg) (signed : Bool) (h : s.reachAligned .plain .load va z = .ok t) :
    s.loadS d va z signed = s.load (.s d) (lowMask 64) (if signed then 8 * z else 0) (whole t z) := by
  simp only [State.loadS, h, whole]

theorem State.loadS_stopped (d : SReg) (signed : Bool) {e : Stop} (h : s.reachAligned .plain .load va z = .error e) :
    s.loadS d va z signed = .error e := by
  simp only [State.loadS, h]

/-- A scalar store to an address that passes its checks is a store of one piece. -/
theorem State.storeS_reached (d : SReg) (h : s.reachAligned .plain .store va z = .ok t) :
    s.storeS d va z = s.store ((s.readS d).setWidth 1024) (whole t z) := by
  simp only [State.storeS, h, whole]

theorem State.storeS_stopped (d : SReg) {e : Stop} (h : s.reachAligned .plain .store va z = .error e) :
    s.storeS d va z = .error e := by
  simp only [State.storeS, h]

end

section
variable {i : Instr} {s : State} {o : MSOps} {z : Nat}

/-- A scalar load of the form MS issues where its address passes its checks. -/
theorem executes_loadMS {signed : Bool} {d : Dest} (he : ∀ s, exec i s = loadMS z signed o s) (h : s.Issues i)
    (hr : s.reachAligned .plain .load (Claims.msAddr s o z) z = .ok d) (hm : maySend s false (whole d z)) :
    ∃ t, s.load (.s o.d) (lowMask 64) (if signed then 8 * z else 0) (whole d z) = .ok t ∧ Executes i s t :=
  executes_access he (baseUse_scalar _ _ rfl) h (State.loadS_reached o.d signed hr) (State.load_ok hm ..)

/-- A scalar store of the form MS issues where its address passes its checks. -/
theorem executes_storeMS {d : Dest} (he : ∀ s, exec i s = storeMS z o s) (h : s.Issues i)
    (hr : s.reachAligned .plain .store (Claims.msAddr s o z) z = .ok d) (hm : maySend s true (whole d z)) :
    ∃ t, s.store ((s.readS o.d).setWidth 1024) (whole d z) = .ok t ∧ Executes i s t :=
  executes_access he (baseUse_scalar _ _ rfl) h (State.storeS_reached o.d hr) (State.store_ok hm _)

/-- A scalar load raises what the checks of its address raise. -/
theorem raises_loadMS {signed : Bool} {x : Trap} (he : ∀ s, exec i s = loadMS z signed o s) (h : s.Issues i)
    (hr : s.reachAligned .plain .load (Claims.msAddr s o z) z = .error (.trap x)) : Raises i s x :=
  raises_access he (baseUse_scalar _ _ rfl) h (State.loadS_stopped o.d signed hr) rfl

/-- A scalar store raises what the checks of its address raise. -/
theorem raises_storeMS {x : Trap} (he : ∀ s, exec i s = storeMS z o s) (h : s.Issues i)
    (hr : s.reachAligned .plain .store (Claims.msAddr s o z) z = .error (.trap x)) : Raises i s x :=
  raises_access he (baseUse_scalar _ _ rfl) h (State.storeS_stopped o.d hr) rfl

end

/-! ### Vector, strided, gathered and remote accesses (10 R224 to R226, R239, R240) -/

theorem exec_vld (o : MVOps) (s : State) : exec (.vld o) s = execVld o s := rfl
theorem exec_vst (o : MVOps) (s : State) : exec (.vst o) s = execVst o s := rfl
theorem exec_vlds (o : MVSOps) (s : State) : exec (.vlds o) s = execVlds o s := rfl
theorem exec_vsts (o : MVSOps) (s : State) : exec (.vsts o) s = execVsts o s := rfl
theorem exec_vgath (o : MVGOps) (s : State) : exec (.vgath o) s = execVgath o s := rfl
theorem exec_vscat (o : MVGOps) (s : State) : exec (.vscat o) s = execVscat o s := rfl
theorem exec_rld (o : MSZ) (s : State) : exec (.rld o) s = execRld o s := rfl
theorem exec_rst (o : MSZ) (s : State) : exec (.rst o) s = execRst o s := rfl
theorem exec_rldv (o : MVOps) (s : State) : exec (.rldv o) s = execRldv o s := rfl
theorem exec_rstv (o : MVOps) (s : State) : exec (.rstv o) s = execRstv o s := rfl

/-- What a vector access asks of its address is that it is 32-byte aligned (10 R224). -/
theorem vec_aligned {va : Word} (h : va.toNat % 32 = 0) : ¬ va.extractLsb' 0 5 ≠ 0#5 :=
  not_not.mpr ((extractLsb'_eq_zero_iff va 5).mpr h)

theorem vec_misaligned {va : Word} (h : va.toNat % 32 ≠ 0) : va.extractLsb' 0 5 ≠ 0#5 :=
  mt (extractLsb'_eq_zero_iff va 5).mp h

/-- The vector forms with one address raise MISALIGN where it is not 32-byte aligned (10 R224, R240). -/
theorem raises_vec_misaligned {s : State} {o : MVOps} (ha : (Claims.mvAddr s o).toNat % 32 ≠ 0) :
    (s.Issues (.vld o) → Raises (.vld o) s (.now cMisalign (Claims.mvAddr s o))) ∧
    (s.Issues (.vst o) → Raises (.vst o) s (.now cMisalign (Claims.mvAddr s o))) ∧
    (s.Issues (.rldv o) → Raises (.rldv o) s (.now cMisalign (Claims.mvAddr s o))) ∧
    (s.Issues (.rstv o) → Raises (.rstv o) s (.now cMisalign (Claims.mvAddr s o))) :=
  ⟨fun h => raises_scalar (exec_vld o) (baseUse_scalar _ _ rfl) h (if_pos (vec_misaligned ha)),
    fun h => raises_scalar (exec_vst o) (baseUse_scalar _ _ rfl) h (if_pos (vec_misaligned ha)),
    fun h => raises_scalar (exec_rldv o) (baseUse_scalar _ _ rfl) h (if_pos (vec_misaligned ha)),
    fun h => raises_scalar (exec_rstv o) (baseUse_scalar _ _ rfl) h (if_pos (vec_misaligned ha))⟩

section
variable {s : State} {ps : List Piece}

/-- VLD issues where the doublewords of its active lanes pass their checks. -/
theorem executes_vld {o : MVOps} (h : s.Issues (.vld o)) (ha : (s.mvAddr o).toNat % 32 = 0)
    (hr : s.reachAll .load (vecWants 8 s.em (s.mvAddr o) o.w) = .ok ps) (hm : maySend s false (joinPieces ps)) :
    ∃ t, s.load (.v o.vd) (lanesMask s.em o.w) 0 (joinPieces ps) = .ok t ∧ Executes (.vld o) s t :=
  executes_access (exec_vld o) (baseUse_scalar _ _ rfl) h ((if_neg (vec_aligned ha)).trans (by rw [hr])) (State.load_ok hm ..)

/-- VST issues where the granules of its active lanes pass their checks. -/
theorem executes_vst {o : MVOps} (h : s.Issues (.vst o)) (ha : (s.mvAddr o).toNat % 32 = 0)
    (hr : s.reachAll .store (vecWants 32 s.em (s.mvAddr o) o.w) = .ok ps) (hm : maySend s true (joinPieces ps)) :
    ∃ t, s.store (s.readV o.vd) (joinPieces ps) = .ok t ∧ Executes (.vst o) s t :=
  executes_access (exec_vst o) (baseUse_scalar _ _ rfl) h ((if_neg (vec_aligned ha)).trans (by rw [hr])) (State.store_ok hm _)

/-- VLDS issues where its active elements pass their checks. -/
theorem executes_vlds {o : MVSOps} (h : s.Issues (.vlds o))
    (hr : s.reachElems .load false o.esz.bytes (fun i => s.base o.a + BitVec.ofNat 64 i * s.readS o.b)
      (activeElems s.em o.esz.bytes o.w) = .ok ps) (hm : maySend s false ps) :
    ∃ t, s.load (.v o.vd) (elemsMask s.em o.esz.bytes o.w) 0 ps = .ok t ∧ Executes (.vlds o) s t :=
  executes_access (exec_vlds o) (baseUse_scalar _ _ rfl) h (by simp only [hr]) (State.load_ok hm ..)

/-- VSTS issues where its active elements pass their checks. -/
theorem executes_vsts {o : MVSOps} (h : s.Issues (.vsts o))
    (hr : s.reachElems .store false o.esz.bytes (fun i => s.base o.a + BitVec.ofNat 64 i * s.readS o.b)
      (activeElems s.em o.esz.bytes o.w) = .ok ps) (hm : maySend s true ps) :
    ∃ t, s.store (s.readV o.vd) ps = .ok t ∧ Executes (.vsts o) s t :=
  executes_access (exec_vsts o) (baseUse_scalar _ _ rfl) h (by simp only [hr]) (State.store_ok hm _)

/-- VGATH issues where its active elements pass their checks. -/
theorem executes_vgath {o : MVGOps} (h : s.Issues (.vgath o))
    (hr : s.reachElems .load true o.esz.bytes (s.gatherAddr o) (activeElems s.em o.esz.bytes o.w) = .ok ps)
    (hm : maySend s false ps) :
    ∃ t, s.load (.v o.vd) (elemsMask s.em o.esz.bytes o.w) 0 ps = .ok t ∧ Executes (.vgath o) s t :=
  executes_access (exec_vgath o) (baseUse_scalar _ _ rfl) h (by simp only [hr]) (State.load_ok hm ..)

/-- VSCAT issues where its active elements pass their checks. -/
theorem executes_vscat {o : MVGOps} (h : s.Issues (.vscat o))
    (hr : s.reachElems .store true o.esz.bytes (s.gatherAddr o) (activeElems s.em o.esz.bytes o.w) = .ok ps)
    (hm : maySend s true ps) : ∃ t, s.store (s.readV o.vd) ps = .ok t ∧ Executes (.vscat o) s t :=
  executes_access (exec_vscat o) (baseUse_scalar _ _ rfl) h (by simp only [hr]) (State.store_ok hm _)

end

end Sys2Proof.Machine

namespace Sys2Proof.Proofs

open Sys2Proof.Machine

/-- Settles O24: each row is a scalar access of its size, which issues as the access of one piece where its address passes its checks,
and raises what they raise where it does not. -/
theorem scalarAccessesIssue : Obligations.ScalarAccessesIssue := by
  refine ⟨⟨fun row hrow s o d h => executes_loadMS (exec_loadRows row hrow o) h,
    fun row hrow s o d h => executes_storeMS (exec_storeRows row hrow o) h, fun s o d h hr hm => ?_, fun s o d h hr hm => ?_⟩,
    fun row hrow s o h => ⟨fun ha => ?_, fun ha hp hw => ?_⟩, fun row hrow s o h => ⟨fun ha => ?_, fun ha hp hw => ?_⟩⟩
  · exact executes_access (exec_ldx o) (baseUse_scalar _ _ rfl) h (State.loadS_reached o.d false hr) (State.load_ok hm ..)
  · exact executes_access (exec_stx o) (baseUse_scalar _ _ rfl) h (State.storeS_reached o.d hr) (State.store_ok hm _)
  · exact raises_loadMS (exec_loadRows row hrow o) h (State.reachAligned_misaligned ha)
  · exact raises_loadMS (exec_loadRows row hrow o) h (State.reachAligned_outside ha hp hw)
  · exact raises_storeMS (exec_storeRows row hrow o) h (State.reachAligned_misaligned ha)
  · exact raises_storeMS (exec_storeRows row hrow o) h (State.reachAligned_outside ha hp hw)

/-- Settles O25: each form is the access of the pieces that pass their checks; a fabric address needs its alignment alone. -/
theorem vectorAndRemoteAccessesIssue : Obligations.VectorAndRemoteAccessesIssue := by
  refine ⟨⟨fun s o ps h ha hr hm => executes_vld h ha hr hm, fun s o ha => raises_vec_misaligned ha,
    fun s o ps h ha hr hm => executes_vst h ha hr hm, fun s o ps h => executes_vlds h, fun s o ps h => executes_vsts h,
    fun s o ps h => executes_vgath h, fun s o ps h => executes_vscat h⟩,
    fun s o h => ⟨fun ha hm => ?_, fun ha => ?_⟩, fun s o h => ⟨fun ha hm => ?_, fun ha => ?_⟩,
    fun s o h ha hm => ?_, fun s o h ha hm => ?_⟩
  · exact executes_access (exec_rld o) (baseUse_scalar _ _ rfl) h (if_neg (not_not.mpr ha)) (State.load_ok hm ..)
  · exact raises_scalar (exec_rld o) (baseUse_scalar _ _ rfl) h (if_pos ha)
  · exact executes_access (exec_rst o) (baseUse_scalar _ _ rfl) h (if_neg (not_not.mpr ha)) (State.store_ok hm _)
  · exact raises_scalar (exec_rst o) (baseUse_scalar _ _ rfl) h (if_pos ha)
  · exact executes_access (exec_rldv o) (baseUse_scalar _ _ rfl) h (if_neg (vec_aligned ha)) (State.load_ok hm ..)
  · exact executes_access (exec_rstv o) (baseUse_scalar _ _ rfl) h (if_neg (vec_aligned ha)) (State.store_ok hm _)

end Sys2Proof.Proofs
end

section
/-! PROOFS. A result that waits for an outstanding operation, from the bundle that begins the operation to its completion (06 R124,
R131, R132), and the bytes of a scratchpad (04 R91). What loads, acquires and pops of O26, O59 and O60 and stores and atomics of O27,
O30, O32 and O59 have in common is said here once. -/

namespace Sys2Proof.Machine

/-! ### A scalar register over a bundle boundary (06 R131) -/

/-- The results of a list that are for a scalar register. -/
def pendsFor (r : SReg) (ps : List Pend) : List Pend := ps.filter fun p => p.out.dst == .s r

theorem Task.land_s (t : Task) (o : Out) (r : SReg) :
    (t.land o).regs.s[r] = if o.dst = .s r ∧ r ≠ 0 then (t.regs.s[r]).land o else t.regs.s[r] := by
  unfold Task.land
  cases hd : o.dst with
  | s i =>
    dsimp only
    by_cases hi : i = 0
    · rw [if_pos hi, if_neg (by rintro ⟨he, hr⟩; cases he; exact hr hi)]
    · rw [if_neg hi]
      by_cases he : i = r
      · subst he
        rw [if_pos ⟨rfl, hi⟩]
        exact Vector.getElem_set_self i.isLt
      · rw [if_neg (by rintro ⟨h, -⟩; cases h; exact he rfl)]
        exact Vector.getElem_set_ne i.isLt r.isLt (fun h => he (Fin.ext h))
  | p i => dsimp only; split_ifs <;> simp_all
  | cr k => obtain ⟨c, h⟩ := t.writeCtl_eq k (o.data.setWidth 64); simp [h]
  | shadow k => dsimp only; split_ifs <;> simp_all
  | _ => simp

/-- A scalar register after results have landed depends on its own of them alone. -/
theorem Task.lands_s (ps : List Pend) (t : Task) (r : SReg) :
    (ps.foldl (fun t p => t.land p.out) t).regs.s[r] =
      (pendsFor r ps).foldl (fun x p => if r = 0 then x else x.land p.out) t.regs.s[r] := by
  induction ps generalizing t with
  | nil => rfl
  | cons p ps ih =>
    rw [List.foldl_cons, ih, Task.land_s]
    by_cases hp : p.out.dst = .s r
    · rw [pendsFor, pendsFor, List.filter_cons_of_pos (by simpa using hp), List.foldl_cons]
      by_cases hr : r = 0 <;> simp [hp, hr]
    · rw [pendsFor, pendsFor, List.filter_cons_of_neg (by simpa using hp), if_neg fun h => hp h.1]

/-- A scalar register over a bundle boundary depends on its own pending results alone. -/
theorem Task.advance_s (t : Task) (r : SReg) :
    t.advance.regs.s[r] = ((pendsFor r t.pend).filter fun p => p.rem - 1 == 0).foldl
      (fun x p => if r = 0 then x else x.land p.out) t.regs.s[r] := by
  rw [Task.advance, Task.lands_s]
  simp only [pendsFor, List.filter_filter, List.filter_map, List.foldl_map]
  congr 1
  exact List.filter_congr fun p _ => Bool.and_comm ..

/-- A register without a pending result keeps its state over a bundle boundary. -/
theorem Task.advance_s_same {t : Task} {r : SReg} (h : pendsFor r t.pend = []) : t.advance.regs.s[r] = t.regs.s[r] := by
  rw [Task.advance_s, h]
  rfl

/-- Two tasks with the same register files and pending results have the same register files after the bundle boundary. -/
theorem Task.advance_regs_congr {t u : Task} (hr : t.regs = u.regs) (hp : t.pend = u.pend) : t.advance.regs = u.advance.regs := by
  have hland : ∀ (o : Out) (t u : Task), t.regs = u.regs → (t.land o).regs = (u.land o).regs := by
    intro o t u h
    unfold Task.land
    cases o.dst with
    | s i | p i => dsimp only; split_ifs <;> simp [h]
    | cr k =>
      obtain ⟨c, hc⟩ := t.writeCtl_eq k (o.data.setWidth 64)
      obtain ⟨c', hc'⟩ := u.writeCtl_eq k (o.data.setWidth 64)
      simp [hc, hc', h]
    | shadow k => dsimp only; split_ifs <;> exact h
    | _ => simp [h]
  have hlands : ∀ (ps : List Pend) (t u : Task), t.regs = u.regs →
      (ps.foldl (fun t p => t.land p.out) t).regs = (ps.foldl (fun t p => t.land p.out) u).regs := by
    intro ps
    induction ps with
    | nil => exact fun t u h => h
    | cons p ps ih => exact fun t u h => ih _ _ (hland p.out t u h)
  rw [Task.advance, Task.advance, hp]
  exact hlands _ _ _ hr

/-- A bundle boundary leaves the operations, the number, the place and the timelines of the task. -/
theorem Task.advance_keeps (t : Task) :
    t.advance.ops = t.ops ∧ t.advance.id = t.id ∧ t.advance.ctx = t.ctx ∧ t.advance.loc = t.loc ∧ t.advance.tls = t.tls := by
  obtain ⟨r, c, x, p, h⟩ := t.advance_eq
  rw [h]
  exact ⟨rfl, rfl, rfl, rfl, rfl⟩

/-! ### A register marked, and filled when the operation completes (06 R124) -/

/-- The result of one operation for a scalar register; there is none for s0. -/
def scalarOuts (d : SReg) (y : BitVec 1024) : List Out := if d = 0 then [] else [⟨.s d, lowMask 64, y⟩]

/-- The destinations of such an operation marked. -/
theorem Task.marks_scalarOuts (t : Task) (d : SReg) (y : BitVec 1024) :
    (scalarOuts d y).foldl (fun t o => t.mark o.dst) t = t.mark (.s d) := by
  rw [scalarOuts]
  by_cases hd : d = 0
  · rw [if_pos hd]
    exact (if_pos hd).symm
  · rw [if_neg hd]
    rfl

section
variable (t : Task) {d r : SReg}

/-- A register marked, and no other, is changed; its pending results are discarded, and no other. -/
theorem Task.mark_s_ne (h : r ≠ d) :
    (t.mark (.s d)).regs.s[r] = t.regs.s[r] ∧ pendsFor r (t.mark (.s d)).pend = pendsFor r t.pend := by
  unfold Task.mark
  dsimp only
  split
  · exact ⟨rfl, rfl⟩
  · refine ⟨Vector.getElem_set_ne d.isLt r.isLt fun he => h (Fin.ext he).symm, ?_⟩
    rw [pendsFor, pendsFor, List.filter_filter]
    refine List.filter_congr fun p _ => ?_
    by_cases hp : p.out.dst = .s r
    · simp [hp, h]
    · simp [hp]

theorem Task.mark_s_self (h : d ≠ 0) :
    (t.mark (.s d)).regs.s[d] = (t.regs.s[d]).mark ∧ pendsFor d (t.mark (.s d)).pend = [] := by
  unfold Task.mark
  dsimp only
  rw [if_neg h]
  exact ⟨Vector.getElem_set_self d.isLt, by simp [pendsFor, List.filter_eq_nil_iff]⟩

end

/-- All bits of a scalar register taken from a result. -/
theorem merge_lowMask (old : Word) (d : Dst) (y : BitVec 1024) : merge old ⟨d, lowMask 64, y⟩ = y.setWidth 64 := by
  refine BitVec.eq_of_getLsbD_eq fun i hi => ?_
  have hi' : i < 1024 := by omega
  simp only [merge, lowMask, BitVec.getLsbD_or, BitVec.getLsbD_and, BitVec.getLsbD_not, BitVec.getLsbD_setWidth,
    BitVec.getLsbD_ofNat, Nat.testBit_two_pow_sub_one, hi, hi', decide_true, Bool.not_true, Bool.and_false, Bool.false_or,
    Bool.true_and, Bool.and_true]

/-- A register that has its value, or poison, marked by one operation is filled by it (06 R124). -/
theorem Reg.fill_marked {x : Reg 64} (h : x.cond = .ok ∨ x.cond = .poisoned) (d : Dst) (y : BitVec 1024) (psn : Bool) :
    (x.mark.fill ⟨d, lowMask 64, y⟩ (if psn then .poison else .data)) =
      ⟨y.setWidth 64, if psn then .poisoned else .full⟩ := by
  have hmark : x.mark = { x with st := .empty 1 x.val none false } := by
    unfold Reg.mark
    cases hs : x.st <;> simp_all [Reg.cond]
  rw [hmark]
  cases psn <;> simp [Reg.fill, merge_lowMask]

/-- A task whose operation `op` for a scalar register ends, neither failed nor of a scope that counts. -/
theorem Task.endOp_s (t : Task) {op : Op} {d : SReg} {y : BitVec 1024} (tick : Nat) (ho : op.outs = scalarOuts d y)
    (hf : op.fail = none) (r : SReg) : (t.endOp op tick).regs.s[r] =
      if r = d ∧ d ≠ 0 then (t.regs.s[r]).fill ⟨.s d, lowMask 64, y⟩ (if op.poison then .poison else .data) else t.regs.s[r] := by
  rw [Task.endOp, (Task.wake_keeps _ tick).1]
  simp only [ho, hf, scalarOuts]
  by_cases hd : d = 0
  · simp [hd]
  · simp only [hd, if_false, List.foldl_cons, List.foldl_nil, Task.fill, not_false_eq_true, and_true, ne_eq]
    by_cases hr : r = d
    · subst hr
      rw [if_pos rfl]
      exact Vector.getElem_set_self r.isLt
    · rw [if_neg hr]
      exact Vector.getElem_set_ne d.isLt r.isLt fun he => hr (Fin.ext he).symm

/-! ### One operation outstanding for a scalar register -/

/-- A destination that an instruction marks has no recorded cause where it issues. -/
theorem State.Issues.unfailed {s : State} {i : Instr} {us : List Use} {body : State → Except Stop State} {d : Dst}
    (he : ∀ s, exec i s = s.slot us body) (h : s.Issues i) (hm : .mark d ∈ us) : (s.cur.cond d).unfailed = true := by
  have hready := h.2.2 (.mark d) (by rwa [State.usesOf_slot (us := fun _ => us) he])
  rw [State.readyFor, Bool.and_eq_true] at hready
  exact hready.2

/-- The effect `u` of an instruction at `s`: one operation is outstanding, for the register D that it has marked. -/
structure State.Awaits (s u : State) (d : SReg) (op : Op) : Prop where
  scr : u.scr = s.scr
  regs : u.cur.regs = (s.cur.mark (.s d)).regs
  pend : u.cur.pend = (s.cur.mark (.s d)).pend
  ops : u.cur.ops = [op]
  id : op.id = s.nextId

/-- The effect of an instruction that leaves the bundle's scratch alone commits to the machine one bundle on. -/
theorem State.commit_effect {s u : State} (hs : s.Fresh) (hscr : u.scr = s.scr) : u.commit = u.moved :=
  State.commit_moved (by rw [State.Fresh, hscr]; exact hs)

namespace State.Awaits

variable {s u : State} {d : SReg} {op : Op} (h : s.Awaits u d op) (hs : s.Fresh)
include h hs

/-- The register that an operation will fill is EMPTY once its bundle has committed. -/
theorem empty (hd : d ≠ 0) : u.commit.cur.cond (.s d) = .empty := by
  obtain ⟨hreg, hpend⟩ := Task.mark_s_self s.cur hd
  have hsame : u.commit.cur.regs.s[d] = (s.cur.regs.s[d]).mark := by
    rw [State.commit_effect hs h.scr]
    exact (Task.advance_s_same (by rw [h.pend, hpend])).trans (by rw [h.regs, hreg])
  obtain ⟨n, b, f, p, hst, -⟩ := Reg.mark_empty s.cur.regs.s[d]
  simp only [Task.cond, if_neg hd, hsame, Reg.cond, hst]

theorem ops_commit : u.commit.cur.ops = [op] := by
  rw [State.commit_effect hs h.scr]
  exact (Task.advance_keeps _).1.trans h.ops

/-- The operation is found by its number. -/
theorem findOp : u.commit.findOp s.nextId = some (u.commit.cur, op) := by
  simp [State.findOp, State.tasks, h.ops_commit hs, h.id]

/-- The data of the operation arrives. -/
theorem complete (hk : op.kind = .load) :
    exec (.loadComplete s.nextId) u.commit = .next (u.commit.finishOp u.commit.cur.id op) := by
  simp only [exec_loadComplete, execLoadComplete, h.findOp hs, hk, State.accessComplete]

omit h hs in
/-- The registers but D over the bundle boundary. -/
theorem others_moved (h : s.Awaits u d op) {r : SReg} (hr : r ≠ d) : u.cur.advance.regs.s[r] = s.cur.advance.regs.s[r] := by
  obtain ⟨hreg, hpend⟩ := Task.mark_s_ne s.cur hr
  rw [Task.advance_s, Task.advance_s, h.pend, h.regs, hreg, hpend]

/-- The operation has ended: D holds its data, and the other registers are those of the machine one bundle on. -/
theorem filled {y : BitVec 1024} (ho : op.outs = scalarOuts d y) (hf : op.fail = none)
    (hne : s.cur.cond (.s d) ≠ .empty) (hun : (s.cur.cond (.s d)).unfailed = true) :
    let v := u.commit.finishOp u.commit.cur.id op
    v.cur.ops = [] ∧
      (d ≠ 0 → v.readS d = y.setWidth 64 ∧ v.cur.cond (.s d) = if op.poison then .poisoned else .ok) ∧
      ∀ r : SReg, r ≠ d → v.cur.regs.s[r] = s.moved.cur.regs.s[r] := by
  intro v
  have hcur : v.cur = u.commit.cur.endOp op u.commit.tick := State.updTask_cur ..
  have hcommit : u.commit.cur.regs = u.cur.advance.regs := by rw [State.commit_effect hs h.scr]; rfl
  refine ⟨?_, fun hd => ?_, fun r hr => ?_⟩
  · rw [hcur, Task.endOp_ops, h.ops_commit hs]
    simp
  · obtain ⟨hreg, hpend⟩ := Task.mark_s_self s.cur hd
    have hcond : (s.cur.regs.s[d]).cond = .ok ∨ (s.cur.regs.s[d]).cond = .poisoned := by
      simp only [Task.cond, if_neg hd] at hne hun
      cases hc : (s.cur.regs.s[d]).cond with
      | ok => exact .inl rfl
      | poisoned => exact .inr rfl
      | empty => exact absurd hc hne
      | failed f n => exact absurd hc (Cond.unfailed_ne hun f n)
    have hfill : v.cur.regs.s[d] = ⟨y.setWidth 64, if op.poison then .poisoned else .full⟩ := by
      rw [hcur, Task.endOp_s _ _ ho hf, if_pos ⟨rfl, hd⟩, hcommit, Task.advance_s_same (by rw [h.pend, hpend]), h.regs, hreg,
        Reg.fill_marked hcond]
    refine ⟨by rw [State.readS, Task.readS, if_neg hd, hfill], ?_⟩
    simp only [Task.cond, if_neg hd, hfill, Reg.cond]
    cases op.poison <;> rfl
  · rw [hcur, Task.endOp_s _ _ ho hf, if_neg fun hrd => hr hrd.1, hcommit]
    exact h.others_moved hr

end State.Awaits

end Sys2Proof.Machine
end

section
/-! PROOFS. Loads from the task window deliver the bytes at their address (10 R221, R222: O26). -/

namespace Sys2Proof.Machine

open Sys2Proof.Claims

/-! ### Operations begun (06 R124) -/

/-- The operation that `beginOp` begins. -/
def State.begun (s : State) (kind : OpKind) (outs : List Out) (parks : Bool) : Op :=
  ⟨s.nextId, kind, outs, none, false, parks, false, false, 0, false, none, 0⟩

/-- The effect of an instruction that begins one operation for a scalar register. -/
theorem State.beginOp_cur (s : State) (kind : OpKind) (d : SReg) (y : BitVec 1024) (parks : Bool) :
    (s.beginOp kind (scalarOuts d y) parks).cur =
      { s.cur.mark (.s d) with ops := s.cur.ops ++ [s.begun kind (scalarOuts d y) parks] } := by
  rw [← Task.marks_scalarOuts s.cur d y]
  rfl

@[simp] theorem State.beginOp_mem (s : State) (kind : OpKind) (outs : List Out) (parks : Bool) :
    (s.beginOp kind outs parks).mem = s.mem := rfl

/-- An operation alone in its task waits for no earlier one. -/
theorem Task.mustWait_alone {t : Task} {op : Op} (h : t.ops = [op]) : t.mustWait op = false := by
  have hnone : ∀ p : Op → Bool, (t.ops.any fun o => decide (o.id < op.id) && p o) = false := fun p => by simp [h]
  unfold Task.mustWait Task.heldBy
  simp only [hnone, Bool.false_or]
  cases op.kind <;> simp

/-- An operation replaced that is alone in the focused task. -/
theorem State.updOp_alone {s : State} {op op' : Op} (h : s.cur.ops = [op]) (hid : op'.id = op.id) :
    (s.updOp s.cur.id op').cur = { s.cur with ops := [op'] } := by
  simp [State.updOp, State.updTask, h, hid]

/-! ### A load from the task window (10 R221, R222) -/

theorem State.bytes_congr {s t : State} (h : t.mem = s.mem) (pa n : Nat) : t.bytes pa n = s.bytes pa n := by
  induction n generalizing pa with
  | zero => rfl
  | succ n ih => rw [State.bytes, State.bytes, ih, State.byte, State.byte, h]

theorem State.word_congr {s t : State} (h : t.mem = s.mem) (pa n : Nat) : t.word pa n = s.word pa n :=
  congrArg leNat (State.bytes_congr h pa n)

/-- One aligned element of a scratchpad read: its bytes, and whether they are poisoned. -/
theorem State.readPiecesOf_pad (s : State) (a : Agent) (pa n : Nat) :
    s.readPiecesOf a (whole (.pad pa) n) = (s, s.word pa n, s.anyPoison pa n) := by
  simp [State.readPiecesOf, whole, State.readMasked, placed, State.word]

/-- A load without remote pieces is performed where its pieces lie. -/
theorem State.performLoad_local (s : State) (t : Task) (op : Op) {ps : List Piece} (sext : Nat)
    (h : ps.filter Piece.remote = []) (hl : (ps.filter fun p => !p.remote) = ps) :
    s.performLoad t op ps sext =
      (s.readPiecesOf t.agent ps).1.updOp t.id { op with
        kind := .load, poison := (s.readPiecesOf t.agent ps).2.2, split := false, lanes := pieceLanes ps
        outs := op.outs.map fun o =>
          { o with data := BitVec.ofNat 1024 (widen sext (s.readPiecesOf t.agent ps).2.1) } } := by
  simp only [State.performLoad, h, hl, if_true]
  rfl

/-- The data of a result for a scalar register. -/
theorem map_scalarOuts (d : SReg) (y z : BitVec 1024) :
    ((scalarOuts d y).map fun o => { o with data := z }) = scalarOuts d z := by
  unfold scalarOuts
  split <;> rfl

theorem ite_scalarOuts (d : SReg) (y : BitVec 1024) :
    (if Dst.s d = .s 0 then [] else [⟨.s d, lowMask 64, y⟩]) = scalarOuts d y := if_congr (by simp) rfl rfl

/-- The machine in which the load of one aligned element of the scratchpad has been performed as it issued. -/
def State.padLoaded (s : State) (d : SReg) (sext pa n : Nat) (parks : Bool) : State :=
  let s1 := s.beginOp (.heldRead (whole (.pad pa) n) sext) (scalarOuts d 0) parks
  s1.performLoad s1.cur (s.begun (.heldRead (whole (.pad pa) n) sext) (scalarOuts d 0) parks) (whole (.pad pa) n) sext

/-- The operation of that load. -/
def State.padLoad (s : State) (d : SReg) (sext pa n : Nat) (parks : Bool) : Op :=
  { s.begun .load (scalarOuts d (BitVec.ofNat 1024 (widen sext (s.word pa n)))) parks with
    poison := s.anyPoison pa n, lanes := pieceLanes (whole (.pad pa) n) }

section
variable {s : State} (h : s.cur.ops = []) (d : SReg) (sext pa n : Nat)
include h

/-- A load of a task with nothing else outstanding from the scratchpad is performed as it issues. -/
theorem State.load_pad : ∃ parks, s.load (.s d) (lowMask 64) sext (whole (.pad pa) n) = .ok (s.padLoaded d sext pa n parks) := by
  have hremote : (whole (.pad pa) n).filter Piece.remote = [] := rfl
  have hlocal : ((whole (.pad pa) n).filter fun p => !p.remote) = whole (.pad pa) n := rfl
  unfold State.load
  simp only [hremote, hlocal, ite_scalarOuts, List.length_nil, ne_eq, not_true_eq_false, false_and, if_false]
  generalize (decide False || (whole (.pad pa) n).any fun p => s.missesT2 s.me (p.dst.pa.getD 0) p.n) = parks
  have hops : (s.beginOp (.heldRead (whole (.pad pa) n) sext) (scalarOuts d 0) parks).cur.ops =
      [s.begun (.heldRead (whole (.pad pa) n) sext) (scalarOuts d 0) parks] := by rw [State.beginOp_cur, h]; rfl
  refine ⟨parks, ?_⟩
  simp only [hops, List.getLast?_singleton, Task.mustWait_alone hops, Bool.false_eq_true, if_false]
  rfl

omit h in
theorem State.padLoaded_eq (parks : Bool) : s.padLoaded d sext pa n parks =
    let s1 := s.beginOp (.heldRead (whole (.pad pa) n) sext) (scalarOuts d 0) parks
    s1.updOp s1.cur.id (s.padLoad d sext pa n parks) := by
  have hword : (s.beginOp (.heldRead (whole (.pad pa) n) sext) (scalarOuts d 0) parks).word pa n = s.word pa n :=
    State.word_congr (s.beginOp_mem ..) pa n
  rw [State.padLoaded, State.performLoad_local _ _ _ _ rfl rfl, State.readPiecesOf_pad, hword, State.begun, map_scalarOuts]
  rfl

/-- The load is the one operation outstanding, and memory is as it was. -/
theorem State.padLoaded_awaits (parks : Bool) :
    s.Awaits (s.padLoaded d sext pa n parks) d (s.padLoad d sext pa n parks) ∧ (s.padLoaded d sext pa n parks).mem = s.mem := by
  rw [State.padLoaded_eq]
  dsimp only
  have hcur := s.beginOp_cur (.heldRead (whole (.pad pa) n) sext) d 0 parks
  have hops : (s.beginOp (.heldRead (whole (.pad pa) n) sext) (scalarOuts d 0) parks).cur.ops =
      [s.begun (.heldRead (whole (.pad pa) n) sext) (scalarOuts d 0) parks] := by rw [hcur, h]; rfl
  have hload := State.updOp_alone hops (op' := s.padLoad d sext pa n parks) rfl
  exact ⟨⟨rfl, by rw [hload, hcur], by rw [hload, hcur], by rw [hload], rfl⟩, rfl⟩

end

/-- A load has a size. -/
theorem loadRows_size : ∀ row ∈ loadRows, row.2.1 ≠ 0 := by simp [loadRows]

/-- A number extended as a load of `z` bytes extends it. -/
theorem setWidth_widen (signed : Bool) {z : Nat} (hz : z ≠ 0) (x : Nat) :
    (BitVec.ofNat 1024 (widen (if signed then 8 * z else 0) x)).setWidth 64 =
      if signed then (BitVec.ofNat (8 * z) x).signExtend 64 else BitVec.ofNat 64 x := by
  rw [BitVec.setWidth_ofNat_of_le (by decide)]
  cases signed with
  | false => rfl
  | true =>
    have hne : 8 * z ≠ 0 := by omega
    rw [if_pos rfl, if_pos rfl, widen, if_neg hne, BitVec.signExtend, toSigned_eq_toInt]
    exact ofNat_intBits _

end Sys2Proof.Machine

namespace Sys2Proof.Proofs

open Sys2Proof.Machine Sys2Proof.Claims

/-- Settles O26: the load is performed as it issues, so that its operation holds the bytes that its completion puts into D. -/
theorem loadsReadTheScratchpad : Obligations.LoadsReadTheScratchpad := by
  intro row hrow s o h hidle hne va pa ha hw
  have he := exec_loadRows row hrow o
  have hz : row.2.1 ≠ 0 := loadRows_size row hrow
  have hreach : s.reachAligned .plain .load va row.2.1 = .ok (.pad pa) := by
    rw [State.reachAligned_aligned ha, State.reach_window va (Nat.pos_of_ne_zero hz) hw]
  obtain ⟨parks, hload⟩ := State.load_pad hidle.1 o.d (if row.2.2 then 8 * row.2.1 else 0) pa row.2.1
  have hexec := executes_scalar he (baseUse_scalar _ _ rfl) h ((State.loadS_reached o.d row.2.2 hreach).trans hload)
  obtain ⟨hwait, hmem⟩ := State.padLoaded_awaits hidle.1 o.d (if row.2.2 then 8 * row.2.1 else 0) pa row.2.1 parks
  have hun := h.unfailed he (d := .s o.d) (by simp)
  obtain ⟨hops, hd, hothers⟩ := hwait.filled h.fresh rfl rfl hne hun
  refine ⟨_, _, hexec, ?_, hwait.complete h.fresh rfl, ?_, hops, fun hd0 => ?_, hothers⟩
  · rw [State.commit_effect h.fresh hwait.scr]
    exact hmem
  · rw [State.commit_effect h.fresh hwait.scr]
    exact hmem
  · obtain ⟨hval, hcond⟩ := hd hd0
    exact ⟨hwait.empty h.fresh hd0, hval.trans (setWidth_widen row.2.2 hz _), hcond⟩

end Sys2Proof.Proofs
end

section
/-! PROOFS. Stores to the task window (O27) and atomics at a scratchpad word (O32): the bytes that a write leaves in a scratchpad
(04 R91; 10 R221, R222, R224, R229). -/

namespace Sys2Proof.Machine

open Sys2Proof.Claims

/-! ### A write in a scratchpad (04 R91) -/

theorem pieces_cons (unit fuel pa : Nat) (b : Option Byte) (bs : List (Option Byte)) :
    pieces unit (fuel + 1) pa (b :: bs) = (pa, (b :: bs).take (unit - pa % unit)) ::
      pieces unit fuel (pa + (unit - pa % unit)) ((b :: bs).drop (unit - pa % unit)) := rfl

/-- Work that each time puts its bytes puts, over the pieces of a write, the bytes of the write. -/
theorem State.byte_foldl_pieces {f : State → Nat × List (Option Byte) → State}
    (hf : ∀ s p q, (f s p).byte q = (s.putBytes p.1 p.2).byte q) {unit : Nat} (hu : 0 < unit) (q : Nat) :
    ∀ (fuel : Nat) (s : State) (pa : Nat) (bs : List (Option Byte)), bs.length < fuel →
      ((pieces unit fuel pa bs).foldl f s).byte q = (s.putBytes pa bs).byte q
  | 0, _, _, _, h => absurd h (Nat.not_lt_zero _)
  | fuel + 1, s, pa, [], _ => rfl
  | fuel + 1, s, pa, b :: bs, h => by
    have hn : 0 < unit - pa % unit := Nat.sub_pos_of_lt (Nat.mod_lt _ hu)
    have hlen : ((b :: bs).drop (unit - pa % unit)).length < fuel := by
      rw [List.length_drop]
      rw [List.length_cons] at h ⊢
      omega
    rw [pieces_cons, List.foldl_cons, State.byte_foldl_pieces hf hu q fuel _ _ _ hlen, State.byte_putBytes, hf, State.byte_putBytes,
      State.byte_putBytes]
    generalize unit - pa % unit = n at hn
    generalize b :: bs = l
    simp only [List.length_drop, List.length_take]
    by_cases hq : pa ≤ q ∧ q < pa + l.length
    · rw [if_pos hq]
      by_cases hlow : q < pa + n
      · rw [if_neg (by omega), if_pos (by omega), List.getD_eq_getElem?_getD, List.getElem?_take_of_lt (by omega),
          ← List.getD_eq_getElem?_getD]
      · rw [if_pos (by omega), if_neg (by omega), List.getD_eq_getElem?_getD, List.getElem?_drop,
          ← List.getD_eq_getElem?_getD]
        congr 3
        omega
    · rw [if_neg hq, if_neg (by omega), if_neg (by omega)]

/-- Bytes written in a scratchpad read back where they were given; every other byte reads as before. -/
theorem State.byte_padPut (s : State) (pa q : Nat) (bs : List (Option Byte)) :
    (s.padPut pa bs).byte q =
      if pa ≤ q ∧ q < pa + bs.length then (bs.getD (q - pa) none).getD (s.byte q) else s.byte q := by
  rw [← State.byte_putBytes, State.padPut]
  refine State.byte_foldl_pieces (fun s p q => ?_) (by decide) q _ s pa bs (Nat.lt_succ_self _)
  dsimp only
  split <;> rfl

/-- The machine `s` with memory and its poison as they are in `t`. -/
def State.withPadOf (s t : State) : State := { s with mem := t.mem, poison := t.poison, charged := t.charged }

/-- A write in a scratchpad changes memory and its poison alone. -/
theorem State.padPut_eq (s : State) (pa : Nat) (bs : List (Option Byte)) : s.padPut pa bs = s.withPadOf (s.padPut pa bs) := by
  have hputs : ∀ (bs : List (Option Byte)) (s : State) (pa : Nat), s.putBytes pa bs = { s with mem := (s.putBytes pa bs).mem } := by
    intro bs
    induction bs with
    | nil => exact fun s pa => rfl
    | cons b bs ih =>
      intro s pa
      cases b with
      | none => exact ih s _
      | some b => exact (ih (s.putByte pa b) _).trans rfl
  unfold State.padPut
  refine List.foldlRecOn _ _ (motive := fun t : State => t = s.withPadOf t) rfl fun t ht p _ => ?_
  have hstep : ∀ u : State, u = t.withPadOf u → u = s.withPadOf u := fun u hu =>
    calc u = t.withPadOf u := hu
      _ = (s.withPadOf t).withPadOf u := congrArg (fun x : State => x.withPadOf u) ht
      _ = s.withPadOf u := rfl
  dsimp only
  split
  · exact hstep _ (by rw [hputs p.2 t p.1]; rfl)
  · exact hstep _ (by rw [hputs p.2 t p.1]; rfl)

/-- The bytes from an address, one by one. -/
theorem State.bytes_eq_map (s : State) (pa n : Nat) : s.bytes pa n = (List.range n).map fun i => s.byte (pa + i) := by
  induction n generalizing pa with
  | zero => rfl
  | succ n ih =>
    rw [State.bytes, ih, List.range_succ_eq_map, List.map_cons, List.map_map]
    simp only [Function.comp_def, Nat.add_zero, Nat.succ_eq_add_one, Nat.add_assoc, Nat.add_comm 1]

theorem length_natLe (n x : Nat) : (natLe n x).length = n := by
  induction n generalizing x with
  | zero => rfl
  | succ n ih => rw [natLe, List.length_cons, ih]

theorem leNat_natLe (n x : Nat) : leNat (natLe n x) = x % 256 ^ n := by
  induction n generalizing x with
  | zero => simp [natLe, leNat, Nat.mod_one]
  | succ n ih => 
    rw [natLe, leNat, ih, BitVec.toNat_ofNat, show 256 ^ (n + 1) = 256 * 256 ^ n from Nat.pow_succ', Nat.mod_mul]

/-- Bytes given whole read back as they were given. -/
theorem State.bytes_padPut (s : State) (pa : Nat) (bs : List Byte) : (s.padPut pa (bs.map some)).bytes pa bs.length = bs := by
  rw [State.bytes_eq_map]
  refine List.ext_getElem (by simp) fun i hi _ => ?_
  have hi : i < bs.length := by simpa using hi
  rw [List.getElem_map, List.getElem_range, State.byte_padPut, if_pos (by simpa using hi)]
  simp [hi]

/-- A number written in a scratchpad reads back. -/
theorem State.word_padPut (s : State) (pa n x : Nat) : (s.padPut pa ((natLe n x).map some)).word pa n = x % 256 ^ n := by
  have h := s.bytes_padPut pa (natLe n x)
  rw [length_natLe] at h
  rw [State.word, h, leNat_natLe]

/-! ### Stores to the task window (10 R221, R222) -/

/-- A write seen by the commands that are outstanding leaves a task that has none as it is. -/
theorem State.spoil_cur {s : State} (h : s.cur.ops = []) (pa n task op : Nat) : (s.spoil pa n task op).cur = s.cur := by
  rw [State.spoil]
  dsimp only
  rw [h]
  exact congrArg (fun os => { s.cur with ops := os }) h.symm

/-- The local pieces of a store written in order. -/
def State.storePieces (s : State) (a : Agent) (x : VWord) (ps : List Piece) : State :=
  ps.foldl (fun s p => s.writeDest a 0 p.dst (p.bytes x)) s

/-- A store of a task with nothing outstanding, without remote pieces, is performed as it issues. -/
theorem State.store_local {s : State} (h : s.cur.ops = []) (x : VWord) {ps : List Piece} (hl : ∀ p ∈ ps, p.remote = false) :
    s.store x ps = .ok (s.storePieces s.cur.agent x ps) := by
  have hremote : ps.filter Piece.remote = [] := List.filter_eq_nil_iff.mpr fun p hp => Bool.eq_false_iff.mp (hl p hp)
  have hlocal : (ps.filter fun p => !p.remote) = ps := List.filter_eq_self.mpr fun p hp => by rw [hl p hp]; rfl
  have hfree : (ps.any fun p => s.blocked p.dst p.n) = false := by simp [State.blocked, h]
  simp only [State.store, State.performStore, hremote, hlocal, hfree, List.length_nil, ne_eq, not_true_eq_false, false_and,
    if_false, if_true, Bool.false_eq_true]
  rfl

/-- Whether a place is in a scratchpad. -/
def Dest.isPad : Dest → Bool
  | .pad _ => true
  | _ => false

/-- Bytes written in a scratchpad leave the focused task, with nothing outstanding, and the bundle as they are. -/
theorem State.writeDest_pad {s : State} (h : s.cur.ops = []) (a : Agent) {d : Dest} (hd : d.isPad = true)
    (bs : List (Option Byte)) : (s.writeDest a 0 d bs).cur = s.cur ∧ (s.writeDest a 0 d bs).scr = s.scr := by
  cases d with
  | pad pa =>
    have hcur : (s.padPut pa bs).cur = s.cur := (congrArg State.cur (s.padPut_eq pa bs)).trans rfl
    have hscr : (s.padPut pa bs).scr = s.scr := (congrArg State.scr (s.padPut_eq pa bs)).trans rfl
    exact ⟨(State.spoil_cur (by rw [hcur]; exact h) ..).trans hcur, hscr⟩
  | _ => cases hd

/-- Pieces stored in scratchpads leave the focused task, with nothing outstanding, and the bundle as they are. -/
theorem State.storePieces_pad {s : State} (h : s.cur.ops = []) (a : Agent) (x : VWord) {ps : List Piece}
    (hp : ∀ p ∈ ps, p.dst.isPad = true) : (s.storePieces a x ps).cur = s.cur ∧ (s.storePieces a x ps).scr = s.scr := by
  refine List.foldlRecOn ps _ (motive := fun t : State => t.cur = s.cur ∧ t.scr = s.scr) ⟨rfl, rfl⟩ fun t ht p hmem => ?_
  obtain ⟨hcur, hscr⟩ := ht
  obtain ⟨hcur', hscr'⟩ := State.writeDest_pad (s := t) (by rw [hcur]; exact h) a (hp p hmem) (p.bytes x)
  exact ⟨hcur'.trans hcur, hscr'.trans hscr⟩

/-- A byte that a piece stores. -/
theorem Piece.getD_bytes (p : Piece) (x : VWord) (i : Nat) : (p.bytes x).getD i none =
    if p.mask.getD i false then some (x.extractLsb' (p.bit + 8 * i) 8) else none := by
  rw [Piece.bytes, List.getD_eq_getElem?_getD, List.getD_eq_getElem?_getD, List.getElem?_map, List.getElem?_zipIdx]
  cases p.mask[i]? with
  | none => simp
  | some b => simp

theorem Piece.length_bytes (p : Piece) (x : VWord) : (p.bytes x).length = p.mask.length := by simp [Piece.bytes]

/-- The bytes that a piece in a scratchpad leaves. -/
theorem State.byte_writePiece (s : State) (a : Agent) (x : VWord) {p : Piece} {pa : Nat} (hp : p.dst = .pad pa) (q : Nat) :
    (s.writeDest a 0 p.dst (p.bytes x)).byte q =
      if (pa ≤ q ∧ q < pa + p.mask.length) ∧ p.mask.getD (q - pa) false = true then x.extractLsb' (p.bit + 8 * (q - pa)) 8
      else s.byte q := by
  have hbyte : (s.writeDest a 0 p.dst (p.bytes x)).byte q = (s.padPut pa (p.bytes x)).byte q := by rw [hp]; rfl
  rw [hbyte, State.byte_padPut, Piece.length_bytes, Piece.getD_bytes]
  by_cases hq : pa ≤ q ∧ q < pa + p.mask.length
  · by_cases hm : p.mask.getD (q - pa) false = true
    · rw [if_pos hq, if_pos hm, if_pos ⟨hq, hm⟩]
      rfl
    · rw [if_pos hq, if_neg hm, if_neg fun h => hm h.2]
      rfl
  · rw [if_neg hq, if_neg fun h => hq h.1]

/-! ### Vector stores to the task window (10 R224) -/

/-- A chunk of a vector access, if it has an active lane. -/
def vecWant (g : Nat) (em : BitVec 32) (va : Word) (c : Nat) : Option Want :=
  let mask := (List.range g).map fun i => em.getLsbD ((g * c + i) / 4)
  if mask.any id then some ⟨va + BitVec.ofNat 64 (g * c), g, 8 * g * c, mask⟩ else none

theorem vecWants_eq (g : Nat) (em : BitVec 32) (va : Word) (w : Width) :
    vecWants g em va w = (List.range (w.bits / 8 / g)).filterMap (vecWant g em va) := rfl

/-- A piece that is wanted, in the scratchpad of a location. -/
def Want.inPad (loc : Nat) (w : Want) : Piece := ⟨.pad (padBase loc + w.va.toNat), w.n, w.bit, w.mask⟩

/-- Pieces that each lie in the task window are all reached. -/
theorem State.reachAll_window {s : State} {k : Acc} {ws : List Want} (h : ∀ w ∈ ws, 0 < w.n ∧ inOwnWindow s w.va w.n) :
    s.reachAll k ws = .ok (ws.map (Want.inPad s.cur.loc)) := by
  induction ws with
  | nil => rfl
  | cons w ws ih =>
    obtain ⟨hn, hw⟩ := h w (by simp)
    rw [State.reachAll, State.reach_window _ hn hw, ih fun v hv => h v (by simp [hv])]
    rfl

/-- Pieces in scratchpads stay as they are (03 R69). -/
theorem joinPieces_pad {ps : List Piece} (h : ∀ p ∈ ps, p.dst.isPad = true) : joinPieces ps = ps := by
  induction ps with
  | nil => rfl
  | cons p ps ih =>
    have hp := h p (by simp)
    have htrim : p.trim = p := by
      unfold Piece.trim
      cases hd : p.dst <;> simp_all [Dest.isPad]
    have hjoin : ∀ q : Piece, p.join q = none := by
      intro q
      unfold Piece.join
      cases hd : p.dst <;> simp_all [Dest.isPad]
    rw [joinPieces, ih fun q hq => h q (by simp [hq])]
    cases ps with
    | nil => rw [htrim]
    | cons q qs => simp only [htrim, hjoin]

/-- The address of a chunk that stays within the address space. -/
theorem toNat_chunk {va : Word} {n : Nat} (h : va.toNat + n < 2 ^ 64) : (va + BitVec.ofNat 64 n).toNat = va.toNat + n := by
  rw [BitVec.toNat_add, BitVec.toNat_ofNat]
  omega

/-- The bytes that the first chunks of a vector store leave: those of active lanes (10 R224). -/
theorem State.byte_storeChunks (s : State) (a : Agent) (x : VWord) (em : BitVec 32) {va : Word} {loc : Nat} (q n : Nat)
    (h : va.toNat + 32 * n < 2 ^ 64) :
    let pa := padBase loc + va.toNat
    (s.storePieces a x (((List.range n).filterMap (vecWant 32 em va)).map (Want.inPad loc))).byte q =
      if (pa ≤ q ∧ q < pa + 32 * n) ∧ em.getLsbD ((q - pa) / 4) = true then x.extractLsb' (8 * (q - pa)) 8 else s.byte q := by
  intro pa
  induction n with
  | zero =>
    rw [if_neg (by omega)]
    rfl
  | succ n ih =>
    have hva := toNat_chunk (va := va) (n := 32 * n) (by omega)
    rw [List.range_succ, List.filterMap_append, List.map_append, State.storePieces, List.foldl_append]
    specialize ih (by omega)
    rw [State.storePieces] at ih
    generalize ((List.range n).filterMap (vecWant 32 em va)).map (Want.inPad loc) = ps at ih ⊢
    generalize ps.foldl (fun s p => s.writeDest a 0 p.dst (p.bytes x)) s = u at ih ⊢
    have hmask : ∀ i < 32, ((List.range 32).map fun i => em.getLsbD ((32 * n + i) / 4)).getD i false =
        em.getLsbD ((32 * n + i) / 4) := fun i hi => by simp [hi]
    by_cases hany : ∀ i < 32, em.getLsbD ((32 * n + i) / 4) = false
    · have hnone : vecWant 32 em va n = none := by simpa [vecWant] using hany
      simp only [List.filterMap_cons, hnone, List.filterMap_nil, List.map_nil, List.foldl_nil, ih]
      refine if_congr ⟨fun hq => ⟨by omega, hq.2⟩, fun ⟨hq, hon⟩ => ⟨?_, hon⟩⟩ rfl rfl
      by_contra hlast
      have hoff := hany (q - pa - 32 * n) (by omega)
      rw [show 32 * n + (q - pa - 32 * n) = q - pa by omega, hon] at hoff
      exact Bool.noConfusion hoff
    · have hsome : vecWant 32 em va n = some ⟨va + BitVec.ofNat 64 (32 * n), 32, 8 * 32 * n,
          (List.range 32).map fun i => em.getLsbD ((32 * n + i) / 4)⟩ := by
        rw [vecWant, if_pos]
        simpa using hany
      simp only [List.filterMap_cons, hsome, List.filterMap_nil, List.map_cons, List.map_nil, List.foldl_cons, List.foldl_nil]
      rw [State.byte_writePiece u a x (p := Want.inPad loc _) rfl]
      simp only [Want.inPad, List.length_map, List.length_range, hva, ih]
      by_cases hq : pa + 32 * n ≤ q ∧ q < pa + 32 * n + 32
      · rw [hmask _ (by omega), show 32 * n + (q - (padBase loc + (va.toNat + 32 * n))) = q - pa by omega,
          show 8 * 32 * n + 8 * (q - (padBase loc + (va.toNat + 32 * n))) = 8 * (q - pa) by omega,
          if_neg (show ¬ ((pa ≤ q ∧ q < pa + 32 * n) ∧ em.getLsbD ((q - pa) / 4) = true) by omega)]
        exact if_congr (and_congr_left fun _ => by omega) rfl rfl
      · rw [if_neg (by omega)]
        exact if_congr (and_congr_left fun _ => by omega) rfl rfl

/-- An effect that leaves the focused task and the bundle as they are commits to the machine one bundle on. -/
theorem State.commit_written {s u : State} (hs : s.Fresh) (h : u.cur = s.cur ∧ u.scr = s.scr) (q : Nat) :
    u.commit.byte q = u.byte q ∧ u.commit.cur = s.moved.cur := by
  obtain ⟨hcur, hscr⟩ := h
  rw [State.commit_effect hs hscr]
  refine ⟨rfl, ?_⟩
  rw [State.moved, State.moved, hcur]

/-- The bytes that a store of one element leaves in a scratchpad. -/
theorem State.byte_storeWhole (s : State) (a : Agent) (x : VWord) (pa n q : Nat) :
    (s.storePieces a x (whole (.pad pa) n)).byte q =
      if pa ≤ q ∧ q < pa + n then x.extractLsb' (8 * (q - pa)) 8 else s.byte q := by
  refine (State.byte_writePiece s a x (p := ⟨.pad pa, n, 0, List.replicate n true⟩) rfl q).trans ?_
  simp only [List.length_replicate, Nat.zero_add]
  refine if_congr (and_iff_left_of_imp fun hq => ?_) rfl rfl
  simp [show q - pa < n by omega]

/-- A store has a size of at most 8 bytes. -/
theorem storeRows_size : ∀ row ∈ storeRows, 0 < row.2 ∧ row.2 ≤ 8 := by simp [storeRows]

/-- The low bytes of a register among those of its extension. -/
theorem extractLsb'_setWidth_byte (x : Word) {i : Nat} (h : i < 8) :
    (x.setWidth 1024).extractLsb' (8 * i) 8 = x.extractLsb' (8 * i) 8 := by
  refine BitVec.eq_of_getLsbD_eq fun j hj => ?_
  simp only [BitVec.getLsbD_extractLsb', BitVec.getLsbD_setWidth, hj, decide_true, Bool.true_and,
    show 8 * i + j < 1024 by omega]

/-- A vector register is a number of whole granules. -/
theorem granules_whole (w : Width) : 32 * (w.bits / 8 / 32) = w.bits / 8 := by cases w <;> rfl

/-- The chunks of a vector access that lies in the task window lie there. -/
theorem chunk_inWindow {s : State} {va : Word} {n c : Nat} (h : inOwnWindow s va n) (hc : 32 * c + 32 ≤ n) :
    inOwnWindow s (va + BitVec.ofNat 64 (32 * c)) 32 := by
  obtain ⟨hlo, hhi, hpad⟩ := h
  have hva := toNat_chunk (va := va) (n := 32 * c) (by rw [padSize] at hpad; omega)
  exact ⟨by omega, by omega, by omega⟩

/-- The granules that a vector store to the task window wants are its own pieces there. -/
theorem State.reachAll_granules {s : State} {va : Word} {w : Width} (h : inOwnWindow s va (w.bits / 8)) :
    s.reachAll .store (vecWants 32 s.em va w) = .ok ((vecWants 32 s.em va w).map (Want.inPad s.cur.loc)) := by
  refine State.reachAll_window fun v hv => ?_
  obtain ⟨c, hc, hwant⟩ := List.mem_filterMap.mp hv
  have hc := List.mem_range.mp hc
  have hw := granules_whole w
  simp only [Option.ite_none_right_eq_some, Option.some.injEq] at hwant
  obtain ⟨-, rfl⟩ := hwant
  exact ⟨Nat.zero_lt_succ 31, chunk_inWindow h (by omega)⟩

end Sys2Proof.Machine

namespace Sys2Proof.Proofs

open Sys2Proof.Machine Sys2Proof.Claims

/-- Settles O27: the store is performed as it issues; its pieces are the bytes of D, or the granules with an active lane. -/
theorem storesWriteTheScratchpad : Obligations.StoresWriteTheScratchpad := by
  refine ⟨?_, ?_⟩
  · intro row hrow s o h hidle va pa ha hw
    obtain ⟨hz, hz8⟩ := storeRows_size row hrow
    have hreach : s.reachAligned .plain .store va row.2 = .ok (.pad pa) := by
      rw [State.reachAligned_aligned ha, State.reach_window va hz hw]
    have hpieces := State.storePieces_pad hidle.1 s.cur.agent ((s.readS o.d).setWidth 1024)
      (ps := whole (.pad pa) row.2) (by simp [whole, Dest.isPad])
    have hbyte := State.byte_storeWhole s s.cur.agent ((s.readS o.d).setWidth 1024) pa row.2
    have hexec := executes_scalar (exec_storeRows row hrow o) (baseUse_scalar _ _ rfl) h ((State.storeS_reached o.d hreach).trans
      (State.store_local hidle.1 _ (by simp [whole, Piece.remote])))
    have hcur := (State.commit_written h.fresh hpieces 0).2
    refine ⟨_, hexec, fun i hi => ?_, fun a hout => ?_, by rw [hcur], by rw [hcur], by rw [hcur]; rfl, ?_⟩
    · rw [(State.commit_written h.fresh hpieces _).1, hbyte, if_pos (by omega), Nat.add_sub_cancel_left,
        extractLsb'_setWidth_byte _ (by omega)]
    · rw [(State.commit_written h.fresh hpieces _).1, hbyte, if_neg (by omega)]
    · rw [hcur]
      exact s.cur.advance_keeps.2.2.2.2
  · intro s o h hidle va pa ha hw
    have hpad : ∀ p ∈ (vecWants 32 s.em va o.w).map (Want.inPad s.cur.loc), p.dst.isPad = true := by simp [Want.inPad, Dest.isPad]
    have hlocal : ∀ p ∈ (vecWants 32 s.em va o.w).map (Want.inPad s.cur.loc), p.remote = false := by simp [Want.inPad, Piece.remote]
    have hpieces := State.storePieces_pad hidle.1 s.cur.agent (s.readV o.vd) hpad
    have hbyte := fun q => State.byte_storeChunks s s.cur.agent (s.readV o.vd) s.em (va := va) (loc := s.cur.loc) q
      (o.w.bits / 8 / 32) (by rw [granules_whole o.w]; obtain ⟨-, -, hpad⟩ := hw; rw [padSize] at hpad; omega)
    rw [← vecWants_eq, granules_whole o.w] at hbyte
    have hexec := executes_scalar (exec_vst o) (baseUse_scalar _ _ rfl) h ((if_neg (vec_aligned ha)).trans (by
      rw [show s.mvAddr o = va from rfl, State.reachAll_granules hw]
      dsimp only
      rw [joinPieces_pad hpad, State.store_local hidle.1 _ hlocal]))
    refine ⟨_, hexec, fun i hi => ?_, fun a hout => ?_, by rw [(State.commit_written h.fresh hpieces 0).2]⟩
    · rw [(State.commit_written h.fresh hpieces _).1, hbyte, Nat.add_sub_cancel_left]
      exact if_congr (and_iff_right (by omega)) rfl rfl
    · rw [(State.commit_written h.fresh hpieces _).1, hbyte, if_neg (by omega)]

end Sys2Proof.Proofs
end

section
/-! PROOFS. Atomics at a scratchpad word (10 R229: O32), and full/empty words (10 R227, R228: O29, O30). -/

namespace Sys2Proof.Machine

open Sys2Proof.Claims

/-! ### The computation of an atomic (10 R229) -/

section
variable {n : Nat}

/-- The smaller of two numbers, of the one it is the value of. -/
theorem ofInt_min {z : Nat} (a b : BitVec z) : BitVec.ofInt z (min a.toInt b.toInt) = if a.toInt ≤ b.toInt then a else b := by
  rw [min_def]
  split <;> exact BitVec.ofInt_toInt

theorem ofInt_max {z : Nat} (a b : BitVec z) : BitVec.ofInt z (max a.toInt b.toInt) = if b.toInt ≤ a.toInt then a else b := by
  rw [max_comm, max_def]
  split <;> exact BitVec.ofInt_toInt

/-- The computation on numbers is the one on the bits of the word. -/
theorem atNew_eq (op : AtOp) (hn : n = 4 ∨ n = 8) (a b e : BitVec (8 * n)) {bw ew : Nat} (hb : BitVec.ofNat (8 * n) bw = b)
    (he : BitVec.ofNat (8 * n) ew = e) :
    (atNew op n a.toNat bw ew).map (BitVec.ofNat (8 * n)) = atomicValue op a b e := by
  have hbw : bw % 2 ^ (8 * n) = b.toNat := by rw [← hb, BitVec.toNat_ofNat]
  have hew : ew % 2 ^ (8 * n) = e.toNat := by rw [← he, BitVec.toNat_ofNat]
  have hsigned : toSigned (8 * n) bw = b.toInt := by rw [toSigned_eq_toInt, hb]
  simp only [atNew, hbw, hew, hsigned, toSigned_toNat]
  cases op with
  | add => exact congrArg some (by rw [← BitVec.toNat_add, BitVec.ofNat_toNat, BitVec.setWidth_eq])
  | min => exact congrArg some ((ofNat_intBits _).trans (ofInt_min a b))
  | max => exact congrArg some ((ofNat_intBits _).trans (ofInt_max a b))
  | minu => exact congrArg some (ofNat_minu a b)
  | maxu => exact congrArg some (ofNat_maxu a b)
  | and => exact congrArg some (ofNat_and a b)
  | or => exact congrArg some (ofNat_or a b)
  | xor => exact congrArg some (ofNat_xor a b)
  | xch => exact congrArg some (by rw [BitVec.ofNat_toNat, BitVec.setWidth_eq])
  | cas =>
    simp only [atomicValue, ← BitVec.toNat_inj]
    split
    · exact congrArg some (by rw [BitVec.ofNat_toNat, BitVec.setWidth_eq])
    · rfl
  | fadd r => rcases hn with rfl | rfl <;> rfl

end

/-! ### Places in scratchpads (01 R13, 04 R90) -/

/-- A choice is not a value that neither of its cases has. -/
theorem ite_ne_of {α : Type} {c : Prop} [Decidable c] {x y z : α} (hx : c → x ≠ z) (hy : ¬ c → y ≠ z) :
    (if c then x else y) ≠ z := by
  split
  · exact hx ‹_›
  · exact hy ‹_›

/-- The places in scratchpads are those of the aperture below each core's limit. -/
theorem State.place_isPad (s : State) (pa : Nat) : (∃ l off, s.place pa = .pad l off) ↔
    0x0C0000000000 ≤ pa ∧ pa < 0x0C0100000000 ∧ (pa - 0x0C0000000000) % 0x400000 < padSize := by
  by_cases hin : 0x0C0000000000 ≤ pa ∧ pa < 0x0C0100000000
  · have hplace : s.place pa = if (pa - 0x0C0000000000) % 0x400000 < padSize then
        .pad ((pa - 0x0C0000000000) / 0x400000) ((pa - 0x0C0000000000) % 0x400000) else .none := by
      rw [State.place, if_neg (by omega), if_neg (by omega), if_neg (by omega), if_neg (by omega), if_neg (by omega),
        if_neg (by omega), if_neg (by omega), if_neg (by omega), if_pos (by omega)]
    rw [hplace]
    by_cases hoff : (pa - 0x0C0000000000) % 0x400000 < padSize
    · rw [if_pos hoff]
      exact ⟨fun _ => ⟨hin.1, hin.2, hoff⟩, fun _ => ⟨_, _, rfl⟩⟩
    · rw [if_neg hoff]
      exact ⟨fun ⟨_, _, h⟩ => Place.noConfusion h, fun h => absurd h.2.2 hoff⟩
  · refine ⟨fun ⟨l, off, h⟩ => ?_, fun h => absurd ⟨h.1, h.2.1⟩ hin⟩
    refine absurd h ?_
    have hnode : ∀ (c : Prop) [Decidable c] (n : Nat), (if c then Place.node n else Place.none) ≠ .pad l off := fun c _ n =>
      ite_ne_of (fun _ => nofun) fun _ => nofun
    exact ite_ne_of (fun _ => hnode _ 0) fun _ => ite_ne_of (fun _ => hnode _ 1) fun _ => ite_ne_of (fun _ => hnode _ _) fun _ =>
      ite_ne_of (fun _ => nofun) fun _ => ite_ne_of (fun _ => hnode _ 6) fun _ => ite_ne_of (fun _ => nofun) fun _ =>
      ite_ne_of (fun _ => hnode _ 7) fun _ => ite_ne_of (fun _ => nofun) fun hlow =>
      ite_ne_of (fun hhigh => absurd ⟨not_lt.mp hlow, hhigh⟩ hin) fun _ => ite_ne_of (fun _ => nofun) fun _ =>
      ite_ne_of (fun _ => nofun) fun _ => ite_ne_of (fun _ => nofun) fun _ => ite_ne_of (fun _ => nofun) fun _ => nofun

/-- A granule that reaches into the scratchpads begins there. -/
theorem State.place_granule {s : State} {pa l off : Nat} (h : s.place pa = .pad l off) (g : Nat) (hg : g = 32 ∨ g = 64) :
    ∃ l off, s.place (pa / g * g) = .pad l off := by
  have hpa := (s.place_isPad pa).mp ⟨l, off, h⟩
  rw [padSize] at hpa
  rw [State.place_isPad, padSize]
  rcases hg with rfl | rfl <;> omega

/-- Reading an aligned word of a scratchpad changes nothing. -/
theorem State.touch_pad {s : State} {pa l off n : Nat} (h : s.place pa = .pad l off) (hn : 0 < n) (h32 : pa % 32 + n ≤ 32)
    (ctx : Nat) : s.touch ctx pa n = s := by
  have h64 : (pa % 64 + n + 63) / 64 = 1 := by omega
  have h32 : (pa % 32 + n + 31) / 32 = 1 := by omega
  obtain ⟨l64, off64, hp64⟩ := State.place_granule h 64 (.inr rfl)
  obtain ⟨l32, off32, hp32⟩ := State.place_granule h 32 (.inl rfl)
  have hsector : s.readSector (pa / 64 * 64) = s := by simp [State.readSector, hp64, Place.isNode]
  have hgranule : s.readGranule ctx (pa / 32 * 32) = s := by simp [State.readGranule, hp32]
  simp [State.touch, h64, h32, hsector, hgranule]

/-! ### Writes in a scratchpad -/

/-- A number of at most its bytes. -/
theorem leNat_lt (bs : List Byte) : leNat bs < 256 ^ bs.length := by
  induction bs with
  | nil => simp [leNat]
  | cons b bs ih =>
    rw [leNat, List.length_cons, Nat.pow_succ]
    have := b.isLt
    omega

theorem State.word_lt (s : State) (pa n : Nat) : s.word pa n < 256 ^ n := by
  have h := leNat_lt (s.bytes pa n)
  rwa [s.length_bytes] at h

/-- The atomic that computes a value from a scratchpad word leaves it there. -/
theorem State.atomicAt_pad {s : State} {pa l off n : Nat} (h : s.place pa = .pad l off) (hn : 0 < n) (h32 : pa % 32 + n ≤ 32)
    (a : Agent) (id : Nat) (op : AtOp) (b e : Word) :
    s.atomicAt a id pa op n b e =
      ((match atNew op n (s.word pa n) b.toNat e.toNat with
        | some x => (s.padPut pa ((natLe n x).map some)).spoil pa n a.task id
        | none => s), s.word pa n, s.anyPoison pa n) := by
  simp only [State.atomicAt, State.touch_pad h hn h32]
  cases atNew op n (s.word pa n) b.toNat e.toNat with
  | none => rfl
  | some x => simp [State.opWrite, h, length_natLe]

end Sys2Proof.Machine

namespace Sys2Proof.Proofs

open Sys2Proof.Machine Sys2Proof.Claims

/-- Settles O32: the atomic writes its word of the scratchpad alone, with the value computed from the old one. -/
theorem atomicsReplaceTheirWord : Obligations.AtomicsReplaceTheirWord := by
  intro s a id pa op wide b e l off hp ha n r
  have hn : n = 4 ∨ n = 8 := by cases wide <;> simp [n]
  have h32 : pa % 32 + n ≤ 32 := by rcases hn with h | h <;> cases wide <;> simp [n] at h ha ⊢ <;> omega
  have hr : r = _ := State.atomicAt_pad hp (by omega) h32 a id op b e
  have hbits : 256 ^ n = 2 ^ (8 * n) := by rw [pow_mul]; rfl
  have hold : (BitVec.ofNat (8 * n) (s.word pa n)).toNat = s.word pa n := by
    rw [BitVec.toNat_ofNat, Nat.mod_eq_of_lt (hbits ▸ s.word_lt pa n)]
  have hvalue := atNew_eq op hn (BitVec.ofNat (8 * n) (s.word pa n)) (b.setWidth (8 * n)) (e.setWidth (8 * n)) (bw := b.toNat)
    (ew := e.toNat) (BitVec.ofNat_toNat _ b) (BitVec.ofNat_toNat _ e)
  rw [hold] at hvalue
  rw [hr, ← hvalue]
  cases atNew op n (s.word pa n) b.toNat e.toNat with
  | none => exact ⟨rfl, fun q _ => rfl, rfl⟩
  | some x =>
    refine ⟨rfl, fun q hq => ?_, ?_⟩
    · refine (State.byte_padPut s pa q ((natLe n x).map some)).trans (if_neg ?_)
      rw [List.length_map, length_natLe]
      omega
    · exact (State.word_congr (State.spoil_mem ..) pa n).trans
        ((State.word_padPut s pa n x).trans (hbits ▸ (BitVec.toNat_ofNat x (8 * n)).symm))

end Sys2Proof.Proofs
end

section
/-! PROOFS. Full/empty words (10 R227, R228: O29, O30), and events of a context that keeps no etch log (19 R326). -/

namespace Sys2Proof.Machine

open Sys2Proof.Claims

/-! ### Events of a context that keeps no log (19 R326, R331) -/

/-- A context keeps no etch log. -/
def State.NoLogOf (s : State) (ctx : Nat) : Prop := ∀ c, s.ctxOf ctx = some c → c.etch = 0

/-- The context of a task, if there is such a task, keeps no etch log. -/
def State.Unlogged (s : State) (task : Nat) : Prop := ∀ t, s.task task = some t → s.NoLogOf t.ctx

theorem State.ctxOf_id {s : State} {i : Nat} {c : Ctx} (h : s.ctxOf i = some c) : c.id = i := by
  simpa using List.find?_some h

theorem State.etchReserve_noLog {s : State} {ctx : Nat} (h : s.NoLogOf ctx) (die : Nat) : s.etchReserve ctx die = (s, none) := by
  unfold State.etchReserve
  cases hc : s.ctxOf ctx with
  | none => rfl
  | some c => exact if_pos (h c hc)

theorem State.etchRecord_noLog {s : State} {ctx : Nat} (h : s.NoLogOf ctx) (die who type flags : Nat) (obj value : Word)
    (ser : Series) (event slot : Nat) : s.etchRecord ctx die who type flags obj value ser event slot = (s, []) := by
  unfold State.etchRecord
  cases hc : s.ctxOf ctx with
  | none => rfl
  | some c => exact if_pos (h c hc)

section
variable {s : State} {task : Nat} (h : s.Unlogged task)
include h

theorem State.etchTake_unlogged : s.etchTake task = (s, none) := by
  unfold State.etchTake
  cases ht : s.task task with
  | none => rfl
  | some t => simp only [State.etchReserve_noLog (h t ht)]

/-- A performed event leaves no trace and has no divergence. -/
theorem State.etchDone_unlogged (type flags : Nat) (obj value : Word) (ser : Series) (slot : Option EtchSlot) :
    s.etchDone task type flags obj value ser slot = (s, none) := by
  unfold State.etchDone
  cases slot with
  | none =>
    simp only [State.etchTake_unlogged h]
    cases s.task task <;> rfl
  | some k =>
    cases ht : s.task task with
    | none => simp only [ht]
    | some t =>
      cases hc : s.ctxOf t.ctx with
      | none => simp only [ht, hc]
      | some c =>
        have hid : c.id = t.ctx := State.ctxOf_id hc
        have hetch : c.etch ≠ 2 := by simp [h t ht c hc]
        simp only [ht, hc, hid, State.etchRecord_noLog (h t ht), if_pos hetch]

end

/-- Work that leaves the contexts, and the number and the context of every task, leaves a task without a log. -/
theorem State.Unlogged.map {s u : State} {task : Nat} (h : s.Unlogged task) {f : Task → Task} (hu : u.tasks = s.tasks.map f)
    (hf : ∀ t, (f t).id = t.id ∧ (f t).ctx = t.ctx) (hc : u.ctxs = s.ctxs) : u.Unlogged task := by
  intro t ht c hct
  rw [State.task, hu, List.find?_map] at ht
  obtain ⟨t0, ht0, rfl⟩ := Option.map_eq_some_iff.mp ht
  refine h t0 ?_ c ?_
  · have hp : ((fun t : Task => t.id == task) ∘ f) = fun t => t.id == task := funext fun t => by simp [(hf t).1]
    rwa [hp] at ht0
  · rwa [(hf t0).2, State.ctxOf, hc] at hct

/-- A write seen by the outstanding commands leaves a task without a log. -/
theorem State.Unlogged.spoil {s : State} {task : Nat} (h : s.Unlogged task) (pa n who op : Nat) : (s.spoil pa n who op).Unlogged task := by
  refine h.map (f := fun t => { t with ops := t.ops.map fun o => if op ≠ 0 ∧ t.id = who ∧ op ≤ o.id then o else o.spoil pa n })
    rfl (fun t => ⟨rfl, rfl⟩) rfl

theorem State.Unlogged.padPut {s : State} {task : Nat} (h : s.Unlogged task) (pa : Nat) (bs : List (Option Byte)) :
    (s.padPut pa bs).Unlogged task := by
  rw [State.padPut_eq]
  exact h

/-! ### Grants (10 R227) -/

/-- The operation that waits alone at a word is granted there. -/
theorem exec_feWaitGrant_single {s : State} {pa : Nat} {t : Task} {op : Op} (h : s.feReady pa = [(t, op)]) :
    exec (.feWaitGrant pa) s = .next (s.feGrant t op) := by
  have hexec : exec (.feWaitGrant pa) s = execFeWaitGrant pa s := rfl
  rw [hexec, execFeWaitGrant, h]
  rfl

/-- What waits at a word and can be granted waits there, and can. -/
theorem State.of_feReady {s : State} {pa : Nat} {t : Task} {op : Op} (h : s.feReady pa = [(t, op)]) :
    op.feWord = some pa ∧ s.grantable t op = true := by
  have hmem : (t, op) ∈ s.feReady pa := by rw [h]; exact List.mem_singleton_self _
  obtain ⟨t', -, hop⟩ := List.mem_flatMap.mp hmem
  obtain ⟨op', hop', heq⟩ := List.mem_map.mp hop
  cases heq
  have hcond := (List.mem_filter.mp hop').2
  rw [Bool.and_eq_true, beq_iff_eq] at hcond
  exact hcond

/-- LDWF and LDTK are granted where the word is full (10 R227). -/
theorem State.full_of_grantable {s : State} {t : Task} {op : Op} {pa : Nat} {take : Bool} (hk : op.kind = .feRead pa take)
    (h : s.grantable t op = true) : s.full pa = true := by
  simp only [State.grantable, hk, Bool.and_eq_true] at h
  exact h.2.1

section
variable {s : State} {t : Task} {op : Op} {pa : Nat} (h : s.Unlogged t.id)
include h

/-- LDWF and LDTK granted: memory stays as it is, and LDTK leaves its word empty. -/
theorem State.feGrant_read {take : Bool} (hk : op.kind = .feRead pa take) :
    (s.feGrant t op).mem = s.mem ∧
      ∀ q, (s.feGrant t op).full q = if take then (s.setFull pa false).full q else s.full q := by
  simp only [State.feGrant, hk, State.feEtch, State.etchDone_unlogged h]
  cases take with
  | false => exact ⟨rfl, fun q => rfl⟩
  | true => exact ⟨rfl, fun q => rfl⟩

/-- STWE and STFL granted: the value is in the word, which is full. -/
theorem State.feGrant_write {w : BitVec 32} {wait : Bool} (hk : op.kind = .feWrite pa w wait) :
    (s.feGrant t op).mem = (s.padPut pa ((natLe 4 w.toNat).map some)).mem ∧
      ∀ q, (s.feGrant t op).full q = (s.setFull pa true).full q := by
  have hlog : (((s.padPut pa ((natLe 4 w.toNat).map some)).spoil pa 4 t.id op.id).setFull pa true).Unlogged t.id :=
    (h.padPut pa _).spoil pa 4 t.id op.id
  have hempty : (s.padPut pa ((natLe 4 w.toNat).map some)).feEmpty = s.feEmpty :=
    (congrArg State.feEmpty (s.padPut_eq pa _)).trans rfl
  simp only [State.feGrant, hk, State.feEtch, State.etchDone_unlogged hlog]
  refine ⟨rfl, fun q => ?_⟩
  show ((s.padPut pa ((natLe 4 w.toNat).map some)).setFull pa true).full q = _
  rw [State.full_setFull, State.full_setFull, State.full, State.full, hempty]

end

/-! ### Full/empty operations issue (10 R227, R228) -/

theorem exec_ldwf (o : MSOps) (s : State) : exec (.ldwf o) s = feLoad false o s := rfl
theorem exec_ldtk (o : MSOps) (s : State) : exec (.ldtk o) s = feLoad true o s := rfl
theorem exec_stwe (o : MSOps) (s : State) : exec (.stwe o) s = feStore true o s := rfl
theorem exec_stfl (o : MSOps) (s : State) : exec (.stfl o) s = feStore false o s := rfl
theorem exec_fesetEmpty (o : FesetOps) (s : State) : exec (.fesetEmpty o) s = feSet false o s := rfl
theorem exec_fesetFull (o : FesetOps) (s : State) : exec (.fesetFull o) s = feSet true o s := rfl
theorem exec_feget (o : MSOps) (s : State) : exec (.feget o) s = execFeget o s := rfl

section
variable {i : Instr} {s : State} {o : MSOps} {pa : Nat} {obj : Word}

/-- A full/empty load issues where its word may be reached. -/
theorem executes_feLoad {take : Bool} (he : ∀ s, exec i s = feLoad take o s) (h : s.Issues i)
    (hp : s.fePlace o .load (if take then 0x07 else 0x06) = .ok (pa, obj)) :
    Executes i s ((s.beginOp (.feRead pa take) (if o.d = 0 then [] else [outS o.d 0]) false).reserveOp.withObj obj) :=
  executes_scalar he (baseUse_scalar _ _ rfl) h (by simp only [hp])

/-- A full/empty store issues where its word may be reached. -/
theorem executes_feStore {wait : Bool} (he : ∀ s, exec i s = feStore wait o s) (h : s.Issues i)
    (hp : s.fePlace o .store (if wait then 0x08 else 0x09) (some (((s.readS o.d).setWidth 32).setWidth 64)) = .ok (pa, obj)) :
    Executes i s (((s.beginOp (.feWrite pa ((s.readS o.d).setWidth 32) wait) [] false).reserveOp.withObj obj).feTry s.nextId pa) :=
  executes_scalar he (baseUse_scalar _ _ rfl) h (by simp only [hp])

end

/-- A bulk set of full/empty states issues where its runs of words may be reached. -/
theorem executes_feSet {i : Instr} {s : State} {full : Bool} {o : FesetOps} {r : Nat × Nat} {rs : List (Nat × Nat)}
    (he : ∀ s, exec i s = feSet full o s) (h : s.Issues i) (ha : (s.base o.a).toNat % 4 = 0) (hlo : 1 ≤ (s.readS o.b).toNat)
    (hhi : (s.readS o.b).toNat ≤ 8192) (hr : s.fesetRuns (s.base o.a) (s.readS o.b).toNat = .ok (r :: rs)) :
    Executes i s ((s.beginOp (.feSet (r :: rs) full) [] false).feTry s.nextId r.1) := by
  refine executes_scalar he (baseUse_scalar _ _ rfl) h ?_
  have haligned : ¬ (s.base o.a).extractLsb' 0 2 ≠ 0#2 := not_not.mpr ((extractLsb'_eq_zero_iff (s.base o.a) 2).mpr ha)
  have hcount : ¬ (s.readS o.b = 0 ∨ 8192 < (s.readS o.b).toNat) := by
    rintro (h0 | hmany)
    · rw [h0] at hlo
      exact absurd hlo (by decide)
    · omega
  dsimp only
  rw [if_neg haligned, if_neg hcount, hr]
  rfl

/-- FEGET issues where its 128 bytes may be reached. -/
theorem executes_feget {s : State} {o : MSOps} {pa : Nat} (h : s.Issues (.feget o)) (ha : (s.msAddr o 4).toNat % 128 = 0)
    (hr : s.reach .fe .load (s.msAddr o 4) 128 (s.msAddr o 4) = .ok (.pad pa)) :
    Executes (.feget o) s (s.beginOp (.feGet pa) (if o.d = 0 then [] else [outS o.d 0]) false) := by
  refine executes_scalar (exec_feget o) (baseUse_scalar _ _ rfl) h ?_
  have haligned : ¬ (s.msAddr o 4).extractLsb' 0 7 ≠ 0#7 := not_not.mpr ((extractLsb'_eq_zero_iff (s.msAddr o 4) 7).mpr ha)
  dsimp only
  rw [if_neg haligned, hr]
  rfl

end Sys2Proof.Machine

namespace Sys2Proof.Proofs

open Sys2Proof.Machine Sys2Proof.Claims

/-- Settles O29: each form begins its operation where the checks of its word or range pass. -/
theorem fullEmptyOperationsIssue : Obligations.FullEmptyOperationsIssue := by
  refine ⟨fun s o pa obj => ⟨fun h hp => ?_, fun h hp => ?_, fun h hp => ?_, fun h hp => ?_⟩,
    fun s o r rs ha hlo hhi hr => ⟨fun h => ?_, fun h => ?_⟩, fun s o pa h ha hr => executes_feget h ha hr⟩
  · exact executes_feLoad (exec_ldwf o) h hp
  · exact executes_feLoad (exec_ldtk o) h hp
  · exact executes_feStore (exec_stwe o) h hp
  · exact executes_feStore (exec_stfl o) h hp
  · exact executes_feSet (exec_fesetEmpty o) h ha hlo hhi hr
  · exact executes_feSet (exec_fesetFull o) h ha hlo hhi hr

/-- Settles O30: the operation that waits alone is the one that is granted; without a log its grant changes its word alone. -/
theorem fullEmptyWordsAreGranted : Obligations.FullEmptyWordsAreGranted := by
  intro s pa t op hready ht hlog
  have hunlogged : s.Unlogged t.id := fun t' ht' => by
    rw [ht] at ht'
    cases ht'
    exact hlog
  obtain ⟨hword, hgrant⟩ := State.of_feReady hready
  have hexec := exec_feWaitGrant_single hready
  refine ⟨fun take hk => ?_, fun w wait hk => ?_⟩
  · obtain ⟨hmem, hfull⟩ := State.feGrant_read hunlogged hk
    have hwas := State.full_of_grantable hk hgrant
    refine ⟨_, hexec, hmem, ?_, fun q hq => ?_⟩
    · rw [hfull, State.full_setFull, if_pos rfl, hwas]
      cases take <;> rfl
    · rw [hfull, State.full_setFull, if_neg hq, ite_self]
  · obtain ⟨hmem, hfull⟩ := State.feGrant_write hunlogged hk
    refine ⟨_, hexec, ?_, ?_, fun q hq => ?_, fun a ha => ?_⟩
    · rw [hfull, State.full_setFull, if_pos rfl]
    · rw [State.word_congr hmem, State.word_padPut]
      exact Nat.mod_eq_of_lt w.isLt
    · rw [hfull, State.full_setFull, if_neg hq]
    · rw [State.byte, hmem]
      refine (State.byte_padPut s pa a ((natLe 4 w.toNat).map some)).trans (if_neg ?_)
      rw [List.length_map, length_natLe]
      omega

end Sys2Proof.Proofs
end

section
/-! PROOFS. Atomics, acquires, releases and fences issue, and raise what has failed (10 R229 to R233, R235, R237: O31, O33). -/

namespace Sys2Proof.Machine

open Sys2Proof.Claims

/-! ### Atomics (10 R229 to R231) -/

/-- The rows of 10 R229 are atomics of their computation and size. -/
theorem exec_atomicRows : ∀ row ∈ atomicRows, ∀ (o : ATOps) (s : State), exec (row.1 o) s = atomic row.2.1 row.2.2 o s := by
  simp only [atomicRows, List.forall_mem_cons, List.not_mem_nil, false_imp_iff, implies_true, and_true]
  exact ⟨fun _ _ => rfl, fun _ _ => rfl, fun _ _ => rfl, fun _ _ => rfl, fun _ _ => rfl, fun _ _ => rfl, fun _ _ => rfl,
    fun _ _ => rfl, fun _ _ => rfl, fun _ _ => rfl, fun _ _ => rfl, fun _ _ => rfl, fun _ _ => rfl, fun _ _ => rfl,
    fun _ _ => rfl, fun _ _ => rfl, fun _ _ => rfl, fun _ _ => rfl, fun _ _ => rfl, fun _ _ => rfl, fun _ _ => rfl,
    fun _ _ => rfl⟩

/-- An atomic draws neither lanes nor stochastic words. -/
theorem atomicUses_scalar (a : SReg) (us : List Use) (hus : us.all Use.scalar = true) (cas sync : Prop) [Decidable cas]
    [Decidable sync] (d : SReg) :
    (baseUse a true ++ us ++ (if cas then [Use.srcS d true] else []) ++ [Use.mark (.s d)] ++ (if sync then [] else [Use.sync])).all
      Use.scalar = true := by
  have hcas : (if cas then [Use.srcS d true] else []).all Use.scalar = true := by split <;> rfl
  have hsync : (if sync then [] else [Use.sync]).all Use.scalar = true := by split <;> rfl
  rw [List.all_append, List.all_append, List.all_append, baseUse_scalar a true hus, hcas, hsync]
  rfl

theorem AScope.scope_eq_sy (x : AScope) : (x.scope = .sy) = (x = .sy) := by cases x <;> simp [AScope.scope]

theorem Ord.acquires_eq (x : Ord) : x.acquires = (x == .acq || x == .ar) := by cases x <;> rfl

theorem Ord.releases_eq (x : Ord) : x.releases = (x == .rel || x == .ar) := by cases x <;> rfl

/-- A remote operation has room among those outstanding, or must not wait for it (03 R67). -/
theorem remote_room {s : State} {d : Dest}
    (h : d.pa.isNone = true → s.farBefore false = true → s.remoteLoads s.cur.loc < 32) :
    ¬ (d.pa.isNone = true ∧ s.farBefore false = true ∧ 32 ≤ s.remoteLoads s.cur.loc) := fun ⟨hfar, hbefore, hfull⟩ =>
  absurd (h hfar hbefore) hfull.not_gt

/-- An atomic issues where its address passes its checks. -/
theorem executes_atomic {i : Instr} {s : State} {o : ATOps} {op : BitVec 2 → AtOp} {wide : Bool} {d : Dest}
    (he : ∀ s, exec i s = atomic op wide o s) (h : s.Issues i)
    (hr : s.reachAligned .atomic .atomic (s.base o.a) (if wide then 8 else 4) = .ok d)
    (hroom : d.pa.isNone = true → s.farBefore false = true → s.remoteLoads s.cur.loc < 32)
    (hlog : s.etchReady 0x01 ((if s.covers o.sc.scope d || o.ord == .rlx then 0 else 2) + placeFlags d) (s.objectOf (s.base o.a) d)
      (syncSeries (s.objectOf (s.base o.a) d) d) none = .ok ()) :
    let c : AtCmd := ⟨d, op (s.fmt.extractLsb' 0 2), wide, s.readS o.b, s.readS o.d, o.ord, o.sc,
      o.ord.acquires && s.covers o.sc.scope d, o.ord.releases && s.covers o.sc.scope d, s.upTo o.sc.scope⟩
    Executes i s (((s.beginOp (.atomic c) (if o.d = 0 then [] else [outS o.d 0]) d.pa.isNone).reserveOp.withSync
      (s.objectOf (s.base o.a) d) (!s.covers o.sc.scope d && o.ord != .rlx)).syncNow fun s t op => s.atomicGo t op c) := by
  refine executes_scalar he (atomicUses_scalar o.a [.srcS o.b true] rfl _ _ o.d) h ?_
  simp only [hr, if_neg (remote_room hroom), hlog]

/-! ### Failed posted stores and tickets (10 R233, R235, R237) -/

/-- The trap of a release or a fence that covers failed posted stores is that of the first, and reports all of them. -/
theorem State.storeTrap_of_failed {s : State} {n : Nat} {f : FailedTicket} {fs : List FailedTicket}
    (h : (s.cur.tls[3].failed.filter fun x => x.ticket ≤ n && !x.reported) = f :: fs) :
    s.storeTrap n = some { Trap.now f.fail.cause f.fail.eval with
      status := f.fail.status, deferred := true, tickets := (f :: fs).map fun x => (3, x.ticket) } := by
  simp only [State.storeTrap, Task.lostStores, h]

/-- Of two failed tickets the lower, the first where they are equal. -/
def lowerTicket (best : Option FailedTicket) (f : FailedTicket) : Option FailedTicket :=
  match best with
  | none => some f
  | some b => if f.ticket < b.ticket then some f else some b

theorem Tl.unreported_eq (t : Tl) (n : Nat) :
    t.unreported n = (t.failed.filter fun f => f.ticket ≤ n && !f.reported).foldl lowerTicket none := rfl

/-- A ticket that no other of a list is as low as is the lowest of it. -/
theorem foldl_lowerTicket {f : FailedTicket} : ∀ {l : List FailedTicket} {b : FailedTicket}, f ∈ b :: l →
    (∀ g ∈ b :: l, g.ticket ≤ f.ticket → g = f) → l.foldl lowerTicket (some b) = some f
  | [], b, hf, _ => congrArg some (List.mem_singleton.mp hf).symm
  | g :: l, b, hf, hmin => by
    have hcons : (g :: l).foldl lowerTicket (some b) =
        l.foldl lowerTicket (if g.ticket < b.ticket then some g else some b) := rfl
    rw [hcons]
    by_cases hlt : g.ticket < b.ticket
    · rw [if_pos hlt]
      refine foldl_lowerTicket ?_ fun x hx => hmin x (List.mem_cons_of_mem _ hx)
      rcases List.mem_cons.mp hf with rfl | hf
      · exact absurd (hmin g (by simp) hlt.le) (by rintro rfl; exact lt_irrefl _ hlt)
      · exact hf
    · rw [if_neg hlt]
      refine foldl_lowerTicket ?_ fun x hx => hmin x (by simp at hx ⊢; tauto)
      rcases List.mem_cons.mp hf with rfl | hf
      · exact List.mem_cons_self
      · rcases List.mem_cons.mp hf with rfl | hf
        · rw [hmin b (by simp) (not_lt.mp hlt)]
          exact List.mem_cons_self
        · exact List.mem_cons_of_mem _ hf

/-- The one lowest unreported failed ticket is the one that is raised. -/
theorem Tl.unreported_lowest {t : Tl} {n : Nat} {f : FailedTicket} (hf : f ∈ t.failed) (hr : f.reported = false)
    (hn : f.ticket ≤ n) (hmin : ∀ g ∈ t.failed, g.reported = false → g.ticket ≤ f.ticket → g = f) :
    t.unreported n = some f := by
  have hmem : f ∈ t.failed.filter fun f => f.ticket ≤ n && !f.reported := List.mem_filter.mpr ⟨hf, by simp [hn, hr]⟩
  have hlow : ∀ g ∈ t.failed.filter fun f => f.ticket ≤ n && !f.reported, g.ticket ≤ f.ticket → g = f := fun g hg => by
    obtain ⟨hg, hcond⟩ := List.mem_filter.mp hg
    rw [Bool.and_eq_true, Bool.not_eq_true'] at hcond
    exact hmin g hg hcond.2
  rw [Tl.unreported_eq]
  cases hl : t.failed.filter fun f => f.ticket ≤ n && !f.reported with
  | nil => rw [hl] at hmem; exact absurd hmem List.not_mem_nil
  | cons g l =>
    rw [hl] at hmem hlow
    exact foldl_lowerTicket hmem hlow

/-- A failed ticket that has been reported is not raised again. -/
theorem Task.unreported_reported (t : Task) (i : Fin 6) {n m : Nat} (h : ∀ f ∈ t.tls[i].failed, f.ticket ≤ n → f.ticket = m) :
    ((t.reported i m).tls[i]).unreported n = none := by
  have hfailed : (t.reported i m).tls[i].failed =
      t.tls[i].failed.map fun f => if f.ticket = m then { f with reported := true } else f := by
    rw [Task.reported, dif_pos i.isLt]
    exact congrArg Tl.failed (Vector.getElem_set_self i.isLt)
  have hnone : ((t.reported i m).tls[i].failed.filter fun f => f.ticket ≤ n && !f.reported) = [] := by
    rw [hfailed, List.filter_map, List.map_eq_nil_iff, List.filter_eq_nil_iff]
    intro f hf
    by_cases hm : f.ticket = m
    · simp [hm]
    · have hhigh : ¬ f.ticket ≤ n := fun hn => hm (h f hf hn)
      simp [hm, hhigh]
  rw [Tl.unreported_eq, hnone]
  rfl

/-! ### ACQ, REL, FENCE and TLWAIT (10 R232, R233, R235, R237) -/

theorem exec_acq (o : SyncOps) (s : State) : exec (.acq o) s = execAcq o s := rfl
theorem exec_rel (o : SyncOps) (s : State) : exec (.rel o) s = execRel o s := rfl
theorem exec_fence (o : FenceOps) (s : State) : exec (.fence o) s = execFence o s := rfl
theorem exec_tlwait (o : TlAOps) (s : State) : exec (.tlwait o) s = execTlwait o s := rfl

theorem fenceUses_scalar (o : FenceOps) : (if o.sc = .co then [] else [Use.sync]).all Use.scalar = true := by split <;> rfl

/-- Where no bundle is being executed, the timelines before the bundle are those of the task. -/
theorem State.preTl_fresh {s : State} (h : s.Fresh) (tl : Timeline) : s.preTl tl = s.cur.tls[Timeline.ix tl] := by
  rw [State.Fresh] at h
  rw [State.preTl, h]
  rfl

section
variable {s : State} {o : SyncOps} {d : Dest}

/-- ACQ issues where its address passes its checks. -/
theorem executes_acq (h : s.Issues (.acq o)) (hr : s.reachAligned .plain .load (s.base o.a) 8 = .ok d)
    (hroom : d.pa.isNone = true → s.farBefore false = true → s.remoteLoads s.cur.loc < 32)
    (hlog : s.etchReady 0x02 ((if s.covers o.sc d then 0 else 2) + placeFlags d) (s.objectOf (s.base o.a) d)
      (syncSeries (s.objectOf (s.base o.a) d) d) none = .ok ()) :
    Executes (.acq o) s
      (((s.beginOp (.acq d (s.covers o.sc d && o.sc != .co) false) (if o.d = 0 then [] else [outS o.d 0])
        d.pa.isNone).reserveOp.withSync (s.objectOf (s.base o.a) d) (!s.covers o.sc d)).syncNow State.acqGo) := by
  refine executes_scalar (exec_acq o) (baseUse_scalar _ _ rfl) h ?_
  simp only [hr, if_neg (remote_room hroom), hlog]

/-- REL issues where its address passes its checks and no covered posted store has failed. -/
theorem executes_rel (h : s.Issues (.rel o)) (hr : s.reachAligned .plain .store (s.base o.a) 8 = .ok d)
    (hlost : s.storeTrap (if s.covers o.sc d then s.upTo o.sc else 0) = none)
    (hlog : s.etchReady 0x03 ((if s.covers o.sc d then 0 else 2) + placeFlags d) (s.objectOf (s.base o.a) d)
      (syncSeries (s.objectOf (s.base o.a) d) d) none (some (s.readS o.d)) = .ok ()) :
    Executes (.rel o) s
      (((s.beginOp (.rel d (s.readS o.d) (if s.covers o.sc d then s.upTo o.sc else 0) (s.covers o.sc d && o.sc != .co) false) []
        false).reserveOp.withSync (s.objectOf (s.base o.a) d) (!s.covers o.sc d)).syncNow State.relGo) := by
  refine executes_scalar (exec_rel o) (baseUse_scalar _ _ rfl) h ?_
  simp only [hr, hlost, hlog]

/-- REL raises the trap of a covered posted store that has failed. -/
theorem raises_rel {x : Trap} (h : s.Issues (.rel o)) (hr : s.reachAligned .plain .store (s.base o.a) 8 = .ok d)
    (hlost : s.storeTrap (if s.covers o.sc d then s.upTo o.sc else 0) = some x) : Raises (.rel o) s x := by
  refine raises_scalar (exec_rel o) (baseUse_scalar _ _ rfl) h ?_
  simp only [hr, hlost]

end

section
variable {s : State} {o : FenceOps}

theorem executes_fence (h : s.Issues (.fence o)) (hlost : s.storeTrap (s.upTo o.sc) = none) :
    Executes (.fence o) s ((s.beginOp (.fence (s.upTo o.sc) (o.sc == .co)) [] false).lastGo State.fenceGo) := by
  refine executes_scalar (exec_fence o) (fenceUses_scalar o) h ?_
  simp only [hlost]

theorem raises_fence {x : Trap} (h : s.Issues (.fence o)) (hlost : s.storeTrap (s.upTo o.sc) = some x) :
    Raises (.fence o) s x := by
  refine raises_scalar (exec_fence o) (fenceUses_scalar o) h ?_
  simp only [hlost]

end

/-- TLWAIT that covers a failed ticket raises the lowest one's cause. -/
theorem raises_tlwait {s : State} {o : TlAOps} {f : FailedTicket} (h : s.Issues (.tlwait o))
    (hissued : (s.readS o.a).toNat ≤ s.cur.tls[Timeline.ix o.tl].issued)
    (hcount : (s.readS o.a).toNat ≤ s.cur.tls[Timeline.ix o.tl].count)
    (hf : s.cur.tls[Timeline.ix o.tl].unreported (s.readS o.a).toNat = some f) :
    Raises (.tlwait o) s { Trap.now f.fail.cause f.fail.eval with
      status := f.fail.status, deferred := true, op := f.op, tickets := [((Timeline.ix o.tl).val, f.ticket)] } := by
  refine raises_scalar (exec_tlwait o) rfl h ?_
  simp only [State.preTl_fresh h.fresh, if_neg hissued.not_gt, if_neg hcount.not_gt, hf]

end Sys2Proof.Machine

namespace Sys2Proof.Proofs

open Sys2Proof.Machine Sys2Proof.Claims

/-- Settles O31: each row is an atomic of its computation, which begins and is performed where nothing precedes it. -/
theorem atomicsIssue : Obligations.AtomicsIssue := by
  intro row hrow s o d h va cov rel acq far c hr hroom hlog
  have hexec := executes_atomic (exec_atomicRows row hrow o) h hr hroom hlog
  simp only [Ord.acquires_eq, Ord.releases_eq, State.upTo, AScope.scope_eq_sy] at hexec
  exact hexec

/-- Settles O33: each form issues where its checks pass and nothing covered has failed; what has failed is raised, the lowest ticket
first, and counts as reported. -/
theorem acquireReleaseFenceIssue : Obligations.AcquireReleaseFenceIssue := by
  have hupTo : ∀ (s : State) (o : SyncOps) (d : Dest), (if s.covers o.sc d then s.upTo o.sc else 0) =
      if s.covers o.sc d && o.sc == .sy then s.cur.tls[3].issued else 0 := fun s o d => by
    cases s.covers o.sc d <;> simp [State.upTo]
  refine ⟨⟨fun s o d h hr hroom => executes_acq h hr hroom, fun s o d h hr => ?_, fun s o h => executes_fence h⟩,
    fun s o f fs h hsc hfailed => ?_, fun s o d f fs h hsc hr hcov hfailed => ?_,
    ?_, fun t i n m _ hall => t.unreported_reported i hall⟩
  · intro cov obj upTo hlost hlog
    have hexec := executes_rel h hr ((congrArg s.storeTrap (hupTo s o d)).trans hlost) hlog
    rwa [hupTo] at hexec
  · refine ⟨_, raises_fence h (State.storeTrap_of_failed ?_), rfl, rfl, rfl, rfl, rfl⟩
    rwa [State.upTo, if_pos hsc]
  · refine ⟨_, raises_rel h hr (State.storeTrap_of_failed ?_), rfl, rfl, rfl, rfl, rfl⟩
    rwa [if_pos hcov, State.upTo, if_pos hsc]
  · intro s o f h tl hissued hcount hf hrep hle hmin
    exact ⟨_, raises_tlwait h hissued hcount (Tl.unreported_lowest hf hrep hle hmin), rfl, rfl, rfl, rfl⟩

end Sys2Proof.Proofs
end

section
/-! PROOFS. Acquires, releases and fences that complete as their bundle commits (10 R232, R233, R235: O59): where nothing else is
outstanding and no log is kept, the operation that an instruction begins is the only one, and nothing stands before it. -/

namespace Sys2Proof.Machine

open Sys2Proof.Claims

/-! ### The one operation of a task (06 R124) -/

/-- The machine in which the focused task has begun the operation `op`, the only one, for the register `d`. -/
def State.withOp (s : State) (d : SReg) (op : Op) : State :=
  { s with cur := { s.cur.mark (.s d) with ops := [op] }, nextId := s.nextId + 1 }

/-- A register marked leaves the number, the place, the context and the timelines of its task. -/
theorem Task.mark_keeps (t : Task) (d : Dst) : (t.mark d).id = t.id ∧ (t.mark d).loc = t.loc ∧ (t.mark d).ctx = t.ctx ∧
    (t.mark d).tls = t.tls ∧ (t.mark d).agent = t.agent := by
  obtain ⟨r, p, h⟩ := t.mark_eq d
  rw [h]
  exact ⟨rfl, rfl, rfl, rfl, rfl⟩

/-- A task marks nothing for s0. -/
theorem Task.mark_s0 (t : Task) : t.mark (.s 0) = t := by simp [Task.mark]

/-- The result of an instruction that writes a scalar register. -/
theorem outs_eq_scalarOuts (d : SReg) : (if d = 0 then [] else [outS d 0]) = scalarOuts d 0 := by
  have hzero : (0 : Word).setWidth 1024 = (0 : BitVec 1024) := by simp
  rw [scalarOuts, outS, hzero]

section
variable {s : State} (h : s.cur.ops = []) (d : SReg)
include h

theorem State.beginOp_alone (kind : OpKind) (y : BitVec 1024) (parks : Bool) :
    s.beginOp kind (scalarOuts d y) parks = s.withOp d (s.begun kind (scalarOuts d y) parks) := by
  have hcur := s.beginOp_cur kind d y parks
  rw [h] at hcur
  rw [State.withOp, State.beginOp] at *
  exact congrArg (fun t => { s with cur := t, nextId := s.nextId + 1 }) hcur

theorem State.beginOp_posted (kind : OpKind) (parks : Bool) :
    s.beginOp kind [] parks = s.withOp 0 (s.begun kind [] parks) := State.beginOp_alone h 0 kind 0 parks

end

section
variable (s : State) (d : SReg) (op : Op)

theorem State.withOp_ops : (s.withOp d op).cur.ops = [op] := rfl

theorem State.withOp_keeps : (s.withOp d op).cur.id = s.cur.id ∧ (s.withOp d op).cur.loc = s.cur.loc ∧
    (s.withOp d op).cur.ctx = s.cur.ctx ∧ (s.withOp d op).cur.tls = s.cur.tls ∧ (s.withOp d op).cur.agent = s.cur.agent :=
  s.cur.mark_keeps (.s d)

theorem State.withOp_awaits (hid : op.id = s.nextId) : s.Awaits (s.withOp d op) d op := ⟨rfl, rfl, rfl, rfl, hid⟩

/-- The operation replaced by a changed one. -/
theorem State.withOp_updOp (op' : Op) (ho : ∀ t ∈ s.others, t.id ≠ s.cur.id) (hid : op'.id = op.id) :
    (s.withOp d op).updOp (s.withOp d op).cur.id op' = s.withOp d op' := by
  have hcur := State.updOp_alone (s.withOp_ops d op) hid
  have hothers : ((s.withOp d op).updOp (s.withOp d op).cur.id op').others = s.others := by
    rw [(s.withOp_keeps d op).1]
    exact (List.map_congr_left fun t ht => if_neg (ho t ht)).trans (List.map_id _)
  have heq : (s.withOp d op).updOp (s.withOp d op).cur.id op' = { s.withOp d op with
      cur := ((s.withOp d op).updOp (s.withOp d op).cur.id op').cur
      others := ((s.withOp d op).updOp (s.withOp d op).cur.id op').others } := rfl
  rw [heq, hcur, hothers]
  rfl

end

/-! ### Without a log nothing is reserved, and no turn is awaited (19 R331, R333) -/

/-- The focused task is the one of its number. -/
theorem State.task_cur (s : State) : s.task s.cur.id = some s.cur := by simp [State.task, State.tasks]

theorem State.unlogged_cur {s : State} (h : s.NoLogOf s.cur.ctx) : s.Unlogged s.cur.id := fun t ht => by
  rw [s.task_cur] at ht
  cases ht
  exact h

theorem State.etchReady_noLog {s : State} (h : s.NoLogOf s.cur.ctx) (type flags : Nat) (obj : Word) (ser : Series)
    (mark value : Option Word) : s.etchReady type flags obj ser mark value = .ok () := by
  have hetch : s.myCtx.etch = 0 := by
    rw [State.myCtx]
    cases hc : s.ctxOf s.cur.ctx with
    | none => rfl
    | some c => exact h c hc
  exact if_pos hetch

theorem State.myTurn_noSlot (s : State) (t : Task) (ser : Series) : s.myTurn t none ser = true := by
  have hturn : s.turnOf t none = none := by
    unfold State.turnOf
    cases s.ctxOf t.ctx <;> rfl
  simp [State.myTurn, hturn]

theorem State.objTurn_noSlot (s : State) (t : Task) {op : Op} (h : op.etch = none) (d : Dest) : s.objTurn t op d = true := by
  cases d <;> simp [State.objTurn, h, State.myTurn_noSlot]

/-- The operation of an instruction that synchronises, alone in its task and without a log. -/
def State.syncOp (s : State) (kind : OpKind) (outs : List Out) (parks : Bool) (obj : Word) (scopex : Bool) : Op :=
  { s.begun kind outs parks with obj := obj, scopex := scopex }

section
variable {s : State} (h : s.cur.ops = []) (hlog : s.NoLogOf s.cur.ctx) (d : SReg) (y : BitVec 1024) (kind : OpKind) (parks : Bool)
include h hlog

/-- An operation begun alone reserves no place in a log. -/
theorem State.reserveOp_alone : (s.beginOp kind (scalarOuts d y) parks).reserveOp = s.withOp d (s.begun kind (scalarOuts d y) parks) := by
  have hu : (s.withOp d (s.begun kind (scalarOuts d y) parks)).Unlogged (s.withOp d (s.begun kind (scalarOuts d y) parks)).cur.id := by
    refine State.unlogged_cur ?_
    rw [(s.withOp_keeps d _).2.2.1]
    exact hlog
  rw [State.beginOp_alone h, State.reserveOp, State.etchTake_unlogged hu]
  simp [State.withOp, State.begun, State.setCur]

theorem State.withSync_alone (obj : Word) (scopex : Bool) :
    (s.beginOp kind (scalarOuts d y) parks).reserveOp.withSync obj scopex =
      s.withOp d (s.syncOp kind (scalarOuts d y) parks obj scopex) := by
  rw [State.reserveOp_alone h hlog]
  simp [State.withOp, State.withSync, State.begun, State.syncOp, State.setCur]

theorem State.withObj_alone (obj : Word) :
    (s.beginOp kind (scalarOuts d y) parks).reserveOp.withObj obj =
      s.withOp d (s.syncOp kind (scalarOuts d y) parks obj false) := by
  rw [State.reserveOp_alone h hlog]
  simp [State.withOp, State.withObj, State.begun, State.syncOp, State.setCur]

end

/-! ### ACQ of a word of the task window (10 R232) -/

/-- A scope covers the core's own scratchpad. -/
theorem State.covers_ownPad (s : State) (sc : Scope) {va : Nat} (h : va < padSize) :
    s.covers sc (.pad (padBase s.cur.loc + va)) = true := by
  have hloc : (padBase s.cur.loc + va - padBase 0) / 0x400000 = s.cur.loc := by
    rw [padSize] at h
    rw [padBase, padBase]
    omega
  rw [State.covers, hloc]
  cases sc <;> simp [coversPad]

/-- Advancing a generation changes cores and lines alone. -/
theorem State.advanceGen_keeps (s : State) (loc : Nat) : (s.advanceGen loc).cur = s.cur ∧ (s.advanceGen loc).others = s.others ∧
    (s.advanceGen loc).scr = s.scr ∧ (s.advanceGen loc).mem = s.mem ∧ (s.advanceGen loc).tick = s.tick ∧
    (s.advanceGen loc).queues = s.queues := by
  unfold State.advanceGen
  dsimp only
  split <;> exact ⟨rfl, rfl, rfl, rfl, rfl, rfl⟩

theorem State.advanceGen_gen (s : State) (loc : Nat) : ((s.advanceGen loc).core loc).gen = (s.core loc).gen + 1 := by
  have hcore : (s.advanceGen loc).core loc = (s.updCore loc fun c => { c with gen := (s.core loc).gen + 1 }).core loc := by
    unfold State.advanceGen
    dsimp only
    split <;> rfl
  rw [hcore, State.core_updCore, if_pos rfl]

/-- Advancing a generation marks no line dirty. -/
theorem State.advanceGen_dirty (s : State) (loc : Nat) : ∀ l ∈ (s.advanceGen loc).l1, ∃ l0 ∈ s.l1,
    l0.loc = l.loc ∧ l0.ctx = l.ctx ∧ l0.dirty = l.dirty := by
  unfold State.advanceGen
  dsimp only
  split
  · intro l hl
    obtain ⟨l0, hl0, rfl⟩ := List.mem_map.mp hl
    refine ⟨l0, (List.mem_filter.mp hl0).1, ?_⟩
    split <;> exact ⟨rfl, rfl, rfl⟩
  · exact fun l hl => ⟨l, hl, rfl, rfl, rfl⟩

/-- The acquire of a word of a scratchpad: one that is zero and not poisoned keeps it waiting, another it takes. -/
theorem State.acqGo_pad {s : State} {t : Task} {op : Op} {pa : Nat} {adv sent : Bool} (hk : op.kind = .acq (.pad pa) adv sent)
    (hlog : s.Unlogged t.id) (hp : s.anyPoison pa 8 = false) :
    s.acqGo t op =
      if s.word pa 8 = 0 then s.updOp t.id { op with parks := true }
      else if adv then (s.updOp t.id (op.observed (s.word pa 8) false none)).advanceGen t.loc
      else s.updOp t.id (op.observed (s.word pa 8) false none) := by
  have hread : s.readDest t.agent (.pad pa) 8 = (s, s.bytes pa 8, s.anyPoison pa 8) := rfl
  simp only [State.acqGo, hk, hread, hp, State.etchDone_unlogged hlog, State.word, Bool.not_false, and_true]

section
variable {s : State} {d : SReg} {op : Op} {pa : Nat} {adv : Bool} (hidle : ∀ t ∈ s.others, t.id ≠ s.cur.id)
  (hlog : s.NoLogOf s.cur.ctx) (hk : op.kind = .acq (.pad pa) adv false) (he : op.etch = none) (hp : s.anyPoison pa 8 = false)
include hidle hlog hk he hp

/-- An acquire that is alone in its task is tried at once. -/
theorem State.syncNow_acq : (s.withOp d op).syncNow State.acqGo =
    if s.word pa 8 = 0 then s.withOp d { op with parks := true }
    else if adv then (s.withOp d (op.observed (s.word pa 8) false none)).advanceGen s.cur.loc
    else s.withOp d (op.observed (s.word pa 8) false none) := by
  obtain ⟨hid, hloc, hctx, -, -⟩ := s.withOp_keeps d op
  have hcan : (s.withOp d op).canSync (s.withOp d op).cur op = true := by
    simp [State.canSync, hk, Task.mustWait_alone (s.withOp_ops d op), State.objTurn_noSlot _ _ he]
  have hu : (s.withOp d op).Unlogged (s.withOp d op).cur.id := State.unlogged_cur (by rw [hctx]; exact hlog)
  have hgo : (s.withOp d op).syncNow State.acqGo = (s.withOp d op).acqGo (s.withOp d op).cur op := by
    simp only [State.syncNow, s.withOp_ops d op, List.getLast?_singleton, hcan, if_true]
  rw [hgo, State.acqGo_pad hk hu hp, s.withOp_updOp d op { op with parks := true } hidle rfl,
    s.withOp_updOp d op (op.observed ((s.withOp d op).word pa 8) false none) hidle rfl, hloc]
  rfl

end

/-! ### Posted operations performed at once (10 R233, R235) -/

/-- The end of an operation without results leaves the register files and the pending results of its task. -/
theorem Task.endOp_posted (t : Task) {op : Op} (tick : Nat) (h : op.outs = []) :
    (t.endOp op tick).regs = t.regs ∧ (t.endOp op tick).pend = t.pend := by
  have hwake : ∀ u : Task, (u.wake tick).pend = u.pend := fun u => by
    unfold Task.wake
    split
    · rfl
    · split
      · rfl
      · split <;> rfl
      · rfl
  rw [Task.endOp, (Task.wake_keeps _ tick).1, hwake, h]
  exact ⟨rfl, rfl⟩

/-- A posted operation has ended within the bundle that began it: the task has nothing outstanding, and its registers move on. -/
theorem State.commit_posted {s u : State} {op : Op} {tick : Nat} (hs : s.Fresh) (hscr : u.scr = s.scr) (ho : op.outs = [])
    (hu : u.cur = (s.withOp 0 op).cur.endOp op tick) :
    u.commit = u.moved ∧ u.commit.cur.ops = [] ∧ u.commit.cur.regs = s.moved.cur.regs := by
  have hcommit := State.commit_effect hs hscr
  obtain ⟨hregs, hpend⟩ := (s.withOp 0 op).cur.endOp_posted tick ho
  refine ⟨hcommit, ?_, ?_⟩
  · rw [hcommit]
    refine (Task.advance_keeps _).1.trans ?_
    rw [hu, Task.endOp_ops, State.withOp_ops]
    simp
  · rw [hcommit]
    refine Task.advance_regs_congr ?_ ?_
    · rw [hu, hregs]
      exact congrArg Task.regs s.cur.mark_s0 (a₁ := s.cur.mark (.s 0))
    · rw [hu, hpend]
      exact congrArg Task.pend s.cur.mark_s0 (a₁ := s.cur.mark (.s 0))

theorem State.HomeAndL1Only.focus {s t : State} (h : s.HomeAndL1Only t) :
    t.cur = s.cur ∧ t.others = s.others ∧ t.scr = s.scr ∧ t.tick = s.tick ∧ t.ctxs = s.ctxs ∧ t.fabric = s.fabric :=
  ⟨(congrArg State.cur h).trans rfl, (congrArg State.others h).trans rfl, (congrArg State.scr h).trans rfl,
    (congrArg State.tick h).trans rfl, (congrArg State.ctxs h).trans rfl, (congrArg State.fabric h).trans rfl⟩

/-- The lines of a context written back are work at the homes and in the L1s. -/
theorem State.flushCtx_homeAndL1Only (s : State) (loc ctx : Nat) : s.HomeAndL1Only (s.flushCtx loc ctx) :=
  (State.HomeAndL1Only.foldl _ (.refl s) fun t l => t.writeBack_homeAndL1Only l).trans (.putLines _ _ _)

/-- No line of a context is dirty once they have been written back. -/
theorem State.flushCtx_clean (s : State) (loc ctx : Nat) :
    ∀ l ∈ (s.flushCtx loc ctx).l1, l.loc = loc → l.ctx = ctx → l.dirty = 0 := by
  intro l hl hloc hctx
  obtain ⟨l0, -, rfl⟩ := List.mem_map.mp hl
  by_cases hmine : (l0.loc == loc && l0.ctx == ctx) = true
  · rw [if_pos hmine]
    rfl
  · rw [if_neg hmine] at hloc hctx
    exact absurd (by simp [hloc, hctx]) hmine

/-- Where no line is dirty, writing back changes no memory. -/
theorem State.flushCtx_mem {s : State} (h : ∀ l ∈ s.l1, l.dirty = 0) (loc ctx : Nat) : (s.flushCtx loc ctx).mem = s.mem := by
  have hback : (s.l1.filter fun l => l.loc == loc && l.ctx == ctx).foldl State.writeBack s = s :=
    List.foldlRecOn _ _ (motive := fun t => t = s) rfl fun t ht l hl => by
      rw [ht]
      exact if_pos (h l (List.mem_filter.mp hl).1)
  have hmem : (s.flushCtx loc ctx).mem = ((s.l1.filter fun l => l.loc == loc && l.ctx == ctx).foldl State.writeBack s).mem := rfl
  rw [hmem, hback]

/-- Where nothing is outstanding, no acquire is tested again. -/
theorem State.wakeAcqs_none {s : State} (h : ∀ t ∈ s.tasks, t.ops = []) (hf : s.fabric.acqs = []) : s.wakeAcqs = s := by
  have hids : (s.tasks.flatMap fun t => (t.ops.filter Op.waitsHere).map Op.id) = [] :=
    List.flatMap_eq_nil_iff.mpr fun t ht => by rw [h t ht]; rfl
  unfold State.wakeAcqs
  rw [hids, hf]
  rfl

/-- No covered posted store has failed. -/
theorem Task.lostStores_none {t : Task} (h : t.tls[3].failed = []) (n : Nat) : t.lostStores n = [] := by
  rw [Task.lostStores, h]
  rfl

theorem State.storeTrap_none {s : State} (h : s.cur.tls[3].failed = []) (n : Nat) : s.storeTrap n = none := by
  simp only [State.storeTrap, Task.lostStores_none h]

/-- The stores that a release at a scope waits for have been performed. -/
theorem stored_upTo {s : State} (h : s.cur.tls[3].issued ≤ s.cur.tls[3].count) {t : Task} (ht : t.tls = s.cur.tls) (sc : Scope) :
    t.stored (s.upTo sc) = true := by
  rw [Task.stored, State.upTo, ht, decide_eq_true_eq]
  split
  · exact h
  · exact Nat.zero_le _

/-! ### REL of a word of the task window (10 R233) -/

/-- The machine `s` in which a release has written back what it must and put its value into a scratchpad word. -/
def State.released (s : State) (t : Task) (flush : Bool) (id pa : Nat) (v : Word) : State :=
  ((if flush then s.flushCtx t.loc t.ctx else s).padPut pa ((natLe 8 v.toNat).map some)).spoil pa 8 t.id id

/-- The release of a word of a scratchpad. -/
theorem State.relGo_pad {s : State} {t : Task} {op : Op} {pa upTo : Nat} {v : Word} {flush sent : Bool}
    (hk : op.kind = .rel (.pad pa) v upTo flush sent) (hlost : t.lostStores upTo = [])
    (hlog : (s.released t flush op.id pa v).Unlogged t.id) :
    s.relGo t op = ((s.released t flush op.id pa v).finishOp t.id op).wakeAcqs := by
  have hwrite : (if flush then s.flushCtx t.loc t.ctx else s).writeDest t.agent op.id (.pad pa) ((natLe 8 v.toNat).map some) =
      s.released t flush op.id pa v := by
    rw [State.writeDest, List.length_map, length_natLe]
    rfl
  simp only [State.relGo, hk, hlost, State.dropOwn, hwrite, State.etchDone_unlogged hlog, State.pendDiverge]

/-- A write that no outstanding command waits for leaves every task as it is. -/
theorem State.spoil_tasks {s : State} {pa n : Nat} (h : ∀ t ∈ s.tasks, ∀ o ∈ t.ops, o.spoil pa n = o) (task op : Nat) :
    (s.spoil pa n task op).cur = s.cur ∧ (s.spoil pa n task op).others = s.others := by
  have hops : ∀ t ∈ s.tasks, (t.ops.map fun o => if op ≠ 0 ∧ t.id = task ∧ op ≤ o.id then o else o.spoil pa n) = t.ops :=
    fun t ht => (List.map_congr_left fun o ho => by rw [h t ht o ho]; exact ite_self _).trans (List.map_id _)
  refine ⟨congrArg (fun os => { s.cur with ops := os }) (hops s.cur List.mem_cons_self), ?_⟩
  refine (List.map_congr_left fun t ht => ?_).trans (List.map_id _)
  exact congrArg (fun os => { t with ops := os }) (hops t (List.mem_cons_of_mem _ ht))

/-- A release leaves the tasks, the bundle and the contexts as they are. -/
theorem State.released_keeps {s : State} (h : ∀ t ∈ s.tasks, ∀ o ∈ t.ops, ∀ pa n, o.spoil pa n = o) (t : Task) (flush : Bool)
    (id pa : Nat) (v : Word) :
    let u := s.released t flush id pa v
    u.cur = s.cur ∧ u.others = s.others ∧ u.scr = s.scr ∧ u.ctxs = s.ctxs ∧ u.fabric = s.fabric := by
  intro u
  have hflush : s.HomeAndL1Only (if flush then s.flushCtx t.loc t.ctx else s) := by
    split
    · exact s.flushCtx_homeAndL1Only t.loc t.ctx
    · exact .refl s
  obtain ⟨hcur, hothers, hscr, -, hctxs, hfabric⟩ := hflush.focus
  have hput := State.padPut_eq (if flush then s.flushCtx t.loc t.ctx else s) pa ((natLe 8 v.toNat).map some)
  have hcur : ((if flush then s.flushCtx t.loc t.ctx else s).padPut pa ((natLe 8 v.toNat).map some)).cur = s.cur :=
    (congrArg State.cur hput).trans hcur
  have hothers : ((if flush then s.flushCtx t.loc t.ctx else s).padPut pa ((natLe 8 v.toNat).map some)).others = s.others :=
    (congrArg State.others hput).trans hothers
  have htasks := State.spoil_tasks (s := (if flush then s.flushCtx t.loc t.ctx else s).padPut pa ((natLe 8 v.toNat).map some))
    (pa := pa) (n := 8) (fun t ht o ho => h t (by rwa [State.tasks, hcur, hothers] at ht) o ho pa 8) t.id id
  exact ⟨htasks.1.trans hcur, htasks.2.trans hothers, (congrArg State.scr hput).trans hscr,
    (congrArg State.ctxs hput).trans hctxs, (congrArg State.fabric hput).trans hfabric⟩

theorem State.moved_mem (s : State) : s.moved.mem = s.mem := rfl

theorem State.finishOp_mem (s : State) (task : Nat) (op : Op) : (s.finishOp task op).mem = s.mem := rfl

theorem State.byte_congr {s t : State} (h : t.mem = s.mem) (pa : Nat) : t.byte pa = s.byte pa := by rw [State.byte, h, State.byte]

/-- The bytes after a release: the value in its word, and where nothing was dirty no other change. -/
theorem State.released_mem (s : State) (t : Task) (flush : Bool) (id pa : Nat) (v : Word) :
    (s.released t flush id pa v).word pa 8 = v.toNat ∧
      ((∀ l ∈ s.l1, l.dirty = 0) → ∀ a, a < pa ∨ pa + 8 ≤ a → (s.released t flush id pa v).byte a = s.byte a) := by
  refine ⟨?_, fun hclean a ha => ?_⟩
  · have hword := State.word_padPut (if flush then s.flushCtx t.loc t.ctx else s) pa 8 v.toNat
    rw [Nat.mod_eq_of_lt (show v.toNat < 256 ^ 8 from v.isLt)] at hword
    exact (State.word_congr rfl pa 8).trans hword
  · have hmem : (if flush then s.flushCtx t.loc t.ctx else s).mem = s.mem := by
      split
      · exact State.flushCtx_mem hclean t.loc t.ctx
      · rfl
    refine (State.byte_padPut (if flush then s.flushCtx t.loc t.ctx else s) pa a _).trans ((if_neg ?_).trans ?_)
    · rw [List.length_map, length_natLe]
      omega
    · rw [State.byte, hmem, State.byte]

/-- The generation advanced leaves the operation outstanding. -/
theorem State.Awaits.advanceGen {s u : State} {d : SReg} {op : Op} (h : s.Awaits u d op) (loc : Nat) :
    s.Awaits (u.advanceGen loc) d op := by
  obtain ⟨hcur, -, hscr, -, -⟩ := u.advanceGen_keeps loc
  exact ⟨hscr.trans h.scr, by rw [hcur]; exact h.regs, by rw [hcur]; exact h.pend, by rw [hcur]; exact h.ops, h.id⟩

/-- An acquire that took the value of its word has its data. -/
theorem State.observed_outs (s : State) (kind : OpKind) (d : SReg) (parks : Bool) (obj : Word) (scopex : Bool) (x : Nat) (bad : Bool) :
    ((s.syncOp kind (scalarOuts d 0) parks obj scopex).observed x bad none).outs = scalarOuts d (BitVec.ofNat 1024 x) :=
  map_scalarOuts d 0 _

section
variable {s : State} {op : Op} {pa upTo : Nat} {v : Word} {flush : Bool} (hids : ∀ t ∈ s.others, t.id ≠ s.cur.id)
  (hops : ∀ t ∈ s.others, t.ops = []) (hacqs : s.fabric.acqs = []) (hlog : s.NoLogOf s.cur.ctx)
  (hk : op.kind = .rel (.pad pa) v upTo flush false) (he : op.etch = none) (hlost : s.cur.tls[3].failed = [])
  (hstored : (s.withOp 0 op).cur.stored upTo = true)
include hids hops hacqs hlog hk he hlost hstored

/-- A release alone in its task is performed at once, and no acquire waits for it. -/
theorem State.syncNow_rel :
    (s.withOp 0 op).syncNow State.relGo =
      ((s.withOp 0 op).released (s.withOp 0 op).cur flush op.id pa v).finishOp (s.withOp 0 op).cur.id op ∧
    (((s.withOp 0 op).released (s.withOp 0 op).cur flush op.id pa v).finishOp (s.withOp 0 op).cur.id op).cur =
      (s.withOp 0 op).cur.endOp op ((s.withOp 0 op).released (s.withOp 0 op).cur flush op.id pa v).tick ∧
    (((s.withOp 0 op).released (s.withOp 0 op).cur flush op.id pa v).finishOp (s.withOp 0 op).cur.id op).scr = s.scr := by
  obtain ⟨hid, -, hctx, htls, -⟩ := s.withOp_keeps 0 op
  have hspoil : ∀ t ∈ (s.withOp 0 op).tasks, ∀ o ∈ t.ops, ∀ pa n, o.spoil pa n = o := fun t ht o ho pa n => by
    rcases List.mem_cons.mp ht with rfl | ht
    · rw [s.withOp_ops 0 op, List.mem_singleton] at ho
      rw [ho, Op.spoil, hk]
    · rw [hops t ht] at ho
      exact absurd ho List.not_mem_nil
  obtain ⟨hcur, hothers, hscr, hctxs, hfabric⟩ := State.released_keeps hspoil (s.withOp 0 op).cur flush op.id pa v
  generalize hrel : (s.withOp 0 op).released (s.withOp 0 op).cur flush op.id pa v = r at hcur hothers hscr hctxs hfabric ⊢
  have hcan : (s.withOp 0 op).canSync (s.withOp 0 op).cur op = true := by
    simp [State.canSync, hk, Task.mustWait_alone (s.withOp_ops 0 op), State.objTurn_noSlot _ _ he, hstored, s.withOp_ops 0 op]
  have hu : r.Unlogged (s.withOp 0 op).cur.id := by
    rw [← hcur]
    refine State.unlogged_cur fun c hc => hlog c ?_
    rwa [hcur, hctx, State.ctxOf, hctxs] at hc
  have hgo : (s.withOp 0 op).syncNow State.relGo = (r.finishOp (s.withOp 0 op).cur.id op).wakeAcqs := by
    have hpad := State.relGo_pad (s := s.withOp 0 op) (t := (s.withOp 0 op).cur) hk
      (Task.lostStores_none (by rw [htls]; exact hlost) upTo) (by rw [hrel]; exact hu)
    rw [hrel] at hpad
    simp only [State.syncNow, s.withOp_ops 0 op, List.getLast?_singleton, hcan, if_true, hpad]
  have hend : (r.finishOp (s.withOp 0 op).cur.id op).cur = (s.withOp 0 op).cur.endOp op r.tick := by
    rw [← hcur]
    exact r.updTask_cur _
  have hrest : (r.finishOp (s.withOp 0 op).cur.id op).others = s.others := by
    have hmap : (r.finishOp (s.withOp 0 op).cur.id op).others =
        r.others.map fun t => if t.id = (s.withOp 0 op).cur.id then t.endOp op r.tick else t := rfl
    rw [hmap, hothers, hid]
    exact (List.map_congr_left fun t ht => if_neg (hids t ht)).trans (List.map_id _)
  refine ⟨hgo.trans (State.wakeAcqs_none (fun t ht => ?_) (hfabric ▸ hacqs)), hend, hscr⟩
  rcases List.mem_cons.mp ht with rfl | ht
  · rw [hend, Task.endOp_ops, s.withOp_ops 0 op]
    simp
  · rw [hrest] at ht
    exact hops t ht

end

/-- An operation that an ACQ began waits on. -/
theorem State.Awaits.waits {s u : State} {d : SReg} {op : Op} (h : s.Awaits u d op) (hs : s.Fresh) {at_ : Dest} {adv sent : Bool}
    (hk : op.kind = .acq at_ adv sent) : exec (.loadComplete s.nextId) u.commit = .next u.commit := by
  simp only [exec_loadComplete, execLoadComplete, h.findOp hs, hk, State.accessComplete]

/-! ### Instructions at a word of the task window -/

/-- The operation of an ACQ of a scratchpad word. -/
def State.acqOp (s : State) (o : SyncOps) (pa : Nat) : Op :=
  s.syncOp (.acq (.pad pa) (o.sc != .co) false) (scalarOuts o.d 0) false (s.objectOf (s.base o.a) (.pad pa)) false

/-- The operation of a REL of a scratchpad word. -/
def State.relOp (s : State) (o : SyncOps) (pa : Nat) : Op :=
  s.syncOp (.rel (.pad pa) (s.readS o.d) (s.upTo o.sc) (o.sc != .co) false) [] false (s.objectOf (s.base o.a) (.pad pa)) false

section
variable {s : State} {o : SyncOps} (hidle : idle s) (hlog : noLog s) (ha : (s.base o.a).toNat % 8 = 0)
  (hw : inOwnWindow s (s.base o.a) 8)
include hidle hlog ha hw

/-- ACQ of a word of the task window is tried as it issues. -/
theorem executes_acq_window (h : s.Issues (.acq o)) {pa : Nat} (hpa : pa = padBase s.cur.loc + (s.base o.a).toNat)
    (hp : s.anyPoison pa 8 = false) :
    Executes (.acq o) s (if s.word pa 8 = 0 then s.withOp o.d { s.acqOp o pa with parks := true }
      else if o.sc != .co then (s.withOp o.d ((s.acqOp o pa).observed (s.word pa 8) false none)).advanceGen s.cur.loc
      else s.withOp o.d ((s.acqOp o pa).observed (s.word pa 8) false none)) := by
  have hreach : s.reachAligned .plain .load (s.base o.a) 8 = .ok (.pad pa) := by
    rw [State.reachAligned_aligned ha, State.reach_window (s.base o.a) (by decide) hw, hpa]
  have hcov : s.covers o.sc (.pad pa) = true := hpa ▸ s.covers_ownPad o.sc (by obtain ⟨-, -, hpad⟩ := hw; omega)
  have hexec := executes_acq h hreach (fun hfar => Bool.noConfusion hfar) (State.etchReady_noLog hlog ..)
  rw [outs_eq_scalarOuts, State.withSync_alone hidle.1 hlog, hcov] at hexec
  rwa [State.syncNow_acq (pa := pa) (adv := o.sc != .co) (fun t ht => (hidle.2 t ht).1) hlog rfl rfl hp] at hexec

/-- REL of a word of the task window is performed as it issues. -/
theorem executes_rel_window (h : s.Issues (.rel o)) (hstores : storesDone s) (hops : ∀ t ∈ s.others, t.ops = [])
    (hacqs : s.fabric.acqs = []) {pa : Nat} (hpa : pa = padBase s.cur.loc + (s.base o.a).toNat) :
    let w := s.withOp 0 (s.relOp o pa)
    let r := w.released w.cur (o.sc != .co) (s.relOp o pa).id pa (s.readS o.d)
    Executes (.rel o) s (r.finishOp w.cur.id (s.relOp o pa)) ∧
      (r.finishOp w.cur.id (s.relOp o pa)).cur = w.cur.endOp (s.relOp o pa) r.tick ∧
      (r.finishOp w.cur.id (s.relOp o pa)).scr = s.scr := by
  intro w r
  have hreach : s.reachAligned .plain .store (s.base o.a) 8 = .ok (.pad pa) := by
    rw [State.reachAligned_aligned ha, State.reach_window (s.base o.a) (by decide) hw, hpa]
  have hcov : s.covers o.sc (.pad pa) = true := hpa ▸ s.covers_ownPad o.sc (by obtain ⟨-, -, hpad⟩ := hw; omega)
  have hexec := executes_rel h hreach (State.storeTrap_none hstores.1 _) (State.etchReady_noLog hlog ..)
  have halone := State.withSync_alone hidle.1 hlog 0 0 (.rel (.pad pa) (s.readS o.d) (s.upTo o.sc) (o.sc != .co) false) false
    (s.objectOf (s.base o.a) (.pad pa)) false
  obtain ⟨hgo, hkeeps⟩ := State.syncNow_rel (pa := pa) (op := s.relOp o pa) (fun t ht => (hidle.2 t ht).1) hops hacqs hlog rfl rfl
    hstores.1 (stored_upTo hstores.2 (s.withOp_keeps 0 _).2.2.2.1 o.sc)
  rw [hcov] at hexec
  exact ⟨(hexec.trans (congrArg (fun u => Host.Outcome.next (State.commit (State.syncNow u State.relGo))) halone)).trans
    (congrArg (fun u => Host.Outcome.next (State.commit u)) hgo), hkeeps⟩

end

/-- The machine in which a FENCE has been performed as it issued. -/
def State.fenced (s : State) (upTo : Nat) (co : Bool) : State :=
  let w := s.withOp 0 (s.begun (.fence upTo co) [] false)
  (if co then w else (w.flushCtx s.cur.loc s.cur.ctx).advanceGen s.cur.loc).finishOp s.cur.id (s.begun (.fence upTo co) [] false)

/-- FENCE with nothing outstanding is performed as it issues. -/
theorem executes_fence_alone {s : State} {o : FenceOps} (h : s.Issues (.fence o)) (hidle : idle s) (hstores : storesDone s) :
    Executes (.fence o) s (s.fenced (s.upTo o.sc) (o.sc == .co)) := by
  have hexec := executes_fence h (State.storeTrap_none hstores.1 (s.upTo o.sc))
  rw [State.beginOp_posted hidle.1] at hexec
  generalize hop : s.begun (.fence (s.upTo o.sc) (o.sc == .co)) [] false = op at hexec
  obtain ⟨hid, hloc, hctx, htls, -⟩ := s.withOp_keeps 0 op
  have hbefore : ∀ x ∈ (s.withOp 0 op).cur.ops, x.id < op.id → x.unperformed = true →
        (!(o.sc == .co) || x.ofCore (s.withOp 0 op).cur.loc) = false :=
    fun x hx hlt => by
      rw [s.withOp_ops 0 op, List.mem_singleton] at hx
      exact absurd hlt (by rw [hx]; exact lt_irrefl _)
  have hlost : (s.withOp 0 op).storeLost (s.withOp 0 op).cur (s.upTo o.sc) = s.withOp 0 op := by
    simp only [State.storeLost, Task.lostStores_none (show (s.withOp 0 op).cur.tls[3].failed = [] by rw [htls]; exact hstores.1)]
  have hgo := State.fenceGo_performed (s := s.withOp 0 op) (t := (s.withOp 0 op).cur) (op := op) (by rw [← hop]; rfl)
    (stored_upTo hstores.2 htls o.sc) hbefore
  rw [hlost, hid, hloc, hctx] at hgo
  have hlast : (s.withOp 0 op).lastGo State.fenceGo = s.fenced (s.upTo o.sc) (o.sc == .co) := by
    have hlast : (s.withOp 0 op).lastGo State.fenceGo = (s.withOp 0 op).fenceGo (s.withOp 0 op).cur op := rfl
    rw [hlast, hgo, State.fenced, hop]
    cases o.sc == .co <;> rfl
  rwa [hlast] at hexec

/-- The end of the operation of a focused task. -/
theorem State.finishOp_cur {s : State} {t : Task} (h : s.cur = t) (op : Op) : (s.finishOp t.id op).cur = t.endOp op s.tick := by
  rw [← h]
  exact s.updTask_cur _

/-- What a FENCE leaves: its task without operations, and for a wider scope than .co clean lines and a new generation. -/
theorem State.fenced_keeps (s : State) (upTo : Nat) (co : Bool) :
    let op := s.begun (.fence upTo co) [] false
    let u := s.fenced upTo co
    u.scr = s.scr ∧ (∃ tick, u.cur = (s.withOp 0 op).cur.endOp op tick) ∧
      (co = true → u.mem = s.mem ∧ u.l1 = s.l1 ∧ u.cores = s.cores) ∧
      (co = false → (u.core s.cur.loc).gen = (s.core s.cur.loc).gen + 1 ∧
        ∀ l ∈ u.l1, l.loc = s.cur.loc → l.ctx = s.cur.ctx → l.dirty = 0) := by
  intro op u
  have hid := (s.withOp_keeps 0 op).1
  cases co with
  | true =>
    refine ⟨rfl, ⟨s.tick, ?_⟩, fun _ => ⟨rfl, rfl, rfl⟩, fun h => Bool.noConfusion h⟩
    have hcur := State.finishOp_cur (s := s.withOp 0 op) rfl op
    rwa [hid] at hcur
  | false =>
    have hflush := (s.withOp 0 op).flushCtx_homeAndL1Only s.cur.loc s.cur.ctx
    obtain ⟨hcur, -, hscr, -⟩ := hflush.focus
    generalize hr : (s.withOp 0 op).flushCtx s.cur.loc s.cur.ctx = r at hflush hcur hscr
    obtain ⟨hcur', -, hscr', -⟩ := r.advanceGen_keeps s.cur.loc
    have hu : u = (r.advanceGen s.cur.loc).finishOp s.cur.id op := by rw [← hr]; rfl
    rw [hu]
    refine ⟨hscr'.trans hscr, ⟨(r.advanceGen s.cur.loc).tick, ?_⟩, fun h => Bool.noConfusion h,
      fun _ => ⟨?_, fun l hl hloc hctx => ?_⟩⟩
    · have hend := State.finishOp_cur (hcur'.trans hcur) op
      rwa [hid] at hend
    · refine (r.advanceGen_gen s.cur.loc).trans (congrArg (fun c : Core => c.gen + 1) ?_)
      rw [State.core, hflush.cores]
      rfl
    · obtain ⟨l0, hl0, hloc0, hctx0, hdirty⟩ := r.advanceGen_dirty s.cur.loc l hl
      rw [← hdirty]
      rw [← hr] at hl0
      exact State.flushCtx_clean _ s.cur.loc s.cur.ctx l0 hl0 (hloc0.trans hloc) (hctx0.trans hctx)

end Sys2Proof.Machine

namespace Sys2Proof.Proofs

open Sys2Proof.Machine Sys2Proof.Claims

/-- Settles O59: the operation is alone, so that an acquire is tried and a release or fence performed as its bundle commits. -/
theorem acquireReleaseFenceComplete : Obligations.AcquireReleaseFenceComplete := by
  refine ⟨?acq, ?rel, ?fence⟩
  case acq =>
    intro s o h hidle hlog va pa ha hw hp hne
    have hexec := executes_acq_window hidle hlog ha hw h (pa := pa) rfl hp
    have hun := h.unfailed (exec_acq o) (d := .s o.d) (by simp)
    by_cases hz : s.word pa 8 = 0
    · rw [if_pos hz] at hexec
      have hwait := s.withOp_awaits o.d { s.acqOp o pa with parks := true } rfl
      refine ⟨_, hexec, ?_, hwait.empty h.fresh, fun _ => hwait.waits h.fresh rfl, fun hne0 => absurd hz hne0⟩
      rw [State.commit_effect h.fresh hwait.scr]
      rfl
    · rw [if_neg hz] at hexec
      have hwait := s.withOp_awaits o.d ((s.acqOp o pa).observed (s.word pa 8) false none) rfl
      generalize hop : (s.acqOp o pa).observed (s.word pa 8) false none = op at hexec hwait
      have hu : ∃ u, Executes (.acq o) s u ∧ s.Awaits u o.d op ∧ u.mem = s.mem ∧
          (u.core s.cur.loc).gen = (s.core s.cur.loc).gen + (if o.sc = .co then 0 else 1) := by
        by_cases hsc : o.sc = .co
        · rw [if_neg (by simp [hsc])] at hexec
          exact ⟨_, hexec, hwait, rfl, by rw [if_pos hsc]; exact (BitVec.add_zero _).symm⟩
        · rw [if_pos (by simpa using hsc)] at hexec
          have hgen := (s.withOp o.d op).advanceGen_gen s.cur.loc
          exact ⟨_, hexec, hwait.advanceGen s.cur.loc, ((s.withOp o.d op).advanceGen_keeps s.cur.loc).2.2.2.1,
            by rw [if_neg hsc]; exact hgen⟩
      obtain ⟨u, hexec, hwait, hmem, hgen⟩ := hu
      obtain ⟨hops, hd, -⟩ := hwait.filled h.fresh (by rw [← hop]; exact s.observed_outs ..) (by rw [← hop]; rfl) hne hun
      have hcommit := State.commit_effect h.fresh hwait.scr
      refine ⟨_, hexec, by rw [hcommit]; exact hmem, hwait.empty h.fresh, fun hz0 => absurd hz0 hz, fun _ =>
        ⟨_, hwait.complete h.fresh (by rw [← hop]; rfl), by rw [hcommit]; exact hmem, hops, fun hd0 => ?_,
          by rw [hcommit]; exact hgen⟩⟩
      obtain ⟨hval, hcond⟩ := hd hd0
      refine ⟨hval.trans (BitVec.setWidth_ofNat_of_le (by decide) _), hcond.trans ?_⟩
      rw [← hop]
      rfl
  case rel =>
    intro s o h hidle hlog hstores hops hacqs va pa ha hw
    obtain ⟨hexec, hcur, hscr⟩ := executes_rel_window hidle hlog ha hw h hstores hops hacqs (pa := pa) rfl
    obtain ⟨hword, hbyte⟩ := (s.withOp 0 (s.relOp o pa)).released_mem (s.withOp 0 (s.relOp o pa)).cur (o.sc != .co)
      (s.relOp o pa).id pa (s.readS o.d)
    obtain ⟨hcommit, hops, hregs⟩ := State.commit_posted h.fresh hscr rfl hcur
    have hmem := (congrArg State.mem hcommit).trans ((State.moved_mem _).trans (State.finishOp_mem ..))
    exact ⟨_, hexec, (State.word_congr hmem pa 8).trans hword, hops, hregs, fun hclean a ha =>
      (State.byte_congr hmem a).trans (hbyte hclean a ha)⟩
  case fence =>
    intro s o h hidle hstores
    obtain ⟨hscr, ⟨tick, hcur⟩, hco, hwide⟩ := s.fenced_keeps (s.upTo o.sc) (o.sc == .co)
    obtain ⟨hcommit, hops, hregs⟩ := State.commit_posted h.fresh hscr rfl hcur
    refine ⟨_, executes_fence_alone h hidle hstores, hops, hregs, fun hsc => ?_, fun hsc => ?_⟩
    · rw [hcommit]
      exact hco (by simpa using hsc)
    · rw [hcommit]
      exact hwide (by simpa using hsc)

end Sys2Proof.Proofs
end

section
/-! PROOFS. Bindings, timelines and queue instructions (10 R234, R236 to R238, R246, R247: O34). -/

namespace Sys2Proof.Machine

open Sys2Proof.Claims

/-! ### Bindings (10 R234) -/

/-- What BIND does with the table. -/
def bound (b : Bind) (bs : List Bind) : Except Stop (List Bind) :=
  if bs.contains b then .ok bs else if 16 ≤ bs.length then trapNow cProt 16 else .ok (bs ++ [b])

theorem exec_bind (o : BindOps) (s : State) : exec (.bind o) s = bindOp o bound s := rfl

theorem exec_unbind (o : BindOps) (s : State) : exec (.unbind o) s = bindOp o (fun b bs => .ok (bs.erase b)) s := rfl

theorem bound_old {b : Bind} {bs : List Bind} (h : b ∈ bs) : bound b bs = .ok bs := if_pos (List.contains_iff_mem.mpr h)

theorem bound_new {b : Bind} {bs : List Bind} (h : b ∉ bs) (hn : bs.length < 16) : bound b bs = .ok (bs ++ [b]) := by
  rw [bound, if_neg (mt List.contains_iff_mem.mp h), if_neg hn.not_ge]

theorem bound_full {b : Bind} {bs : List Bind} (h : b ∉ bs) (hn : 16 ≤ bs.length) : bound b bs = trapNow cProt 16 := by
  rw [bound, if_neg (mt List.contains_iff_mem.mp h), if_pos hn]

section
variable {i : Instr} {s : State} {o : BindOps} {f : Bind → List Bind → Except Stop (List Bind)}
  (he : ∀ s, exec i s = bindOp o f s) (h : s.Issues i) (hobj : (s.readS o.d).toNat % 8 = 0)
include he h

section
variable (hbase : (s.base o.a).toNat % 2 ^ o.lg.toNat = 0)
include hobj hbase

/-- BIND or UNBIND of aligned operands changes the table. -/
theorem executes_bindOp {bs : List Bind} (hf : f ⟨s.readS o.d, s.base o.a, o.lg.toNat⟩ s.cur.binds = .ok bs) :
    Executes i s (s.setCur fun t => { t with binds := bs }) := by
  refine executes_scalar he (baseUse_scalar _ _ rfl) h ?_
  have hobj : ¬ (s.readS o.d).extractLsb' 0 3 ≠ 0#3 := not_not.mpr ((extractLsb'_eq_zero_iff (s.readS o.d) 3).mpr hobj)
  simp only [if_neg hobj, if_neg (not_not.mpr hbase), hf]

theorem raises_bindOp {x : Trap} (hf : f ⟨s.readS o.d, s.base o.a, o.lg.toNat⟩ s.cur.binds = .error (.trap x)) :
    Raises i s x := by
  refine raises_scalar he (baseUse_scalar _ _ rfl) h ?_
  have hobj : ¬ (s.readS o.d).extractLsb' 0 3 ≠ 0#3 := not_not.mpr ((extractLsb'_eq_zero_iff (s.readS o.d) 3).mpr hobj)
  simp only [if_neg hobj, if_neg (not_not.mpr hbase), hf]

end

theorem raises_bindOp_object (hobj : (s.readS o.d).toNat % 8 ≠ 0) : Raises i s (.now cMisalign (s.readS o.d)) :=
  raises_scalar he (baseUse_scalar _ _ rfl) h (if_pos (mt (extractLsb'_eq_zero_iff (s.readS o.d) 3).mp hobj))

include hobj in
theorem raises_bindOp_base (hbase : (s.base o.a).toNat % 2 ^ o.lg.toNat ≠ 0) : Raises i s (.now cMisalign (s.base o.a)) :=
  raises_scalar he (baseUse_scalar _ _ rfl) h
    ((if_neg (not_not.mpr ((extractLsb'_eq_zero_iff (s.readS o.d) 3).mpr hobj))).trans (if_pos hbase))

end

/-! ### Timelines (10 R236 to R238) -/

theorem exec_tlread (o : TlOps) (s : State) : exec (.tlread o) s = execTlread o s := rfl
theorem exec_tlbump (o : TlOps) (s : State) : exec (.tlbump o) s = execTlbump o s := rfl

/-- An instruction of scalar uses that issues and whose own execution waits leaves its task where it was. -/
theorem waits_scalar {i : Instr} {s : State} {us : List Use} {body : State → Except Stop State} {p : Bool}
    (he : ∀ s, exec i s = s.slot us body) (hs : us.all Use.scalar = true) (h : s.Issues i) (hb : body s = .error (.wait p)) :
    exec i s = .next (s.waitAt [us] p) := by
  have hready : s.Ready us := by
    have hr := h.2
    rwa [State.usesOf_slot (us := fun _ => us) he] at hr
  have hp : s.scr.ph = .whole := by rw [hready.1]; rfl
  simp [he, State.slot, hp, hready.issue (breaksLimits_scalar hs), hb]

theorem Task.updTl_self (t : Task) (i : Fin 6) (f : Tl → Tl) : (t.updTl i f).tls[i] = f t.tls[i] := Vector.getElem_set_self i.isLt

theorem Task.updTl_ne (t : Task) {i j : Fin 6} (f : Tl → Tl) (h : j ≠ i) : (t.updTl i f).tls[j] = t.tls[j] :=
  Vector.getElem_set_ne i.isLt j.isLt fun he => h (Fin.ext he).symm

/-- The next ticket, completed with none before it outstanding, is reached. -/
theorem Tl.complete_next {t : Tl} (h : t.early = []) (f : Option Fail) (op : Option Nat) :
    (t.complete (t.count + 1) f op).count = t.count + 1 := by
  simp [Tl.complete, h, absorb]

/-- A timeline with no failed ticket up to `n` that is not reported. -/
theorem Tl.unreported_none {t : Tl} {n : Nat} (h : ∀ f ∈ t.failed, f.ticket ≤ n → f.reported = true) : t.unreported n = none := by
  have hnone : (t.failed.filter fun f => f.ticket ≤ n && !f.reported) = [] :=
    List.filter_eq_nil_iff.mpr fun f hf hcond => by
      rw [Bool.and_eq_true, decide_eq_true_eq, Bool.not_eq_true'] at hcond
      exact Bool.noConfusion (hcond.2.symm.trans (h f hf hcond.1))
  rw [Tl.unreported_eq, hnone]
  rfl

section
variable {s : State} {o : TlAOps} (h : s.Issues (.tlwait o))
include h

theorem raises_tlwait_undrawn (hn : s.cur.tls[Timeline.ix o.tl].issued < (s.readS o.a).toNat) :
    Raises (.tlwait o) s (.now cProt (s.readS o.a)) := by
  refine raises_scalar (exec_tlwait o) rfl h ?_
  simp only [State.preTl_fresh h.fresh, if_pos hn]
  rfl

theorem tlwait_waits (hissued : (s.readS o.a).toNat ≤ s.cur.tls[Timeline.ix o.tl].issued)
    (hcount : s.cur.tls[Timeline.ix o.tl].count < (s.readS o.a).toNat) :
    ∃ us, exec (.tlwait o) s = .next (s.waitAt us false) := by
  refine ⟨_, waits_scalar (exec_tlwait o) rfl h ?_⟩
  simp only [State.preTl_fresh h.fresh, if_neg hissued.not_gt, if_pos hcount]

theorem executes_tlwait (hissued : (s.readS o.a).toNat ≤ s.cur.tls[Timeline.ix o.tl].issued)
    (hcount : (s.readS o.a).toNat ≤ s.cur.tls[Timeline.ix o.tl].count)
    (hf : s.cur.tls[Timeline.ix o.tl].unreported (s.readS o.a).toNat = none) :
    Executes (.tlwait o) s
      ((s.advanceGen s.cur.loc).later 1 (outS o.d (BitVec.ofNat 64 s.cur.tls[Timeline.ix o.tl].count))) := by
  refine executes_scalar (exec_tlwait o) rfl h ?_
  simp only [State.preTl_fresh h.fresh, if_neg hissued.not_gt, if_neg hcount.not_gt, hf]

end

/-! ### Queues (10 R246, R247) -/

theorem exec_qpush (o : QAOps) (s : State) : exec (.qpush o) s = execQpush o s := rfl
theorem exec_qpop (o : QDOps) (s : State) : exec (.qpop o) s = execQpop o s := rfl
theorem exec_qstat (o : QDOps) (s : State) : exec (.qstat o) s = execQstat o s := rfl

/-- A queue number that is not mapped traps. -/
theorem State.noQueue_eq {α : Type} (s : State) (n : Nat) : (s.noQueue n : Except Stop α) = .error (.trap (unmapped s n)) := rfl

/-- QPUSH of a mapped queue whose quota allows it begins its push. -/
theorem executes_qpush {s : State} {o : QAOps} {m : QMapEntry} (h : s.Issues (.qpush o))
    (hm : s.qmapOf s.myCtx o.q.toNat = some m) (hquota : s.quotaFull s.myCtx m o.q.toNat = false)
    (hlog : s.etchReady 0x04 0 (BitVec.ofNat 64 o.q.toNat) (.unit (s.queueOf s.cur.ctx m).seq) none (some (s.readS o.a)) = .ok ()) :
    Executes (.qpush o) s (((s.beginOp (.cmd (.qpush o.q.toNat (s.readS o.a))) [] false).reserveOp.withObj
      (BitVec.ofNat 64 o.q.toNat)).lastGo State.qpushGo) := by
  refine executes_scalar (exec_qpush o) rfl h ?_
  simp only [hm, hquota, Bool.false_eq_true, if_false, queueK, hlog]

/-- QPOP of a mapped queue begins its pop. -/
theorem executes_qpop {s : State} {o : QDOps} {m : QMapEntry} (h : s.Issues (.qpop o)) (hm : s.qmapOf s.myCtx o.q.toNat = some m)
    (hlog : s.etchReady 0x05 0 (BitVec.ofNat 64 o.q.toNat) (.unit (s.queueOf s.cur.ctx m).seq) none = .ok ()) :
    Executes (.qpop o) s (((s.beginOp (.qpop o.q.toNat) (if o.d = 0 then [] else [outS o.d 0]) false).reserveOp.withObj
      (BitVec.ofNat 64 o.q.toNat)).lastGo State.qpopGo) := by
  refine executes_scalar (exec_qpop o) rfl h ?_
  simp only [hm, queueK, hlog]

end Sys2Proof.Machine

namespace Sys2Proof.Proofs

open Sys2Proof.Machine Sys2Proof.Claims

/-- Settles O34: each form is a short case split over its checks. -/
theorem timelinesBindsAndQueues : Obligations.TimelinesBindsAndQueues := by
  refine ⟨⟨?bind, ?unbind, ?misaligned⟩, ⟨?tlread, ?tlwait, ?tlbump⟩, ?qpush, ?qpop, ?qstat, ?nopush, ?nopop⟩
  case bind =>
    intro s o h hobj hbase b
    refine ⟨fun hb => ?_, fun hb hn => ?_, fun hb hn => ?_⟩
    · exact executes_bindOp (exec_bind o) h hobj hbase (bound_old hb)
    · exact executes_bindOp (exec_bind o) h hobj hbase (bound_new hb hn)
    · exact raises_bindOp (exec_bind o) h hobj hbase (bound_full hb hn)
  case unbind => exact fun s o h hobj hbase => executes_bindOp (exec_unbind o) h hobj hbase rfl
  case misaligned =>
    exact fun s o h => ⟨raises_bindOp_object (exec_bind o) h, raises_bindOp_base (exec_bind o) h⟩
  case tlread =>
    intro s o h
    refine executes_scalar (exec_tlread o) rfl h ?_
    rw [State.preTl_fresh h.fresh]
  case tlwait =>
    intro s o h a tl
    refine ⟨raises_tlwait_undrawn h, fun hissued hcount => ?_, fun hcount hissued hrep => ?_⟩
    · obtain ⟨us, hwait⟩ := tlwait_waits h hissued hcount
      exact ⟨_, hwait, rfl, rfl⟩
    · exact executes_tlwait h hissued hcount (Tl.unreported_none hrep)
  case tlbump =>
    intro s o h i n
    refine ⟨_, executes_scalar (exec_tlbump o) rfl h rfl, ?_, fun hcount hearly => ?_, fun j hj => ?_, rfl, rfl⟩
    · rw [State.setCur_cur, Task.updTl_self, Task.draw]
      exact congrArg Tl.issued (Task.updTl_self ..)
    · rw [State.setCur_cur, Task.updTl_self, Task.draw, Task.updTl_self]
      have hnext := Tl.complete_next (t := { s.cur.tls[i] with issued := n }) hearly none none
      have hn : s.cur.tls[i].count + 1 = n := congrArg (· + 1) hcount
      rw [hn] at hnext
      exact hnext
    · rw [State.setCur_cur, Task.updTl_ne _ _ hj]
      exact Task.updTl_ne _ _ hj
  case qpush => exact fun s o m h => executes_qpush h
  case qpop => exact fun s o m h => executes_qpop h
  case qstat =>
    intro s o m h hm q
    refine executes_scalar (exec_qstat o) rfl h ?_
    simp only [hm]
    rfl
  case nopush =>
    intro s o h hm
    refine raises_scalar (exec_qpush o) rfl h ?_
    simp only [hm, State.noQueue_eq]
  case nopop =>
    refine fun s o hm => ⟨fun h => raises_scalar (exec_qpop o) rfl h ?_, fun h => raises_scalar (exec_qstat o) rfl h ?_⟩
    · simp only [hm, State.noQueue_eq]
    · simp only [hm, State.noQueue_eq]

end Sys2Proof.Proofs
end

section
/-! PROOFS. A queue keeps its order (10 R246, R247: O60). -/

namespace Sys2Proof.Machine

open Sys2Proof.Claims

/-! ### Pushing (10 R247) -/

/-- The queue that a map entry names is of its context, die and on-chip number. -/
theorem State.queueOf_names (s : State) (ctx : Nat) (m : QMapEntry) :
    (s.queueOf ctx m).ctx = ctx ∧ (s.queueOf ctx m).die = m.die ∧ (s.queueOf ctx m).chip = m.chip := by
  rw [State.queueOf]
  cases hq : s.queues.find? fun q => q.ctx == ctx && q.die == m.die && q.chip == m.chip with
  | none => exact ⟨rfl, rfl, rfl⟩
  | some q =>
    have hnames := List.find?_some hq
    simp only [Bool.and_eq_true, beq_iff_eq] at hnames
    obtain ⟨⟨hctx, hdie⟩, hchip⟩ := hnames
    exact ⟨hctx, hdie, hchip⟩

/-- A queue put in the place that a map entry names is the one that the entry names. -/
theorem State.queueOf_put (s : State) {ctx : Nat} {m : QMapEntry} {q : Queue} (hctx : q.ctx = ctx) (hdie : q.die = m.die)
    (hchip : q.chip = m.chip) : (s.putQueue q).queueOf ctx m = q := by
  rw [← hctx]
  exact s.queueOf_putQueue q m hdie hchip

/-- An entry pushed is put behind those of its queue, on chip or in a slot of its ring. -/
theorem State.enqueue_put (s : State) (a : Agent) (m : QMapEntry) (n : Nat) (v : Word) :
    ∃ (u : State) (slot : Option Nat), s.enqueue a m n v = u.putQueue { s.queueOf a.ctx m with
      entries := (s.queueOf a.ctx m).entries ++ [⟨v, false, n, slot⟩], seq := (s.queueOf a.ctx m).seq + 1 } := by
  unfold State.enqueue
  dsimp only
  split
  · exact ⟨_, _, rfl⟩
  · split <;> exact ⟨_, _, rfl⟩

/-! ### Popping (10 R246) -/

theorem State.queueOf_congr {s t : State} (h : t.queues = s.queues) (ctx : Nat) (m : QMapEntry) :
    t.queueOf ctx m = s.queueOf ctx m := by
  rw [State.queueOf, h, State.queueOf]

/-- An operation alone in its task is held by none. -/
theorem Task.heldBy_alone {t : Task} {op : Op} (h : t.ops = [op]) : t.heldBy op = false := by simp [Task.heldBy, h]

/-- The one operation is found by its number. -/
theorem State.withOp_findOp (s : State) (d : SReg) (op : Op) : (s.withOp d op).findOp op.id = some ((s.withOp d op).cur, op) := by
  simp [State.findOp, State.tasks, s.withOp_ops d op]

theorem State.finishOp_queues (s : State) (task : Nat) (op : Op) : (s.finishOp task op).queues = s.queues := rfl

/-- The one operation replaced in a machine with a queue changed. -/
theorem State.putQueue_updOp (s : State) (d : SReg) (op op' : Op) (q : Queue) (hids : ∀ t ∈ s.others, t.id ≠ s.cur.id)
    (hid : op'.id = op.id) : ((s.withOp d op).putQueue q).updOp s.cur.id op' = (s.putQueue q).withOp d op' := by
  have hupd := (s.putQueue q).withOp_updOp d op op' hids hid
  rwa [((s.putQueue q).withOp_keeps d op).1] at hupd

section
variable {s : State} {d : SReg} {op : Op} {n : Nat} {m : QMapEntry} (hk : op.kind = .qpop n)
  (hmap : (s.ctxOf s.cur.ctx).bind (fun c => s.qmapOf c n) = some m) (hw : (s.queueOf s.cur.ctx m).waiters = [])
  (hids : ∀ t ∈ s.others, t.id ≠ s.cur.id)
include hk hmap hw hids

/-- A pop of an empty queue waits in the queue's line. -/
theorem State.qpopGo_empty (hq : (s.queueOf s.cur.ctx m).entries = []) :
    (s.withOp d op).qpopGo (s.withOp d op).cur op =
      (s.putQueue { s.queueOf s.cur.ctx m with waiters := [(s.cur.id, op.id)] }).withOp d { op with parks := true } := by
  obtain ⟨hid, -, hctx, -⟩ := s.withOp_keeps d op
  have hmap : ((s.withOp d op).ctxOf s.cur.ctx).bind (fun c => (s.withOp d op).qmapOf c n) = some m := hmap
  have hqueue : (s.withOp d op).queueOf s.cur.ctx m = s.queueOf s.cur.ctx m := State.queueOf_congr rfl ..
  have hnone : (s.withOp d op).waitersOf (s.queueOf s.cur.ctx m) = [] := by rw [State.waitersOf, hw]; rfl
  simp only [State.qpopGo, hk, hctx, hmap, hqueue, hq, Task.heldBy_alone (s.withOp_ops d op), hnone, hid, List.contains_nil,
    List.nil_append, Bool.false_eq_true, if_false]
  exact s.putQueue_updOp d op _ _ hids rfl

/-- A pop that nobody waits before takes the oldest entry, and the rest keeps its order. -/
theorem State.qpopGo_taken (hlog : s.NoLogOf s.cur.ctx) (he : op.etch = none) {e : QEntry} {es : List QEntry}
    (hq : (s.queueOf s.cur.ctx m).entries = e :: es) (hslots : ∀ x ∈ e :: es, x.slot = none) :
    (s.withOp d op).qpopGo (s.withOp d op).cur op =
      ((s.putQueue { s.queueOf s.cur.ctx m with entries := es, seq := (s.queueOf s.cur.ctx m).seq + 1 }).withOp d
        (op.observed e.v.toNat e.bad none)).advanceGen s.cur.loc := by
  obtain ⟨hid, hloc, hctx, -⟩ := s.withOp_keeps d op
  have hmap : ((s.withOp d op).ctxOf s.cur.ctx).bind (fun c => (s.withOp d op).qmapOf c n) = some m := hmap
  have hqueue : (s.withOp d op).queueOf s.cur.ctx m = s.queueOf s.cur.ctx m := State.queueOf_congr rfl ..
  have hnone : (s.withOp d op).waitersOf (s.queueOf s.cur.ctx m) = [] := by rw [State.waitersOf, hw]; rfl
  have hturn : (s.withOp d op).popTurn (s.queueOf s.cur.ctx m) (s.cur.id, op.id) = true := by
    simp only [State.popTurn, s.withOp_findOp d op, he, State.myTurn_noSlot]
  have hu : ∀ q, ((s.withOp d op).putQueue q).Unlogged s.cur.id := fun q => by
    have hlog : ((s.withOp d op).putQueue q).NoLogOf (s.withOp d op).cur.ctx := by rw [hctx]; exact hlog
    have hu := State.unlogged_cur hlog
    rwa [show ((s.withOp d op).putQueue q).cur.id = s.cur.id from hid] at hu
  have hkeep : es.takeWhile (fun y => y.slot.isNone) = es :=
    List.takeWhile_eq_self_iff.mpr fun x hx => by rw [hslots x (List.mem_cons_of_mem _ hx)]; rfl
  have hslot : e.slot = none := hslots e List.mem_cons_self
  simp only [State.qpopGo, hk, hctx, hmap, hqueue, hq, Task.heldBy_alone (s.withOp_ops d op), hnone, hid, hloc, List.contains_nil,
    List.nil_append, Bool.false_eq_true, if_false, List.find?_cons, hturn, hkeep, hslot, ne_eq, not_true_eq_false,
    Option.isSome_none, List.drop_length, State.refill, List.append_nil, State.etchDone_unlogged (hu _), List.erase_cons_head, hw]
  exact congrArg (fun u => State.advanceGen u s.cur.loc) (s.putQueue_updOp d op _ _ hids rfl)

end

/-- The operation of a QPOP that is alone in its task. -/
def State.popOp (s : State) (o : QDOps) : Op :=
  s.syncOp (.qpop o.q.toNat) (scalarOuts o.d 0) false (BitVec.ofNat 64 o.q.toNat) false

/-- QPOP of a mapped queue that is alone in its task is tried as it issues. -/
theorem executes_qpop_alone {s : State} {o : QDOps} {c : Ctx} {m : QMapEntry} (h : s.Issues (.qpop o)) (hops : s.cur.ops = [])
    (hlog : noLog s) (hc : s.ctxOf s.cur.ctx = some c) (hm : s.qmapOf c o.q.toNat = some m) :
    Executes (.qpop o) s ((s.withOp o.d (s.popOp o)).qpopGo (s.withOp o.d (s.popOp o)).cur (s.popOp o)) := by
  have hmy : s.myCtx = c := by rw [State.myCtx, hc]; rfl
  have hexec := executes_qpop h (hmy ▸ hm) (State.etchReady_noLog hlog ..)
  rw [outs_eq_scalarOuts, State.withObj_alone hops hlog] at hexec
  exact hexec

end Sys2Proof.Machine

namespace Sys2Proof.Proofs

open Sys2Proof.Machine Sys2Proof.Claims

/-- Settles O60: a push puts its entry last; a pop that is alone takes the first entry, or stands in the queue's line. -/
theorem queuesKeepTheirOrder : Obligations.QueuesKeepTheirOrder := by
  refine ⟨?push, ?pop⟩
  case push =>
    intro s a m n v q r
    obtain ⟨u, slot, hput⟩ := s.enqueue_put a m n v
    obtain ⟨hctx, hdie, hchip⟩ := s.queueOf_names a.ctx m
    have hr : r = { q with entries := q.entries ++ [⟨v, false, n, slot⟩], seq := q.seq + 1 } := by
      have hq := u.queueOf_put (q := { q with entries := q.entries ++ [⟨v, false, n, slot⟩], seq := q.seq + 1 }) hctx hdie hchip
      rwa [← hput] at hq
    rw [hr]
    exact ⟨List.take_left, rfl, rfl, slot, List.drop_left⟩
  case pop =>
    intro s o c m h hidle hlog hc hm hne q hwait hentries
    have hids := fun t ht => (hidle.2 t ht).1
    have hmap : (s.ctxOf s.cur.ctx).bind (fun c => s.qmapOf c o.q.toNat) = some m := by rw [hc]; exact hm
    obtain ⟨hctx, hdie, hchip⟩ := s.queueOf_names s.cur.ctx m
    have hexec := executes_qpop_alone h hidle.1 hlog hc hm
    have hun := h.unfailed (exec_qpop o) (d := .s o.d) (by simp)
    refine ⟨fun e es hq => ?_, fun hq => ?_⟩
    · rw [State.qpopGo_taken (op := s.popOp o) rfl hmap hwait hids hlog rfl hq fun x hx => (hentries x (hq ▸ hx)).1] at hexec
      generalize hop : (s.popOp o).observed e.v.toNat e.bad none = op at hexec
      generalize hqueue : ({ s.queueOf s.cur.ctx m with entries := es, seq := (s.queueOf s.cur.ctx m).seq + 1 } : Queue) = q' at hexec
      have hwait : s.Awaits ((s.putQueue q').withOp o.d op) o.d op := ⟨rfl, rfl, rfl, rfl, by rw [← hop]; rfl⟩
      have hput : (s.putQueue q').queueOf s.cur.ctx m = q' := s.queueOf_put (by rw [← hqueue]; exact hctx)
        (by rw [← hqueue]; exact hdie) (by rw [← hqueue]; exact hchip)
      have hgen := ((s.putQueue q').withOp o.d op).advanceGen_gen s.cur.loc
      obtain ⟨-, -, -, hmem, -, hqueues⟩ := ((s.putQueue q').withOp o.d op).advanceGen_keeps s.cur.loc
      replace hwait := hwait.advanceGen s.cur.loc
      generalize ((s.putQueue q').withOp o.d op).advanceGen s.cur.loc = u at hexec hgen hmem hqueues hwait
      have hcommit := State.commit_effect h.fresh hwait.scr
      have hkept : u.moved.queueOf s.cur.ctx m = q' := (State.queueOf_congr hqueues ..).trans hput
      obtain ⟨hops, hd, -⟩ := hwait.filled h.fresh (by rw [← hop]; exact s.observed_outs ..) (by rw [← hop]; rfl) hne hun
      refine ⟨_, _, hexec, hwait.complete h.fresh (by rw [← hop]; rfl), hops, by rw [hcommit]; exact hmem, ?_, fun hd0 => ?_,
        by rw [hcommit]; exact hgen⟩
      · rw [hcommit, State.queueOf_congr (State.finishOp_queues ..), hkept, ← hqueue]
      · obtain ⟨hval, hcond⟩ := hd hd0
        refine ⟨hval.trans ?_, hcond.trans ?_⟩
        · rw [BitVec.setWidth_ofNat_of_le (by decide), BitVec.ofNat_toNat, BitVec.setWidth_eq]
        · rw [← hop]
          exact if_neg (by rw [show ((s.popOp o).observed e.v.toNat e.bad none).poison = e.bad from rfl,
            (hentries e (hq ▸ List.mem_cons_self)).2]; exact Bool.false_ne_true)
    · rw [State.qpopGo_empty (op := s.popOp o) rfl hmap hwait hids hq] at hexec
      generalize hop : ({ s.popOp o with parks := true } : Op) = op at hexec
      generalize hqueue : ({ s.queueOf s.cur.ctx m with waiters := [(s.cur.id, (s.popOp o).id)] } : Queue) = q' at hexec
      have hwait : s.Awaits ((s.putQueue q').withOp o.d op) o.d op := ⟨rfl, rfl, rfl, rfl, by rw [← hop]; rfl⟩
      have hcommit := State.commit_effect h.fresh hwait.scr
      refine ⟨_, hexec, ?_, by rw [hcommit]; rfl, hwait.empty h.fresh⟩
      have hput : (s.putQueue q').queueOf s.cur.ctx m = q' := s.queueOf_put (by rw [← hqueue]; exact hctx)
        (by rw [← hqueue]; exact hdie) (by rw [← hqueue]; exact hchip)
      have hkept : ((s.putQueue q').withOp o.d op).moved.queueOf s.cur.ctx m = q' := (State.queueOf_congr rfl ..).trans hput
      rw [hcommit, hkept, ← hqueue]
      rfl

end Sys2Proof.Proofs
end

section
/-! PROOFS. Prefetch, flush and invalidate, way conversion, and TLBINV (10 R244, R245; 04 R87, R88; 20 R345: O35). -/

namespace Sys2Proof.Machine

open Sys2Proof.Claims

/-! ### Reads at the homes and lines made ready leave all but homes and L1s (04 R82 to R85) -/

theorem State.HomeAndL1Only.t2 {s t : State} (h : s.HomeAndL1Only t) : t.t2 = s.t2 := (congrArg State.t2 h).trans rfl

/-- Which memory is beyond reach does not depend on the homes and the L1s. -/
theorem State.HomeAndL1Only.t2Out {s t : State} (h : s.HomeAndL1Only t) (pa : Nat) : t.t2Out pa = s.t2Out pa := by
  rw [State.t2Out, h.board, h.t2, State.t2Out]

theorem State.HomeAndL1Only.core {s t : State} (h : s.HomeAndL1Only t) (loc : Nat) : t.core loc = s.core loc := by
  rw [State.core, h.cores, State.core]

theorem State.readSector_homeAndL1Only (s : State) (pa : Nat) : s.HomeAndL1Only (s.readSector pa) := by
  unfold State.readSector
  split_ifs
  · exact .refl s
  · exact State.HomeOnly.andL1 rfl
  · exact (s.holdLine_homeAndL1Only _).trans (State.fetchSector_homeOnly ..).andL1
  · exact .refl s

theorem State.readGranule_homeAndL1Only (s : State) (ctx pa : Nat) : s.HomeAndL1Only (s.readGranule ctx pa) := by
  unfold State.readGranule State.chargeOnce
  split
  · split_ifs
    · exact .refl s
    · exact State.HomeOnly.andL1 rfl
    · exact .refl s
  · exact .refl s

theorem State.touch_homeAndL1Only (s : State) (ctx pa n : Nat) : s.HomeAndL1Only (s.touch ctx pa n) :=
  State.HomeAndL1Only.foldl _ (State.HomeAndL1Only.foldl _ (.refl s) fun t _ => t.readSector_homeAndL1Only _) fun t _ =>
    t.readGranule_homeAndL1Only ctx _

theorem State.makeRoom_homeAndL1Only (s : State) (loc line : Nat) : s.HomeAndL1Only (s.makeRoom loc line) := by
  unfold State.makeRoom
  dsimp only
  split
  · exact .refl s
  · split
    · exact State.HomeAndL1Only.trans (t := { s with free := s.free + 1 }) rfl (State.dropLines_homeAndL1Only ..)
    · exact .refl s

theorem State.markPresent_homeAndL1Only (s : State) (loc line : Nat) : s.HomeAndL1Only (s.markPresent loc line) :=
  (s.holdLine_homeAndL1Only line).trans (.putLines _ _ _)

/-- A line made ready is the core's and the context's, for its physical line. -/
theorem State.openLine_ready (s : State) (a : Agent) (line : Nat) :
    s.HomeAndL1Only (s.openLine a line).1 ∧ (s.openLine a line).2.loc = a.loc ∧ (s.openLine a line).2.ctx = a.ctx ∧
      (s.openLine a line).2.line = line := by
  unfold State.openLine
  split
  · next l hl => exact ⟨.refl s, State.lineAt_some hl⟩
  · refine ⟨?_, rfl, rfl, rfl⟩
    have hroom : s.HomeAndL1Only ((s.dropLines fun l => l.is a.loc line).makeRoom a.loc line) :=
      (s.dropLines_homeAndL1Only _).trans (State.makeRoom_homeAndL1Only ..)
    dsimp only
    split
    · exact hroom.trans (State.markPresent_homeAndL1Only ..)
    · exact hroom

/-- A line of memory within reach is filled whole, in the present generation. -/
theorem State.fill_whole {s : State} {l : L1Line} (h : s.t2Out (l.line * 64) = false) :
    s.HomeAndL1Only (s.fill l).1 ∧ ∃ l', (s.fill l).2 = some l' ∧ l'.loc = l.loc ∧ l'.ctx = l.ctx ∧ l'.line = l.line ∧
      ∀ i < 64, l'.needs (s.core l.loc).gen i = false := by
  have htouch := s.touch_homeAndL1Only l.ctx (l.line * 64) 64
  have hlost : (s.touch l.ctx (l.line * 64) 64).t2Lost (l.line * 64) = false := by rw [State.t2Lost, htouch.t2Out, h, Bool.false_and]
  refine ⟨htouch, ?_⟩
  simp only [State.fill, State.homeRead, hlost, Bool.false_eq_true, if_false]
  refine ⟨_, rfl, rfl, rfl, rfl, fun i hi => ?_⟩
  rw [L1Line.needs, BitVec.getLsbD_allOnes, decide_eq_true hi]
  simp

/-- A load of a whole line within reach leaves the line with the agent, with nothing left to fetch. -/
theorem State.l1Load_whole {s : State} {a : Agent} {pa : Nat} (h64 : pa % 64 = 0) (h : s.t2Out pa = false) :
    let t := (s.l1Load a pa (List.replicate 64 true)).1
    ∃ l, t.lineAt a.loc a.ctx (pa / 64) = some l ∧ ∀ i < 64, l.needs (t.core a.loc).gen i = false := by
  intro t
  obtain ⟨hopen, hloc, hctx, hline⟩ := s.openLine_ready a (pa / 64)
  have hidx : (((List.range (List.replicate 64 true).length).map fun i => pa % 64 + i).filter fun i =>
      (List.replicate 64 true).getD (i - pa % 64) false) = List.range 64 := by
    rw [h64]
    decide
  generalize hs1 : (s.openLine a (pa / 64)).1 = s1 at hopen
  generalize hl : (s.openLine a (pa / 64)).2 = l at hloc hctx hline
  have hsplit : s.openLine a (pa / 64) = (s1, l) := Prod.ext hs1 hl
  have hput : ∀ (s2 : State) (l2 : L1Line), s1.HomeAndL1Only s2 → l2.loc = a.loc → l2.ctx = a.ctx → l2.line = pa / 64 →
      (∀ i < 64, l2.needs (s1.core a.loc).gen i = false) → t = s2.putLine l2 →
      ∃ l, t.lineAt a.loc a.ctx (pa / 64) = some l ∧ ∀ i < 64, l.needs (t.core a.loc).gen i = false := by
    intro s2 l2 h2 hloc2 hctx2 hline2 hneeds ht
    have hat := s2.lineAt_putLine l2
    rw [hloc2, hctx2, hline2, ← ht] at hat
    refine ⟨l2, hat, fun i hi => ?_⟩
    have hcore : t.core a.loc = s1.core a.loc := by rw [ht]; exact h2.core a.loc
    rw [hcore]
    exact hneeds i hi
  by_cases hany : ((List.range 64).any fun i => l.needs (s1.core a.loc).gen i) = true
  · have hout : s1.t2Out (l.line * 64) = false := by
      rw [hopen.t2Out, hline, Nat.div_mul_cancel (Nat.dvd_of_mod_eq_zero h64), h]
    obtain ⟨hfill, l', hsome, hloc', hctx', hline', hneeds⟩ := State.fill_whole hout
    refine hput (s1.fill l).1 l' hfill (hloc'.trans hloc) (hctx'.trans hctx) (hline'.trans hline) (hloc ▸ hneeds) ?_
    simp only [t, State.l1Load, hsplit, hidx, hany, if_true, hsome]
  · refine hput s1 l (.refl s1) hloc hctx hline (fun i hi => ?_) ?_
    · exact Bool.eq_false_iff.mpr fun hneed => hany (List.any_eq_true.mpr ⟨i, List.mem_range.mpr hi, hneed⟩)
    · simp only [t, State.l1Load, hsplit, hidx, if_neg hany]

/-! ### PREF, FLUSH and INVAL (10 R244) -/

theorem exec_pref (o : MSA) (s : State) : exec (.pref o) s = execPref o s := rfl
theorem exec_flush (o : MSA) (s : State) : exec (.flush o) s = lineOp .flush o s := rfl
theorem exec_inval (o : MSA) (s : State) : exec (.inval o) s = lineOp .inval o s := rfl

/-- The line that an address reaches is one of memory or of a weight store. -/
theorem State.reachLine_line {s : State} {va : Word} {d : Dest} (h : s.reachLine va = .ok (some d)) :
    ∃ pa, pa % 64 = 0 ∧ (d = .node pa ∨ d = .weights pa) := by
  have hmap : ∀ {r : Except Stop Dest} {f : Dest → Option Dest}, r.map f = .ok (some d) → ∃ x, f x = some d := by
    intro r f hr
    cases r with
    | error e => cases hr
    | ok x => exact ⟨x, Except.ok.inj hr⟩
  unfold State.reachLine at h
  dsimp only at h
  split at h
  · obtain ⟨x, hx⟩ := hmap h
    cases hx
  · split at h
    · cases h
    · cases h
    · split at h
      · cases h
      · obtain ⟨x, hx⟩ := hmap h
        split at hx
        · exact ⟨_, Nat.mul_mod_left _ 64, .inl (Option.some.inj hx).symm⟩
        · exact ⟨_, Nat.mul_mod_left _ 64, .inr (Option.some.inj hx).symm⟩
        · cases hx

/-- The use of an address field alone. -/
theorem baseUse_all_scalar (a : SReg) (wa : Bool) : (baseUse a wa).all Use.scalar = true := by
  rw [baseUse]
  split <;> rfl

section
variable {s : State} {o : MSA} (h : s.Issues (.pref o))
include h

/-- A prefetch that may not be done leaves no trace. -/
theorem executes_pref_dropped {e : Stop} (hr : s.reachLine (s.lineAddr o) = .error e) (he : e.dropsHint = true) :
    Executes (.pref o) s s :=
  executes_scalar (exec_pref o) (baseUse_all_scalar o.a o.wa) h (by simp only [hr, he, if_true])

theorem raises_pref {x : Trap} (hr : s.reachLine (s.lineAddr o) = .error (.trap x)) (he : Stop.dropsHint (.trap x) = false) :
    Raises (.pref o) s x :=
  raises_scalar (exec_pref o) (baseUse_all_scalar o.a o.wa) h (by simp only [hr, he, Bool.false_eq_true, if_false])

/-- A prefetch of a place that no L1 holds has no effect. -/
theorem executes_pref_none (hr : s.reachLine (s.lineAddr o) = .ok none) : Executes (.pref o) s s :=
  executes_scalar (exec_pref o) (baseUse_all_scalar o.a o.wa) h (by simp only [hr])

/-- A prefetch reads its line, or leaves no trace where an earlier access comes first (log 15). -/
theorem executes_pref_line {d : Dest} (hr : s.reachLine (s.lineAddr o) = .ok (some d)) :
    Executes (.pref o) s (if s.blocked d 64 then s else (s.readDest s.me d 64).1) :=
  executes_scalar (exec_pref o) (baseUse_all_scalar o.a o.wa) h (by simp only [hr]; split <;> rfl)

end

section
variable {i : Instr} {s : State} {o : MSA} {c : Nat → Cmd} (he : ∀ s, exec i s = lineOp c o s) (h : s.Issues i)
include he h

/-- FLUSH or INVAL of a line is performed at once, or held behind earlier operations. -/
theorem executes_lineOp {d : Dest} (hr : s.reachLine (s.lineAddr o) = .ok (some d)) :
    Executes i s (if s.blocked d 64 then s.beginOp (.cmd (c (d.pa.getD 0))) [] false else s.lineCmd s.cur (c (d.pa.getD 0))) :=
  executes_scalar he (baseUse_all_scalar o.a o.wa) h (by simp only [hr])

theorem executes_lineOp_none (hr : s.reachLine (s.lineAddr o) = .ok none) : Executes i s s :=
  executes_scalar he (baseUse_all_scalar o.a o.wa) h (by simp only [hr])

theorem raises_lineOp {x : Trap} (hr : s.reachLine (s.lineAddr o) = .error (.trap x)) : Raises i s x :=
  raises_scalar he (baseUse_all_scalar o.a o.wa) h (by simp only [hr])

end

/-! ### Way conversion (10 R245; 04 R87, R88) -/

theorem exec_wayconv (o : WayOps) (s : State) : exec (.wayconv o) s = execWayconv o s := rfl
theorem exec_wayrest (o : DOnly) (s : State) : exec (.wayrest o) s = execWayrest o s := rfl

/-- Two changes of a core that agree on it are one. -/
theorem State.updCore_congr {s : State} {loc : Nat} {f g : Core → Core} (h : f (s.core loc) = g (s.core loc)) :
    s.updCore loc f = s.updCore loc g := by rw [State.updCore, h, State.updCore]

/-- The register of an operation begun is EMPTY. -/
theorem State.beginOp_cond (s : State) (kind : OpKind) (d : SReg) (x : Word) (parks : Bool) :
    (s.beginOp kind [outS d x] parks).cur.cond (.s d) = if d = 0 then .ok else .empty := by
  by_cases hd : d = 0
  · rw [Task.cond, if_pos hd, if_pos hd]
  · have hreg : (s.beginOp kind [outS d x] parks).cur.regs.s[d] = (s.cur.regs.s[d]).mark := (s.cur.mark_s_self hd).1
    obtain ⟨n, b, f, p, hst, -⟩ := Reg.mark_empty s.cur.regs.s[d]
    simp only [Task.cond, if_neg hd, hreg, Reg.cond, hst]

section
variable {s : State} {o : WayOps} (h : s.Issues (.wayconv o))
include h

/-- WAYCONV of an extension that another context owns is answered with 2. -/
theorem executes_wayconv_busy (hc : 0 < (s.core s.cur.loc).extWays + (s.core s.cur.loc).converting)
    (ho : (s.core s.cur.loc).extOwner ≠ s.cur.ctx) : Executes (.wayconv o) s (s.beginOp .load [outS o.d 2] false) :=
  executes_scalar (exec_wayconv o) rfl h (if_pos ⟨hc, ho⟩)

section
variable (hc : (s.core s.cur.loc).extWays + (s.core s.cur.loc).converting = 0 ∨ (s.core s.cur.loc).extOwner = s.cur.ctx)
include hc

omit h in
theorem wayconv_free : ¬ (0 < (s.core s.cur.loc).extWays + (s.core s.cur.loc).converting ∧
    (s.core s.cur.loc).extOwner ≠ s.cur.ctx) := by
  rintro ⟨hpos, howner⟩
  rcases hc with hzero | hmine
  · omega
  · exact howner hmine

/-- WAYCONV beyond 6 ways is answered with 1. -/
theorem executes_wayconv_refused
    (hn : 6 < (s.core s.cur.loc).extWays + comingWays (s.extOps s.cur.loc s.cur.ctx) + o.n.toNat) :
    Executes (.wayconv o) s (s.beginOp .load [outS o.d 1] false) :=
  executes_scalar (exec_wayconv o) rfl h ((if_neg (wayconv_free hc)).trans (if_pos hn))

/-- WAYCONV begins its conversion, and takes its ways where none are being given back. -/
theorem executes_wayconv (hn : (s.core s.cur.loc).extWays + comingWays (s.extOps s.cur.loc s.cur.ctx) + o.n.toNat ≤ 6) :
    Executes (.wayconv o) s ((s.updCore s.cur.loc fun c =>
      if c.restoring then c else { c with converting := c.converting + o.n.toNat, extOwner := s.cur.ctx }).beginOp
        (.wayconv o.n.toNat) [outS o.d 0] false) :=
  executes_scalar (exec_wayconv o) rfl h ((if_neg (wayconv_free hc)).trans (if_neg hn.not_gt))

end

end

/-! ### TLBINV (20 R345) -/

/-- The rows of 20 R345 drop what they name. -/
theorem exec_tlbRows : ∀ row ∈ tlbRows, ∀ (o : TlbOps) (s : State), exec (row.1 o) s = tlbinv row.2 o s := by
  simp only [tlbRows, List.forall_mem_cons, List.not_mem_nil, false_imp_iff, implies_true, and_true]
  exact ⟨fun _ _ => rfl, fun _ _ => rfl, fun _ _ => rfl⟩

section
variable {i : Instr} {s : State} {o : TlbOps} {what : Word → TlbWhat} (he : ∀ s, exec i s = tlbinv what o s) (h : s.Issues i)
include he h

theorem executes_tlbinv (hsv : s.cur.ctl.sv = true) :
    Executes i s ((s.beginOp (.tlbinv (what (s.base o.a)) none) [outS o.d 0] false).lastGo State.tlbinvGo) :=
  executes_scalar he (baseUse_scalar _ _ rfl) h (by simp only [hsv, Bool.not_true, Bool.false_eq_true, if_false])

theorem raises_tlbinv (hsv : s.cur.ctl.sv = false) : Raises i s (.now cProt (s.freeVal 64)) :=
  raises_scalar he (baseUse_scalar _ _ rfl) h (by simp only [hsv, Bool.not_false, if_true, State.protFree])

end

/-- TLBINV with nothing else outstanding drops its entries as it issues. -/
theorem State.tlbinvGo_alone {s : State} (h : s.cur.ops = []) (w : TlbWhat) (d : SReg) :
    let t := (s.beginOp (.tlbinv w none) [outS d 0] false).lastGo State.tlbinvGo
    t.scr = s.scr ∧ ∀ e ∈ t.tlb, w.drops s.cur.ctx e = false := by
  intro t
  generalize hop : s.begun (.tlbinv w none) [outS d 0] false = op
  generalize hs1 : s.beginOp (.tlbinv w none) [outS d 0] false = s1
  have hops : s1.cur.ops = [op] := by rw [← hs1, ← hop, State.beginOp, State.setCur_cur, h]; rfl
  have hctx : s1.cur.ctx = s.cur.ctx := by rw [← hs1]; exact (s.cur.mark_keeps (.s d)).2.2.1
  have hscr : s1.scr = s.scr := by rw [← hs1]; rfl
  have hbefore : s1.cur.unperformedBefore op.id = false := by simp [Task.unperformedBefore, hops]
  have hkind : op.kind = .tlbinv w none := by rw [← hop]; rfl
  have ht : t = { (s1.flushCtx s1.cur.loc s1.cur.ctx).updOp s1.cur.id
        { op with kind := .tlbinv w (some (s1.flushCtx s1.cur.loc s1.cur.ctx).nextId) } with
      tlb := (s1.flushCtx s1.cur.loc s1.cur.ctx).tlb.filter fun e => !w.drops s1.cur.ctx e } := by
    simp only [t, hs1, State.lastGo, hops, List.getLast?_singleton, State.tlbinvGo, hkind, hbefore, Bool.false_eq_true, if_false]
  rw [ht, ← hctx]
  refine ⟨(s1.flushCtx_homeAndL1Only _ _).focus.2.2.1.trans hscr, fun e he => ?_⟩
  have hkept := (List.mem_filter.mp he).2
  rwa [Bool.not_eq_true'] at hkept

end Sys2Proof.Machine

namespace Sys2Proof.Proofs

open Sys2Proof.Machine Sys2Proof.Claims

/-- Settles O35: each form is a case split over its line, the extension's owner or the mode; a line read whole is left with nothing to
fetch. -/
theorem cacheAndTlbInstructions : Obligations.CacheAndTlbInstructions := by
  refine ⟨⟨?dropped, ?raised, ?none, ?pref, ?flush, ?inval, ?noLine, ?noAccess⟩, ⟨?wayconv, ?wayrest, ?clear⟩, ?tlb⟩
  case dropped => exact fun s o e h => executes_pref_dropped h
  case raised => exact fun s o x h => raises_pref h
  case none => exact fun s o h => executes_pref_none h
  case pref =>
    intro s o d h hr
    have hexec := executes_pref_line h hr
    refine ⟨fun hb => by rwa [hb, if_pos rfl] at hexec, fun hb hout => ?_⟩
    rw [hb, if_neg Bool.false_ne_true] at hexec
    obtain ⟨pa, h64, hd⟩ := State.reachLine_line hr
    have hload : (s.readDest s.me d 64).1 = (s.l1Load s.me pa (List.replicate 64 true)).1 := by rcases hd with rfl | rfl <;> rfl
    have hpa : d.pa.getD 0 = pa := by rcases hd with rfl | rfl <;> rfl
    rw [hload] at hexec
    rw [hpa] at hout ⊢
    obtain ⟨l, hl, hneeds⟩ := State.l1Load_whole (a := s.me) h64 hout
    exact ⟨_, l, hexec, hl, hneeds⟩
  case flush =>
    intro s o d h hr
    have hexec := executes_lineOp (exec_flush o) h hr
    exact ⟨fun hb => by rwa [hb, if_neg Bool.false_ne_true] at hexec, fun hb => by rwa [hb, if_pos rfl] at hexec⟩
  case inval =>
    intro s o d h hr
    have hexec := executes_lineOp (exec_inval o) h hr
    exact ⟨fun hb => by rwa [hb, if_neg Bool.false_ne_true] at hexec, fun hb => by rwa [hb, if_pos rfl] at hexec⟩
  case noLine =>
    exact fun s o hr => ⟨fun h => executes_lineOp_none (exec_flush o) h hr, fun h => executes_lineOp_none (exec_inval o) h hr⟩
  case noAccess =>
    exact fun s o x hr => ⟨fun h => raises_lineOp (exec_flush o) h hr, fun h => raises_lineOp (exec_inval o) h hr⟩
  case wayconv =>
    intro s o h c n all
    refine ⟨executes_wayconv_busy h, fun hfree => ⟨executes_wayconv_refused h hfree, fun hn hrest => ?_, fun hn hrest => ?_⟩⟩
    · have hexec := executes_wayconv h hfree hn
      have htake : (s.updCore s.cur.loc fun c =>
          if c.restoring then c else { c with converting := c.converting + o.n.toNat, extOwner := s.cur.ctx }) =
          s.updCore s.cur.loc fun c => { c with converting := c.converting + o.n.toNat, extOwner := s.cur.ctx } :=
        State.updCore_congr (if_neg (by rw [hrest]; exact Bool.false_ne_true))
      rwa [htake] at hexec
    · refine ⟨_, executes_wayconv h hfree hn, ?_, ?_⟩
      · have hcore := s.core_updCore s.cur.loc s.cur.loc fun c =>
          if c.restoring then c else { c with converting := c.converting + n, extOwner := s.cur.ctx }
        rw [if_pos rfl, if_pos hrest] at hcore
        exact hcore
      · exact State.beginOp_cond ..
  case wayrest =>
    intro s o h c
    refine ⟨fun hfree => executes_scalar (exec_wayrest o) rfl h (if_pos hfree), fun hpos howner =>
      executes_scalar (exec_wayrest o) rfl h (if_neg ?_)⟩
    rintro (hzero | hother)
    · exact hpos.ne' hzero
    · exact hother howner
  case clear =>
    intro s a b loc q
    refine ⟨fun hlo hhi => ?_, fun hout => ?_⟩
    · rw [State.byte_clearPad, if_pos ⟨hlo, hhi⟩]
    · rw [State.byte_clearPad, if_neg (by omega)]
  case tlb =>
    intro row hrow s o h
    refine ⟨executes_tlbinv (exec_tlbRows row hrow o) h, fun hsv hops => ?_, raises_tlbinv (exec_tlbRows row hrow o) h⟩
    obtain ⟨hscr, hdropped⟩ := State.tlbinvGo_alone hops (row.2 (s.base o.a)) o.d
    refine ⟨_, executes_tlbinv (exec_tlbRows row hrow o) h hsv, ?_⟩
    rw [State.commit_effect h.fresh hscr]
    exact hdropped

end Sys2Proof.Proofs
end

section
/-! PROOFS. Watches, haul commands and belay channels (10 R241, R243, R248; 16 R311; 18 R321, R322: O36). -/

namespace Sys2Proof.Machine

open Sys2Proof.Claims

theorem exec_watch (o : DAX) (s : State) : exec (.watch o) s = execWatch o s := rfl
theorem exec_unwatch (o : DAX) (s : State) : exec (.unwatch o) s = execUnwatch o s := rfl
theorem exec_hset (o : HsetOps) (s : State) : exec (.hset o) s = execHset o s := rfl
theorem exec_hget (o : HgetOps) (s : State) : exec (.hget o) s = execHget o s := rfl
theorem exec_hgo (o : HgoOps) (s : State) : exec (.hgo o) s = execHgo o s := rfl
theorem exec_blygrant (o : GrantOps) (s : State) : exec (.blygrant o) s = execBlygrant o s := rfl
theorem exec_blystat (o : ChOps) (s : State) : exec (.blystat o) s = execBlystat o s := rfl

/-! ### Watches (10 R248, 16 R311) -/

/-- WATCH of a readable descriptor that is not poisoned installs its entry, or answers with a status. -/
theorem executes_watch {s : State} {o : DAX} {d : Dest} (h : s.Issues (.watch o)) (ha : (s.readS o.a).toNat % 32 = 0)
    (hr : s.reach .plain .load (s.readS o.a) 32 (s.readS o.a) = .ok d) (hd : d.pa.isSome = true) (hst : s.mustStall d 32 = false)
    {r : State × List Byte × Bool} (hread : s.readDest s.me d 32 = r) :
    let i := (r.1.watchTouch r.1.myCtx r.2.1).install r.1.myCtx r.2.1
    Executes (.watch o) s (if r.2.2 then r.1.beginOpWith .load [outS o.d 0] false none true false
      else i.1.beginOp .load [outS o.d i.2] false) := by
  have hpa : d.pa.isNone = false := by rw [← Option.not_isSome, hd]; rfl
  refine executes_scalar (exec_watch o) rfl h ?_
  simp only [if_neg (not_not.mpr ha), hr, hpa, hst, hread, Bool.false_eq_true, if_false]
  split <;> rfl

/-- UNWATCH of no entry of the context is answered with 1. -/
theorem executes_unwatch_none {s : State} {o : DAX} (h : s.Issues (.unwatch o))
    (hw : ∀ w ∈ s.watches, w.ctx = s.cur.ctx → w.id ≠ (s.readS o.a).toNat) :
    Executes (.unwatch o) s (s.beginOp .load [outS o.d 1] false) := by
  have hnone : (s.watches.find? fun w => w.id == (s.readS o.a).toNat && w.ctx == s.cur.ctx) = none :=
    List.find?_eq_none.mpr fun w hmem hcond => by
      simp only [Bool.and_eq_true, beq_iff_eq] at hcond
      exact hw w hmem hcond.2 hcond.1
  refine executes_scalar (exec_unwatch o) rfl h ?_
  simp only [hnone]

theorem executes_unwatch {s : State} {o : DAX} {w : Watch} (h : s.Issues (.unwatch o))
    (hw : (s.watches.find? fun w => w.id == (s.readS o.a).toNat && w.ctx == s.cur.ctx) = some w) :
    let u := s.flushTriggers w.key
    let t := u.updCreations w.key fun c => { c with seq := ((u.watchOf w.key).map Watch.seq).getD 0 }
    Executes (.unwatch o) s ({ t with watches := t.watches.filter fun x => x.key != w.key }.beginOp .load [outS o.d 0] false) := by
  refine executes_scalar (exec_unwatch o) rfl h ?_
  simp only [hw]

/-! ### Haul commands (10 R241, 04 R95) -/

/-- A command of the same task, queue, fields, ticket and mode. -/
def Haul.Same (h x : Haul) : Prop :=
  x.task = h.task ∧ x.q = h.q ∧ x.fields = h.fields ∧ x.ticket = h.ticket ∧ x.sv = h.sv

theorem Haul.Same.trans {h x y : Haul} (h1 : h.Same x) (h2 : x.Same y) : h.Same y := by
  obtain ⟨ht, hq, hf, hn, hsv⟩ := h1
  obtain ⟨ht', hq', hf', hn', hsv'⟩ := h2
  exact ⟨ht'.trans ht, hq'.trans hq, hf'.trans hf, hn'.trans hn, hsv'.trans hsv⟩

/-- A queue holds a command as it was issued. -/
def State.Holds (s : State) (h : Haul) : Prop := ∃ x ∈ s.hauls, h.Same x

/-- A command that moves on stays in its queue as it was issued. -/
theorem State.Holds.updHaul {s : State} {h : Haul} (hs : s.Holds h) (id : Nat) {f : Haul → Haul} (hf : ∀ x, Haul.Same x (f x)) :
    (s.updHaul id f).Holds h := by
  obtain ⟨x, hx, hsame⟩ := hs
  refine ⟨_, List.mem_map_of_mem hx, ?_⟩
  split
  · exact hsame.trans (hf x)
  · exact hsame

/-- Promotion leaves the tasks, the bundle and the contexts as they are, and every command as it was issued. -/
theorem State.promote_keeps (s : State) : s.promote.cur = s.cur ∧ s.promote.scr = s.scr ∧ s.promote.ctxs = s.ctxs ∧
    ∀ h, s.Holds h → s.promote.Holds h := by
  refine List.foldlRecOn s.hauls _ (motive := fun t : State => t.cur = s.cur ∧ t.scr = s.scr ∧ t.ctxs = s.ctxs ∧
    ∀ h, s.Holds h → t.Holds h) ⟨rfl, rfl, rfl, fun h hs => hs⟩ fun t ht x _ => ?_
  obtain ⟨hcur, hscr, hctxs, hheld⟩ := ht
  split
  · refine ⟨hcur, hscr, hctxs, fun h hs => ?_⟩
    exact State.Holds.updHaul (hheld h hs) x.id (f := fun h => { h with st := .pending, order := t.nextId }) fun y =>
      ⟨rfl, rfl, rfl, rfl, rfl⟩
  · exact ⟨hcur, hscr, hctxs, hheld⟩

/-- A task that wakes, or in which a posted operation has ended, keeps its timelines. -/
theorem Task.endOp_tls (t : Task) {op : Op} (tick : Nat) (h : op.outs = []) : (t.endOp op tick).tls = t.tls := by
  have hwake : ∀ u : Task, (u.wake tick).tls = u.tls := fun u => by
    unfold Task.wake
    split
    · rfl
    · split
      · rfl
      · split <;> rfl
      · rfl
  rw [Task.endOp, hwake, h]
  rfl

/-- A command committed to its queue, or held behind earlier accesses, is there as it was issued; its task has the same pending
results and timelines. -/
theorem State.hgoGo_keeps {s : State} {op : Op} {id : Nat} (hk : op.kind = .cmd (.hgo id)) (ho : op.outs = []) :
    (s.hgoGo s.cur op).cur.pend = s.cur.pend ∧ (s.hgoGo s.cur op).cur.tls = s.cur.tls ∧
      ∀ h, s.Holds h → (s.hgoGo s.cur op).Holds h := by
  simp only [State.hgoGo, hk]
  split
  · exact ⟨rfl, rfl, fun h hs => hs⟩
  · have hflush := s.flushCtx_homeAndL1Only s.cur.loc s.cur.ctx
    have hhauls : (s.flushCtx s.cur.loc s.cur.ctx).hauls = s.hauls := (congrArg State.hauls hflush).trans rfl
    have hcur := hflush.focus.1
    generalize s.flushCtx s.cur.loc s.cur.ctx = r at hhauls hcur
    obtain ⟨hpcur, -, -, hheld⟩ := ((r.updHaul id fun h => { h with st := .queued }).finishOp s.cur.id op).promote_keeps
    have hend := State.finishOp_cur (s := r.updHaul id fun h => { h with st := .queued }) hcur op
    refine ⟨?_, ?_, fun h hs => hheld h ?_⟩
    · rw [hpcur, hend]
      exact (Task.endOp_posted _ _ ho).2
    · rw [hpcur, hend]
      exact Task.endOp_tls _ _ ho
    · obtain ⟨x, hx, hsame⟩ := hs
      exact State.Holds.updHaul (s := r) ⟨x, hhauls ▸ hx, hsame⟩ id fun y => ⟨rfl, rfl, rfl, rfl, rfl⟩

/-- The command that HGO captures (10 R241). -/
def State.newHaul (s : State) (o : HgoOps) : Haul :=
  ⟨s.nextId, s.cur.id, s.cur.ctx, s.cur.loc, o.q.toNat, s.cur.shadow, s.cur.nextTicket 0, s.cur.depth, s.fmt.extractLsb' 0 2,
    s.cur.ctl.srkey, s.stoCtr, s.cur.ctl.mcstat, .held, 0, none, none, s.myCtx.redK.toList.getD (Shadow.group s.cur.shadow) 0, 0, none,
    s.cur.ctl.sv, [], false⟩

/-- The machine in which HGO has captured its command and drawn its ticket. -/
def State.hauled (s : State) (o : HgoOps) : State :=
  let f : Shadow := s.cur.shadow
  let s1 := ((s.setCur fun t => t.draw 0).later 1 (outS o.d (BitVec.ofNat 64 (s.cur.nextTicket 0)))).tookSto
    (if f.op == 1 && f.rnd == 3 then (f.elems * f.rows + 127) / 128 else 0)
  let s2 := if f.net && f.op != 5 then s1.updCtx s.cur.ctx fun c => c.countRed f.group else s1
  { s2 with hauls := s2.hauls ++ [s.newHaul o], nextId := s.nextId + 1 }

/-- The command stands last; its ticket is drawn, and pending for D. -/
theorem State.hauled_keeps (s : State) (o : HgoOps) : (s.hauled o).hauls = s.hauls ++ [s.newHaul o] ∧
    (s.hauled o).cur.pend = s.cur.pend ++ [⟨1, outS o.d (BitVec.ofNat 64 (s.cur.tls[0].issued + 1))⟩] ∧
    (s.hauled o).cur.tls = (s.cur.draw 0).tls := by
  unfold State.hauled
  dsimp only
  split <;> exact ⟨rfl, rfl, rfl⟩

/-- HGO breaks no limit of its bundle. -/
theorem hgo_limits (d : SReg) (sto : Bool) : breaksLimits [[.write (.s d)] ++ if sto then [Use.sto] else []] = false := by
  refine breaksLimits_single (.inr fun hcr => ?_) ?_
  · have hmem := mem_of_mem_writers hcr
    cases sto <;> simp at hmem
  · cases sto <;> exact Nat.zero_le _

section
variable {s : State} {o : HgoOps} (h : s.Issues (.hgo o))
  (hroom : (s.hauls.filter fun h => h.task == s.cur.id && h.q == o.q.toNat && h.tile.isNone && !h.belayDone).length < 16)
include h hroom

/-- HGO of a set that breaks a rule raises its trap. -/
theorem raises_hgo {x : Trap} (hx : s.hgoTrap s.cur.shadow = some x) : Raises (.hgo o) s x := by
  refine raises_of_slot (exec_hgo o) rfl h (hgo_limits o.d _) ?_
  simp only [if_neg hroom.not_ge, hx]

theorem raises_hgo_bound {a : Word} (hx : s.hgoTrap s.cur.shadow = none) (hb : s.hgoBound s.cur.shadow = some a) :
    Raises (.hgo o) s (.now cSpBound a) := by
  refine raises_of_slot (exec_hgo o) rfl h (hgo_limits o.d _) ?_
  simp only [if_neg hroom.not_ge, hx, hb]

/-- HGO of a set that breaks no rule queues a command with the fields as they stand. -/
theorem executes_hgo (hx : s.hgoTrap s.cur.shadow = none) (hb : s.hgoBound s.cur.shadow = none) :
    Executes (.hgo o) s (((s.hauled o).beginOp (.cmd (.hgo (s.newHaul o).id)) [] false).lastGo State.hgoGo) := by
  refine executes_of_slot (exec_hgo o) rfl h (hgo_limits o.d _) ?_
  simp only [if_neg hroom.not_ge, hx, hb]
  rfl

omit h hroom in
/-- The command of an HGO is in its queue with the fields, the ticket and the mode as they stood. -/
theorem State.hauled_go (s : State) (o : HgoOps) :
    let t := ((s.hauled o).beginOp (.cmd (.hgo (s.newHaul o).id)) [] false).lastGo State.hgoGo
    t.Holds (s.newHaul o) ∧ t.cur.pend = (s.hauled o).cur.pend ∧ t.cur.tls = (s.hauled o).cur.tls := by
  intro t
  generalize hu : (s.hauled o).beginOp (.cmd (.hgo (s.newHaul o).id)) [] false = u
  have hlast : u.cur.ops.getLast? = some ((s.hauled o).begun (.cmd (.hgo (s.newHaul o).id)) [] false) := by
    rw [← hu]
    exact List.getLast?_concat
  have ht : t = u.hgoGo u.cur ((s.hauled o).begun (.cmd (.hgo (s.newHaul o).id)) [] false) := by
    simp only [t, hu, State.lastGo, hlast]
  obtain ⟨hpend, htls, hheld⟩ := State.hgoGo_keeps (s := u) (op := (s.hauled o).begun (.cmd (.hgo (s.newHaul o).id)) [] false) rfl rfl
  have hin : u.Holds (s.newHaul o) := by
    refine ⟨s.newHaul o, ?_, rfl, rfl, rfl, rfl, rfl⟩
    have hhauls : u.hauls = (s.hauled o).hauls := by rw [← hu]; rfl
    rw [hhauls, (s.hauled_keeps o).1]
    exact List.mem_append_right _ (List.mem_singleton_self _)
  rw [ht]
  exact ⟨hheld _ hin, hpend.trans (by rw [← hu]; rfl), htls.trans (by rw [← hu]; rfl)⟩

end

/-! ### Belay channels (10 R243; 18 R321, R322) -/

/-- The number of BLYGRANT's operand that its PROT reports. -/
def grantK (o : GrantOps) : Word := BitVec.ofNat 64 (o.ch.toNat + 64 * o.buf.toNat)

section
variable {s : State} {o : GrantOps} {c : Channel} (h : s.Issues (.blygrant o))
include h

/-- BLYGRANT of a held buffer begins its grant. -/
theorem executes_blygrant (hc : s.myCtx.channel o.ch.toNat = some c) (hb : (c.bufs[bufIx o.buf]).held = true)
    (hops : ∀ x ∈ s.cur.ops, x.kind ≠ .cmd (.grant c.n o.buf))
    (hlog : s.etchReady 0x0B 0 (BitVec.ofNat 64 (2 * c.n + o.buf.toNat)) (.unit (c.bufs[bufIx o.buf]).seq) none
      (some ((c.bufs[bufIx o.buf]).xfer.setWidth 64)) = .ok ()) :
    Executes (.blygrant o) s ((((s.beginOp (.cmd (.grant c.n o.buf)) [] false).reserveOp).withObj
      (BitVec.ofNat 64 (2 * c.n + o.buf.toNat))).lastGo State.grantGo) := by
  have hany : (s.cur.ops.any fun x => x.kind == .cmd (.grant c.n o.buf)) = false :=
    List.any_eq_false.mpr fun x hx hk => hops x hx (beq_iff_eq.mp hk)
  refine executes_scalar (exec_blygrant o) rfl h ?_
  simp only [hc, hb, hany, Bool.not_true, Bool.or_self, Bool.false_eq_true, if_false, permitObj, hlog]

theorem raises_blygrant_open (hc : s.myCtx.channel o.ch.toNat = some c) (hb : (c.bufs[bufIx o.buf]).held = false) :
    Raises (.blygrant o) s (.now cProt (grantK o)) := by
  refine raises_scalar (exec_blygrant o) rfl h ?_
  simp only [hc, hb, Bool.not_false, Bool.true_or, if_true, grantK]

theorem raises_blygrant_none (hc : s.myCtx.channel o.ch.toNat = none) : Raises (.blygrant o) s (.now cProt (grantK o)) := by
  refine raises_scalar (exec_blygrant o) rfl h ?_
  simp only [hc, grantK]

end

/-- A channel of a context is of its number. -/
theorem Ctx.channel_n {x : Ctx} {n : Nat} {c : Channel} (h : x.channel n = some c) : c.n = n := by
  simpa using List.find?_some h

/-- A context with a buffer of a channel changed. -/
def Ctx.updBuf (x : Ctx) (ch : Nat) (pong : Bool) (f : BelayBuf → BelayBuf) : Ctx :=
  { x with channels := x.channels.map fun c =>
      if c.n = ch then { c with bufs := c.bufs.set (bufIx pong) (f c.bufs[bufIx pong]) } else c }

/-- What changing a buffer does to the state, through the context it is of. -/
theorem State.updBuf_eq (s : State) (ctx ch : Nat) (pong : Bool) (f : BelayBuf → BelayBuf) :
    s.updBuf ctx ch pong f = s.updCtx ctx fun x => x.updBuf ch pong f := rfl

/-- The channel of a context after a buffer of it was changed. -/
theorem Ctx.channel_updBuf {x : Ctx} {n : Nat} {c : Channel} (h : x.channel n = some c) (pong : Bool) (f : BelayBuf → BelayBuf) :
    (x.updBuf c.n pong f).channel n = some { c with bufs := c.bufs.set (bufIx pong) (f c.bufs[bufIx pong]) } := by
  have hn := Ctx.channel_n h
  subst hn
  have hp : ((fun ch : Channel => ch.n == c.n) ∘ fun ch =>
      if ch.n = c.n then { ch with bufs := ch.bufs.set (bufIx pong) (f ch.bufs[bufIx pong]) } else ch) = fun ch => ch.n == c.n :=
    funext fun ch => by
      rw [Function.comp_apply]
      split <;> rfl
  rw [Ctx.channel] at h
  rw [Ctx.channel, Ctx.updBuf, List.find?_map, hp, h, Option.map_some, if_pos rfl]

/-- A context of the machine after a context was changed. -/
theorem State.ctxOf_updCtx {s : State} {id : Nat} {f : Ctx → Ctx} (hf : ∀ c, (f c).id = c.id) :
    (s.updCtx id f).ctxOf id = (s.ctxOf id).map f := by
  have hp : ((fun c : Ctx => c.id == id) ∘ fun c => if c.id = id then f c else c) = fun c => c.id == id := funext fun c => by
    rw [Function.comp_apply]
    split
    · rw [hf]
    · rfl
  rw [State.ctxOf, State.updCtx, List.find?_map, hp, State.ctxOf]
  cases hc : s.ctxs.find? fun c => c.id == id with
  | none => rfl
  | some c => exact congrArg some (if_pos (State.ctxOf_id hc))

/-- A buffer of a channel granted back (18 R322). -/
def Channel.granted (c : Channel) (b : BelayBuf) : BelayBuf := { b with held := false, permits := c.sdies, seq := b.seq + 1 }

section
variable {s : State} {op : Op} {x : Ctx} {c : Channel} {pong : Bool} (hk : op.kind = .cmd (.grant c.n pong)) (he : op.etch = none)
  (hlog : s.NoLogOf s.cur.ctx) (hx : s.ctxOf s.cur.ctx = some x) (hc : x.channel c.n = some c)
  (hb : (c.bufs[bufIx pong]).held = true)
include hk he hlog hx hc hb

/-- A grant that is alone in its task gives the transfer back at once. -/
theorem State.grantGo_alone :
    let u := (s.withOp 0 op).grantGo (s.withOp 0 op).cur op
    u.scr = s.scr ∧ (∃ tick, u.cur = (s.withOp 0 op).cur.endOp op tick) ∧
      u.ctxOf s.cur.ctx = some (x.updBuf c.n pong c.granted) := by
  intro u
  obtain ⟨hid, -, hctx, -⟩ := s.withOp_keeps 0 op
  have hchan : ((s.withOp 0 op).ctxOf s.cur.ctx).bind (fun x => x.channel c.n) = some c := by
    rw [show (s.withOp 0 op).ctxOf s.cur.ctx = some x from hx]
    exact hc
  have hbefore : (s.withOp 0 op).cur.unperformedBefore op.id = false := by simp [Task.unperformedBefore, s.withOp_ops 0 op]
  have hflush := (s.withOp 0 op).flushCtx_homeAndL1Only (s.withOp 0 op).cur.loc s.cur.ctx
  obtain ⟨hcur, -, hscr, -, hctxs, -⟩ := hflush.focus
  generalize hr : (s.withOp 0 op).flushCtx (s.withOp 0 op).cur.loc s.cur.ctx = r at hcur hscr hctxs
  have hgrant : (r.grant s.cur.ctx c pong).ctxOf s.cur.ctx =
      some (x.updBuf c.n pong c.granted) := by
    have hrx : r.ctxOf s.cur.ctx = some x := by rw [State.ctxOf, hctxs]; exact hx
    have hupd := State.ctxOf_updCtx (s := r) (id := s.cur.ctx) (f := fun x => x.updBuf c.n pong c.granted) fun _ => rfl
    rwa [hrx, ← State.updBuf_eq] at hupd
  have hgcur : (r.grant s.cur.ctx c pong).cur = (s.withOp 0 op).cur := hcur
  have hun : (r.grant s.cur.ctx c pong).Unlogged s.cur.id := by
    have hno : (r.grant s.cur.ctx c pong).NoLogOf (r.grant s.cur.ctx c pong).cur.ctx := by
      rw [hgcur, hctx]
      intro y hy
      rw [hgrant] at hy
      cases hy
      exact hlog x hx
    have hun := State.unlogged_cur hno
    rwa [hgcur, hid] at hun
  have hu : u = ((r.grant s.cur.ctx c pong).finishOp s.cur.id op).promote := by
    simp only [u, State.grantGo, hk, hctx, hchan, hbefore, he, State.myTurn_noSlot, hb, hr, hid, State.etchDone_unlogged hun,
      State.pendDiverge, Bool.not_true, Bool.or_self, Bool.false_eq_true, if_false]
  obtain ⟨hpcur, hpscr, hpctxs, -⟩ := ((r.grant s.cur.ctx c pong).finishOp s.cur.id op).promote_keeps
  have hend := State.finishOp_cur hgcur op
  rw [hid] at hend
  rw [hu]
  refine ⟨hpscr.trans hscr, ⟨_, hpcur.trans hend⟩, ?_⟩
  rw [State.ctxOf, hpctxs]
  exact hgrant

end

/-- BLYGRANT with nothing else outstanding grants its buffer as it issues. -/
theorem executes_blygrant_alone {s : State} {o : GrantOps} {x : Ctx} {c : Channel} (h : s.Issues (.blygrant o)) (hops : s.cur.ops = [])
    (hlog : noLog s) (hx : s.ctxOf s.cur.ctx = some x) (hc : x.channel o.ch.toNat = some c) (hb : (c.bufs[bufIx o.buf]).held = true) :
    let op := s.syncOp (.cmd (.grant c.n o.buf)) [] false (BitVec.ofNat 64 (2 * c.n + o.buf.toNat)) false
    Executes (.blygrant o) s ((s.withOp 0 op).grantGo (s.withOp 0 op).cur op) := by
  intro op
  have hmy : s.myCtx = x := by rw [State.myCtx, hx]; rfl
  have hexec := executes_blygrant h (hmy ▸ hc) hb (fun y hy => absurd hy (by rw [hops]; exact List.not_mem_nil))
    (State.etchReady_noLog hlog ..)
  have halone := State.withObj_alone hops hlog 0 0 (.cmd (.grant c.n o.buf)) false (BitVec.ofNat 64 (2 * c.n + o.buf.toNat))
  exact hexec.trans (congrArg (fun u => Host.Outcome.next (State.commit (State.lastGo u State.grantGo))) halone)

end Sys2Proof.Machine

namespace Sys2Proof.Proofs

open Sys2Proof.Machine Sys2Proof.Claims

/-- Settles O36: each form is a case split over its checks; a command moves on in its queue as it was issued, and a grant that is alone
is performed at once. -/
theorem watchHaulAndBelayInstructions : Obligations.WatchHaulAndBelayInstructions := by
  refine ⟨⟨?watch, ?watchMisaligned, ?noWatch, ?unwatch⟩, ⟨?hset, ?hget, ?hgo⟩, ?grant, ?granted, ?noGrant, ?stat, ?noStat⟩
  case watch =>
    intro s o d h ha hr hd hst r
    have hexec := executes_watch h ha hr hd hst (r := r) rfl
    dsimp only at hexec
    refine ⟨fun hbad => ?_, fun hbad => ?_⟩
    · rwa [hbad, if_pos rfl] at hexec
    · rwa [hbad, if_neg Bool.false_ne_true] at hexec
  case watchMisaligned => exact fun s o h ha => raises_scalar (exec_watch o) rfl h (if_pos ha)
  case noWatch => exact fun s o h => executes_unwatch_none h
  case unwatch => exact fun s o w h => executes_unwatch h
  case hset => exact fun s o h => executes_scalar (exec_hset o) rfl h rfl
  case hget => exact fun s o h => executes_scalar (exec_hget o) rfl h rfl
  case hgo =>
    intro s o h hroom
    refine ⟨fun hx hb => ?_, fun x => raises_hgo h hroom, fun a => raises_hgo_bound h hroom⟩
    obtain ⟨⟨x, hin, htask, hq, hfields, hticket, hsv⟩, hpend, htls⟩ := s.hauled_go o
    obtain ⟨-, hpend', htls'⟩ := s.hauled_keeps o
    refine ⟨_, x, executes_hgo h hroom hx hb, hin, htask, hq, hfields, hticket, hsv, hpend.trans hpend', ?_, ?_⟩
    · rw [htls, htls']
      exact (congrArg Tl.issued (Task.updTl_self ..)).trans rfl
    · rw [htls, htls']
      exact (congrArg Tl.count (Task.updTl_self ..)).trans rfl
  case grant =>
    exact fun s o c h hc => ⟨fun hb hops hlog => executes_blygrant h hc hb hops hlog, fun hb => raises_blygrant_open h hc hb⟩
  case granted =>
    intro s o x c h hidle hlog hx hc hb
    have hn := Ctx.channel_n hc
    obtain ⟨hscr, ⟨tick, hcur⟩, hctx⟩ := State.grantGo_alone (op := s.syncOp (.cmd (.grant c.n o.buf)) [] false
      (BitVec.ofNat 64 (2 * c.n + o.buf.toNat)) false) rfl rfl hlog hx (hn ▸ hc) hb
    obtain ⟨hcommit, hops, -⟩ := State.commit_posted h.fresh hscr rfl hcur
    refine ⟨_, executes_blygrant_alone h hidle.1 hlog hx hc hb, hops, _, _, by rw [hcommit]; exact hctx,
      Ctx.channel_updBuf hc o.buf _, ?_, ?_⟩
    · exact congrArg BelayBuf.held (Vector.getElem_set_self (bufIx o.buf).isLt)
    · exact congrArg BelayBuf.permits (Vector.getElem_set_self (bufIx o.buf).isLt)
  case noGrant => exact fun s o h hc => raises_blygrant_none h hc
  case stat =>
    intro s o c h hc
    refine executes_scalar (exec_blystat o) rfl h ?_
    simp only [hc]
  case noStat =>
    intro s o h hc
    refine raises_scalar (exec_blystat o) rfl h ?_
    simp only [hc]

end Sys2Proof.Proofs
end

section
/-! PROOFS. The instructions of the matrix unit and ATTN (11 R250 to R262: O37). The lemmas say what a place taken in the etch log
leaves of the focused task's operations, and what each instruction begins where its checks pass. -/

namespace Sys2Proof.Machine

theorem exec_mpset (o : MpsetOps) (s : State) : exec (.mpset o) s = execMpset o s := rfl
theorem exec_mpget (o : MpgetOps) (s : State) : exec (.mpget o) s = execMpget o s := rfl
theorem exec_mma (o : MmaOps) (s : State) : exec (.mma o) s = execMma o s := rfl
theorem exec_attn (o : AttnOps) (s : State) : exec (.attn o) s = execAttn o s := rfl

/-! ### What a place in the etch log leaves of the operations (19 R331) -/

/-- The operations of the focused task but for its MMAs, whose operands may have been written, are outstanding as they were. -/
structure State.KeepsOps (s t : State) : Prop where
  stays : ∀ op ∈ s.cur.ops, op.isMma = false → op ∈ t.cur.ops

theorem State.KeepsOps.of_cur {s t : State} (h : t.cur = s.cur) : s.KeepsOps t := ⟨fun _ hop _ => h ▸ hop⟩

theorem State.KeepsOps.trans {s t u : State} (h : s.KeepsOps t) (h' : t.KeepsOps u) : s.KeepsOps u :=
  ⟨fun op hop hm => h'.stays op (h.stays op hop hm) hm⟩

/-- A write touches the operands of an MMA alone. -/
theorem Op.spoil_eq {o : Op} (h : o.isMma = false) (pa n : Nat) : o.spoil pa n = o := by
  unfold Op.isMma at h
  unfold Op.spoil
  split
  · next c hk => simp [hk] at h
  · rfl

theorem State.spoil_keepsOps (s : State) (pa n task op : Nat) : s.KeepsOps (s.spoil pa n task op) :=
  ⟨fun o ho hm => List.mem_map.mpr ⟨o, ho, by rw [Op.spoil_eq hm, ite_self]⟩⟩

theorem State.padWrite_keepsOps (s : State) (pa : Nat) (bs : List (Option Byte)) : s.KeepsOps (s.padWrite pa bs) := by
  have hpad : (s.padPut pa bs).cur = s.cur := by rw [State.padPut_eq]; rfl
  exact (State.KeepsOps.of_cur hpad).trans (State.spoil_keepsOps ..)

theorem State.writeOver_keepsOps (s : State) (a : Agent) (ps : List (Nat × Nat)) (bs : List (Option Byte)) :
    s.KeepsOps (s.writeOver a ps bs) := by
  induction ps generalizing s bs with
  | nil => exact .of_cur rfl
  | cons p ps ih =>
    refine State.KeepsOps.trans ?_ (ih _ _)
    split
    · exact .of_cur (State.homeWrite_homeAndL1Only ..).focus.1
    · exact State.padWrite_keepsOps ..

theorem State.ctxWrite_keepsOps {s t : State} {ctx depth : Nat} {va : Word} {bs : List (Option Byte)}
    (h : s.ctxWrite ctx depth va bs = some t) : s.KeepsOps t := by
  unfold State.ctxWrite at h
  split at h
  · cases h
    exact State.writeOver_keepsOps ..
  · cases h

theorem State.ctxTouch_homeAndL1Only (s : State) (ctx : Nat) (va : Word) (n : Nat) : s.HomeAndL1Only (s.ctxTouch ctx va n) := by
  unfold State.ctxTouch
  split
  · exact State.HomeAndL1Only.foldl _ (.refl s) fun t p => t.touch_homeAndL1Only ctx p.1 p.2
  · next t _ =>
    cases t with
    | none => exact .refl s
    | some t => exact (s.walkCharge_homeOnly ctx t).andL1

theorem State.ctxPut_keepsOps (s : State) (ctx : Nat) (va : Word) (bs : List Byte) : s.KeepsOps (s.ctxPut ctx va bs) := by
  rw [State.ctxPut]
  cases h : s.ctxWrite ctx 0 va (bs.map some) with
  | none => exact .of_cur (s.ctxMiss_homeOnly ..).cur
  | some t => exact State.ctxWrite_keepsOps h

/-- An error record leaves the focused task as it is. -/
theorem State.errLog_cur (s : State) (die type stack chan slot sym : Nat) (pa : Word) :
    (s.errLog die type stack chan slot sym pa).cur = s.cur := by
  unfold State.errLog
  split
  dsimp only
  split
  · rw [← (s.homeWrite_homeAndL1Only ..).focus.1]
  · split
    · rw [State.logDrop, State.mcrPut_cur]
    · rw [State.mcrPut_cur, (State.homeWrite_homeAndL1Only ..).focus.1, State.tookFree_cur]

/-- A fault record counted as lost is written to the ring, or the error log takes it. -/
theorem State.faultRing_keepsOps (s : State) (c : Ctx) (die type cause task : Nat) (value aux : Word) :
    s.KeepsOps (s.faultRing c die type cause task value aux).1 := by
  have htouch : s.KeepsOps (s.ctxTouch c.id c.fring 64) := .of_cur (s.ctxTouch_homeAndL1Only ..).focus.1
  have hlog : ∀ u : State, (u.errLog die 11 0xFF (c.id % 256) cause 0 c.fring).cur = u.cur := fun u => u.errLog_cur ..
  have hmiss : ∀ (u : State) (va : Word) (n : Nat),
      u.KeepsOps ((u.ctxMiss c.id va n).errLog die 11 0xFF (c.id % 256) cause 0 c.fring) := fun u va n =>
    .of_cur ((hlog _).trans (u.ctxMiss_homeOnly ..).cur)
  unfold State.faultRing
  generalize s.ctxTouch c.id c.fring 64 = u at htouch
  refine htouch.trans ?_
  dsimp only
  split
  · exact .of_cur (hlog u)
  · split
    · split
      · next h => exact State.ctxWrite_keepsOps h
      · dsimp only
        exact hmiss u (c.fring + 8) 4
    · split
      · split
        · next h => exact State.ctxWrite_keepsOps h
        · dsimp only
          exact hmiss u (c.fring + 8) 4
      · next h =>
        split
        · next h' => exact (State.ctxWrite_keepsOps h).trans (State.ctxWrite_keepsOps h')
        · dsimp only
          exact hmiss u c.fring 4

theorem State.record_keepsOps (s : State) (ctx die type cause task : Nat) (value aux : Word) :
    s.KeepsOps (s.record ctx die type cause task value aux) := by
  unfold State.record
  split
  · exact State.faultRing_keepsOps ..
  · exact .of_cur rfl

theorem State.etchFail_keepsOps (s : State) (c : Ctx) (die : Nat) : s.KeepsOps (s.etchFail c die) := by
  unfold State.etchFail
  refine State.KeepsOps.trans ?_ (State.record_keepsOps ..)
  exact (s.ctxPut_keepsOps ..).trans (.of_cur (State.updCtx_cur ..))

theorem State.etchReserve_keepsOps (s : State) (ctx die : Nat) : s.KeepsOps (s.etchReserve ctx die).1 := by
  unfold State.etchReserve
  split
  · exact .of_cur rfl
  · next c _ =>
    have htouch : s.KeepsOps (s.etchTouch c) := .of_cur (s.ctxTouch_homeAndL1Only ..).focus.1
    split
    · exact .of_cur rfl
    · dsimp only
      split
      · exact htouch.trans (State.etchFail_keepsOps ..)
      · split
        · exact htouch.trans ((State.KeepsOps.of_cur (State.ctxMiss_homeOnly ..).cur).trans (State.etchFail_keepsOps ..))
        · next h =>
          have hhead := htouch.trans (State.ctxWrite_keepsOps h)
          split
          · exact hhead.trans ((State.ctxPut_keepsOps ..).trans (State.record_keepsOps ..))
          · exact hhead

theorem State.etchTake_keepsOps (s : State) (task : Nat) : s.KeepsOps (s.etchTake task).1 := by
  unfold State.etchTake
  split
  · exact .of_cur rfl
  · next t _ =>
    have hres := s.etchReserve_keepsOps t.ctx (dieOf t.loc)
    split
    · next h =>
      rw [h] at hres
      exact hres
    · next h =>
      rw [h] at hres
      refine hres.trans ⟨fun op hop _ => ?_⟩
      simp only [State.updTask]
      split <;> exact hop

/-- An operation but an MMA is outstanding once a place in the log has been taken, of its kind and for its results. -/
theorem State.reserveOp_mem {s : State} {op : Op} (h : op ∈ s.cur.ops) (hm : op.isMma = false) :
    ∃ op' ∈ s.reserveOp.cur.ops, op'.kind = op.kind ∧ op'.outs = op.outs := by
  have hmem := (s.etchTake_keepsOps s.cur.id).stays op h hm
  refine ⟨_, List.mem_map_of_mem hmem, ?_⟩
  split <;> exact ⟨rfl, rfl⟩

/-! ### MMA (11 R252 to R255) -/

/-- What an MMA captures with the checked pages of B. -/
def State.mmaCmd (s : State) (o : MmaOps) (pages : List (Nat × Nat)) : MmaCmd :=
  let p := MP.ofRegs s.cur.regs.mp s.fmt
  let at_ (rs : List (Nat × Nat)) : List (Nat × Nat) := rs.map fun r => (padBase s.cur.loc + r.1, r.2)
  let b := if p.ws then p.footB.flatMap fun r => (pagesOf [r]).map fun va =>
      (((pages.find? fun x => x.1 == va / 0x10000).map fun x => x.2 + va % 0x10000).getD 0,
        min (0x10000 - va % 0x10000) (r.1 + r.2 - va)) else []
  ⟨s.cur.regs.mp, s.fmt, o.f, s.cur.nextTicket 1, pages, at_ p.footPad ++ b,
    p.footC.any fun r => overlaps (p.footA ++ if p.ws then [] else p.footB) r.1 r.2⟩

/-- The machine in which an MMA has drawn its ticket and begun. -/
def State.mmaBegun (s : State) (o : MmaOps) (c : MmaCmd) : State :=
  (s.setCur fun t => t.draw 1).beginOp (.mma c) [outS o.d (BitVec.ofNat 64 (s.cur.nextTicket 1))] false

section
variable {s : State} {o : MmaOps} (h : s.Issues (.mma o)) (hroom : (s.cur.ops.filter Op.isMma).length < 4)
include h hroom

theorem executes_mma {pages : List (Nat × Nat)} (hcheck : s.mmaCheck (MP.ofRegs s.cur.regs.mp s.fmt) = .ok pages) :
    Executes (.mma o) s (s.mmaBegun o (s.mmaCmd o pages)) := by
  refine executes_scalar (exec_mma o) rfl h ?_
  simp only [if_neg hroom.not_ge, hcheck]
  rfl

theorem raises_mma {x : Trap} (hcheck : s.mmaCheck (MP.ofRegs s.cur.regs.mp s.fmt) = .error x) : Raises (.mma o) s x := by
  refine raises_scalar (exec_mma o) rfl h ?_
  simp only [if_neg hroom.not_ge, hcheck]

end

/-- An operation begun with a ticket of a timeline stands last, and the ticket is the last of its timeline. -/
theorem State.drawn_begun (s : State) (i : Fin 6) (kind : OpKind) (outs : List Out) :
    let t := (s.setCur fun t => t.draw i).beginOp kind outs false
    (∃ op, t.cur.ops = s.cur.ops ++ [op] ∧ op.id = s.nextId ∧ op.kind = kind ∧ op.outs = outs) ∧
      t.cur.tls[i].issued = s.cur.tls[i].issued + 1 ∧ t.mem = s.mem := by
  obtain ⟨r, p, hbegun⟩ := (s.setCur fun t => t.draw i).beginOp_eq kind outs false
  have hissued : (s.cur.draw i).tls[i].issued = s.cur.tls[i].issued + 1 := by rw [Task.draw, Task.updTl_self]
  rw [hbegun]
  exact ⟨⟨_, rfl, rfl, rfl, rfl⟩, hissued, rfl⟩

/-! ### ATTN (11 R256 to R262) -/

/-- Whether an operation is still to access the record of an ATTN, or its scratchpad (log 15). -/
def Op.recordPending (op : Op) (pa : Nat) : Bool :=
  match op.kind with
  | .mma c => overlaps c.foot pa 128
  | _ => op.padPending

theorem Op.recordPending_eq_false {op : Op} {pa : Nat} (h : match op.kind with
    | .mma c => overlaps c.foot pa 128 = false
    | _ => op.padPending = false) : op.recordPending pa = false := by
  unfold Op.recordPending
  split <;> simp_all

/-- Whether an ATTN waits: for room among the streams of its task, or for an access of an earlier bundle (log 15). -/
def State.attnWaits (s : State) (o : AttnOps) : Bool :=
  4 ≤ (s.streams.filter fun x => x.task == s.cur.id).length ||
    s.cur.ops.any fun op => s.earlier op && op.recordPending (padBase s.cur.loc + (s.readS o.b).toNat)

/-- An ATTN with room and nothing before it does not wait. -/
theorem State.attnWaits_eq_false {s : State} {o : AttnOps} (hroom : (s.streams.filter fun x => x.task == s.cur.id).length < 4)
    (hfirst : ∀ op ∈ s.cur.ops, s.earlier op = true → op.recordPending (padBase s.cur.loc + (s.readS o.b).toNat) = false) :
    ¬ s.attnWaits o = true := by
  rw [Bool.not_eq_true]
  refine Bool.or_eq_false_iff.mpr ⟨decide_eq_false hroom.not_ge, List.any_eq_false.mpr fun op hop hcond => ?_⟩
  obtain ⟨hearlier, hpend⟩ := Bool.and_eq_true_iff.mp hcond
  exact Bool.false_ne_true ((hfirst op hop hearlier).symm.trans hpend)

/-- The parent array of an ATTN: its range, and the bytes as they stand; none with TREE 0. -/
def AttnRec.parentRange (r : AttnRec) (tree : Bool) : List (Nat × Nat) := if tree then [(r.parent, r.s)] else []

def State.attnParents (s : State) (o : AttnOps) (r : AttnRec) : List Byte :=
  if o.tree then s.bytesSeen (padBase s.cur.loc + r.parent) r.s else []

/-- The stream that an ATTN begins (11 R262). -/
def State.newStream (s : State) (o : AttnOps) (p : Space) (args : List Byte) : Stream :=
  let r := AttnRec.ofBytes args
  { id := s.nextId, task := s.cur.id, ctx := s.cur.ctx, loc := s.cur.loc, handle := (s.readS o.a).toNat % 2 ^ 32
    recVa := s.readS o.b, args := args, parents := s.attnParents o r, causal := o.causal, tree := o.tree, resume := o.res
    prefetch := o.pf, ticket := s.cur.nextTicket 2, op := s.nextId + 1, assigned := false, len := 0, first := 0, last := 0
    block := 0, nextPage := 0, slotNo := 0, frame := none, opened := [], landed := [], got := [], asked := false, stuck := none
    fault := none, key := ([], false), rows := [], saved := [], folding := none, stop := 0, stopBlock := 0
    foot := ([((s.readS o.b).toNat, 128), (r.qAddr, r.allRows * p.dim * r.qSize), (r.ring, r.ringSize)] ++ r.parentRange o.tree).map
      fun x => (padBase s.cur.loc + x.1, x.2)
    spoiled := false }

/-- The machine in which an ATTN has drawn its ticket and begun its stream. -/
def State.attnBegun (s : State) (o : AttnOps) (x : Stream) : State :=
  let s1 := ({ s.setCur (fun t => t.draw 2) with nextId := s.nextId + 1 }.beginOp (.attn x.id)
    [outS o.d (BitVec.ofNat 64 x.ticket)] false).reserveOp
  { s1 with streams := s1.streams ++ [x] }

/-- The stream of an ATTN stands among the streams, and its operation is outstanding. -/
theorem State.attnBegun_op (s : State) (o : AttnOps) (x : Stream) : x ∈ (s.attnBegun o x).streams ∧
    ∃ op ∈ (s.attnBegun o x).cur.ops, op.kind = .attn x.id ∧ op.outs = [outS o.d (BitVec.ofNat 64 x.ticket)] := by
  refine ⟨List.mem_append_right _ (List.mem_singleton_self x), ?_⟩
  exact State.reserveOp_mem (op := State.begun { s.setCur (fun t => t.draw 2) with nextId := s.nextId + 1 } (.attn x.id)
    [outS o.d (BitVec.ofNat 64 x.ticket)] false) (List.mem_append_right _ (List.mem_singleton_self _)) rfl

section
variable {s : State} {o : AttnOps} (h : s.Issues (.attn o)) (hgo : ¬ s.attnWaits o = true) {n : Nat}
  (hn : (s.readS o.a).toNat % 2 ^ 32 = n)
include h hgo hn

/-- An ATTN raises KV_HANDLE for a handle of no space. -/
theorem raises_attn_noSpace (hp : s.space (n / 2 ^ 24) = none) : Raises (.attn o) s (.now cKvHandle (BitVec.ofNat 64 n)) := by
  refine raises_scalar (exec_attn o) rfl h ((if_neg hgo).trans ?_)
  simp only [hn, hp]

variable {p : Space} (hp : s.space (n / 2 ^ 24) = some p)
include hp

/-- An ATTN raises KV_HANDLE for a handle of no sequence of a space of its context. -/
theorem raises_attn_handle (hno : p.ctx ≠ s.cur.ctx ∨ p.ns ≤ n % 2 ^ 24) :
    Raises (.attn o) s (.now cKvHandle (BitVec.ofNat 64 n)) := by
  refine raises_scalar (exec_attn o) rfl h ((if_neg hgo).trans ?_)
  simp only [hn, hp, if_pos hno]

variable (hmine : ¬ (p.ctx ≠ s.cur.ctx ∨ p.ns ≤ n % 2 ^ 24))
include hmine

/-- An ATTN raises MISALIGN for a record that is not aligned. -/
theorem raises_attn_misaligned (ha : (s.readS o.b).toNat % 128 ≠ 0) : Raises (.attn o) s (.now cMisalign (s.readS o.b)) := by
  refine raises_scalar (exec_attn o) rfl h ((if_neg hgo).trans ?_)
  simp only [hn, hp, if_neg hmine, if_pos (mt (extractLsb'_eq_zero_iff _ 7).mp ha)]

/-- An ATTN that passes its checks begins a stream. -/
theorem executes_attn (ha : (s.readS o.b).toNat % 128 = 0) (hwin : s.cur.belowWindow [((s.readS o.b).toNat, 128)] = none)
    {args : List Byte} (hargs : s.bytesSeen (padBase s.cur.loc + (s.readS o.b).toNat) 128 = args) {r : AttnRec}
    (hr : AttnRec.ofBytes args = r) (hpar : s.cur.belowWindow (r.parentRange o.tree) = none)
    (hrec : p.recBad args o.tree (s.attnParents o r) s.cur.ctl.spb.toNat (min s.cur.ctl.spl.toNat padSize) = none)
    (hq : r.qAddr % 32 = 0) (ho : r.oAddr % 32 = 0) (hml : r.mlAddr % 32 = 0)
    (hall : s.cur.belowWindow ([(r.qAddr, r.allRows * p.dim * r.qSize), (r.oAddr, r.allRows * p.dim * 4), (r.mlAddr, r.allRows * 8)] ++
      r.parentRange o.tree) = none)
    (hlog : s.etchReady 0x0D 0 (BitVec.ofNat 64 n) (.unit p.seq) none = .ok ()) :
    Executes (.attn o) s (s.attnBegun o (s.newStream o p args)) := by
  have haligned : [r.qAddr, r.oAddr, r.mlAddr].find? (fun a => a % 32 != 0) = none := by simp [hq, ho, hml]
  have hparents : (if (o.tree && (s.cur.belowWindow [(r.parent, r.s)]).isNone) = true then
      s.bytesSeen (padBase s.cur.loc + r.parent) r.s else []) = s.attnParents o r := by
    rw [State.attnParents]
    cases htree : o.tree with
    | false => rfl
    | true =>
      rw [AttnRec.parentRange, htree, if_pos rfl] at hpar
      simp [hpar]
  refine executes_scalar (exec_attn o) rfl h ((if_neg hgo).trans ?_)
  simp only [hn, hp, if_neg hmine, if_neg (not_not.mpr ((extractLsb'_eq_zero_iff _ 7).mpr ha)), hwin,
    hargs, hr, hparents, hrec, haligned]
  rw [AttnRec.parentRange] at hall
  simp only [hall, hlog]
  subst hr hn
  rfl

end

end Sys2Proof.Machine

namespace Sys2Proof.Proofs

open Sys2Proof.Machine

/-- Settles O37: MMA and ATTN begin where their checks pass, in the order of 11 R253 and R256, or raise the trap of the check that
fails. -/
theorem matrixAndAttentionInstructions : Obligations.MatrixAndAttentionInstructions := by
  refine ⟨⟨?mpset, ?mpget, ?mma⟩, ?attn⟩
  case mpset => exact fun s o h => executes_scalar (exec_mpset o) rfl h rfl
  case mpget => exact fun s o h => executes_scalar (exec_mpget o) rfl h rfl
  case mma =>
    intro s o h hroom
    refine ⟨fun pages hcheck => ?_, fun x => raises_mma h hroom⟩
    obtain ⟨⟨op, hops, hid, hkind, houts⟩, hissued, hmem⟩ := s.drawn_begun 1 (.mma (s.mmaCmd o pages))
      [outS o.d (BitVec.ofNat 64 (s.cur.nextTicket 1))]
    exact ⟨_, op, _, executes_mma h hroom hcheck, hops, hid, hkind, houts, rfl, rfl, rfl, rfl, hissued, hmem⟩
  case attn =>
    intro s o h hroom n ra hfirst
    have hgo := State.attnWaits_eq_false (o := o) hroom fun op hop hearlier => Op.recordPending_eq_false (hfirst op hop hearlier)
    refine ⟨raises_attn_noSpace h hgo rfl, fun p hp => ⟨raises_attn_handle h hgo rfl hp, fun hctx hseq =>
      raises_attn_misaligned h hgo rfl hp (not_or.mpr ⟨not_not.mpr hctx, hseq.not_ge⟩), ?_⟩⟩
    intro args r rows par parents hctx hseq ha hwin hpar hrec hq ho hml hall hlog
    have hexec := executes_attn h hgo rfl hp (not_or.mpr ⟨not_not.mpr hctx, hseq.not_ge⟩) ha hwin rfl rfl hpar hrec hq ho hml
      hall hlog
    obtain ⟨hx, op, hop, hkind, houts⟩ := s.attnBegun_op o (s.newStream o p args)
    exact ⟨_, _, op, hexec, hx, rfl, rfl, rfl, rfl, rfl, rfl, rfl, rfl, hop, hkind, houts⟩

end Sys2Proof.Proofs
end

section
/-! PROOFS. The KV instructions (11 R263 to R270: O38). -/

namespace Sys2Proof.Machine

open Sys2Proof.Claims

/-- The rows of 11 R264 to R269 are KV instructions of their command. -/
theorem exec_kvRows : ∀ row ∈ kvRows, ∀ (o : MSOps) (s : State), exec (row.1 o) s = kvIssue row.2 o s := by
  simp only [kvRows, List.forall_mem_cons, List.not_mem_nil, false_imp_iff, implies_true, and_true]
  exact ⟨fun _ _ => rfl, fun _ _ => rfl, fun _ _ => rfl, fun _ _ => rfl, fun _ _ => rfl, fun _ _ => rfl, fun _ _ => rfl, fun _ _ => rfl,
    fun _ _ => rfl, fun _ _ => rfl, fun _ _ => rfl, fun _ _ => rfl⟩

theorem exec_kvspace (o : SpaceOps) (s : State) : exec (.kvspace o) s = execKvspace o s := rfl

/-- The window check of a KV instruction asks that its argument block lie in the task window (11 R263). -/
theorem inOwnWindow_iff (s : State) (va : Word) (n : Nat) : inOwnWindow s va n ↔
    s.cur.ctl.spb.toNat ≤ va.toNat ∧ va.toNat + n ≤ min s.cur.ctl.spl.toNat padSize := by
  rw [inOwnWindow, le_min_iff]

section
variable {i : Instr} {s : State} {kind : KvKind} {o : MSOps} {va : Word} (he : ∀ s, exec i s = kvIssue kind o s) (h : s.Issues i)
  (hva : s.base o.a + o.off.signExtend 64 * 32 = va)
include he h hva

/-- A KV instruction raises MISALIGN for a block that is not aligned, before any other check. -/
theorem raises_kv_misaligned (ha : va.toNat % 32 ≠ 0) : Raises i s (.now cMisalign va) := by
  refine raises_scalar he (baseUse_scalar _ _ rfl) h ?_
  simp only [hva, if_pos (vec_misaligned ha)]

variable (ha : va.toNat % 32 = 0)
include ha

theorem raises_kv_outside (hw : ¬ inOwnWindow s va 32) : Raises i s (.now cSpBound va) := by
  refine raises_scalar he (baseUse_scalar _ _ rfl) h ?_
  simp only [hva, if_neg (vec_aligned ha), if_neg (mt (inOwnWindow_iff ..).mpr hw)]

variable (hw : inOwnWindow s va 32) (hfirst : s.unperformedEarlier = false) {args : List Byte}
  (hargs : s.bytesSeen (padBase s.cur.loc + va.toNat) 32 = args) {n : Nat} (hn : field args 0 4 = n)
include hw hfirst hargs hn

/-- A KV instruction raises KV_HANDLE for a handle of no sequence of its context's spaces. -/
theorem raises_kv_handle (hno : ∀ p, s.space (n / 2 ^ 24) = some p → p.ctx ≠ s.cur.ctx ∨ p.ns ≤ n % 2 ^ 24) :
    Raises i s (.now cKvHandle (BitVec.ofNat 64 n)) := by
  refine raises_scalar he (baseUse_scalar _ _ rfl) h ?_
  simp only [hva, if_neg (vec_aligned ha), if_pos ((inOwnWindow_iff ..).mp hw), hfirst, hargs, hn, Bool.false_eq_true, if_false]
  cases hp : s.space (n / 2 ^ 24) with
  | none => rfl
  | some p => exact if_pos (hno p hp)

/-- A KV instruction that passes its checks is sent with its block as it stands. -/
theorem executes_kv {p : Space} (hp : s.space (n / 2 ^ 24) = some p) (hctx : p.ctx = s.cur.ctx) (hseq : n % 2 ^ 24 < p.ns)
    (hlog : s.etchReady 0x0C 0 (BitVec.ofNat 64 n) (.unit p.seq) none = .ok ()) :
    Executes i s (s.kvSend kind o.d n args va) := by
  have hmine : ¬ (p.ctx ≠ s.cur.ctx ∨ p.ns ≤ n % 2 ^ 24) := not_or.mpr ⟨not_not.mpr hctx, hseq.not_ge⟩
  refine executes_scalar he (baseUse_scalar _ _ rfl) h ?_
  simp only [hva, if_neg (vec_aligned ha), if_pos ((inOwnWindow_iff ..).mp hw), hfirst, hargs, hn, hp, if_neg hmine, hlog,
    Bool.false_eq_true, if_false]

end

/-- KVSPACE is sent in supervisor mode, its event in the series of the space if there is one. -/
theorem executes_kvspace {s : State} {o : SpaceOps} (h : s.Issues (.kvspace o)) (hsv : s.cur.ctl.sv = true)
    (hlog : s.etchReady 0x0C 0 (BitVec.ofNat 64 (o.sp.toNat * 2 ^ 24)) (match s.space o.sp.toNat with
      | some p => .unit p.seq
      | none => .none) none = .ok ()) :
    Executes (.kvspace o) s (s.kvSend .kspace o.d o.sp.toNat [] (s.base o.a)) := by
  refine executes_scalar (exec_kvspace o) (baseUse_scalar _ _ rfl) h ?_
  simp only [hsv, Bool.not_true, Bool.false_eq_true, if_false]
  cases hp : s.space o.sp.toNat with
  | none =>
    rw [hp] at hlog
    simp only [hlog]
  | some p =>
    rw [hp] at hlog
    simp only [hlog]

/-- A command sent stands last among those of the controllers, with what it was sent with. -/
theorem State.kvSend_sent (s : State) (kind : KvKind) (d : SReg) (handle : Nat) (args : List Byte) (va : Word) :
    ∃ c ∈ (s.kvSend kind d handle args va).kvcmds, c.kind = kind ∧ c.task = s.cur.id ∧ c.ctx = s.cur.ctx ∧ c.handle = handle ∧
      c.args = args ∧ c.argVa = va ∧ c.sv = s.cur.ctl.sv ∧ c.ticket = s.cur.tls[4].issued + 1 ∧ c.performed = false :=
  ⟨_, List.mem_append_right _ (List.mem_singleton_self _), rfl, rfl, rfl, rfl, rfl, rfl, rfl, rfl, rfl⟩

end Sys2Proof.Machine

namespace Sys2Proof.Proofs

open Sys2Proof.Machine Sys2Proof.Claims

/-- Settles O38: each row is a KV instruction of its command, whose checks are made in the order of 11 R263. -/
theorem kvInstructions : Obligations.KvInstructions := by
  refine ⟨⟨?sent, ?space, ?command⟩, ?raised⟩
  case sent =>
    intro row hrow s o p h va args n ha hw hfirst hp hctx hseq hlog
    exact executes_kv (exec_kvRows row hrow o) h rfl ha hw hfirst rfl rfl hp hctx hseq hlog
  case space => exact fun s o h hsv hlog => executes_kvspace h hsv hlog
  case command => exact fun s kind d handle args va => s.kvSend_sent kind d handle args va
  case raised =>
    intro row hrow s o h va n
    have he := exec_kvRows row hrow o
    exact ⟨raises_kv_misaligned he h rfl, raises_kv_outside he h rfl,
      fun ha hw hfirst => raises_kv_handle he h rfl ha hw hfirst rfl rfl⟩

end Sys2Proof.Proofs
end

section
/-! PROOFS. KV commands at their controllers and the streams of the traverse units (02 R40, R42, R49, R50, R55 to R58; 11 R258 to R263;
O46). The lemmas say what each event does where its conditions hold. -/

namespace Sys2Proof.Machine

theorem exec_kvOpComplete (n : Nat) (s : State) : exec (.kvOpComplete n) s = execKvOpComplete n s := rfl
theorem exec_appendWaitResume (n : Nat) (s : State) : exec (.appendWaitResume n) s = execAppendWaitResume n s := rfl
theorem exec_streamAssign (id : Nat) (s : State) : exec (.streamAssign id) s = execStreamAssign id s := rfl
theorem exec_frameOpen (id : Nat) (s : State) : exec (.frameOpen id) s = execFrameOpen id s := rfl
theorem exec_attnPageLand (id : Nat) (s : State) : exec (.attnPageLand id) s = execAttnPageLand id s := rfl
theorem exec_frameClose (id : Nat) (s : State) : exec (.frameClose id) s = execFrameClose id s := rfl
theorem exec_attnSlotConsume (id : Nat) (s : State) : exec (.attnSlotConsume id) s = execAttnSlotConsume id s := rfl
theorem exec_attnComplete (id : Nat) (s : State) : exec (.attnComplete id) s = execAttnComplete id s := rfl

/-! ### KV commands (11 R263, 02 R40, R42) -/

section
variable {s : State} {c : KvCmd} (hc : (s.kvcmds.find? fun x => x.n == c.n) = some c)
include hc

/-- A command that stays in its core, or has left it, leaves the machine as it is. -/
theorem kvOpComplete_stays (hleave : s.kvLeave c = s) :
    exec (.kvOpComplete c.n) s = .next (if s.kvMay c && !c.waits then s.kvWork c else s) := by
  simp only [exec_kvOpComplete, execKvOpComplete, hc, hleave, Option.getD_some]

theorem kvOpComplete_worked (hmay : s.kvMay c = true) (hw : c.waits = false) : exec (.kvOpComplete c.n) s = .next (s.kvWork c) := by
  have hsent : c.sent = true := by
    simp only [State.kvMay, Bool.and_eq_true] at hmay
    exact hmay.1.1.1
  have hleave : s.kvLeave c = s := by
    unfold State.kvLeave
    cases s.task c.task with
    | none => rfl
    | some t => exact if_pos (by rw [hsent, Bool.true_or])
  rw [kvOpComplete_stays hc hleave, hmay, hw]
  rfl

theorem kvOpComplete_waiting {t : Task} (hsent : c.sent = false) (ht : s.task c.task = some t)
    (hbefore : t.unperformedBefore c.op = true) : exec (.kvOpComplete c.n) s = .next s := by
  have hleave : s.kvLeave c = s := by
    rw [State.kvLeave, ht]
    exact if_pos (by rw [hbefore, Bool.or_true])
  have hmay : s.kvMay c = false := by simp only [State.kvMay, hsent, Bool.false_and]
  rw [kvOpComplete_stays hc hleave, hmay]
  rfl

/-- The machine in which an append that waited goes on. -/
def State.resumed (s : State) (c : KvCmd) : State :=
  (s.updKv c.n fun x => { x with waits := false }).kvWork { c with waits := false }

theorem appendWaitResume_goesOn (hw : c.waits = true) (hgo : ∀ x ∈ (s.resumed c).kvcmds, x.n = c.n → x.waits = false) :
    exec (.appendWaitResume c.n) s = .next (s.resumed c) := by
  have hnone : (((s.resumed c).kvcmds.find? fun x => x.n == c.n).any fun x => x.waits) = false := by
    cases hx : (s.resumed c).kvcmds.find? fun x => x.n == c.n with
    | none => rfl
    | some x => exact hgo x (List.mem_of_find?_eq_some hx) (by simpa using List.find?_some hx)
  rw [State.resumed] at hnone ⊢
  simp only [exec_appendWaitResume, execAppendWaitResume, hc, hw, hnone, Bool.not_true, Bool.false_eq_true, if_false]

end

/-! ### Streams and their changes -/

/-- A stream of a number is one of those that run, and of that number. -/
theorem State.stream_some {s : State} {id : Nat} {x : Stream} (h : s.stream id = some x) : x ∈ s.streams ∧ x.id = id :=
  ⟨List.mem_of_find?_eq_some h, by simpa using List.find?_some h⟩

/-- Two changes of a stream are one where they agree on the streams of its number. -/
theorem State.updStream_congr {s : State} {id : Nat} {f g : Stream → Stream} (h : ∀ y ∈ s.streams, y.id = id → f y = g y) :
    s.updStream id f = s.updStream id g := by
  have hmap : (s.streams.map fun x => if x.id = id then f x else x) = s.streams.map fun x => if x.id = id then g x else x :=
    List.map_congr_left fun y hy => by
      split
      · next hid => exact h y hy hid
      · rfl
  rw [State.updStream, State.updStream, hmap]

/-- What is found under the number of a stream that was changed is a stream so changed. -/
theorem State.stream_updStream {s : State} {id : Nat} {f : Stream → Stream} {y : Stream}
    (h : (s.updStream id f).stream id = some y) : ∃ x, y = f x := by
  obtain ⟨hmem, hid⟩ := State.stream_some h
  obtain ⟨x, -, rfl⟩ := List.mem_map.mp hmem
  by_cases hx : x.id = id
  · exact ⟨x, if_pos hx⟩
  · rw [if_neg hx] at hid
    exact absurd hid hx

/-! ### The assignment of a stream (02 R55, R58) -/

section
variable {s : State} {x : Stream} {p : Space} (hx : s.stream x.id = some x)
  (hfirst : ((s.streams.filter fun y => dieOf y.loc == dieOf x.loc).find? fun y => !y.assigned && s.streamTurn y) = some x)
  (hroom : (s.streams.filter fun y => dieOf y.loc == dieOf x.loc && y.assigned).length < dieStreams (dieOf x.loc))
  (hpad : ∀ t, s.task x.task = some t → ∀ o ∈ t.ops, o.id < x.op → o.padPending = false)
  (hp : s.streamSpace x = some p)

include hfirst hroom in
/-- The first waiting stream of a die with room is the next to be assigned. -/
theorem State.streamNext_first : s.streamNext x = true := by
  have hcount : (((s.streams.filter fun y => dieOf y.loc == dieOf x.loc).filter fun y => y.assigned).length) <
      dieStreams (dieOf x.loc) := by
    rw [List.filter_filter]
    simpa only [Bool.and_comm] using hroom
  simp only [State.streamNext, hfirst, Option.map_some, hcount, beq_self_eq_true, decide_true, Bool.and_self]

include hpad in
/-- A command whose task has no earlier access of the scratchpad to perform waits for none. -/
theorem State.padBefore_none : ((s.task x.task).map fun t => t.padBefore x.op).getD false = false := by
  cases ht : s.task x.task with
  | none => rfl
  | some t =>
    refine List.any_eq_false.mpr fun o ho hcond => ?_
    obtain ⟨hid, hpend⟩ := Bool.and_eq_true_iff.mp hcond
    exact Bool.false_ne_true ((hpad t ht o ho (of_decide_eq_true hid)).symm.trans hpend)

include hx hfirst hroom hpad hp

/-- A stream assigned opens its sequence where it is open. -/
theorem streamAssign_next : exec (.streamAssign x.id) s = .next
    (if p.ctx ≠ x.ctx ∨ (p.seqOf (x.handle % 2 ^ 24)).st ≠ 1 then s.notOpen x (some p) ((s.findOp x.op).bind fun y => y.2.etch)
      else s.openSeq x p (p.seqOf (x.handle % 2 ^ 24)) ((s.findOp x.op).bind fun y => y.2.etch)) := by
  simp only [exec_streamAssign, execStreamAssign, hx, State.streamNext_first hfirst hroom, State.padBefore_none hpad, hp,
    Bool.not_true, Bool.or_self, Bool.false_eq_true, if_false]

end

/-- A stream whose context keeps no log opens its sequence at its first block. -/
theorem State.openSeq_unlogged {s : State} {x : Stream} (h : s.Unlogged x.task) (hres : x.resume = false) (htree : x.tree = false)
    (hone : ∀ y ∈ s.streams, y.id = x.id → y = x) (p : Space) (q : Seqn) (slot : Option EtchSlot) :
    let r := AttnRec.ofBytes x.args
    s.openSeq x p q slot = (s.updSpace p.id fun p => { p with seq := p.seq + 1 }).updStream x.id fun x => { x with
      assigned := true, len := q.len, first := r.first, block := r.first
      last := if r.count = 0 then q.nb else min q.nb (r.first + r.count)
      rows := attnInit r.allRows p.dim, stop := 0 } := by
  intro r
  simp only [State.openSeq, State.etchDone_unlogged h, hres, Bool.false_eq_true, if_false]
  refine State.updStream_congr fun y hy hid => ?_
  obtain rfl := hone y hy hid
  rw [htree]
  rfl

/-! ### Frames (02 R49, R50, R58) -/

section
variable {s : State} {x : Stream} {p : Space} {e : BlockEnt} {f : Frame} (hx : s.stream x.id = some x) (hassigned : x.assigned = true)
  (hstop : x.stop = 0) (hframe : x.frame = none) (hend : x.atEnd = false) (hp : s.streamSpace x = some p)
  (hopen : (p.seqOf (x.handle % 2 ^ 24)).st = 1) (he : (p.seqOf (x.handle % 2 ^ 24)).blocks[x.block]? = some e) (hv : e.v = true)
  (hf : p.frame e.frame = some f) (hstuck : x.stuck = none)

include hx hassigned hstop hframe hend hp hstuck in
/-- A stream that runs and has no frame open goes on to its next block. -/
theorem frameOpen_running : exec (.frameOpen x.id) s = .next ((s.nextBlock x p).kvSyncBy x.task s) := by
  simp only [exec_frameOpen, execFrameOpen, hx, hassigned, hstop, hframe, hend, hstuck, hp, Bool.not_true, bne_self_eq_false,
    Option.isSome_none, Bool.or_self, Bool.false_eq_true, if_false]

include hopen he hv hf

/-- The next block of a stream whose frame is held waits. -/
theorem State.nextBlock_held (hhold : f.hold = true) : s.nextBlock x p = s := by
  simp only [State.nextBlock, hopen, he, hv, hf, hhold, if_true]

/-- The machine in which a stream has taken the entry of its next block. -/
def State.entryTaken (s : State) (x : Stream) (p : Space) : State :=
  s.updSpace p.id fun p => p.readEntries (x.handle % 2 ^ 24) x.block (x.block + 1)

theorem State.nextBlock_opens (hhold : f.hold = false) (hlost : f.lost = false) (htier : f.tier < 2) :
    s.nextBlock x p = (s.entryTaken x p).openFrame x p e f := by
  have h2 : ¬ (f.tier = 2 ∧ (!p.srem) = true) := fun h => htier.ne h.1
  have h3 : ¬ (f.tier = 3 ∧ (!s.reachable f.peer) = true) := fun h => absurd (h.1 ▸ htier) (by decide)
  simp only [State.nextBlock, hopen, he, hv, hf, hhold, hlost, if_neg h2, if_neg h3, Bool.false_eq_true, if_true, if_false]
  rfl

end

/-- Why a frame is not opened, and what is done where it is, for a frame of this module's tiers. -/
theorem State.openFrame_tier (s : State) (x : Stream) (p : Space) (e : BlockEnt) {f : Frame} (htier : f.tier < 2) :
    let base := p.frameBase f.tier f.slot (AttnRec.ofBytes x.args).layer + BitVec.ofNat 64 (x.span p f.fmt).1
    let n := (x.span p f.fmt).2
    let unit := Via.engine (sliceOf x.loc)
    (s.kvStop p.ctx base n unit = none →
      let r := (s.flushCtx x.loc x.ctx).kvRead p.ctx base n unit
      s.openFrame x p e f = (r.1.updSpace p.id fun p => p.updFrame e.frame fun f => { f with readers := f.readers + 1 }).updStream x.id
        fun x => { x with
          frame := some ⟨e.frame, f.tier, f.fmt, f.slot, min e.fill (x.len - x.block * p.tokens), f.peer, r.2⟩, nextPage := 0 }) ∧
    (∀ va, s.kvStop p.ctx base n unit = some (false, va) →
      let q := s.askSupervisor p.ctx (dieOf x.loc) x.task va
      s.openFrame x p e f = q.1.updStream x.id fun x => { x with stuck := some (q.2, va) }) ∧
    ∀ va, s.kvStop p.ctx base n unit = some (true, va) →
      s.openFrame x p e f = s.updStream x.id fun x => { x with
        stop := 5, stopBlock := x.block, fault := some ⟨cProt, 0, va, some (2, x.ticket)⟩ } := by
  have h3 : f.tier ≠ 3 := by omega
  dsimp only
  refine ⟨fun hk => ?_, fun va hk => ?_, fun va hk => ?_⟩
  · simp only [State.openFrame, if_neg h3, hk, State.issuerBack]
  · simp only [State.openFrame, if_neg h3, hk]
  · simp only [State.openFrame, if_neg h3, hk]

section
variable {s : State} {x : Stream} {o : Opened} {p : Space} (hx : s.stream x.id = some x) (hframe : x.frame = some o)
  (hp : s.streamSpace x = some p)
include hx hframe hp

/-- The next page of an open frame of this module lands where a slot is free. -/
theorem attnPageLand_here (hstop : x.stop = 0) (hasked : x.asked = false) (hmore : x.nextPage < 2 * (AttnRec.ofBytes x.args).hc)
    (hroom : x.landed.length < x.slots p) (htier : o.tier ≠ 3) :
    exec (.attnPageLand x.id) s = .next (s.landPage x p o ((o.pages.drop (x.nextPage * p.page o.fmt)).take (p.page o.fmt))) := by
  simp only [exec_attnPageLand, execAttnPageLand, hx, hframe, hp, hstop, hasked, hmore.not_ge, hroom.not_ge, if_pos htier,
    bne_self_eq_false, decide_false, Bool.or_self, Bool.false_eq_true, if_false]

/-- The machine in which a stream has closed its frame. -/
def State.closed (s : State) (x : Stream) (o : Opened) (p : Space) : State :=
  (s.updStream x.id fun x => { x with
    frame := none, nextPage := 0, opened := x.opened ++ [o.ident], block := x.block + 1 }).updSpace p.id fun p =>
      p.updFrame o.ident fun f => { f with readers := f.readers - 1 }

/-- A frame whose pages have landed is closed, and stays while it is used. -/
theorem frameClose_landed (hdone : x.nextPage = 2 * (AttnRec.ofBytes x.args).hc) (hstop : x.stop = 0)
    (hone : ∀ y ∈ s.streams, y.id = x.id → y = x)
    (hused : ∀ y f, (s.closed x o p).space p.id = some y → y.frame o.ident = some f → f.refcnt ≠ 0) :
    exec (.frameClose x.id) s = .next ((s.closed x o p).kvSyncBy x.task s) := by
  have hclose : (s.updStream x.id fun x => { x with
        frame := none, nextPage := 0
        opened := if x.stop = 0 then x.opened ++ [o.ident] else x.opened
        block := if x.stop = 0 then x.block + 1 else x.block }) =
      s.updStream x.id fun x => { x with
        frame := none, nextPage := 0, opened := x.opened ++ [o.ident], block := x.block + 1 } :=
    State.updStream_congr fun y hy hid => by
      obtain rfl := hone y hy hid
      simp only [hstop, if_true]
  have hgoes : ¬ (¬ x.nextPage = 2 * (AttnRec.ofBytes x.args).hc ∧ x.stop = 0) := fun h => h.1 hdone
  simp only [exec_frameClose, execFrameClose, hx, hframe, if_neg hgoes, hclose, hp]
  rw [State.closed] at hused ⊢
  cases hy : State.space _ p.id with
  | none => rfl
  | some y =>
    cases hf : y.frame o.ident with
    | none => simp only [Option.bind_some, hf]
    | some f => simp only [Option.bind_some, hf, hused y f hy hf, and_false, if_false]

end

/-! ### The fold (02 R56, 11 R259) -/

/-- A stream with its oldest page taken. -/
def Stream.taken (x : Stream) (l : Landed) (ls : List Landed) : Stream :=
  { x with landed := ls, saved := if x.folding = some l.block then x.saved else x.rows, folding := some l.block }

/-- The bytes of a page as the datapath takes it, and whether its tokens are poisoned. -/
def State.pageTaken (s : State) (x : Stream) (p : Space) (l : Landed) : List Byte × Bool :=
  let pb := s.pbytes (x.slotAt p l.slot + 32) (p.page l.fmt)
  (Pb.bytes pb, p.pageBad l.fmt l.fill pb)

/-- The oldest page of a ring is taken, the word of its slot is marked empty, and a K page waits for its V page. -/
theorem attnSlotConsume_first {s : State} {x : Stream} {l : Landed} {ls : List Landed} {p : Space} (hx : s.stream x.id = some x)
    (hl : x.landed = l :: ls) (hp : s.streamSpace x = some p)
    (hfirst : ∀ y ∈ s.streams, y.loc = x.loc → y.prefetch = false → x.id ≤ y.id) :
    exec (.attnSlotConsume x.id) s = .next
      ({ s with feEmpty := insertNat (x.slotAt p l.slot / 4 * 4) s.feEmpty }.updStream x.id fun y =>
        if l.isV then { y.taken l ls with rows := s.foldHead (y.taken l ls) p l y.key (s.pageTaken x p l) }
        else { y.taken l ls with key := s.pageTaken x p l }) := by
  have hbefore : (s.streams.any fun y => y.loc == x.loc && decide (y.id < x.id) && !y.prefetch) = false :=
    List.any_eq_false.mpr fun y hy hcond => by
      simp only [Bool.and_eq_true, beq_iff_eq, decide_eq_true_eq, Bool.not_eq_true'] at hcond
      obtain ⟨⟨hloc, hid⟩, hpre⟩ := hcond
      exact hid.not_ge (hfirst y hy hloc hpre)
  simp only [exec_attnSlotConsume, execAttnSlotConsume, hx, hl, hp, hbefore, Bool.false_eq_true, if_false]
  rfl

/-! ### The end of a stream (11 R259 to R262) -/

section
variable {s : State} {x : Stream} {t : Task} {op : Op} (hx : s.stream x.id = some x) (hassigned : x.assigned = true)
  (hframe : x.frame = none) (hlanded : x.landed = []) (hold : ∀ y ∈ s.streams, y.task = x.task → x.id ≤ y.id)
  (hop : s.findOp x.op = some (t, op)) (hfail : op.fail = none)

/-- The machine without a stream. -/
def State.withoutStream (s : State) (id : Nat) : State := { s with streams := s.streams.filter fun y => y.id != id }

/-- D filled in a new generation of the core, and the ticket complete, or failed with `f`. -/
def State.attnFilled (v : State) (x : Stream) (t : Task) (op : Op) (f : Option Fail) : State :=
  (((v.finishOp t.id { op with fail := f }).advanceGen t.loc).completeTicket t.id 2 x.ticket f (some op.id))

include hx hassigned hframe hlanded hold hop in
/-- The oldest ATTN of its task ends once it has stopped, or has come to its end. -/
theorem attnComplete_ended (hend : x.stop = 0 → x.atEnd = true) :
    exec (.attnComplete x.id) s = .next ((s.withoutStream x.id).attnEnd x t op) := by
  have holder : (s.streams.any fun y => y.task == x.task && decide (y.id < x.id)) = false :=
    List.any_eq_false.mpr fun y hy hcond => by
      simp only [Bool.and_eq_true, beq_iff_eq, decide_eq_true_eq] at hcond
      exact hcond.2.not_ge (hold y hy hcond.1)
  have hover : (x.stop == 0 && !x.atEnd) = false := by
    by_cases h0 : x.stop = 0
    · rw [hend h0, Bool.not_true, Bool.and_false]
    · rw [beq_false_of_ne h0, Bool.false_and]
  simp only [exec_attnComplete, execAttnComplete, hx, hassigned, holder, hframe, hlanded, hover, hop, Bool.not_true,
    Option.isSome_none, List.isEmpty_nil, Bool.or_self, Bool.false_eq_true, if_false]
  rfl

include hfail

/-- A stream that did not find its sequence open writes nothing; its ATTN fails with KV_HANDLE. -/
theorem State.attnEnd_notOpen (hstop : x.stop = 4) : s.attnEnd x t op =
    (s.attnFilled x t op (some ⟨cKvHandle, 0, BitVec.ofNat 64 x.handle, some (2, x.ticket)⟩)).kvSyncBy x.task s := by
  cases hp : s.streamSpace x with
  | none =>
    simp only [State.attnEnd, hp, Stream.failure, hstop, hfail, Option.none_or]
    rfl
  | some p =>
    simp only [State.attnEnd, hp, Stream.failure, hstop, hfail, Option.none_or, if_true]
    rfl

/-- What an ATTN that has come to its end writes: its rows, its end block and its status, and the stamps of its frames. -/
def State.attnWritten (s : State) (x : Stream) (p : Space) : State :=
  (((s.writeRows x p.dim).cmdWrite x.task x.op (padBase x.loc + x.recVa.toNat + 56) (natLe 4 x.last)).cmdWrite x.task x.op
    (padBase x.loc + x.recVa.toNat + 60) (natLe 1 0)).stampFrames p x.task x.opened

theorem State.attnEnd_complete {p : Space} (hstop : x.stop = 0) (hpre : x.prefetch = false) (hp : s.streamSpace x = some p) :
    s.attnEnd x t op = ((s.attnWritten x p).attnFilled x t op none).kvSyncBy x.task s := by
  simp only [State.attnEnd, State.attnWrites, hp, hstop, hpre, Stream.failure, hfail]
  rfl

end

end Sys2Proof.Machine

namespace Sys2Proof.Proofs

open Sys2Proof.Machine

/-- Settles O46, clause by clause from what each event does where its conditions hold. -/
theorem kvAndAttentionEvents : Obligations.KvAndAttentionEvents := by
  refine ⟨⟨?command, ?append⟩, ?assign, ?opens, ?pages, ?consume, ?ends⟩
  case command =>
    exact fun s c hc => ⟨kvOpComplete_worked hc, fun t hsent ht hbefore => kvOpComplete_waiting hc hsent ht hbefore⟩
  case append =>
    intro s c hc hw t hgo
    exact appendWaitResume_goesOn hc hw hgo
  case assign =>
    intro s x p hx _ hfirst hroom hpad hp
    have hnext := streamAssign_next hx hfirst hroom hpad hp
    refine ⟨fun hnot => ?_, ?_⟩
    · rwa [if_pos hnot] at hnext
    · intro hctx hst hres htree hlog htask _ hone q r
      rw [if_neg (not_or.mpr ⟨not_not.mpr hctx, not_not.mpr hst⟩),
        State.openSeq_unlogged (fun t ht => htask t ht ▸ hlog) hres htree hone] at hnext
      exact ⟨_, hnext, rfl⟩
  case opens =>
    intro s x p e f hx hassigned hstop hframe hend hp hopen he hv hf hstuck
    have hrun := frameOpen_running hx hassigned hstop hframe hend hp hstuck
    refine ⟨fun hhold => ?_, ?_⟩
    · rwa [State.nextBlock_held hopen he hv hf hhold] at hrun
    · intro hhold hlost htier s1 at_ n unit
      rw [State.nextBlock_opens hopen he hv hf hhold hlost htier] at hrun
      obtain ⟨hnone, hask, hbar⟩ := (s.entryTaken x p).openFrame_tier x p e htier
      refine ⟨fun hk => ?_, fun va hk => ?_, fun va hk => ?_⟩
      · rwa [hnone hk] at hrun
      · rwa [hask va hk] at hrun
      · rwa [hbar va hk] at hrun
  case pages =>
    intro s x o p hx hframe hp r n
    refine ⟨attnPageLand_here hx hframe hp, ?_⟩
    intro hdone hstop hone s1 s2 hused
    exact frameClose_landed hx hframe hp hdone hstop hone hused
  case consume =>
    intro s x l ls p hx hl hp hfirst
    refine ⟨_, attnSlotConsume_first hx hl hp hfirst, rfl, ?_, fun hk y hy => ?_⟩
    · exact (Bool.not_eq_false' ..).mpr (List.contains_iff_mem.mpr ((mem_insertNat ..).mpr (.inl rfl)))
    · obtain ⟨z, rfl⟩ := State.stream_updStream hy
      rw [hk]
      exact ⟨rfl, rfl⟩
  case ends =>
    intro s x t op hx hassigned hframe hlanded hold hop hfail gone f
    refine ⟨fun hstop => ?_, ?_⟩
    · have hend : x.stop = 0 → x.atEnd = true := fun h0 => absurd (h0.symm.trans hstop) (by decide)
      rw [attnComplete_ended hx hassigned hframe hlanded hold hop hend, State.attnEnd_notOpen hfail hstop]
      rfl
    · intro p hstop hend hpre hp v
      rw [attnComplete_ended hx hassigned hframe hlanded hold hop fun _ => hend,
        State.attnEnd_complete (s := s.withoutStream x.id) hfail hstop hpre hp]
      rfl

end Sys2Proof.Proofs
end

section
/-! PROOFS. Submissions, binding, starts, triggers and ends of tasks, and their counts (15 R289, R290, R294, R295, R299, R300, R302;
16 R308, R313; 24 R373: O47). The lemmas say what each event does where its conditions hold. -/

namespace Sys2Proof.Machine

theorem exec_launchAccept (s : State) : exec .launchAccept s = execLaunchAccept s := rfl
theorem exec_taskBind (slice : Nat) (s : State) : exec (.taskBind slice) s = execTaskBind slice s := rfl
theorem exec_taskStart (id : Nat) (s : State) : exec (.taskStart id) s = execTaskStart id s := rfl
theorem exec_watchTrigger (wid : Nat) (s : State) : exec (.watchTrigger wid) s = execWatchTrigger wid s := rfl
theorem exec_mailboxSubmit (wid slot : Nat) (s : State) : exec (.mailboxSubmit wid slot) s = execMailboxSubmit wid slot s := rfl
theorem exec_taskEnd (id : Nat) (s : State) : exec (.taskEnd id) s = execTaskEnd id s := rfl
theorem exec_counterTreeFlush (ctx set die : Nat) (cluster : Option Nat) (s : State) :
    exec (.counterTreeFlush ctx set die cluster) s = execCounterTreeFlush ctx set die cluster s := rfl
theorem exec_ntfDelayExpire (s : State) : exec .ntfDelayExpire s = execNtfDelayExpire s := rfl

/-! ### Submissions, binding and starts (15 R289, R290, R294, R295, R299, R300) -/

/-- The first submission that may be taken is taken where its context lives. -/
theorem launchAccept_takes {s : State} {x : Submission} {c : Ctx} (hfirst : (s.subs.find? fun x => s.subReady x) = some x)
    (hc : s.ctxOf x.ctx = some c) : exec .launchAccept s = .next (({ s with subs := s.subs.erase x } : State).take c x) := by
  simp only [exec_launchAccept, execLaunchAccept, hfirst, hc]

/-- The first ready task is bound where it fits. -/
theorem taskBind_binds {s : State} {t : Task} {ts : List Task} {slice loc : Nat} (hready : s.readyOrder = t :: ts)
    (hfits : s.bindSlice t = some (slice, loc)) : exec (.taskBind slice) s = .next (s.bindTo t loc) := by
  simp only [exec_taskBind, execTaskBind, hready, List.findSome?_cons, hfits, if_true]

/-- Where no task is ready, pre-emptions are asked for. -/
theorem taskBind_asks {s : State} (slice : Nat) (hready : s.readyOrder = []) :
    exec (.taskBind slice) s = .next (s.askPreempt slice) := by
  simp only [exec_taskBind, execTaskBind, hready, List.findSome?_nil]

/-- A bound task as it starts outside a proof: in its first part, with the transfers that it claims. -/
def State.started (s : State) (t : Task) (c : Ctx) (x : TaskSet) : Task :=
  let t1 : Task := { t.fromCtx c with
    status := .running, claims := s.claimsOf t, etchCursor := 0, etchEnd := 0, startedAt := s.tick, parkedAt := 0 }
  Task.firstPart { t1 with ctl := { t1.ctl with trigcnt := trigcnt x t.depth } }

/-- A task that has what it waits for starts, an acquire. -/
theorem taskStart_starts {s : State} {t : Task} {c : Ctx} {x : TaskSet} (ht : s.task t.id = some t) (hready : s.startable t = true)
    (hc : s.ctxOf t.ctx = some c) (hx : s.setOf t = some x) (hproof : c.etch ≠ 2) :
    exec (.taskStart t.id) s = .next (((s.advanceGen t.loc).etchTrigger x).updTask t.id fun _ => s.started t c x) := by
  simp only [exec_taskStart, execTaskStart, ht, hready, hc, hx, if_neg hproof, Bool.not_true, Bool.false_eq_true, if_false]
  rfl

/-- A task begins its prologue, its kernel or its epilogue, the first of them that it has, or ends (08 R182). -/
theorem Task.firstPart_cases (t : Task) :
    (t.loop.prologue ≠ 0 → t.firstPart.pc = t.loop.prologue ∧ t.firstPart.part = .prologue) ∧
    (t.loop.prologue = 0 → t.loop.trip ≠ 0 → t.firstPart.pc = t.loop.kernel ∧ t.firstPart.part = .kernel) ∧
    (t.loop.prologue = 0 → t.loop.trip = 0 → t.loop.epilogue ≠ 0 →
      t.firstPart.pc = t.loop.epilogue ∧ t.firstPart.part = .epilogue) ∧
    (t.loop.prologue = 0 → t.loop.trip = 0 → t.loop.epilogue = 0 → t.firstPart.status = .ending) := by
  refine ⟨fun hp => ?_, fun hp hk => ?_, fun hp hk he => ?_, fun hp hk he => ?_⟩
  · rw [Task.firstPart, if_pos hp]
    exact ⟨rfl, rfl⟩
  · rw [Task.firstPart, if_neg (not_not.mpr hp), if_pos hk]
    exact ⟨rfl, rfl⟩
  · rw [Task.firstPart, if_neg (not_not.mpr hp), if_neg (not_not.mpr hk), if_pos he]
    exact ⟨rfl, rfl⟩
  · rw [Task.firstPart, if_neg (not_not.mpr hp), if_neg (not_not.mpr hk), if_neg (not_not.mpr he)]
    rfl

/-! ### Triggers (16 R308, R313) -/

section
variable {s : State} {w : Watch} {x : Trigger} (hx : s.triggerOf w.id = some (w, x))
include hx

theorem watchTrigger_fires (hmode : w.mode ≠ 2) :
    exec (.watchTrigger w.id) s = .next (({ s with triggers := s.triggers.erase x } : State).trigger w x) := by
  simp only [exec_watchTrigger, execWatchTrigger, hx, if_neg hmode]

/-- The oldest submission that waits at a watch unit goes to the dispatcher while the journal has room. -/
theorem mailboxSubmit_submits (hmode : w.mode = 2) (hfirst : s.firstSubmission w.die = some x) (hroom : s.journalFull = false) :
    exec (.mailboxSubmit w.id (w.offset x.value.toNat / 64)) s =
      .next (({ s with triggers := s.triggers.erase x } : State).submitSlot w x.value.toNat) := by
  simp only [exec_mailboxSubmit, execMailboxSubmit, hx, hmode, hfirst, hroom, ne_eq, not_true_eq_false, Bool.false_eq_true, or_self,
    if_false]

end

/-! ### The end of a task (15 R302, 18 R322) -/

/-- A task that is quiet has no operation left that must be performed, and its fault ring has room. -/
theorem State.quiet_done {s : State} {t : Task} (h : s.quiet t = true) : t.ops.any Op.lasts = false ∧ s.ringFull t.ctx = false := by
  simp only [State.quiet, Bool.and_eq_true, Bool.not_eq_true'] at h
  obtain ⟨⟨⟨_, hops⟩, _⟩, hring⟩ := h
  exact ⟨hops, hring⟩

/-- The machine in which a task has reported its end. -/
def State.reported (s : State) (t : Task) : State := ((s.etchLeft t).decision t 0x16 0).release t

/-- The machine in which the end of a task has been counted. -/
def State.endCounted (s : State) (t : Task) : State := ((s.lostTickets t).flushCtx t.loc t.ctx).countEnd t

section
variable {s : State} {t : Task} (ht : s.task t.id = some t) (hquiet : s.quiet t = true)
include ht hquiet

/-- A task that has everything behind it takes a step of its end. -/
theorem taskEnd_steps : exec (.taskEnd t.id) s = .next (s.endStep t) := by
  simp only [exec_taskEnd, execTaskEnd, ht, hquiet, if_true]

theorem taskEnd_counted (hcounted : t.counted = true) : exec (.taskEnd t.id) s = .next (s.reported t) := by
  obtain ⟨hops, hring⟩ := State.quiet_done hquiet
  rw [taskEnd_steps ht hquiet]
  simp only [State.endStep, hcounted, ht, hops, hring, Bool.not_true, Bool.false_and, Bool.or_self, Bool.false_eq_true, if_true,
    if_false]
  rfl

/-- A task with no claimed transfer left counts its end in its turn, and reports where nothing then lasts. -/
theorem taskEnd_counts {t1 : Task} (hcounted : t.counted = false) (hleft : s.claimLeft t = none) (hturn : s.countTurn t = true)
    (ht1 : (s.endCounted t).task t.id = some t1) (hops : ∀ o ∈ t1.ops, o.lasts = false)
    (hring : (s.endCounted t).ringFull t.ctx = false) : exec (.taskEnd t.id) s = .next ((s.endCounted t).reported t1) := by
  have hnone : t1.ops.any Op.lasts = false := List.any_eq_false.mpr fun o ho => by rw [hops o ho]; exact Bool.false_ne_true
  rw [State.endCounted] at ht1 hring
  rw [taskEnd_steps ht hquiet]
  simp only [State.endStep, hcounted, hleft, hturn, ht1, hnone, hring, Bool.not_true, Bool.and_false, Bool.or_self,
    Bool.false_eq_true, if_false]
  rfl

/-- A claimed transfer that is left is granted back in its turn. -/
theorem taskEnd_grants {ch : Channel} {pong : Bool} (hcounted : t.counted = false) (hleft : s.claimLeft t = some (ch, pong))
    (hturn : s.nextTurn t (.unit (ch.bufs[bufIx pong]).seq) = true) :
    exec (.taskEnd t.id) s = .next ((s.flushCtx t.loc t.ctx).autoGrant t.id t.ctx ch pong) := by
  rw [taskEnd_steps ht hquiet]
  simp only [State.endStep, hcounted, hleft, hturn, Bool.false_eq_true, if_true, if_false]

end

/-- A task of no watch that is released is gone. -/
theorem State.task_release {s : State} {t : Task} (hkey : ((s.setOf t).map TaskSet.wkey).getD 0 = 0)
    (hid : t.id ≠ Task.blank.id) : (s.release t).task t.id = none := by
  rw [State.release, hkey, State.watchEnded, if_pos rfl]
  refine List.find?_eq_none.mpr fun u hu => ?_
  rw [beq_iff_eq]
  rcases List.mem_cons.mp hu with rfl | hu
  · split
    · exact hid.symm
    · next hne => exact hne
  · exact bne_iff_ne.mp (List.mem_filter.mp hu).2

/-! ### Counts of ends (15 R302) -/

/-- The machine with a task set in the place of that of its number. -/
def State.putSet (s : State) (y : TaskSet) : State :=
  { s with sets := s.sets.map fun z => if z.ctx = y.ctx ∧ z.id = y.id then y else z }

/-- A set that is put in the place of one of its number is found. -/
theorem State.find?_putSet {s : State} {x y : TaskSet} (hx : (s.sets.find? fun z => z.ctx == x.ctx && z.id == x.id) = some x)
    (hctx : y.ctx = x.ctx) (hid : y.id = x.id) : ((s.putSet y).sets.find? fun z => z.ctx == x.ctx && z.id == x.id) = some y := by
  have hsame : ((fun z : TaskSet => z.ctx == x.ctx && z.id == x.id) ∘ fun z => if z.ctx = x.ctx ∧ z.id = x.id then y else z) =
      fun z => z.ctx == x.ctx && z.id == x.id := by
    funext z
    rw [Function.comp_apply]
    split
    · next hz => rw [hctx, hid, hz.1, hz.2]
    · rfl
  rw [State.putSet, hctx, hid, List.find?_map, hsame, hx, Option.map_some, if_pos ⟨rfl, rfl⟩]

/-- A value put is what is read at its key. -/
theorem Tbl.get_put_same {α : Type} [DecidableEq α] (d : α) (t : Tbl α) (k : Nat) (v : α) : Tbl.get d (Tbl.put d t k v) k = v := by
  rw [Tbl.get_put, if_pos rfl]

/-- A set whose ends counted by a cluster have been passed to the cluster's die. -/
def TaskSet.clusterPassed (x : TaskSet) (slice die : Nat) : TaskSet :=
  { x with cl := Tbl.put 0 x.cl slice 0, di := Tbl.put 0 x.di die (Tbl.get 0 x.di die + Tbl.get 0 x.cl slice) }

/-- A set whose ends counted by a die have been passed to the module. -/
def TaskSet.diePassed (x : TaskSet) (die : Nat) : TaskSet :=
  { x with di := Tbl.put 0 x.di die 0, left := x.left - Tbl.get 0 x.di die }

section
variable {s : State} {x : TaskSet} {die : Nat} (hx : (s.sets.find? fun y => y.ctx == x.ctx && y.id == x.id) = some x)
include hx

theorem counterTreeFlush_cluster {c : Nat} (hn : Tbl.get 0 x.cl (sliceBase die + c) ≠ 0) (hdie : sliceDie (sliceBase die + c) = die) :
    exec (.counterTreeFlush x.ctx x.id die (some c)) s = .next (s.putSet (x.clusterPassed (sliceBase die + c) die)) := by
  simp only [exec_counterTreeFlush, execCounterTreeFlush, hx, hn, hdie, ne_eq, not_true_eq_false, or_self, if_false]
  rfl

/-- The counts of a die go to the module; the set does not complete while ends are left. -/
theorem counterTreeFlush_die (hn : Tbl.get 0 x.di die ≠ 0) (hleft : Tbl.get 0 x.di die < x.left) :
    exec (.counterTreeFlush x.ctx x.id die none) s = .next (s.putSet (x.diePassed die)) := by
  have hmore : ¬ x.left - Tbl.get 0 x.di die = 0 := by omega
  simp only [exec_counterTreeFlush, execCounterTreeFlush, hx, if_neg hn, if_neg hmore]
  rfl

end

/-! ### Notifications (24 R373) -/

theorem ntfDelayExpire_sends {s : State} (hup : s.board.hostUp = true) (hwaits : s.board.ntfSince ≠ 0) (hon : s.jget 0x60 16 16 ≠ 0) :
    exec .ntfDelayExpire s = .next { s with board := { s.board with
      ntfSince := 0, sent := s.board.sent ++ [.msix (s.jget 0x60 32 6)] } } := by
  have hcond : (s.board.hostUp && s.board.ntfSince != 0 && s.jget 0x60 16 16 != 0) = true := by
    rw [hup, bne_iff_ne.mpr hwaits, bne_iff_ne.mpr hon]
    rfl
  rw [exec_ntfDelayExpire, execNtfDelayExpire, if_pos hcond]

end Sys2Proof.Machine

namespace Sys2Proof.Proofs

open Sys2Proof.Machine

/-- Settles O47, clause by clause from what each event does where its conditions hold. -/
theorem launchAndEndEvents : Obligations.LaunchAndEndEvents := by
  refine ⟨⟨?accept, ?bind, ?asks, ?start, ?trigger, Task.firstPart_cases⟩, ?counted, ?counts, ?grants, ?gone,
    ?cluster, ?die, ?notified⟩
  case accept => exact fun s x c hfirst hc => launchAccept_takes hfirst hc
  case bind => exact fun s t ts slice loc hready hfits => taskBind_binds hready hfits
  case asks => exact fun s slice hready => taskBind_asks slice hready
  case start => exact fun s t c x ht hready hc hx hproof => taskStart_starts ht hready hc hx hproof
  case trigger =>
    exact fun s w x hx => ⟨watchTrigger_fires hx,
      fun hmode hfirst hroom => ⟨_, mailboxSubmit_submits hx hmode hfirst hroom, rfl, rfl⟩⟩
  case counted => exact fun s t ht hquiet hcounted => taskEnd_counted ht hquiet hcounted
  case counts =>
    intro s t t1 ht hquiet hcounted hleft hturn s1 ht1 hops hring
    exact taskEnd_counts ht hquiet hcounted hleft hturn ht1 hops hring
  case grants => exact fun s t ch pong ht hquiet hcounted hleft hturn => taskEnd_grants ht hquiet hcounted hleft hturn
  case gone =>
    intro s t u hkey hid
    exact State.task_release hkey hid
  case cluster =>
    intro s x die c hx slice n hn hdie
    exact ⟨_, x.clusterPassed slice die, counterTreeFlush_cluster hx hn hdie, State.find?_putSet hx rfl rfl,
      Tbl.get_put_same 0 x.cl slice 0, Tbl.get_put_same 0 x.di die _, rfl⟩
  case die =>
    intro s x die hx n hn hleft
    exact ⟨_, x.diePassed die, counterTreeFlush_die hx hn hleft, State.find?_putSet hx rfl rfl, Tbl.get_put_same 0 x.di die 0, rfl⟩
  case notified => exact fun s hup hwaits hon => ntfDelayExpire_sends hup hwaits hon

end Sys2Proof.Proofs
end

section
/-! PROOFS. Saving and restoring of tasks, times that pass for them, the debugger and the watchdog (15 R298 to R301; 18 R324; 20 R350,
R351; 08 R180; 23 R366: O48). The lemmas say what each event does where its conditions hold. -/

namespace Sys2Proof.Machine

theorem exec_swapOut (id : Nat) (s : State) : exec (.swapOut id) s = execSwapOut id s := rfl
theorem exec_taskRestore (id : Nat) (s : State) : exec (.taskRestore id) s = execTaskRestore id s := rfl
theorem exec_quantumExpire (id : Nat) (s : State) : exec (.quantumExpire id) s = execQuantumExpire id s := rfl
theorem exec_agePromote (id : Nat) (s : State) : exec (.agePromote id) s = execAgePromote id s := rfl
theorem exec_crossClusterEligible (id : Nat) (s : State) :
    exec (.crossClusterEligible id) s = execCrossClusterEligible id s := rfl
theorem exec_parked256Cycles (id : Nat) (s : State) : exec (.parked256Cycles id) s = execParked256Cycles id s := rfl
theorem exec_debuggerHalt (x : DebugReq) (s : State) : exec (.debuggerHalt x) s = execDebuggerHalt x s := rfl
theorem exec_debuggerResume (id : Nat) (s : State) : exec (.debuggerResume id) s = execDebuggerResume id s := rfl
theorem exec_watchdog (id : Nat) (s : State) : exec (.watchdog id) s = execWatchdog id s := rfl

/-! ### Saving (15 R298 to R301, 18 R324) -/

section
variable {s : State} {t : Task} (ht : s.task t.id = some t)
include ht

section
variable {c : Ctx} {k : Nat} (hc : s.ctxOf t.ctx = some c) (hk : s.freeImage c = some k) (hsave : s.savable t = true)
include hc hk hsave

/-- A parked victim is saved, and its place given to the task whose victim it is. -/
theorem swapOut_parked {x v : Task} (hst : t.status = .parked)
    (hvictim : ((s.victims (s.stuckIn (sliceOf t.loc))).find? fun p => p.2.1 && p.2.2.id == t.id) = some (x, true, v)) :
    exec (.swapOut t.id) s = .next ((s.save t c k).giveTo (some x) t.loc) := by
  simp only [exec_swapOut, execSwapOut, ht, hst, hvictim, hc, hk, hsave, Option.map_some, Option.bind_some, if_true]

/-- A task stopped at its KNEXT is saved while its pre-emption stands, and its place given to its heir. -/
theorem swapOut_stopped (hst : t.status = .stopped) (hstands : s.preemptStands t = true) :
    exec (.swapOut t.id) s = .next ((s.save t c k).giveTo (s.heirOf t) t.loc) := by
  simp only [exec_swapOut, execSwapOut, ht, hst, hstands, hc, hk, hsave, Option.map_some, Option.bind_some, Bool.not_true,
    Bool.false_eq_true, if_true, if_false]

end

/-- A bound task that waits for a belay buffer is put back for the task whose victim it is. -/
theorem swapOut_bound {x v : Task} (hst : t.status = .bound) (hwaits : s.waitsBelay t = true)
    (hvictim : ((s.victims (s.stuckIn (sliceOf t.loc))).find? fun p => p.2.1 && p.2.2.id == t.id) = some (x, true, v)) :
    exec (.swapOut t.id) s = .next ((s.unbind t).giveTo (some x) t.loc) := by
  simp only [exec_swapOut, execSwapOut, ht, hst, hvictim, hwaits, Option.map_some, Option.isSome_some, Bool.and_self, if_true]

/-- A stopped task whose pre-emption has no reason any more goes on where it is. -/
theorem swapOut_keeps (hst : t.status = .stopped) (hstands : s.preemptStands t = false) :
    exec (.swapOut t.id) s = .next (s.updTask t.id Task.keeps) := by
  simp only [exec_swapOut, execSwapOut, ht, hst, hstands, Bool.not_false, if_true]

end

/-- The heir of a stopped task is the one that asked for its place, while it still waits and fits there. -/
theorem State.heirOf_asker {s : State} {t x : Task} (hwaits : x ∈ s.stuckIn (sliceOf t.loc)) (hfits : s.freedFor x t = true)
    (hasked : t.preemptFor = some x.id) (hone : ∀ y ∈ s.stuckIn (sliceOf t.loc), y.id = x.id → y = x) : s.heirOf t = some x := by
  have hfind : (((s.stuckIn (sliceOf t.loc)).filter fun x => s.freedFor x t).find? fun y => t.preemptFor == some y.id) = some x := by
    cases hy : ((s.stuckIn (sliceOf t.loc)).filter fun x => s.freedFor x t).find? fun y => t.preemptFor == some y.id with
    | none =>
      refine absurd (List.find?_eq_none.mp hy x (List.mem_filter.mpr ⟨hwaits, hfits⟩)) (not_not.mpr ?_)
      exact beq_iff_eq.mpr hasked
    | some y =>
      have hid : t.preemptFor = some y.id := by simpa using List.find?_some hy
      have hmem := (List.mem_filter.mp (List.mem_of_find?_eq_some hy)).1
      rw [hone y hmem (Option.some.inj (hid.symm.trans hasked))]
  simp only [State.heirOf, hfind, Option.some_or]

/-! ### Restoring (15 R299, 20 R350) -/

/-- A task of a context that goes on from an image in a cycle. -/
def Image.restored (m : Image) (t : Task) (c : Ctx) (now : Nat) (u : Task) : Task :=
  { u with
    status := .running, regs := m.regs u.regs, image := none, latched := false, savedWays := 0, awaits := []
    held := (m.results t).1, pend := (m.results t).2, tls := m.tls u, binds := m.binds, etchCursor := m.nat 29 4
    shadow := Vector.ofFn fun i => m.word (53 + i)
    startedAt := now, parkedAt := 0
    ctl := { m.ctl u.ctl with tvec := c.tvec, wdcnt := 0 } }

/-- The length of the image of a task. -/
def Task.imageLength (t : Task) : Nat := (imageParts t.window.2).2.2 + 0x8000 * t.savedWays

/-- The image of a task in slot `k` of its context's pool, as it is read. -/
def State.imageOf (s : State) (t : Task) (c : Ctx) (k : Nat) : Image :=
  ⟨s.unitTouch c.id (c.imgbase + k * c.imgsz) t.imageLength, c.id, c.imgbase + k * c.imgsz⟩

/-- The machine in which the window and the ways of a task are as its image has them, in a new generation of its core, and the
poisoned granules of the image are charged. -/
def State.broughtBack (s : State) (t : Task) (c : Ctx) (k : Nat) : State :=
  let m := s.imageOf t c k
  (((m.s.windowBack t m).waysBack t m).advanceGen t.loc).chargeImage c.id m.base t.imageLength

/-- A bound task goes on from its image where the ways that it converted are free and its log has room. -/
theorem taskRestore_restores {s : State} {t : Task} {c : Ctx} {k : Nat} (ht : s.task t.id = some t) (hk : t.image = some k)
    (hc : s.ctxOf t.ctx = some c) (hst : t.status = .bound) (hways : s.waysFree t = true) (hlog : s.etchFull c = false) :
    exec (.taskRestore t.id) s = .next
      (((s.broughtBack t c k).updTask t.id ((s.imageOf t c k).restored t c s.tick)).decision t 0x15 t.loc) := by
  have hgoes : (t.status != .bound || !s.waysFree t || s.etchFull c) = false := by
    rw [hst, hways, hlog]
    rfl
  simp only [exec_taskRestore, execTaskRestore, ht, hk, hc, hgoes, Bool.false_eq_true, if_false]
  rfl

/-! ### Times (15 R299, R300) -/

/-- A task that meets the condition of a time that passes is changed by it. -/
theorem State.timed_passes {s : State} {t : Task} {ok : Task → Bool} (ht : s.task t.id = some t) (hok : ok t = true)
    (f : Task → Task) : s.timed t.id ok f = .next (s.updTask t.id f) := by
  simp only [State.timed, ht, hok, if_true]

/-! ### The debugger (08 R180, 23 R366) -/

/-- The number of a scalar register names it. -/
theorem Dst.ofNum_s (i : SReg) : Dst.ofNum (Dst.num (.s i)) = some (.s i) := dif_pos i.isLt

section
variable {s : State} {t : Task} (ht : s.task t.id = some t)
include ht

theorem State.debugTask_admitted (hdebug : s.debugs t.ctx = true) : s.debugTask t.id = some t := by
  rw [State.debugTask, ht, Option.filter_some, if_pos hdebug]

theorem State.debugTask_refused (hdebug : s.debugs t.ctx = false) : s.debugTask t.id = none := by
  rw [State.debugTask, ht, Option.filter_some, hdebug, if_neg Bool.false_ne_true]

theorem debuggerHalt_halts (hst : t.status = .running ∨ t.status = .parked) (hdebug : s.debugs t.ctx = true) :
    exec (.debuggerHalt (.halt t.id)) s = .next (s.updTask t.id fun t => { t with status := .halted }) := by
  have hruns : (t.status == .running || t.status == .parked) = true := by
    rcases hst with hst | hst <;> rw [hst] <;> rfl
  simp only [exec_debuggerHalt, execDebuggerHalt, State.debugTask_admitted ht hdebug, hruns, if_true]

/-- The debugger reads a scalar register of a task that it may debug, with its poison. -/
theorem debuggerHalt_reads (hdebug : s.debugs t.ctx = true) (i : SReg) :
    exec (.debuggerHalt (.readReg t.id (Dst.num (.s i)))) s =
      .next (s.emit (.debug (natLe 8 (t.regs.s[i].val.setWidth 1024 : BitVec 1024).toNat) (t.regs.s[i].st == .poisoned))) := by
  simp only [exec_debuggerHalt, execDebuggerHalt, State.debugTask_admitted ht hdebug, Dst.ofNum_s, State.debugValue]

/-- The debugger does nothing to a task of a context that it may not debug. -/
theorem debuggerHalt_refused (hdebug : s.debugs t.ctx = false) : exec (.debuggerHalt (.halt t.id)) s = .next s ∧
    ∀ n v, exec (.debuggerHalt (.readReg t.id n)) s = .next s ∧ exec (.debuggerHalt (.writeReg t.id n v)) s = .next s := by
  have hnone := State.debugTask_refused ht hdebug
  refine ⟨?_, fun n v => ⟨?_, ?_⟩⟩ <;> simp only [exec_debuggerHalt, execDebuggerHalt, hnone]

/-! ### The watchdog (20 R351, R353) -/

theorem watchdog_barks (hexpired : t.wdExpired = true) : exec (.watchdog t.id) s = .next (((s.focus t.id).barks).focus s.cur.id) := by
  simp only [exec_watchdog, execWatchdog, ht, hexpired, if_true]

end

/-- The cause of a trap of a bundle's first slot is its number. -/
theorem Trap.causeWord_now (c : Nat) (e : Word) : (Trap.now c e).causeWord 0 = BitVec.ofNat 64 c := by
  simp [Trap.causeWord, Trap.now]

/-- A task with a handler whose watchdog barks enters it, its count 0. -/
theorem State.barks_enters {s : State} (hin : s.cur.ctl.intrap = false) (htvec : s.myCtx.tvec ≠ 0) :
    s.barks.cur.pc = s.cur.ctl.tvec ∧ s.barks.cur.ctl.epc = s.cur.pc ∧ s.barks.cur.ctl.eval = s.cur.ctl.wdcnt ∧
      s.barks.cur.ctl.cause = BitVec.ofNat 64 cWatchdog ∧ s.barks.cur.ctl.wdcnt = 0 := by
  rw [State.barks, State.takeTrap_now _ _ _ (State.noHandler_eq_false hin htvec), Trap.causeWord_now]
  exact ⟨rfl, rfl, rfl, rfl, rfl⟩

end Sys2Proof.Machine

namespace Sys2Proof.Proofs

open Sys2Proof.Machine

/-- Settles O48, clause by clause from what each event does where its conditions hold. -/
theorem swapAndTimeEvents : Obligations.SwapAndTimeEvents := by
  refine ⟨⟨?saved, ?putBack, ?keeps, ?restored⟩, ?times⟩
  case saved =>
    intro s t c k ht hc hk hsave
    exact ⟨fun x v hst hvictim => swapOut_parked ht hc hk hsave hst hvictim, swapOut_stopped ht hc hk hsave,
      fun x hwaits hfits hasked hone => State.heirOf_asker hwaits hfits hasked hone⟩
  case putBack => exact fun s t x v ht hst hwaits hvictim => swapOut_bound ht hst hwaits hvictim
  case keeps => exact fun s t ht hst hstands => swapOut_keeps ht hst hstands
  case restored =>
    intro s t c k ht hk hc hst hways hlog base n m
    exact ⟨m.restored t c s.tick, taskRestore_restores ht hk hc hst hways hlog, rfl, rfl, rfl, rfl, rfl, rfl, rfl, rfl, rfl, rfl,
      rfl, rfl, rfl, rfl⟩
  case times =>
    intro s t ht
    refine ⟨?quantum, ?age, ?cross, ?parked, debuggerHalt_halts ht, fun i hdebug => debuggerHalt_reads ht hdebug i,
      debuggerHalt_refused ht, ?resume, watchdog_barks ht, fun u hin htvec _ => State.barks_enters hin htvec⟩
    case quantum =>
      intro hst hyields himage
      exact State.timed_passes ht (by rw [hst, hyields, himage]; rfl) _
    case age =>
      intro hready hlimit
      exact State.timed_passes ht (by rw [hready, bne_iff_ne.mpr hlimit]; rfl) _
    case cross => exact fun hready => State.timed_passes ht hready _
    case parked =>
      intro hwaits
      refine State.timed_passes ht ?_ _
      rcases hwaits with hst | hbelay
      · rw [hst]
        rfl
      · rw [hbelay, Bool.or_true]
    case resume =>
      intro hst hdebug
      exact State.timed_passes ht (by rw [hst, hdebug]; rfl) _

end Sys2Proof.Proofs
end

section
/-! PROOFS. The statements of 19_etch_proof_replay.md, 20_faults_preemption_translation.md and 24_host_management.md: every step goes on
(O56), taking a trap (O12), the commands of the security controller (O49) and the events of the board (O50). Every meaning is a slot,
a command of the security controller, or an event each of whose branches answers a next state. -/

namespace Sys2Proof.Machine

/-! ### The forms of the slots (06 R134) -/

theorem goesOn_next (t : State) : GoesOn (.next t) := ⟨t, rfl⟩

theorem goesOn_ite {c : Prop} [Decidable c] {a b : Res} (ha : GoesOn a) (hb : GoesOn b) : GoesOn (if c then a else b) := by
  split
  · exact ha
  · exact hb

theorem GoesOn.andThen {r : Res} {f : State → Res} (hr : GoesOn r) (hf : ∀ t, GoesOn (f t)) : GoesOn (andThen r f) :=
  andThen_next hr hf

theorem slot_goesOn (s : State) (us : List Use) (body : State → Except Stop State) : GoesOn (s.slot us body) := slot_next s us body

section Forms
variable (s : State)

theorem alu_goesOn (n : Nat) (f : Word → Word → Word) (o : RRR) : GoesOn (alu n f o s) := slot_goesOn ..
theorem alu1_goesOn (f : Word → Word) (o : RR) : GoesOn (alu1 f o s) := slot_goesOn ..
theorem aluI_goesOn (f : Word → Word) (o : RI) : GoesOn (aluI f o s) := slot_goesOn ..
theorem division_goesOn (signed quotient : Bool) (o : DivOps) : GoesOn (division signed quotient o s) := slot_goesOn ..
theorem plog_goesOn (f : Bool → Bool → Bool) (o : PlogOps) : GoesOn (plog f o s) := slot_goesOn ..
theorem falu_goesOn (f : Fmt → Rm → Nat → Nat → Nat) (o : FRRR) : GoesOn (falu f o s) := slot_goesOn ..

theorem vmasked_goesOn (uses : List Use) (lat : Nat) (vd : VReg) (w : Width) (dt : ElemType) (f : State → Nat → Nat) :
    GoesOn (vmasked uses lat vd w dt f s) := slot_goesOn ..
theorem vbin_goesOn (lat : ElemType → Nat) (f : State → Nat → Nat → Nat) (o : VRR) : GoesOn (vbin lat f o s) := vmasked_goesOn ..
theorem varith_goesOn (fp : Fmt → Rm → Nat → Nat → Nat) (int : Int → Int → Int) (o : VRR) : GoesOn (varith fp int o s) := vbin_goesOn ..
theorem vlogic_goesOn (f : Nat → Nat → Nat → Nat) (o : VRR) : GoesOn (vlogic f o s) := vbin_goesOn ..
theorem vmuladd_goesOn (uses : List Use) (neg : Bool) (vd va : VReg) (w : Width) (dt : ElemType) (b : State → Nat → Nat) :
    GoesOn (vmuladd uses neg vd va w dt b s) := vmasked_goesOn ..
theorem vun_goesOn (lat : Nat) (f : Nat → Nat) (o : VR1) : GoesOn (vun lat f o s) := vmasked_goesOn ..
theorem vscalar_goesOn (fp : Fmt → Rm → Nat → Nat → Nat) (int : Int → Int → Int) (o : VSS) : GoesOn (vscalar fp int o s) :=
  vmasked_goesOn ..
theorem vimm_goesOn (f : Nat → Nat → Nat) (o : VII) : GoesOn (vimm f o s) := vmasked_goesOn ..
theorem special_goesOn (f : Nat → Nat) (o : VR1) : GoesOn (special f o s) := slot_goesOn ..
theorem reduce_goesOn (fid : Fmt → Nat) (iid : Nat → Int) (fp : Fmt → Rm → Nat → Nat → Nat) (int : Int → Int → Int) (o : VredOps) :
    GoesOn (reduce fid iid fp int o s) := slot_goesOn ..

theorem loadMS_goesOn (z : Nat) (signed : Bool) (o : MSOps) : GoesOn (loadMS z signed o s) := slot_goesOn ..
theorem storeMS_goesOn (z : Nat) (o : MSOps) : GoesOn (storeMS z o s) := slot_goesOn ..
theorem feLoad_goesOn (take : Bool) (o : MSOps) : GoesOn (feLoad take o s) := slot_goesOn ..
theorem feStore_goesOn (wait : Bool) (o : MSOps) : GoesOn (feStore wait o s) := slot_goesOn ..
theorem feSet_goesOn (full : Bool) (o : FesetOps) : GoesOn (feSet full o s) := slot_goesOn ..
theorem atomic_goesOn (op : BitVec 2 → AtOp) (wide : Bool) (o : ATOps) : GoesOn (atomic op wide o s) := by
  unfold atomic
  exact slot_goesOn ..
theorem bindOp_goesOn (o : BindOps) (f : Bind → List Bind → Except Stop (List Bind)) : GoesOn (bindOp o f s) := slot_goesOn ..
theorem lineOp_goesOn (c : Nat → Cmd) (o : MSA) : GoesOn (lineOp c o s) := slot_goesOn ..
theorem kvIssue_goesOn (kind : KvKind) (o : MSOps) : GoesOn (kvIssue kind o s) := slot_goesOn ..
theorem tlbinv_goesOn (what : Word → TlbWhat) (o : TlbOps) : GoesOn (tlbinv what o s) := slot_goesOn ..

end Forms

/-! ### Commands and events that look before they act -/

section Events
variable (s : State)

/-- A command of the security controller ends with a status or waits for its turn (23 R359). -/
theorem State.scCommand_goesOn (op : Nat) (f : State → List Byte → ScRes) (reads : State → List Byte → State) :
    GoesOn (s.scCommand op f reads) := by
  unfold State.scCommand
  split
  · exact goesOn_next _
  · refine goesOn_ite (goesOn_next _) (goesOn_ite (goesOn_next _) ?_)
    dsimp only
    split <;> exact goesOn_next _

theorem execArbRaise_goesOn : GoesOn (execArbRaise s) := by
  unfold execArbRaise
  split
  · exact goesOn_next _
  · exact State.scCommand_goesOn ..

theorem execReadJournal_goesOn (n : Nat) : GoesOn (execReadJournal n s) := goesOn_ite (goesOn_next _) (goesOn_next _)

theorem execHaulStart_goesOn (slice : Nat) : GoesOn (execHaulStart slice s) := by
  refine goesOn_ite (goesOn_next _) ?_
  split <;> exact goesOn_next _

theorem execHaulComplete_goesOn (id : Nat) : GoesOn (execHaulComplete id s) := by
  unfold execHaulComplete
  split
  case h_1 => exact goesOn_next _
  case h_2 =>
    split
    case h_1 =>
      refine goesOn_ite (goesOn_next _) ?_
      split <;> exact goesOn_next _
    case h_2 | h_4 => exact goesOn_next _
    case h_3 => exact goesOn_ite (goesOn_next _) (goesOn_next _)

theorem execBelayTransferHeld_goesOn (ctx ch : Nat) (pong : Bool) : GoesOn (execBelayTransferHeld ctx ch pong s) := by
  unfold execBelayTransferHeld
  split
  · exact goesOn_next _
  · exact goesOn_ite (goesOn_next _) (goesOn_next _)

theorem execMulticastDeliver_goesOn (q : Request) : GoesOn (execMulticastDeliver q s) :=
  goesOn_ite (goesOn_next _) (goesOn_ite (goesOn_next _) (goesOn_next _))

theorem execMulticastComplete_goesOn (id : Nat) (done : List Nat) : GoesOn (execMulticastComplete id done s) := by
  unfold execMulticastComplete
  split
  · exact goesOn_next _
  · dsimp only
    split <;> exact goesOn_next _

theorem execReductionContribution_goesOn (c : Contribution) : GoesOn (execReductionContribution c s) := by
  refine goesOn_ite (goesOn_next _) (goesOn_ite (goesOn_next _) ?_)
  split
  · exact goesOn_next _
  · split
    · exact goesOn_next _
    · exact goesOn_ite (goesOn_next _) (goesOn_ite (goesOn_next _) (goesOn_next _))

theorem execReductionTimeout_goesOn (ctx group k : Nat) : GoesOn (execReductionTimeout ctx group k s) := by
  unfold execReductionTimeout
  split <;> exact goesOn_next _

theorem execMmaComplete_goesOn (id : Nat) : GoesOn (execMmaComplete id s) := by
  unfold execMmaComplete
  split
  · split
    · exact goesOn_ite (goesOn_next _) (goesOn_next _)
    · exact goesOn_next _
  · exact goesOn_next _

theorem execRemoteReply_goesOn (r : Reply) : GoesOn (execRemoteReply r s) := goesOn_ite (goesOn_next _) (goesOn_next _)

theorem execStoreAck_goesOn (e : Envelope) (id : Nat) (st : FabStatus) (seq : Nat) : GoesOn (execStoreAck e id st seq s) :=
  goesOn_ite (goesOn_next _) (goesOn_next _)

theorem execStaleNotice_goesOn (id srcInc tgtInc : Nat) : GoesOn (execStaleNotice id srcInc tgtInc s) := by
  refine goesOn_ite (goesOn_next _) ?_
  dsimp only
  split
  · exact goesOn_next _
  · split
    · exact goesOn_next _
    · split <;> exact goesOn_next _

theorem execRemoteTimeout_goesOn (id : Nat) : GoesOn (execRemoteTimeout id s) := by
  refine goesOn_ite (goesOn_next _) ?_
  split <;> exact goesOn_next _

theorem execIncarnationNotice_goesOn (e : Envelope) : GoesOn (execIncarnationNotice e s) :=
  goesOn_ite (goesOn_next _) (goesOn_ite (goesOn_next _) (goesOn_ite (goesOn_next _) (goesOn_next _)))

theorem execLendPut_goesOn (e : Envelope) (space ident peer fmt : Nat) (x : LendFrame) :
    GoesOn (execLendPut e space ident peer fmt x s) := by
  refine goesOn_ite (goesOn_next _) ?_
  dsimp only
  split
  · exact goesOn_next _
  · refine goesOn_ite (goesOn_next _) ?_
    split
    · exact goesOn_ite (goesOn_next _) (goesOn_next _)
    · exact goesOn_next _

theorem execLendAck_goesOn (e : Envelope) (space ident : Nat) (l : Option Nat) : GoesOn (execLendAck e space ident l s) := by
  refine goesOn_ite (goesOn_next _) ?_
  split
  case h_3 => split <;> exact goesOn_next _
  all_goals exact goesOn_next _

theorem execLendFree_goesOn (e : Envelope) (space ident : Nat) : GoesOn (execLendFree e space ident s) := by
  refine goesOn_ite (goesOn_next _) ?_
  split
  · exact goesOn_ite (goesOn_next _) (goesOn_next _)
  · exact goesOn_next _

theorem execLendRecall_goesOn (e : Envelope) (ident : Nat) : GoesOn (execLendRecall e ident s) := goesOn_ite (goesOn_next _) (goesOn_next _)

theorem execLendGone_goesOn (e : Envelope) (space : Option Nat) : GoesOn (execLendGone e space s) :=
  goesOn_ite (goesOn_next _) (goesOn_next _)

theorem execLendAckTimeout_goesOn (space ident : Nat) : GoesOn (execLendAckTimeout space ident s) := by
  unfold execLendAckTimeout
  split <;> exact goesOn_next _

theorem execLendingRead_goesOn (e : Envelope) (id space ident off len : Nat) : GoesOn (execLendingRead e id space ident off len s) := by
  refine goesOn_ite (goesOn_next _) (goesOn_ite (goesOn_next _) ?_)
  dsimp only
  split
  · exact goesOn_next _
  · exact goesOn_ite (goesOn_next _) (goesOn_next _)

theorem execMoveHold_goesOn (sid id : Nat) : GoesOn (execMoveHold sid id s) := by
  unfold execMoveHold
  split <;> exact goesOn_next _

theorem execMoveSwitch_goesOn (sid id : Nat) : GoesOn (execMoveSwitch sid id s) := by
  unfold execMoveSwitch
  split
  · exact goesOn_next _
  · split
    · exact goesOn_ite (goesOn_next _) (goesOn_next _)
    · exact goesOn_next _

theorem execAppendWaitResume_goesOn (n : Nat) : GoesOn (execAppendWaitResume n s) := by
  unfold execAppendWaitResume
  split
  · exact goesOn_ite (goesOn_next _) (goesOn_next _)
  · exact goesOn_next _

theorem execKvOpComplete_goesOn (n : Nat) : GoesOn (execKvOpComplete n s) := by
  unfold execKvOpComplete
  split <;> exact goesOn_next _

theorem execFrameClose_goesOn (id : Nat) : GoesOn (execFrameClose id s) := by
  unfold execFrameClose
  split
  · exact goesOn_next _
  · split
    · exact goesOn_next _
    · refine goesOn_ite (goesOn_next _) ?_
      dsimp only
      split <;> exact goesOn_next _

theorem execAttnSlotConsume_goesOn (id : Nat) : GoesOn (execAttnSlotConsume id s) := by
  unfold execAttnSlotConsume
  split
  · exact goesOn_next _
  · dsimp only
    split
    · exact goesOn_ite (goesOn_next _) (goesOn_next _)
    · exact goesOn_next _

end Events

/-! ### Every instruction and event -/

/-- Whatever stands for an instruction or an event answers a next state: by its form, in the order of the chapters. -/
theorem exec_goesOn (i : Instr) (s : State) : GoesOn (exec i s) := by
  unfold exec
  cases i
  case add | sub | mul | mulh | and | or | xor | shl | shr | sar | rotl | min | max => exact alu_goesOn ..
  case clz | ctz | popc => exact alu1_goesOn ..
  case addi | andi | ori | xori | shli | shri | sari => exact aluI_goesOn ..
  case div | divu | rem | remu => exact division_goesOn ..
  case pand | por | pxor | pandc | porc | pnand | pnor | pxnor => exact plog_goesOn ..
  case fadd | fsub | fmul | fmin | fmax => exact falu_goesOn ..
  case vadd | vsub | vmul | vmin | vmax => exact varith_goesOn ..
  case vfma | vfnma | vfmasc => exact vmuladd_goesOn ..
  case vabs | vneg | vnot | vmov => exact vun_goesOn ..
  case vand | vor | vxor | vshl | vshr | vsar | vminu | vmaxu | vadds | vsubs | vmulh => exact vlogic_goesOn ..
  case vsel | vbcast | vli | vperm | vslide | viota => exact vmasked_goesOn ..
  case vaddsc | vmulsc => exact vscalar_goesOn ..
  case vaddi | vshli | vshri | vsari => exact vimm_goesOn ..
  case vexp2 | vlog2 | vrcp | vrsqrt | vsqrt | vtanh | vsigm | vsint | vcost | vexp | verf => exact special_goesOn ..
  case vredsum | vredmax | vredmin => exact reduce_goesOn ..
  case ldb | ldh | ldw | ldd | ldbu | ldhu | ldwu => exact loadMS_goesOn ..
  case stb | sth | stw | std => exact storeMS_goesOn ..
  case ldwf | ldtk => exact feLoad_goesOn ..
  case stwe | stfl => exact feStore_goesOn ..
  case fesetEmpty | fesetFull => exact feSet_goesOn ..
  case ataddW | ataddD | atminW | atminD | atmaxW | atmaxD | atminuW | atminuD | atmaxuW | atmaxuD | atandW | atandD
      | atorW | atorD | atxorW | atxorD | atxchW | atxchD | atcasW | atcasD | atfaddW | atfaddD => exact atomic_goesOn ..
  case bind | unbind => exact bindOp_goesOn ..
  case flush | inval => exact lineOp_goesOn ..
  case kvopen | kvfork | kvrsv | kvwr | kvtrim | kvfree | kvclass | kvpin | kvdemote | kvpromote | kvlend | kvquery =>
    exact kvIssue_goesOn ..
  case tlbinvPage | tlbinvCtx | tlbinvAll => exact tlbinv_goesOn ..
  case nop | sel | li | lsi | cmp | cmpi | ppack | punpack | ffma | fcmp | fcvt | fdiv | fsqrt | fmtset | emsave
      | emload | emcomb | cmsave | cmload | br | call | jmp | callr | ret | enter | leave | dbnz | trap | svc | rte
      | brk | halt | tspawn | texit | knext | etchmark | rdcyc | vcmp | vmovu | vext | vins | vpopc | vfirst | vdstat
      | vdequant | vrng | vargmax | vscan | vsort | vmrg | smerge | mma | mpset | mpget | attn | ldx | stx | vld
      | vst | vlds | vsts | vgath | vscat | feget | acq | rel | fence | tlwait | tlread | tlbump | rld | rst | rldv
      | rstv | hset | hget | blygrant | blystat | pref | wayconv | wayrest | qpush | qpop | qstat | watch | unwatch
      | kvspace => exact slot_goesOn ..
  case ctxCreate | ctxDestroy | keyNew | keyClear | ctxRekey | segLoad | segUnload | dbgNonce | dbgUnlock | dbgLock
      | ctxSetetch => exact State.scCommand_goesOn ..
  case registerWrite | memoryRead | scrubPass | keyRotate | channelRetire | retireStripeRebuild | hbmLinkRetrain
      | poolLinkFail | l2Eviction | wayconvDrainDone | wayrestDone | wsUnseal | wsSeal | wsRefreshPhase | feWaitGrant
      | loadComplete | scalarDivComplete | xResultComplete | vdrainComplete | tlbinvComplete | acqWake
      | acqRemoteNotYet | relPerform | fencePerform | watchdog | xfrespRetry | xfrespFailXlate | xfrespFailProt
      | icacheFill | remoteRequest | laneFail | flitTagFail | linkRekey | fabricEnable | fabricDisable
      | lendingReadReply | frameOpen | streamAssign | attnPageLand | attnComplete | launchAccept | taskStart
      | swapOut | taskRestore | taskEnd | counterTreeFlush | ntfDelayExpire | watchTrigger | mailboxSubmit
      | offPackageLinkKeying | getVersion | getCapabilities | negotiateAlgorithms | getDigests | getCertificate
      | challenge | readLog | reset | fwStage | fwActivate | scCmd | setPowerLimit | hostMemAccess | hostLinkLoss
      | functionLevelReset | moduleReset | bringUp | throttle | overTemperature | criticalTemperature | debuggerHalt
      | debuggerResume | quantumExpire | agePromote | crossClusterEligible | parked256Cycles | t2RangeWithdrawn
      | pageWalk | taskBind | inPackageLinkAuth | getMeasurements | getHealth | t2RangeAssigned => exact goesOn_next _
  case haulComplete => exact execHaulComplete_goesOn ..
  case belayTransferHeld => exact execBelayTransferHeld_goesOn ..
  case mmaComplete => exact execMmaComplete_goesOn ..
  case multicastComplete => exact execMulticastComplete_goesOn ..
  case reductionTimeout => exact execReductionTimeout_goesOn ..
  case lendAckTimeout => exact execLendAckTimeout_goesOn ..
  case frameClose => exact execFrameClose_goesOn ..
  case moveHold => exact execMoveHold_goesOn ..
  case moveSwitch => exact execMoveSwitch_goesOn ..
  case appendWaitResume => exact execAppendWaitResume_goesOn ..
  case kvOpComplete => exact execKvOpComplete_goesOn ..
  case attnSlotConsume => exact execAttnSlotConsume_goesOn ..
  case arbRaise => exact execArbRaise_goesOn ..
  case remoteReply => exact execRemoteReply_goesOn ..
  case storeAck => exact execStoreAck_goesOn ..
  case staleNotice => exact execStaleNotice_goesOn ..
  case remoteTimeout => exact execRemoteTimeout_goesOn ..
  case incarnationNotice => exact execIncarnationNotice_goesOn ..
  case multicastDeliver => exact execMulticastDeliver_goesOn ..
  case reductionContribution => exact execReductionContribution_goesOn ..
  case lendPut => exact execLendPut_goesOn ..
  case lendAck => exact execLendAck_goesOn ..
  case lendFree => exact execLendFree_goesOn ..
  case lendRecall => exact execLendRecall_goesOn ..
  case lendGone => exact execLendGone_goesOn ..
  case lendingRead => exact execLendingRead_goesOn ..
  case readJournal => exact execReadJournal_goesOn ..
  case haulStart => exact execHaulStart_goesOn ..
  case crd => unfold execCrd; exact slot_goesOn ..
  case cwr => unfold execCwr; exact slot_goesOn ..
  case vdefer => unfold execVdefer; exact slot_goesOn ..
  case vdrain => unfold execVdrain; exact slot_goesOn ..
  case vcvt => unfold execVcvt; exact slot_goesOn ..
  case vquant => unfold execVquant; exact slot_goesOn ..
  case hgo => unfold execHgo; exact slot_goesOn ..

/-! ### Steps (06 R134, log 1) -/

theorem runSlots_goesOn (is : List Instr) (k : Nat) (s : State) : GoesOn (runSlots is k s) := by
  induction is generalizing k s with
  | nil => exact goesOn_next s
  | cons i is ih => exact (exec_goesOn i _).andThen fun t => goesOn_ite (goesOn_next t) (ih _ _)

/-- A bundle of several slots is checked, and then takes a trap, waits, or commits (06 R134). -/
theorem runBundle_goesOn (is : List Instr) (s : State) : GoesOn (runBundle is s) := by
  refine (runSlots_goesOn is 0 _).andThen fun c => ?_
  dsimp only
  split
  case h_1 | h_2 => exact goesOn_next _
  case h_3 =>
    refine (runSlots_goesOn is 0 _).andThen fun t => ?_
    split <;> exact goesOn_next _

theorem execBundle_goesOn (is : List Instr) (s : State) : GoesOn (execBundle is s) := by
  unfold execBundle
  split
  · exact exec_goesOn _ s
  · exact runBundle_goesOn _ s

theorem issueBundle_goesOn (s : State) : GoesOn (issueBundle s) := by
  unfold issueBundle
  split
  · exact goesOn_next _
  · refine goesOn_ite (goesOn_next _) ?_
    dsimp only
    split
    · exact goesOn_next _
    · exact execBundle_goesOn ..

/-! ### The machine's own units (log 1) -/

/-- These are all meanings of instructions or events. -/
def AreEvents (es : List Event) : Prop := ∀ e ∈ es, ∃ i : Instr, e = exec i

theorem AreEvents.of_list (is : List Instr) : AreEvents (is.map exec) := fun _ he =>
  (List.mem_map.mp he).imp fun _ h => h.2.symm

theorem AreEvents.append {l m : List Event} (hl : AreEvents l) (hm : AreEvents m) : AreEvents (l ++ m) := fun e he =>
  (List.mem_append.mp he).elim (hl e) (hm e)

theorem AreEvents.flatMap {α : Type} {l : List α} {f : α → List Event} (h : ∀ a, AreEvents (f a)) : AreEvents (l.flatMap f) := by
  intro e he
  obtain ⟨a, -, ha⟩ := List.mem_flatMap.mp he
  exact h a e ha

theorem AreEvents.map {α : Type} {l : List α} {f : α → Event} (h : ∀ a, ∃ i : Instr, f a = exec i) : AreEvents (l.map f) := by
  intro e he
  obtain ⟨a, -, rfl⟩ := List.mem_map.mp he
  exact h a

theorem AreEvents.filterMap {α : Type} {l : List α} {f : α → Option Event} (h : ∀ a e, f a = some e → ∃ i : Instr, e = exec i) :
    AreEvents (l.filterMap f) := by
  intro e he
  obtain ⟨a, -, ha⟩ := List.mem_filterMap.mp he
  exact h a e ha

theorem AreEvents.ite {c : Prop} [Decidable c] {l m : List Event} (hl : AreEvents l) (hm : AreEvents m) :
    AreEvents (if c then l else m) := by
  split
  · exact hl
  · exact hm

theorem Op.event_areEvents (o : Op) : AreEvents o.event := by
  unfold Op.event
  cases o.kind
  case div => exact .of_list [.scalarDivComplete o.id]
  case x => exact .of_list [.xResultComplete o.id]
  case drain => exact .of_list [.vdrainComplete o.id]
  case mma => exact .of_list [.mmaComplete o.id]
  case attn => exact .of_list []
  case kv n => exact .of_list [.kvOpComplete n, .appendWaitResume n]
  case tlbinv => exact .of_list [.tlbinvComplete o.id]
  case acq => exact .of_list [.acqWake o.id, .acqRemoteNotYet (.again o.id)]
  case rel => exact .of_list [.relPerform o.id]
  case fence => exact .of_list [.fencePerform o.id]
  case atomic => exact .of_list [.relPerform o.id, .loadComplete o.id]
  case feRead pa _ => exact .of_list [.feWaitGrant pa, .loadComplete o.id]
  case feWrite pa _ _ => exact .of_list [.feWaitGrant pa, .loadComplete o.id]
  case wayconv => exact .of_list [.wayconvDrainDone o.id]
  case wayrest => exact .of_list [.wayrestDone o.id]
  all_goals exact .of_list [.loadComplete o.id]

theorem State.taskEvents_areEvents (s : State) (t : Task) : AreEvents (s.taskEvents t) := by
  have hbind : AreEvents ((s.bindable t).map execTaskBind) := .map fun k => ⟨.taskBind k, rfl⟩
  have hbark : AreEvents (if t.wdExpired = true then [execWatchdog t.id] else []) :=
    .ite (.of_list [.watchdog t.id]) (.of_list [])
  refine .append (.flatMap Op.event_areEvents) ?_
  cases t.status
  case ready => exact hbind
  case bound => exact .of_list [.taskStart t.id, .taskRestore t.id]
  case running => exact hbark
  case parked => exact hbark.append (.of_list [.swapOut t.id])
  case stopped => exact .of_list [.swapOut t.id]
  case halted => exact .of_list []
  case saved => exact .ite hbind (.of_list [])
  case ending => exact .of_list [.taskEnd t.id]

theorem State.kvEvents_areEvents (s : State) : AreEvents s.kvEvents :=
  .append (.append
    (.flatMap fun x => .of_list [.streamAssign x.id, .frameOpen x.id, .attnPageLand x.id, .attnSlotConsume x.id, .frameClose x.id,
      .attnComplete x.id])
    (.flatMap fun p => .flatMap fun m => .of_list [.moveHold p.id m.ident, .moveSwitch p.id m.ident]))
    (.flatMap fun c => .of_list [.kvOpComplete c.n, .appendWaitResume c.n])

theorem State.haulEvents_areEvents (s : State) : AreEvents s.haulEvents :=
  .append (.flatMap fun h => .of_list [.haulStart h.engine, .haulComplete h.id])
    (.flatMap fun c => .flatMap fun ch => .of_list [.belayTransferHeld c.id ch.n false, .belayTransferHeld c.id ch.n true])

theorem State.launchEvents_areEvents (s : State) : AreEvents s.launchEvents := by
  refine .append (.append (.filterMap fun t e he => ?_) (.ite (.of_list []) (.of_list [.launchAccept])))
    (.flatMap fun x => .append (.map fun e => ⟨.counterTreeFlush x.ctx x.id (sliceDie e.1) (some (e.1 - sliceBase (sliceDie e.1))), rfl⟩)
      (.map fun e => ⟨.counterTreeFlush x.ctx x.id _ none, rfl⟩))
  obtain ⟨w, -, rfl⟩ := Option.map_eq_some_iff.mp he
  split
  · exact ⟨.mailboxSubmit w.id _, rfl⟩
  · exact ⟨.watchTrigger w.id, rfl⟩

theorem State.scEvents_areEvents (s : State) : AreEvents s.scEvents := by
  unfold State.scEvents
  split
  · exact .of_list []
  · split
    · exact .of_list [.ctxCreate]
    · exact .of_list [.ctxDestroy]
    · exact .of_list [.keyNew]
    · exact .of_list [.keyClear]
    · exact .of_list [.ctxRekey]
    · exact .of_list [.segLoad]
    · exact .of_list [.segUnload]
    · exact .of_list [.dbgNonce _]
    · exact .of_list [.dbgUnlock]
    · exact .of_list [.dbgLock]
    · exact .of_list [.arbRaise]
    · exact .of_list [.ctxSetetch]

theorem State.memEvents_areEvents (s : State) : AreEvents s.memEvents := by
  refine .append (.map fun r => ⟨.retireStripeRebuild r.die r.stack, rfl⟩) (.flatMap fun die => .filterMap fun k e he => ?_)
  split at he
  · exact ⟨.scrubPass die k _, (Option.some.inj he).symm⟩
  · exact absurd he (by simp)

theorem State.candidates_areEvents (s : State) : AreEvents s.candidates :=
  ((((AreEvents.flatMap s.taskEvents_areEvents).append s.kvEvents_areEvents |>.append s.haulEvents_areEvents).append
    s.launchEvents_areEvents).append s.scEvents_areEvents).append s.memEvents_areEvents

theorem tryEvents_goesOn {es : List Event} (h : AreEvents es) (s : State) : GoesOn (tryEvents es s) := by
  induction es with
  | nil => exact goesOn_next s
  | cons e es ih =>
    obtain ⟨i, rfl⟩ := h e (List.mem_cons_self ..)
    obtain ⟨t, ht⟩ := exec_goesOn i s
    rw [tryEvents, ht]
    exact goesOn_ite (ih fun e he => h e (List.mem_cons_of_mem _ he)) (goesOn_next t)

/-- A packet of this module for itself does what its event does (03 R62). -/
theorem State.loopEvent_goesOn {s : State} {p : Envelope × Packet} {e : Event} (h : s.loopEvent p = some e) (t : State) :
    GoesOn (e t) := by
  have hme : ∀ {m : Nat} {i : Event}, (if m = s.mid then some i else none) = some e → GoesOn (i t) → GoesOn (e t) := by
    intro m i hi hgo
    obtain ⟨-, hie⟩ := Option.ite_none_right_eq_some.mp hi
    exact Option.some.inj hie ▸ hgo
  unfold State.loopEvent at h
  split at h
  case h_1 q _ => exact hme h (exec_goesOn (.remoteRequest q) t)
  case h_2 r _ => exact hme h (exec_goesOn (.remoteReply r) t)
  case h_3 id st seq _ => exact hme h (exec_goesOn (.storeAck p.1 id st seq) t)
  case h_4 id a b _ => exact hme h (exec_goesOn (.staleNotice id a b) t)
  case h_5 => exact hme h (goesOn_next _)
  case h_6 => cases h

theorem State.loopback_goesOn {s s1 : State} {e : Event} (h : s.loopback = some (e, s1)) (t : State) : GoesOn (e t) := by
  unfold State.loopback at h
  split at h
  · obtain ⟨i, hi, heq⟩ := Option.map_eq_some_iff.mp h
    obtain ⟨rfl, -⟩ := Prod.mk.inj heq
    exact State.loopEvent_goesOn hi t
  · cases h

theorem background_goesOn (s : State) : GoesOn (background s) := by
  unfold background
  split
  case h_1 e s1 h => exact State.loopback_goesOn h s1
  case h_2 => exact tryEvents_goesOn s.candidates_areEvents s

/-! ### One step -/

theorem issueOrWait_goesOn (s : State) : GoesOn (issueOrWait s) :=
  goesOn_ite (goesOn_next _) ((issueBundle_goesOn s).andThen fun t =>
    goesOn_ite (goesOn_next t) ((background_goesOn t.held).andThen fun _ => goesOn_next _))

theorem stepBody_goesOn (s : State) : GoesOn (stepBody s) := by
  unfold stepBody
  split
  · exact exec_goesOn ..
  · split
    · exact goesOn_next _
    · refine goesOn_ite (issueOrWait_goesOn s) ?_
      split
      · exact goesOn_next _
      · exact background_goesOn s

theorem step_goesOn (s : State) : GoesOn (step s) := (stepBody_goesOn s).andThen fun _ => goesOn_next _

theorem safeFor_all (n : Nat) (s : State) : SafeFor n s := by
  induction n generalizing s with
  | zero => trivial
  | succ n ih =>
    obtain ⟨t, ht⟩ := step_goesOn s
    exact ⟨t, ht, ih t⟩

end Sys2Proof.Machine

namespace Sys2Proof.Proofs

open Sys2Proof.Machine

/-- Settles O56: by the form of each instruction and event, and for a run by induction on its steps. -/
theorem everyStepGoesOn : Obligations.EveryStepGoesOn := ⟨exec_goesOn, safeFor_all⟩

end Sys2Proof.Proofs

namespace Sys2Proof.Machine

/-! ### Taking a trap (20 R337, R339) -/

/-- A bundle boundary leaves the results that are held aside. -/
theorem Task.advance_held (t : Task) : t.advance.held = t.held := by
  obtain ⟨r, c, x, p, h⟩ := t.advance_eq
  rw [h]

theorem State.noHandler_eq_true {s : State} (h : s.cur.ctl.intrap = true ∨ s.myCtx.tvec = 0) : s.noHandler = true := by
  rw [State.noHandler, Bool.or_eq_true, beq_iff_eq]
  exact h

/-- The cause word of a trap that is raised at once is its number and its slot (06 R136). -/
theorem Trap.causeWord_now_slot (c : Nat) (e : Word) (k : Nat) : (Trap.now c e).causeWord k = BitVec.ofNat 64 (c + k * 2 ^ 16) := by
  simp [Trap.causeWord, Trap.now]

/-- A plain cause raised by a task that runs enters its handler and keeps it running. -/
theorem State.takeTrap_enters {s : State} (c : Nat) (e : Word) (k : Nat) (h : s.noHandler = false) (hst : s.cur.status = .running) :
    s.takeTrap (.now c e) k =
      s.tookFree.setCur fun t => t.enter (BitVec.ofNat 64 (c + k * 2 ^ 16)) e t.pc none t.pend := by
  rw [State.takeTrap_now _ _ _ h, Trap.causeWord_now_slot]
  exact congrArg (fun st => s.tookFree.setCur fun t =>
    { t.enter (BitVec.ofNat 64 (c + k * 2 ^ 16)) e t.pc none t.pend with status := st }) hst.symm

/-- A plain cause raised in a handler, or without one, is a double fault (20 R339). -/
theorem State.takeTrap_doubleFault {s : State} (c : Nat) (e : Word) (k : Nat) (h : s.noHandler = true) :
    s.takeTrap (.now c e) k = s.tookFree.doubleFault c :=
  if_pos h

end Sys2Proof.Machine

namespace Sys2Proof.Proofs

open Sys2Proof.Machine

/-- Settles O12: a plain cause has nothing to settle, so that it enters the handler, or ends the task where there is none. -/
theorem trapEntry : Obligations.TrapEntry := by
  refine ⟨⟨fun s c e k hin htvec hst => ?_, Task.advance_held⟩, fun s c e k h => ?_⟩
  · exact State.takeTrap_enters c e k (State.noHandler_eq_false hin htvec) hst
  · exact State.takeTrap_doubleFault c e k (State.noHandler_eq_true h)

end Sys2Proof.Proofs

namespace Sys2Proof.Machine

/-! ### Bytes of numbers, and the MSI-X table (24 R370) -/

/-- The bytes of the number that bytes stand for are those bytes. -/
theorem natLe_leNat (bs : List Byte) : natLe bs.length (leNat bs) = bs := by
  induction bs with
  | nil => rfl
  | cons b bs ih =>
    have hhead : BitVec.ofNat 8 (b.toNat + 256 * leNat bs) = b := BitVec.eq_of_toNat_eq (by
      rw [BitVec.toNat_ofNat, Nat.add_mul_mod_self_left, Nat.mod_eq_of_lt b.isLt])
    have htail : (b.toNat + 256 * leNat bs) / 256 = leNat bs := by
      have := b.isLt
      omega
    rw [List.length_cons, natLe, leNat, hhead, htail, ih]

/-- An entry of 16 bytes is read back from the number it stands for. -/
theorem natLe_ofNat_leNat {bs : List Byte} (h : bs.length = 16) : natLe 16 (BitVec.ofNat 128 (leNat bs)).toNat = bs := by
  have hlt : leNat bs < 2 ^ 128 := by
    have := leNat_lt bs
    rwa [h] at this
  rw [BitVec.toNat_ofNat, Nat.mod_eq_of_lt hlt, ← h, natLe_leNat]

/-- Entries of `z` items cut from a list give the list back. -/
theorem flatMap_cuts {α : Type} (z n : Nat) (l : List α) (h : l.length = z * n) :
    ((List.range n).flatMap fun i => (l.drop (z * i)).take z) = l := by
  induction n generalizing l with
  | zero => exact (List.length_eq_zero_iff.mp (by rw [h, Nat.mul_zero])).symm
  | succ n ih =>
    have hrest : (l.drop z).length = z * n := by
      rw [List.length_drop, h, Nat.mul_succ, Nat.add_sub_cancel]
    rw [List.range_succ_eq_map, List.flatMap_cons, List.flatMap_map, Nat.mul_zero, List.drop_zero]
    simp only [Nat.mul_succ, Nat.add_comm _ z, ← List.drop_drop]
    rw [ih _ hrest, List.take_append_drop]

theorem Board.length_msixBytes (b : Board) : b.msixBytes.length = 1024 := by
  rw [Board.msixBytes, List.length_flatMap]
  simp only [length_natLe, List.map_const', List.sum_replicate, Vector.length_toList]
  rfl

/-- The table holds the bytes that were written and, around them, those that it held. -/
theorem Board.msixBytes_putMsix (b : Board) {off : Nat} {bs : List Byte} (h : off + bs.length ≤ 1024) :
    (b.putMsix off bs).msixBytes = b.msixBytes.take off ++ bs ++ b.msixBytes.drop (off + bs.length) := by
  have hlen : (b.msixBytes.take off ++ bs ++ b.msixBytes.drop (off + bs.length)).length = 16 * 64 := by
    rw [List.length_append, List.length_append, List.length_take, List.length_drop, b.length_msixBytes]
    omega
  unfold Board.putMsix Board.msixBytes at *
  generalize (b.msix.toList.flatMap fun e => natLe 16 e.toNat).take off ++ bs ++
    (b.msix.toList.flatMap fun e => natLe 16 e.toNat).drop (off + bs.length) = all at hlen ⊢
  rw [Vector.toList_ofFn]
  calc (List.ofFn fun i : Fin 64 => BitVec.ofNat 128 (leNat ((all.drop (16 * i.val)).take 16))).flatMap fun e => natLe 16 e.toNat
    _ = (List.finRange 64).flatMap fun i => (all.drop (16 * i.val)).take 16 := by
        rw [List.ofFn_eq_map, List.flatMap_map]
        exact List.flatMap_congr fun i _ => natLe_ofNat_leNat (by rw [List.length_take, List.length_drop, hlen]; omega)
    _ = (List.range 64).flatMap fun i => (all.drop (16 * i)).take 16 := by
        rw [← List.map_coe_finRange_eq_range, List.flatMap_map]
    _ = all := flatMap_cuts 16 64 all hlen

theorem Board.read_putMsix (b : Board) {off : Nat} {bs : List Byte} (h : off + bs.length ≤ 1024) :
    ((b.putMsix off bs).msixBytes.drop off).take bs.length = bs := by
  have hoff : (b.msixBytes.take off).length = off := by
    rw [List.length_take, b.length_msixBytes]
    omega
  rw [b.msixBytes_putMsix h, List.append_assoc, List.drop_left' hoff, List.take_left' rfl]

end Sys2Proof.Machine

namespace Sys2Proof.Machine

/-! ### The management port (24 R376, 23 R369) -/

/-- A measurement that is asked for by its number is given alone, signed. -/
theorem getMeasurements_one (s : State) {i : Nat} (h1 : 1 ≤ i) (h5 : i ≤ 5) :
    exec (.getMeasurements i) s =
      .next (s.emit (.measurements [(i, s.measurement i)] (Config.sign 1 (natLe 1 i ++ s.measurement i)))) := by
  have hix : ([1, 2, 3, 4, 5].filter fun j => j == i) = [i] := by
    interval_cases i <;> rfl
  have h255 : i ≠ 255 := by omega
  have hexec : exec (.getMeasurements i) s = execGetMeasurements i s := rfl
  rw [hexec, execGetMeasurements, if_neg h255, hix]
  simp

/-- The machine once the records of the journal have been read at their home. -/
def State.journalTouched (s : State) : State :=
  if s.journalOn then s.outsideTouch (s.jget 0x00 12 36 * 4096) (32 * s.journalSize) else s

/-- The record of the number of slot `i` of the journal, counted from the oldest, if it is not older than `seq` and stands there. -/
def State.journalSlot (s : State) (seq i : Nat) : Option (List Byte) :=
  let n := (s.jget 0x10 0 32 + 2 ^ 32 - (s.journalSize - 1 - i)) % 2 ^ 32
  if 2 ^ 31 ≤ (n + 2 ^ 32 - seq) % 2 ^ 32 then none
  else (s.journalTouched.outsideBytes (s.jget 0x00 12 36 * 4096 + 32 * ((n + 2 ^ 32 - 1) % 2 ^ 32 % s.journalSize)) 32).filter fun b =>
    field b 24 4 == n && (field b 21 1 == 1 || field b 21 1 == 2)

theorem readJournal_powered {s : State} (n : Nat) (h : s.board.mainRail = true) :
    exec (.readJournal n) s = .next (s.journalTouched.emit
      (.journal (if s.journalOn then (List.range s.journalSize).filterMap (s.journalSlot n) else []))) := by
  have hexec : exec (.readJournal n) s = execReadJournal n s := rfl
  rw [hexec, execReadJournal, h]
  rfl

theorem readJournal_off {s : State} (n : Nat) (h : s.board.mainRail = false) : exec (.readJournal n) s = .next (s.emit .notPowered) := by
  have hexec : exec (.readJournal n) s = execReadJournal n s := rfl
  rw [hexec, execReadJournal, h]
  rfl

theorem State.outsideBytes_length {s : State} {pa n : Nat} {b : List Byte} (h : s.outsideBytes pa n = some b) : b.length = n := by
  obtain ⟨-, hb⟩ := Option.ite_none_left_eq_some.mp h
  rw [← Option.some.inj hb, State.length_bytes]

/-- What a slot of the journal gives is a record, ACCEPT or DONE, of a number from `seq` on. -/
theorem State.journalSlot_record {s : State} {seq i : Nat} {b : List Byte} (h : s.journalSlot seq i = some b) :
    b.length = 32 ∧ (field b 21 1 = 1 ∨ field b 21 1 = 2) ∧ (field b 24 4 + 2 ^ 32 - seq) % 2 ^ 32 < 2 ^ 31 := by
  obtain ⟨hnew, hb⟩ := Option.ite_none_left_eq_some.mp h
  obtain ⟨hread, hok⟩ := Option.filter_eq_some_iff.mp hb
  simp only [Bool.and_eq_true, Bool.or_eq_true, beq_iff_eq] at hok
  obtain ⟨hseq, hkind⟩ := hok
  exact ⟨State.outsideBytes_length hread, hkind, by rw [hseq]; exact Nat.lt_of_not_le hnew⟩

theorem scCmd_queued {s : State} {block : List Byte} (hlen : block.length = 64) (hroom : s.sec.queue.length < 16)
    (hrail : s.board.mainRail = true) :
    exec (.scCmd block) s = .next { s with sec := { s.sec with queue := s.sec.queue ++ [.port block] } } := by
  have hexec : exec (.scCmd block) s = execScCmd block s := rfl
  rw [hexec, execScCmd, hrail, if_neg (by simp), if_pos ⟨hlen, hroom⟩, State.scEnqueue, if_neg (Nat.not_le.mpr hroom)]

theorem setPowerLimit_admitted (s : State) {w : Nat} (hlow : 1000 ≤ w) (hhigh : w ≤ 3800) :
    exec (.setPowerLimit w) s = .next ((s.updBoard fun b => { b with powerLimit := w }).emit (.done true)) :=
  congrArg Host.Outcome.next (if_pos ⟨hlow, hhigh⟩)

/-! ### The host port (24 R370, R374) -/

theorem hostMemAccess_mem {s : State} (pa len : Nat) (w : Option (List Byte)) (h : s.board.hostUp = true) :
    exec (.hostMemAccess (.mem pa) len w) s = .next (s.hostMem pa len w) :=
  congrArg Host.Outcome.next (if_neg (by simp [h]))

theorem State.hostMem_control_write {s : State} {pa die off : Nat} (h : s.place pa = .control die off) (ha : pa % 8 = 0)
    {bs : List Byte} (hb : bs.length = 8) (len : Nat) :
    s.hostMem pa len (some bs) = (s.regWrite pa (BitVec.ofNat 64 (leNat bs))).emit .hostWritten := by
  simp [State.hostMem, h, ha, hb]

theorem State.hostMem_control_read {s : State} {pa die off : Nat} (h : s.place pa = .control die off) (ha : pa % 8 = 0) :
    s.hostMem pa 8 none = s.emit (.hostRead (natLe 8 (s.regRead pa).toNat) false) := by
  simp [State.hostMem, h, ha]

section Node
variable {s : State} {pa len n : Nat} (hp : s.place pa = .node n) (hlen : 0 < len) (hin : s.inTables pa len = true)
include hp hlen hin

theorem State.hostMem_node_write {bs : List Byte} (hb : bs.length = len) :
    s.hostMem pa len (some bs) = (s.outsideWrite pa (bs.map some)).emit .hostWritten := by
  simp [State.hostMem, hp, hb, hin, hlen.ne']

/-- A read within a sector takes one free value and gives what the sector answers. -/
theorem State.hostMem_node_read (hcut : len ≤ 64 - pa % 64) :
    let u := s.outsideTouch pa len
    s.hostMem pa len none = { u with free := u.free + 1 }.emit (.hostRead (u.hostBytes 0 pa len).1 (u.hostBytes 0 pa len).2) := by
  have hcuts : sectorCuts (len / 64 + 2) pa len = [(pa, len)] := by
    rw [sectorCuts, if_neg hlen.ne', Nat.min_eq_left hcut, Nat.sub_self, sectorCuts, if_pos rfl]
  simp [State.hostMem, hp, hin, hlen.ne', hcuts]

end Node

theorem State.hostBytes_refused {s : State} {pa : Nat} (k n : Nat) (h : s.refused 0 pa = true) :
    s.hostBytes k pa n = (List.replicate n 0xFF, false) := if_pos h

theorem State.hostBytes_good {s : State} {pa n : Nat} (k : Nat) (h : s.refused 0 pa = false) (hgood : s.anyPoison pa n = false) :
    s.hostBytes k pa n = (s.bytes pa n, false) := by
  rw [State.hostBytes, h, hgood]
  rfl

theorem State.hostBytes_bad {s : State} {pa n : Nat} (k : Nat) (h : s.refused 0 pa = false) (hbad : s.anyPoison pa n = true) :
    s.hostBytes k pa n = (natLe n (Config.freeBits (s.free + k) (8 * n)).toNat, true) := by
  rw [State.hostBytes, h, hbad]
  rfl

theorem Board.putMsix_hostUp (b : Board) (off : Nat) (bs : List Byte) : (b.putMsix off bs).hostUp = b.hostUp := by
  rw [Board.putMsix]

theorem hostMemAccess_msix_write {s : State} {off : Nat} (len : Nat) {bs : List Byte} (hup : s.board.hostUp = true)
    (hfit : off + bs.length ≤ 1024) :
    exec (.hostMemAccess (.msix off) len (some bs)) s = .next ((s.updBoard fun b => b.putMsix off bs).emit .hostWritten) := by
  have hexec : exec (.hostMemAccess (.msix off) len (some bs)) s = execHostMemAccess (.msix off) len (some bs) s := rfl
  rw [hexec, execHostMemAccess, if_neg (by simp [hup]), if_pos hfit]

theorem hostMemAccess_msix_read {s : State} {off len : Nat} (hup : s.board.hostUp = true) (hfit : off + len ≤ 1024) :
    exec (.hostMemAccess (.msix off) len none) s = .next (s.emit (.hostRead ((s.board.msixBytes.drop off).take len) false)) := by
  have hexec : exec (.hostMemAccess (.msix off) len none) s = execHostMemAccess (.msix off) len none s := rfl
  rw [hexec, execHostMemAccess, if_neg (by simp [hup]), if_pos hfit]

theorem hostMemAccess_config_read {s : State} (off len : Nat) (hup : s.board.hostUp = true) :
    exec (.hostMemAccess (.config off) len none) s =
      .next (s.tookFree.emit (.hostRead (natLe len (s.freeVal (8 * len)).toNat) false)) :=
  congrArg Host.Outcome.next (if_neg (by simp [hup]))

end Sys2Proof.Machine

namespace Sys2Proof.Machine

/-! ### Resets, bring-up and thermal limits (24 R375, R377, R379) -/

/-- The mailbox submissions that meet a reset leave work at the homes and in the L1s (24 R375, 15 R301). -/
theorem State.goneMailboxes_homeAndL1Only (s : State) : s.HomeAndL1Only s.goneMailboxes := by
  refine State.HomeAndL1Only.foldl _ (.refl s) fun t x => ?_
  split
  case h_1 =>
    dsimp only
    split
    · exact .refl t
    · split
      · split
        · exact t.homeWrite_homeAndL1Only ..
        · exact .refl t
      · exact .refl t
      · exact (t.walkCharge_homeOnly ..).andL1
  case h_2 => exact .refl t

/-- What a reset leaves in memory: the submissions answered, and what the slices hold dirty written (log 16). -/
def State.writtenOut (s : State) : State :=
  s.goneMailboxes.l2.foldl (fun s l => l.dirtyOnes.foldl (fun s e =>
    s.writeSector (256 * l.line + 64 * e.1) e.2.1 e.2.2 false) s) s.goneMailboxes

theorem State.writtenOut_homeAndL1Only (s : State) : s.HomeAndL1Only s.writtenOut :=
  State.HomeAndL1Only.foldl _ s.goneMailboxes_homeAndL1Only fun t _ =>
    State.HomeAndL1Only.foldl _ (.refl t) fun t _ => (t.writeSector_homeOnly ..).andL1

theorem State.HomeAndL1Only.mcr {s t : State} (h : s.HomeAndL1Only t) : t.mcr = s.mcr := (congrArg State.mcr h).trans rfl

theorem State.HomeAndL1Only.incarnation {s t : State} (h : s.HomeAndL1Only t) : t.incarnation = s.incarnation := by
  rw [State.incarnation, State.mcrGet, h.mcr, State.incarnation, State.mcrGet]

/-- The register FXID that holds an incarnation alone names it (03 R66). -/
theorem State.incarnation_of_mcr {s : State} {t : Tbl Word} {n : Nat} (h : s.mcr = Tbl.put 0 t fxid (BitVec.ofNat 64 (n * 2 ^ 24))) :
    s.incarnation = n % 2 ^ 16 := by
  have hreset : mcrReset fxid = 0 := by decide
  rw [State.incarnation, State.mcrGet, h, hreset, Tbl.get_put_same, extractLsb'_ofNat_mul_two_pow (by omega), BitVec.toNat_ofNat]

/-- The incarnation rises at a module reset (24 R375). -/
theorem State.moduleReset_incarnation (s : State) : s.moduleReset.incarnation = (s.incarnation + 1) % 2 ^ 16 := by
  have hmcr : s.moduleReset.mcr = Tbl.put 0 (s.writtenOut.mcr.filter fun e => isKeptReg e.1) fxid
      (BitVec.ofNat 64 ((s.writtenOut.incarnation + 1) % 2 ^ 16 * 2 ^ 24)) := rfl
  rw [State.incarnation_of_mcr hmcr, s.writtenOut_homeAndL1Only.incarnation, Nat.mod_mod]

theorem State.moduleReset_criticals (s : State) : s.moduleReset.board.criticals = s.board.criticals :=
  (rfl : _ = s.writtenOut.board.criticals).trans (congrArg Board.criticals s.writtenOut_homeAndL1Only.board)

theorem moduleReset_powered {s : State} (h : s.board.mainRail = true) : exec .moduleReset s = .next s.moduleReset :=
  congrArg Host.Outcome.next (if_pos h)

theorem reset_powered {s : State} (power : Bool) (h : s.board.mainRail = true) :
    exec (.reset power) s = .next ((if power then s.powerOff else s.moduleReset).emit (.done true)) :=
  congrArg (fun t : State => Host.Outcome.next (t.emit (.done true))) (if_neg (by simp [h]))

theorem criticalTemperature_powered {s : State} (h : s.board.mainRail = true) :
    exec .criticalTemperature s = .next (s.moduleReset.updBoard fun b => { b with criticals := b.criticals + 1 }) :=
  congrArg Host.Outcome.next (if_pos h)

/-- The machine that bring-up leaves when every step passes (24 R377). -/
def State.broughtUp (s : State) (failed : List Nat) : State :=
  let up := (s.powerUp failed).linksTrained
  { up with
    mcr := linksUp.foldl (fun m e => Tbl.put 0 m e.1 e.2) up.mcr
    cores := repaired up.board.repair
    ctxs := [Ctx.supervisor]
    board := { up.board with svcStop := false, hostUp := true, poolUp := true, sent := up.board.sent ++ [.ready] } }

/-- Key slot 0 is assigned when the module is brought up, and stays so in the steps that follow (24 R377). -/
theorem State.key_zero_of_powerUp {s t : State} {failed : List Nat} (h : t.sec = (s.powerUp failed).sec) :
    (t.key 0).assigned = true := by
  rw [State.key, h, State.powerUp, Tbl.get_put_same]

section BringUp
variable {s : State} (failed : List Nat) (h : s.board.mainRail = false ∨ s.board.svcStop = true ∨ s.board.bringing = true)
include h

theorem bringUp_runs (linksOk stacksOk : Bool) : exec (.bringUp linksOk stacksOk failed) s = .next
    (if linksOk then if stacksOk then s.broughtUp failed else (s.powerUp failed).linksTrained else s.powerUp failed) := by
  have hrun : (s.board.mainRail && !s.board.svcStop && !s.board.bringing) = false := by
    rcases h with h | h | h <;> simp [h]
  have hexec : exec (.bringUp linksOk stacksOk failed) s = execBringUp linksOk stacksOk failed s := rfl
  rw [hexec, execBringUp, hrun, State.broughtUp]
  cases linksOk <;> cases stacksOk <;> simp only [Bool.not_false, Bool.not_true, Bool.false_eq_true, if_false, if_true]

theorem bringUp_passes : exec (.bringUp true true failed) s = .next (s.broughtUp failed) := by
  rw [bringUp_runs failed h, if_pos rfl, if_pos rfl]

/-- A bring-up that fails stays where it has come to, in the service-required state. -/
theorem bringUp_stops {linksOk stacksOk : Bool} (hfail : (linksOk && stacksOk) = false) :
    ∃ t, exec (.bringUp linksOk stacksOk failed) s = .next t ∧ t.board.mainRail = true ∧ t.board.svcStop = true ∧
      t.board.hostUp = false ∧ (t.key 0).assigned = true := by
  cases linksOk with
  | false => exact ⟨s.powerUp failed, by rw [bringUp_runs failed h, if_neg Bool.false_ne_true], rfl, rfl, rfl,
      State.key_zero_of_powerUp (failed := failed) rfl⟩
  | true =>
    have hstacks : stacksOk = false := hfail
    subst hstacks
    exact ⟨(s.powerUp failed).linksTrained, by rw [bringUp_runs failed h, if_pos rfl, if_neg Bool.false_ne_true],
      rfl, rfl, rfl, State.key_zero_of_powerUp (failed := failed) rfl⟩

end BringUp

theorem throttle_steps (s : State) (die : Fin 6) :
    exec (.throttle die.val) s = .next (s.updBoard fun b => { b with clock := b.clock.set die (max 16 (b.clock[die] - 1)) }) :=
  congrArg Host.Outcome.next (dif_pos die.isLt)

/-- A function-level reset clears the notification registers and keeps the contexts (24 R374). -/
theorem functionLevelReset_clears (s : State) : ∃ t, exec .functionLevelReset s = .next t ∧ t.mcrGet (jreg 0x60) = 0 ∧
    t.mcrGet (jreg 0x50) = 0 ∧ t.ctxs = s.ctxs ∧ t.cur = s.cur ∧ t.mem = s.mem := by
  have hne : jreg 0x60 ≠ jreg 0x50 := by
    unfold jreg
    omega
  have hntfc : ((s.mcrPut (jreg 0x60) 0).mcrPut (jreg 0x50) 0).mcrGet (jreg 0x60) = 0 := by
    rw [State.mcrGet_mcrPut, if_neg hne, State.mcrGet_mcrPut, if_pos rfl]
  have hntfh : ((s.mcrPut (jreg 0x60) 0).mcrPut (jreg 0x50) 0).mcrGet (jreg 0x50) = 0 := by
    rw [State.mcrGet_mcrPut, if_pos rfl]
  exact ⟨_, rfl, hntfc, hntfh, rfl, rfl, rfl⟩

end Sys2Proof.Machine

namespace Sys2Proof.Proofs

open Sys2Proof.Machine

/-- Settles O50, clause by clause from what each request, access, reset and limit does. -/
theorem boardEvents : Obligations.BoardEvents := by
  unfold Obligations.BoardEvents
  refine ⟨⟨?questions, ?certificates, ?measurements, ?health, ?journal, ?firmware, ?command, ?power⟩,
    ?registers, ?memory, ?msix, ?linkLoss, ?functionReset, ?resets, ?bringUp, ?limits⟩
  case questions => exact fun s => ⟨rfl, rfl, rfl, rfl, rfl⟩
  case certificates => exact fun s off len nonce => ⟨rfl, rfl⟩
  case measurements => exact fun s i h1 h5 => ⟨_, getMeasurements_one s h1 h5⟩
  case health => exact fun s => ⟨_, _, rfl⟩
  case journal =>
    refine fun s n => ⟨readJournal_off n, fun hrail => ⟨_, _,
      readJournal_powered n hrail, fun hoff => by rw [hoff]; rfl, fun b hb => ?_⟩⟩
    split at hb
    · obtain ⟨i, -, hi⟩ := List.mem_filterMap.mp hb
      exact State.journalSlot_record hi
    · cases hb
  case firmware => exact fun s v image => ⟨_, _, rfl, rfl, rfl, rfl, rfl⟩
  case command => exact fun s block hlen hroom hrail => ⟨_, scCmd_queued hlen hroom hrail, rfl⟩
  case power => exact fun s w hlow hhigh => setPowerLimit_admitted s hlow hhigh
  case registers =>
    intro s pa die off hup hp ha
    refine ⟨fun bs hb => ?_, ?_⟩
    · rw [hostMemAccess_mem _ _ _ hup, State.hostMem_control_write hp ha hb]
    · rw [hostMemAccess_mem _ _ _ hup, State.hostMem_control_read hp ha]
  case memory =>
    intro s pa len n hup hp hlen hin
    refine ⟨fun bs hb => ?_, fun hcut => ?_⟩
    · rw [hostMemAccess_mem _ _ _ hup, State.hostMem_node_write hp hlen hin hb]
    · intro u answers
      have hread : answers (u.hostBytes 0 pa len).1 (u.hostBytes 0 pa len).2 :=
        (hostMemAccess_mem _ _ _ hup).trans (congrArg Host.Outcome.next (State.hostMem_node_read hp hlen hin hcut))
      refine ⟨fun href => ?_, fun href hgood => ?_, fun href hbad => ?_⟩
      · rwa [State.hostBytes_refused _ _ href] at hread
      · rwa [State.hostBytes_good _ href hgood] at hread
      · rw [State.hostBytes_bad _ href hbad] at hread
        exact ⟨_, length_natLe .., hread⟩
  case msix =>
    intro s off len bs hup hfit
    have hread := hostMemAccess_msix_read (s := s.updBoard fun b => b.putMsix off bs) (len := bs.length)
      ((s.board.putMsix_hostUp off bs).trans hup) hfit
    exact ⟨⟨_, hostMemAccess_msix_write len hup hfit, State.updBoard_mem .., State.updBoard_cur ..,
      hread.trans (by rw [State.updBoard_board, s.board.read_putMsix hfit])⟩,
      _, length_natLe .., hostMemAccess_config_read off len hup⟩
  case linkLoss => exact fun s => ⟨_, rfl, rfl, rfl, rfl⟩
  case functionReset => exact functionLevelReset_clears
  case resets =>
    intro s hrail
    exact ⟨moduleReset_powered hrail, reset_powered false hrail, reset_powered true hrail,
      ⟨s.moduleReset_incarnation, rfl, rfl, rfl, rfl, rfl, rfl, rfl, rfl, rfl⟩,
      _, criticalTemperature_powered hrail, congrArg (· + 1) s.moduleReset_criticals, s.moduleReset_incarnation⟩
  case bringUp =>
    intro s failed hdown
    refine ⟨⟨_, bringUp_passes failed hdown, rfl, rfl, rfl, rfl, rfl, rfl, State.key_zero_of_powerUp (failed := failed) rfl⟩,
      fun _ _ hfail => bringUp_stops failed hdown hfail⟩
  case limits =>
    intro s die
    refine ⟨⟨_, throttle_steps s die, ?_, fun d hd => ?_⟩, _, rfl, fun d => ?_⟩
    · exact Vector.getElem_set_self ..
    · exact Vector.getElem_set_ne die.isLt d.isLt (Fin.val_ne_of_ne hd.symm)
    · exact Vector.getElem_replicate ..

end Sys2Proof.Proofs

namespace Sys2Proof.Machine

open Sys2Proof.Claims

/-! ### The security controller (23 R358, R359) -/

theorem exec_ctxCreate (s : State) : exec .ctxCreate s = execCtxCreate s := rfl
theorem exec_ctxDestroy (s : State) : exec .ctxDestroy s = execCtxDestroy s := rfl
theorem exec_keyNew (s : State) : exec .keyNew s = execKeyNew s := rfl
theorem exec_keyClear (s : State) : exec .keyClear s = execKeyClear s := rfl
theorem exec_ctxRekey (s : State) : exec .ctxRekey s = execCtxRekey s := rfl
theorem exec_segLoad (s : State) : exec .segLoad s = execSegLoad s := rfl
theorem exec_segUnload (s : State) : exec .segUnload s = execSegUnload s := rfl
theorem exec_dbgNonce (nonce : Word) (s : State) : exec (.dbgNonce nonce) s = execDbgNonce nonce s := rfl
theorem exec_dbgUnlock (s : State) : exec .dbgUnlock s = execDbgUnlock s := rfl
theorem exec_dbgLock (s : State) : exec .dbgLock s = execDbgLock s := rfl
theorem exec_arbRaise (s : State) : exec .arbRaise s = execArbRaise s := rfl
theorem exec_ctxSetetch (s : State) : exec .ctxSetetch s = execCtxSetetch s := rfl

/-- The end of a command that has been performed: with OK and its RESULT, or with the status of a refusal, whose RESULT is free
(log 27). -/
def State.scAnswer (s : State) (e : ScEntry) : ScRes → State
  | .ok r => r.1.scEnd e scOk r.2
  | .error st => s.tookFree.scEnd e st (s.freeVal 64)

section Command
variable {s : State} {op : Nat} {e : ScEntry} {b : List Byte} {f : State → List Byte → ScRes}
  {reads : State → List Byte → State} (h : atHead s op e b)
include h

/-- The command at the head of the queue is performed once what it reads has been read. -/
theorem State.scCommand_performed :
    s.scCommand op f reads = .next ((reads (s.scTouch e) b).scAnswer e (f (reads (s.scTouch e) b) b)) := by
  obtain ⟨hhead, hbytes, hformed, hop⟩ := h
  obtain ⟨es, hqueue⟩ := List.head?_eq_some_iff.mp hhead
  cases hf : f (reads (s.scTouch e) b) b <;>
    simp only [State.scCommand, hqueue, hbytes, hformed, hop, hf, State.scAnswer, Bool.not_true, Bool.false_eq_true, if_false, ne_eq,
      not_true_eq_false]

theorem State.scCommand_ok {t : State} {r : Word} (hf : f (reads (s.scTouch e) b) b = .ok (t, r)) :
    s.scCommand op f reads = .next (t.scEnd e scOk r) := by
  rw [State.scCommand_performed h, hf, State.scAnswer]

theorem State.scCommand_refused {st : Nat} (hf : f (reads (s.scTouch e) b) b = .error st) :
    s.scCommand op f reads = .next ((reads (s.scTouch e) b).tookFree.scEnd e st ((reads (s.scTouch e) b).freeVal 64)) := by
  rw [State.scCommand_performed h, hf, State.scAnswer]

end Command

/-! ### Contexts and keys (23 R360 to R362) -/

section Keys
variable {s : State} {e : ScEntry} {b : List Byte}

theorem ctxCreate_creates {c : Ctx} (h : atHead s 1 e b)
    (hdesc : ((s.scTouch e).descTouch (scArg b 0)).readDesc (scArg b 0) = some c)
    (hnew : ((s.scTouch e).descTouch (scArg b 0)).ctxOf c.id = none)
    (hkey : (((s.scTouch e).descTouch (scArg b 0)).key c.keyslot).assigned = true)
    (howner : (((s.scTouch e).descTouch (scArg b 0)).key c.keyslot).owner = c.id) :
    let w := (s.scTouch e).descTouch (scArg b 0)
    exec .ctxCreate s = .next (((({ w with
      ctxs := w.ctxs ++ [c]
      fabric := { w.fabric with gone := w.fabric.gone.filter fun f => f != c.fctx } } : State).putFlags c).scLog c []).scEnd e
        scOk (BitVec.ofNat 64 c.id)) := by
  rw [exec_ctxCreate, execCtxCreate]
  exact State.scCommand_ok h (by simp [hdesc, hnew, hkey, howner])

theorem ctxDestroy_destroys (h : atHead s 2 e b) (hne : scArg b 0 ≠ 0) (hlive : ((s.scTouch e).ctxOf (scArg b 0)).isSome = true) :
    exec .ctxDestroy s = .next (((s.scTouch e).tearDown (scArg b 0)).scEnd e scOk 0) := by
  rw [exec_ctxDestroy, execCtxDestroy]
  exact State.scCommand_ok h (if_neg (by simp [hne, Option.isNone_eq_false_iff.mpr hlive]))

section New
variable (h : atHead s 3 e b) (hlow : 1 ≤ scArg b 0) (hhigh : scArg b 0 ≤ 254) (howner : scArg b 1 ≤ 255)
include h hlow hhigh howner

theorem keyNew_assigns (hfree : ((s.scTouch e).key (scArg b 0)).assigned = false) :
    let u := s.scTouch e
    exec .keyNew s = .next (((u.putKey (scArg b 0) ⟨true, scArg b 1, (u.key (scArg b 0)).ver + 1, u.free + 2⟩).tookFree).scEnd e scOk
      (((u.key (scArg b 0)).ver + 1).setWidth 64)) := by
  have hargs : ¬ (scArg b 0 < 1 ∨ 254 < scArg b 0 ∨ 255 < scArg b 1) := by omega
  rw [exec_keyNew, execKeyNew]
  exact State.scCommand_ok h ((if_neg hargs).trans (if_neg (by simp [hfree])))

theorem keyNew_busy (hused : ((s.scTouch e).key (scArg b 0)).assigned = true) :
    exec .keyNew s = .next ((s.scTouch e).tookFree.scEnd e scBusy ((s.scTouch e).freeVal 64)) := by
  have hargs : ¬ (scArg b 0 < 1 ∨ 254 < scArg b 0 ∨ 255 < scArg b 1) := by omega
  rw [exec_keyNew, execKeyNew]
  exact State.scCommand_refused h ((if_neg hargs).trans (if_pos hused))

end New

/-- A key slot that no context and no rotation uses, and that no protected context owns, is cleared (23 R360). -/
theorem keyClear_clears (h : atHead s 4 e b) (hhigh : scArg b 0 ≤ 254) (hfree : ∀ c ∈ (s.scTouch e).ctxs, c.keyslot ≠ scArg b 0)
    (hrot : (s.scTouch e).rotates (scArg b 0) = false)
    (hprot : ((s.scTouch e).key (scArg b 0)).assigned = true →
      ∀ c ∈ (s.scTouch e).ctxs, c.id = ((s.scTouch e).key (scArg b 0)).owner → c.prot = false) :
    let u := s.scTouch e
    exec .keyClear s = .next ((u.putKey (scArg b 0) { u.key (scArg b 0) with assigned := false, key := 0 }).scEnd e scOk 0) := by
  have hkey : ((s.scTouch e).ctxs.any fun c => c.keyslot == scArg b 0) = false :=
    List.any_eq_false.mpr fun c hc => by simpa using hfree c hc
  have hown : ((s.scTouch e).ctxs.any fun c => ((s.scTouch e).key (scArg b 0)).assigned &&
      c.id == ((s.scTouch e).key (scArg b 0)).owner && c.prot) = false :=
    List.any_eq_false.mpr fun c hc => by simpa using fun ha hid => hprot ha c hc hid
  rw [exec_keyClear, execKeyClear]
  exact State.scCommand_ok h ((if_neg (Nat.not_lt.mpr hhigh)).trans (if_neg (by simp [hkey, hrot, hown])))

theorem ctxRekey_rekeys (h : atHead s 5 e b) (hlive : ((s.scTouch e).ctxOf (scArg b 0)).isSome = true) (hhigh : scArg b 1 ≤ 254)
    (hkey : ((s.scTouch e).key (scArg b 1)).assigned = true) (howner : ((s.scTouch e).key (scArg b 1)).owner = scArg b 0) :
    exec .ctxRekey s = .next (((s.scTouch e).updCtx (scArg b 0) fun c => { c with keyslot := scArg b 1 }).scEnd e scOk 0) := by
  rw [exec_ctxRekey, execCtxRekey]
  exact State.scCommand_ok h (if_neg (by
    simp [Option.isNone_eq_false_iff.mpr hlive, Nat.not_lt.mpr hhigh, hkey, howner]))

end Keys

end Sys2Proof.Machine

namespace Sys2Proof.Machine

open Sys2Proof.Claims

/-! ### Program segments (23 R364, R365) -/

/-- The writes of a unit work at the home slices and in the L1s alone (23 R363). -/
theorem State.unitWrite_homeAndL1Only (s : State) (a : Agent) (pa : Nat) (bs : List (Option Byte)) :
    s.HomeAndL1Only (s.unitWrite a pa bs) := by
  refine State.HomeAndL1Only.foldl _ (.refl s) fun t p => ?_
  split
  · exact .refl t
  · exact t.homeWrite_homeAndL1Only ..

theorem State.HomeAndL1Only.icache {s t : State} (h : s.HomeAndL1Only t) : t.icache = s.icache := (congrArg State.icache h).trans rfl

theorem State.HomeAndL1Only.ctxOf {s t : State} (h : s.HomeAndL1Only t) (id : Nat) : t.ctxOf id = s.ctxOf id :=
  congrArg (List.find? fun c : Ctx => c.id == id) ((congrArg State.ctxs h).trans rfl)

section Load
variable {w : State} {b : List Byte} {c : Ctx} {h : SegHead} (hctx : w.ctxOf (scArg b 0 % 2 ^ 16) = some c)
  (hid : scArg b 0 < 2 ^ 48) (howner : scArg b 2 < 4) (hhead : w.readHead c.id (scArg b 1) (scArg b 0 / 2 ^ 16) = some h)
include hctx hid howner hhead

/-- An unsigned segment of a protected context is refused before anything else of it is looked at. -/
theorem State.segCheck_denied (hsigned : h.signed = false) (hprot : c.prot = true) : w.segCheck b = .error scDenied := by
  have hargs : ¬ (2 ^ 48 ≤ scArg b 0 ∨ 4 ≤ scArg b 2) := by omega
  simp only [State.segCheck, hctx, if_neg hargs, hhead, hsigned, hprot, Bool.not_false, Bool.and_self, if_true]

/-- A segment passes that is signed by the owner of its key, or is not signed and of an unprotected context. -/
theorem State.segCheck_ok (hprot : h.signed = true ∨ c.prot = false)
    (hsig : h.signed = false ∨
      (Sha.sha256 h.key = w.sec.ownerKeys.toList.getD (scArg b 2) [] ∧ Config.signatureOk h.msg h.key h.sig = true)) :
    w.segCheck b = .ok (c, h) := by
  have hargs : ¬ (2 ^ 48 ≤ scArg b 0 ∨ 4 ≤ scArg b 2) := by omega
  simp only [State.segCheck, hctx, if_neg hargs, hhead]
  cases hs : h.signed with
  | false =>
    have hopen : c.prot = false := hprot.resolve_left (by simp [hs])
    simp [hopen]
  | true =>
    obtain ⟨hkey, hok⟩ := hsig.resolve_left (by simp [hs])
    simp [hkey, hok]

end Load

theorem segLoad_denied {s : State} {e : ScEntry} {b : List Byte} (h : atHead s 6 e b)
    (hcheck : ((s.scTouch e).segTouch b).segCheck b = .error scDenied) :
    let w := (s.scTouch e).segTouch b
    exec .segLoad s = .next (w.tookFree.scEnd e scDenied (w.freeVal 64)) := by
  rw [exec_segLoad, execSegLoad]
  exact State.scCommand_refused h (by simp only [hcheck])

/-- A segment that passes the checks, whose code is whole and new, and for which there is room, is loaded (23 R364). -/
theorem segLoad_loads {s : State} {e : ScEntry} {b code : List Byte} {c : Ctx} {x : SegHead} (h : atHead s 6 e b)
    (hcheck : ((s.scTouch e).segTouch b).segCheck b = .ok (c, x))
    (hcode : ((s.scTouch e).segTouch b).ctxBytes c.id 1026 x.base x.len = some (code, false)) (hhash : Sha.sha256 code = x.hash)
    (hnew : ∀ g ∈ c.segs, g.id ≠ scArg b 0 / 2 ^ 16) (hroom : c.segs.length < 64) :
    let w := (s.scTouch e).segTouch b
    exec .segLoad s = .next ((w.addSeg c x code).scEnd e scOk (BitVec.ofNat 64 ((w.sec.loadNo + 1) % 2 ^ 32))) := by
  have hused : (c.segs.any fun g => g.id == scArg b 0 / 2 ^ 16) = false :=
    List.any_eq_false.mpr fun g hg => by simpa using hnew g hg
  rw [exec_segLoad, execSegLoad]
  exact State.scCommand_ok h (by
    simp only [hcheck, hcode, hhash, hused, bne_self_eq_false, Bool.or_self, Bool.false_eq_true, if_false, if_neg (Nat.not_le.mpr hroom)])

/-- A segment that no live set uses is unloaded, and its blocks leave the instruction caches (23 R365). -/
theorem segUnload_unloads {s : State} {e : ScEntry} {b : List Byte} {c : Ctx} {g : Seg} (h : atHead s 7 e b)
    (hctx : (s.scTouch e).ctxOf (scArg b 0 % 2 ^ 16) = some c)
    (hseg : (c.segs.find? fun g => g.id == scArg b 0 / 2 ^ 16) = some g)
    (hidle : ∀ x ∈ (s.scTouch e).sets, x.ctx = c.id → x.seg ≠ scArg b 0 / 2 ^ 16) :
    ∃ t : State, exec .segUnload s = .next (t.scEnd e scOk 0) ∧
      ∀ k ∈ t.icache, k.ctx = c.id → k.va < g.base ∨ g.base + g.len ≤ k.va := by
  have hsets : ((s.scTouch e).sets.any fun x => x.ctx == c.id && x.seg == scArg b 0 / 2 ^ 16) = false :=
    List.any_eq_false.mpr fun x hx => by simpa using hidle x hx
  rw [exec_segUnload, execSegUnload]
  refine ⟨_, State.scCommand_ok h (by simp only [hctx, hseg, hsets, Bool.false_eq_true, if_false]; rfl), fun k hk hctxk => ?_⟩
  rw [State.outsideWrite, (State.unitWrite_homeAndL1Only ..).icache] at hk
  have hout := (List.mem_filter.mp hk).2
  simp only [hctxk, beq_self_eq_true, Bool.true_and, Bool.not_eq_true', Bool.and_eq_false_iff, decide_eq_false_iff_not] at hout
  omega

/-! ### Debug (23 R366) -/

theorem dbgNonce_draws {s : State} {e : ScEntry} {b : List Byte} (nonce : Word) (h : atHead s 8 e b) :
    exec (.dbgNonce nonce) s = .next (((s.scTouch e).updSec fun x => { x with nonce := some nonce }).scEnd e scOk nonce) := by
  rw [exec_dbgNonce, execDbgNonce]
  exact State.scCommand_ok h rfl

theorem dbgLock_locks {s : State} {e : ScEntry} {b : List Byte} (h : atHead s 10 e b) :
    exec .dbgLock s = .next (((s.scTouch e).updSec fun x => { x with unlocked := false }).scEnd e scOk 0) := by
  rw [exec_dbgLock, execDbgLock]
  exact State.scCommand_ok h rfl

/-- The machine once the nonce is used up and the token at an address has been read at its home (log 83). -/
def State.tokenTouched (s : State) (pa : Nat) : State :=
  let v := s.updSec fun x => { x with nonce := none }
  if v.inTables pa Config.tokenLength = true then v.outsideTouch pa Config.tokenLength else v

section Unlock
variable {s : State} {e : ScEntry} {b : List Byte} (h : atHead s 9 e b)
include h

theorem dbgUnlock_badArgs (hout : ((s.scTouch e).tokenTouched (scArg b 0)).inTables (scArg b 0) Config.tokenLength = false) :
    let t := (s.scTouch e).tokenTouched (scArg b 0)
    exec .dbgUnlock s = .next (t.tookFree.scEnd e scBadArgs (t.freeVal 64)) := by
  rw [exec_dbgUnlock, execDbgUnlock]
  exact State.scCommand_refused h (if_pos (by rw [Bool.not_eq_true']; exact hout))

section Token
variable (hin : ((s.scTouch e).tokenTouched (scArg b 0)).inTables (scArg b 0) Config.tokenLength = true)
include hin

theorem dbgUnlock_unread (hnone : ((s.scTouch e).tokenTouched (scArg b 0)).outsideBytes (scArg b 0) Config.tokenLength = none) :
    let t := (s.scTouch e).tokenTouched (scArg b 0)
    exec .dbgUnlock s = .next (t.tookFree.scEnd e scBadSig (t.freeVal 64)) := by
  rw [exec_dbgUnlock, execDbgUnlock]
  exact State.scCommand_refused (reads := fun u b => u.tokenTouched (scArg b 0)) h (by
    simp only [hin, hnone, Bool.not_true, Bool.false_eq_true, if_false])

section Read
variable {tok : List Byte}
  (htok : ((s.scTouch e).tokenTouched (scArg b 0)).outsideBytes (scArg b 0) Config.tokenLength = some tok)
include htok

theorem dbgUnlock_badSig (hbad : Config.tokenOk tok = false) :
    let t := (s.scTouch e).tokenTouched (scArg b 0)
    exec .dbgUnlock s = .next (t.tookFree.scEnd e scBadSig (t.freeVal 64)) := by
  rw [exec_dbgUnlock, execDbgUnlock]
  exact State.scCommand_refused (reads := fun u b => u.tokenTouched (scArg b 0)) h (by
    simp only [hin, htok, hbad, Bool.not_true, Bool.not_false, Bool.false_eq_true, if_false, if_true])

/-- A token of another device, or for another nonce than the one drawn last, is denied. -/
theorem dbgUnlock_denied (hok : Config.tokenOk tok = true)
    (hother : Config.tokenId tok ≠ Config.deviceId ∨ s.sec.nonce ≠ some (Config.tokenNonce tok)) :
    let t := (s.scTouch e).tokenTouched (scArg b 0)
    exec .dbgUnlock s = .next (t.tookFree.scEnd e scDenied (t.freeVal 64)) := by
  rw [exec_dbgUnlock, execDbgUnlock]
  exact State.scCommand_refused (reads := fun u b => u.tokenTouched (scArg b 0)) h (by
    simp only [hin, htok, hok, Bool.not_true, Bool.false_eq_true, if_false, if_pos hother])

theorem dbgUnlock_unlocks (hok : Config.tokenOk tok = true)
    (hmine : ¬ (Config.tokenId tok ≠ Config.deviceId ∨ s.sec.nonce ≠ some (Config.tokenNonce tok))) :
    let t := (s.scTouch e).tokenTouched (scArg b 0)
    exec .dbgUnlock s =
      .next ((t.updSec fun x => { x with unlocked := true, admits := Config.tokenMask tok }).scEnd e scOk 0) := by
  rw [exec_dbgUnlock, execDbgUnlock]
  exact State.scCommand_ok (reads := fun u b => u.tokenTouched (scArg b 0)) h (by
    simp only [hin, htok, hok, Bool.not_true, Bool.false_eq_true, if_false, if_neg hmine])

end Read

end Token

end Unlock

/-! ### The anti-rollback counter (23 R367) -/

/-- The command at the head of the queue is ARB_RAISE, and a bit is to be blown. -/
theorem arbRaise_blows {s : State} {e : ScEntry} {b : List Byte} (hhead : s.sec.queue.head? = some e) (hbytes : s.scBytes e = b)
    (hformed : scFormed b = true) (hop : field b 0 2 = 11)
    (hmore : s.sec.blowing.isSome = true ∨
      (s.sec.arb < scArg b 0 ∧ scArg b 0 ≤ s.sec.arb + (s.sec.fuses.filter fun p => !p.1 && !p.2).length)) :
    exec .arbRaise s = .next (s.updSec Sec.blow) := by
  obtain ⟨es, hqueue⟩ := List.head?_eq_some_iff.mp hhead
  have hraising : s.raising = some (scArg b 0) := by
    simp only [State.raising, hqueue, hbytes, hformed, hop, beq_self_eq_true, Bool.true_and]
    exact if_pos (by simpa using hmore)
  rw [exec_arbRaise, execArbRaise, hraising]

section Done
variable {s : State} {e : ScEntry} {b : List Byte} (h : atHead s 11 e b) (hdone : s.raising = none)
include h hdone

theorem arbRaise_reached (harg : scArg b 0 = (s.scTouch e).sec.arb) :
    exec .arbRaise s = .next ((s.scTouch e).scEnd e scOk (BitVec.ofNat 64 (scArg b 0))) := by
  rw [exec_arbRaise, execArbRaise, hdone]
  exact State.scCommand_ok h (if_neg (not_not.mpr harg))

theorem arbRaise_refused (harg : scArg b 0 ≠ (s.scTouch e).sec.arb) :
    exec .arbRaise s = .next ((s.scTouch e).tookFree.scEnd e scRollback ((s.scTouch e).freeVal 64)) := by
  rw [exec_arbRaise, execArbRaise, hdone]
  exact State.scCommand_refused h (if_pos harg)

end Done

section Fuses
variable {x : Sec} (hidle : x.blowing = none) (hfree : ∃ p ∈ x.fuses, p = (false, false))

include hfree in
/-- The pair that is blown next is one of the fuses, and has neither bit blown. -/
theorem Sec.nextPair_unused : ∃ h : x.nextPair < x.fuses.length, x.fuses[x.nextPair] = (false, false) := by
  obtain ⟨p, hp, rfl⟩ := hfree
  have hlt : x.nextPair < x.fuses.length := List.findIdx_lt_length_of_exists ⟨_, hp, rfl⟩
  refine ⟨hlt, ?_⟩
  have hboth := List.findIdx_getElem (w := hlt)
  simp only [Bool.and_eq_true, Bool.not_eq_true'] at hboth
  exact Prod.ext hboth.1 hboth.2

include hidle in
theorem Sec.blow_first : x.blow = { x with fuses := x.fuses.set x.nextPair (true, false), blowing := some x.nextPair } := by
  rw [Sec.blow, hidle]

include hidle in
theorem Sec.blow_second : x.blow.blow = { x with fuses := x.fuses.set x.nextPair (true, true), blowing := none } := by
  have htwice : (x.fuses.set x.nextPair (true, false)).set x.nextPair (true, true) = x.fuses.set x.nextPair (true, true) :=
    List.set_set ..
  rw [Sec.blow_first hidle]
  exact congrArg (fun fs => { x with fuses := fs, blowing := none }) htwice

include hfree in
/-- How many of the fuses have a property once the next pair has been blown. -/
theorem Sec.count_set_nextPair (f : Bool × Bool → Bool) (p : Bool × Bool) :
    ((x.fuses.set x.nextPair p).filter f).length + (f (false, false)).toNat = (x.fuses.filter f).length + (f p).toNat := by
  obtain ⟨hlt, hunused⟩ := Sec.nextPair_unused hfree
  have hcounted : (f (false, false)).toNat ≤ x.fuses.countP f := by
    cases hf : f (false, false) with
    | false => exact Nat.zero_le _
    | true => exact List.countP_pos_iff.mpr ⟨_, List.getElem_mem hlt, by rw [hunused]; exact hf⟩
  have hone : ∀ y : Bool, (if y = true then 1 else 0) = y.toNat := by decide
  rw [← List.countP_eq_length_filter, ← List.countP_eq_length_filter, List.countP_set hlt, hunused, hone, hone]
  omega

end Fuses

/-! ### The etch mode (19 R325) -/

theorem State.putFlags_ctxOf (s : State) (c : Ctx) (id : Nat) : (s.putFlags c).ctxOf id = s.ctxOf id :=
  (State.unitWrite_homeAndL1Only ..).ctxOf id

/-- The machine once the etch control block of a context has been read at its home. -/
def State.etchTouched (s : State) (id : Nat) : State := ((s.ctxOf id).map s.etchTouch).getD s

/-- A context in another etch mode, which its descriptor in memory shows but for the supervisor's. -/
def State.setEtch (s : State) (id : Nat) (c : Ctx) (mode : Nat) : State :=
  let s1 := s.updCtx id fun c => { c with etch := mode }
  if id = 0 then s1 else s1.putFlags { c with etch := mode }

theorem State.setEtch_etch {s : State} {id : Nat} {c : Ctx} (h : s.ctxOf id = some c) (mode : Nat) :
    ((s.setEtch id c mode).ctxOf id).map Ctx.etch = some mode := by
  have hupd : (s.updCtx id fun c => { c with etch := mode }).ctxOf id = some { c with etch := mode } :=
    (State.ctxOf_updCtx (f := fun c => { c with etch := mode }) fun _ => rfl).trans (by rw [h, Option.map_some])
  unfold State.setEtch
  split
  · rw [hupd, Option.map_some]
  · rw [State.putFlags_ctxOf, hupd, Option.map_some]

section Setetch
variable {s : State} {e : ScEntry} {b : List Byte} (h : atHead s 12 e b)
include h

theorem ctxSetetch_busy {x : TaskSet} (hx : x ∈ ((s.scTouch e).etchTouched (scArg b 0)).sets) (hctx : x.ctx = scArg b 0) :
    let w := (s.scTouch e).etchTouched (scArg b 0)
    exec .ctxSetetch s = .next (w.tookFree.scEnd e scBusy (w.freeVal 64)) := by
  have hsets : (((s.scTouch e).etchTouched (scArg b 0)).sets.any fun x => x.ctx == scArg b 0) = true :=
    List.any_eq_true.mpr ⟨x, hx, beq_iff_eq.mpr hctx⟩
  rw [exec_ctxSetetch, execCtxSetetch]
  exact State.scCommand_refused (reads := fun u b => u.etchTouched (scArg b 0)) h (by simp only [hsets, if_true])

/-- A context without live sets takes a mode that its control block admits, and the RESULT is the one that it had. -/
theorem ctxSetetch_sets {c : Ctx} (hctx : ((s.scTouch e).etchTouched (scArg b 0)).ctxOf (scArg b 0) = some c)
    (hidle : ∀ x ∈ ((s.scTouch e).etchTouched (scArg b 0)).sets, x.ctx ≠ scArg b 0) (hmode : scArg b 1 ≤ 2)
    (hcb : (c.etchcb = 0 ∧ scArg b 1 = 0) ∨
      (c.etchcb ≠ 0 ∧ ((s.scTouch e).etchTouched (scArg b 0)).etchCbOk (scArg b 0) c.etchcb = true)) :
    exec .ctxSetetch s = .next ((((s.scTouch e).etchTouched (scArg b 0)).setEtch (scArg b 0) c (scArg b 1)).scEnd e scOk
      (BitVec.ofNat 64 c.etch)) := by
  have hsets : (((s.scTouch e).etchTouched (scArg b 0)).sets.any fun x => x.ctx == scArg b 0) = false :=
    List.any_eq_false.mpr fun x hx => by simpa using hidle x hx
  have hok : (if c.etchcb = 0 then scArg b 1 != 0
      else !((s.scTouch e).etchTouched (scArg b 0)).etchCbOk (scArg b 0) c.etchcb) = false := by
    rcases hcb with ⟨hzero, hoff⟩ | ⟨hne, hfits⟩
    · rw [if_pos hzero, hoff]
      rfl
    · rw [if_neg hne, hfits]
      rfl
  rw [exec_ctxSetetch, execCtxSetetch]
  exact State.scCommand_ok (reads := fun u b => u.etchTouched (scArg b 0)) h (by
    simp only [hsets, hctx, hok, Bool.false_eq_true, if_false, if_neg (Nat.not_lt.mpr hmode), State.setEtch])

end Setetch

end Sys2Proof.Machine

namespace Sys2Proof.Proofs

open Sys2Proof.Machine

/-- Settles O49, command by command: each has its effect where its checks pass, and is refused where one fails. -/
theorem securityCommands : Obligations.SecurityCommands := by
  unfold Obligations.SecurityCommands
  refine ⟨?contexts, ?load, ?unload, ?debug, ?fuses, ?setetch⟩
  case contexts =>
    intro s e b a u
    refine ⟨fun h _ => ctxCreate_creates h, fun h => ctxDestroy_destroys h, fun h hlow hhigh howner => ?_,
      fun h => keyClear_clears h, fun h => ctxRekey_rekeys h⟩
    exact ⟨keyNew_assigns h hlow hhigh howner, keyNew_busy h hlow hhigh howner⟩
  case load =>
    intro s e b c x code a id w h hctx hid howner hhead hcode hhash hnew hroom hsig
    exact ⟨fun hadmit => segLoad_loads h (State.segCheck_ok hctx hid howner hhead hadmit hsig) hcode hhash hnew hroom,
      fun hsigned hprot => segLoad_denied h (State.segCheck_denied hctx hid howner hhead hsigned hprot)⟩
  case unload => exact fun s e b c g h hctx hseg hidle => segUnload_unloads h hctx hseg hidle
  case debug =>
    intro s e b nonce u
    refine ⟨dbgNonce_draws nonce, fun h => ?_, dbgLock_locks, arbRaise_blows, fun h hdone => ?_⟩
    · refine ⟨fun _ hout => dbgUnlock_badArgs h hout, fun hin => ⟨dbgUnlock_unread h hin, fun tok htok => ?_⟩⟩
      split
      · next hbad => exact dbgUnlock_badSig h hin htok hbad
      · next hok =>
        rw [Bool.not_eq_false] at hok
        split
        · next hother => exact dbgUnlock_denied h hin htok hok hother
        · next hmine => exact dbgUnlock_unlocks h hin htok hok hmine
    · exact ⟨arbRaise_reached h hdone, arbRaise_refused h hdone⟩
  case fuses =>
    intro x hidle hfree
    rw [Sec.blow_second hidle, Sec.blow_first hidle]
    have hcount := Sec.count_set_nextPair hfree
    have harb := hcount (fun p => p.1 && p.2)
    have hwasted := hcount (fun p => p.1 != p.2)
    exact ⟨harb (true, false), hwasted (true, false), harb (true, true), hwasted (true, true), rfl⟩
  case setetch =>
    intro s e b c u w h hctx
    exact ⟨fun hidle hmode hcb => ⟨_, ctxSetetch_sets h hctx hidle hmode hcb, State.setEtch_etch hctx _⟩,
      fun x hx hxctx => ctxSetetch_busy h hx hxctx⟩

end Sys2Proof.Proofs
end

section
namespace Sys2Proof.Machine

/-! ### A register with one or two outstanding producers (06 R124) -/

section
variable {w : Nat} {x : Reg w} (h : ∀ n b f p, x.st ≠ .empty n b f p)
include h

/-- A register without an outstanding producer, marked by one: the value before it is kept beside. -/
theorem Reg.mark_first : x.mark = ⟨x.val, .empty 1 x.val none false⟩ := by
  unfold Reg.mark
  split
  · next hst => exact (h _ _ _ _ hst).elim
  · rfl

/-- Two producers of one register are counted. -/
theorem Reg.mark_second : x.mark.mark = ⟨x.val, .empty 2 x.val none false⟩ := by
  rw [Reg.mark_first h]
  rfl

/-- One producer ends: with its data, with poison, or failed, and a cause that is raised leaves the value before it. -/
theorem Reg.fill_one (o : Out) :
    x.mark.cond = .empty ∧ x.mark.fill o .data = ⟨merge x.val o, .full⟩ ∧ x.mark.fill o .poison = ⟨merge x.val o, .poisoned⟩ ∧
      ∀ (f : Fail) (op : Nat), f.link = none →
        (x.mark.fill o (.fail f op)).cond = .failed f op ∧ (x.mark.fill o (.fail f op)).raised op = ⟨x.val, .full⟩ := by
  rw [Reg.mark_first h]
  refine ⟨rfl, rfl, rfl, fun f op hlink => ⟨rfl, ?_⟩⟩
  simp only [Reg.fill, Reg.raised, hlink, Nat.lt_irrefl, if_false, if_true]

/-- Two producers end one after the other: the register waits for the second, and a failure of either is its condition unless the
cause has been raised before. -/
theorem Reg.fill_two (o1 o2 : Out) (e1 : Ending) :
    (x.mark.mark.fill o1 e1).cond = .empty ∧
      ((x.mark.mark.fill o1 .data).fill o2 .data).val = merge (merge x.val o1) o2 ∧
      ∀ (f : Fail) (op : Nat),
        ((x.mark.mark.fill o1 (.fail f op)).fill o2 .data).cond = .failed f op ∧
        ((x.mark.mark.fill o1 .data).fill o2 (.fail f op)).cond = .failed f op ∧
        (((x.mark.mark.fill o1 (.fail f op)).raised op).fill o2 .data).cond = .ok := by
  rw [Reg.mark_second h]
  refine ⟨rfl, rfl, fun f op => ⟨rfl, rfl, ?_⟩⟩
  simp [Reg.fill, Reg.raised, Reg.cond]

end

/-- Bit `j` of an element is a bit of its register. -/
theorem testBit_elemAt_bit (x : VWord) (z i j : Nat) : (elemAt x z i).testBit j = (decide (j < z) && x.getLsbD (z * i + j)) := by
  rw [elemAt, ← BitVec.getLsbD, BitVec.getLsbD_extractLsb']

/-! ### The elements of a masked result (06 R126, 09 R189) -/

section
variable {z n : Nat} (vd : VReg) (act : Nat → Bool) (f : Nat → Nat) (v : VWord) (hz : 0 < z)
include hz

/-- A masked result writes the bits of the elements that are enabled, and no others. -/
theorem getLsbD_merge_vecOut {k : Nat} (hk : k < 1024) :
    (merge v (vecOut vd z n act f)).getLsbD k =
      if k < z * n ∧ act (k / z) = true then (f (k / z)).testBit (k % z) else v.getLsbD k := by
  rw [getLsbD_merge _ _ hk, vecOut, BitVec.getLsbD_ofNat, BitVec.getLsbD_ofNat, testBit_packElems_range hz,
    testBit_packElems_range hz, decide_eq_true hk]
  by_cases hkn : k < z * n <;> cases hact : act (k / z) <;> simp [hkn, Nat.mod_lt _ hz]

/-- An enabled element takes the low bits of its result; another one keeps its value. -/
theorem elemAt_merge_vecOut (hn : z * n ≤ 1024) {i : Nat} (hi : i < n) :
    elemAt (merge v (vecOut vd z n act f)) z i = if act i then f i % 2 ^ z else elemAt v z i := by
  refine Nat.eq_of_testBit_eq fun j => ?_
  rw [apply_ite (Nat.testBit · j), Nat.testBit_mod_two_pow, testBit_elemAt_bit, testBit_elemAt_bit]
  by_cases hj : j < z
  · have hin : z * i + j < z * n := (Nat.add_lt_add_left hj _).trans_le (Nat.mul_le_mul_left z hi)
    rw [getLsbD_merge_vecOut vd act f v hz (hin.trans_le hn), Nat.mul_add_div hz, Nat.div_eq_of_lt hj, Nat.mul_add_mod,
      Nat.mod_eq_of_lt hj]
    simp [hin, hj]
  · simp [hj]

end
end Sys2Proof.Machine

namespace Sys2Proof.Proofs
open Sys2Proof.Machine

/-- Settles O11, by the marking and filling of a register with one producer and with two. -/
theorem registerStates : Obligations.RegisterStates :=
  ⟨fun _ _ o h => Reg.fill_one h o, fun _ _ o1 o2 e1 h => Reg.fill_two h o1 o2 e1⟩

/-- Settles O17, bit by bit: within the width by the element that the bit is of, above it by the mask, which has none there. -/
theorem maskedResultsWriteTheirLanes : Obligations.MaskedResultsWriteTheirLanes := by
  intro vd z n act f v hz hn
  refine ⟨rfl, fun i hi => elemAt_merge_vecOut vd act f v hz hn hi, fun k hk => ?_⟩
  by_cases hk1024 : k < 1024
  · rw [getLsbD_merge_vecOut vd act f v hz hk1024, if_neg fun h => hk.not_gt h.1]
  · rw [BitVec.getLsbD_of_ge _ _ (Nat.not_lt.mp hk1024), BitVec.getLsbD_of_ge _ _ (Nat.not_lt.mp hk1024)]
end Sys2Proof.Proofs
end

section
namespace Sys2Proof.Machine

/-! ### A result that lands after its latency (06 R131, R132) -/

/-- The results of a list that are for a destination. -/
def pendsAt (d : Dst) (ps : List Pend) : List Pend := ps.filter fun p => p.out.dst == d

/-- `g` reads of a task what results for `d`, and no others, change, each as `l` says. -/
structure Reads {α : Type} (d : Dst) (g : Task → α) (l : α → Out → α) : Prop where
  pend : ∀ (t : Task) (ps : List Pend), g { t with pend := ps } = g t
  land : ∀ (t : Task) (o : Out), g (t.land o) = if o.dst = d then l (g t) o else g t

theorem Task.advance_pend (t : Task) :
    t.advance.pend = (t.pend.map fun p => { p with rem := p.rem - 1 }).filter fun p => p.rem != 0 := by
  rw [Task.advance]
  obtain ⟨r, c, x, h⟩ := Task.lands_eq ((t.pend.map fun p => { p with rem := p.rem - 1 }).filter fun p => p.rem == 0)
    { t with pend := (t.pend.map fun p => { p with rem := p.rem - 1 }).filter fun p => p.rem != 0 }
  rw [h]

/-- The results for a destination that are left after a bundle boundary. -/
theorem pendsAt_advance (d : Dst) (t : Task) :
    pendsAt d t.advance.pend = ((pendsAt d t.pend).map fun p => { p with rem := p.rem - 1 }).filter fun p => p.rem != 0 := by
  rw [Task.advance_pend, pendsAt, pendsAt, List.filter_filter, List.filter_map, List.filter_map, List.filter_filter]
  exact congrArg _ (List.filter_congr fun p _ => Bool.and_comm ..)

namespace Reads

variable {α : Type} {d : Dst} {g : Task → α} {l : α → Out → α} (h : Reads d g l)
include h

theorem lands (ps : List Pend) (t : Task) :
    g (ps.foldl (fun t p => t.land p.out) t) = (pendsAt d ps).foldl (fun x p => l x p.out) (g t) := by
  induction ps generalizing t with
  | nil => rfl
  | cons p ps ih =>
    rw [List.foldl_cons, ih, h.land]
    by_cases hp : p.out.dst = d
    · simp [pendsAt, hp]
    · simp [pendsAt, hp]

/-- A bundle boundary lands the results for `d` whose count ends. -/
theorem advance (t : Task) :
    g t.advance = ((pendsAt d t.pend).filter fun p => p.rem - 1 == 0).foldl (fun x p => l x p.out) (g t) := by
  rw [Task.advance, h.lands, h.pend, pendsAt, pendsAt, List.filter_filter, List.filter_map, List.foldl_map, List.filter_filter]
  exact congrArg (List.foldl _ _) (List.filter_congr fun p _ => Bool.and_comm ..)

variable {u : Task} {n : Nat} {o : Out} (hp : pendsAt d u.pend = [⟨n, o⟩])
include hp

/-- The one result that is pending for `d` is not seen before its count ends. -/
theorem advanceBy_lt {k : Nat} (hk : k < n) :
    g (u.advanceBy k) = g u ∧ pendsAt d (u.advanceBy k).pend = [⟨n - k, o⟩] := by
  induction k with
  | zero => exact ⟨rfl, hp⟩
  | succ k ih =>
    obtain ⟨hg, hpend⟩ := ih (by omega)
    have hleft : n - (k + 1) ≠ 0 := by omega
    rw [Task.advanceBy, h.advance, pendsAt_advance, hpend, hg]
    simp [Nat.sub_sub, hleft]

/-- It is there once its count has ended. -/
theorem advanceBy_eq (hn : 1 ≤ n) : g (u.advanceBy n) = l (g u) o := by
  obtain ⟨m, rfl⟩ := Nat.exists_eq_add_of_le' hn
  obtain ⟨hg, hpend⟩ := h.advanceBy_lt hp (Nat.lt_succ_self m)
  rw [Task.advanceBy, h.advance, hpend, hg, Nat.add_sub_cancel_left]
  rfl

end Reads

/-- A result scheduled where no other is pending for its destination. -/
theorem pendsAt_append {t : Task} {d : Dst} (hp : ∀ p ∈ t.pend, p.out.dst ≠ d) (n : Nat) {o : Out} (ho : o.dst = d) :
    pendsAt d (t.pend ++ [⟨n, o⟩]) = [⟨n, o⟩] := by
  have hnone : t.pend.filter (fun p => p.out.dst == d) = [] := List.filter_eq_nil_iff.mpr fun p hmem => by simpa using hp p hmem
  rw [pendsAt, List.filter_append, hnone, List.nil_append]
  exact List.filter_cons_of_pos (beq_iff_eq.mpr ho)

theorem Task.land_v (t : Task) (o : Out) (r : VReg) :
    (t.land o).regs.v[r] = if o.dst = .v r then (t.regs.v[r]).land o else t.regs.v[r] := by
  unfold Task.land
  cases hd : o.dst with
  | v i =>
    by_cases he : i = r
    · subst he
      rw [if_pos rfl]
      exact Vector.getElem_set_self i.isLt
    · rw [if_neg fun h => he (Dst.v.inj h)]
      exact Vector.getElem_set_ne i.isLt r.isLt fun h => he (Fin.ext h)
  | s i | p i | shadow k => dsimp only; split_ifs <;> simp_all
  | cr k => obtain ⟨c, h⟩ := t.writeCtl_eq k (o.data.setWidth 64); simp [h]
  | _ => simp

/-- A scalar register other than s0 is what results for it land in. -/
theorem reads_s {r : SReg} (hr : r ≠ 0) : Reads (.s r) (fun t => t.regs.s[r]) Reg.land :=
  ⟨fun _ _ => rfl, fun t o => (t.land_s o r).trans (by simp only [hr, ne_eq, not_false_eq_true, and_true])⟩

/-- A vector register is what results for it land in. -/
theorem reads_v (r : VReg) : Reads (.v r) (fun t => t.regs.v[r]) Reg.land := ⟨fun _ _ => rfl, fun t o => t.land_v o r⟩

/-- A result lands under its mask in a register that no producer holds EMPTY. -/
theorem Reg.land_val {w : Nat} {x : Reg w} (h : x.cond ≠ .empty) (o : Out) : (x.land o).val = merge x.val o := by
  unfold Reg.land
  split
  · next hst => exact absurd (by rw [Reg.cond, hst]) h
  · rfl
  · rfl

end Sys2Proof.Machine

namespace Sys2Proof.Proofs
open Sys2Proof.Machine

/-- Settles O8: the register is what the results for it land in, and the one that is pending lands as its count ends. -/
theorem resultsLandAfterTheirLatency : Obligations.ResultsLandAfterTheirLatency := by
  refine ⟨⟨?scalar, ?vector⟩, fun _ _ => rfl, fun _ => ⟨rfl, rfl⟩⟩
  case scalar =>
    intro t d x n hd hn hpend hcond u
    have hp : pendsAt (.s d) u.pend = [⟨n, outS d x⟩] := pendsAt_append hpend n rfl
    rw [Task.cond, if_neg hd] at hcond
    have hland : (u.advanceBy n).regs.s[d] = (t.regs.s[d]).land (outS d x) := (reads_s hd).advanceBy_eq hp hn
    refine ⟨fun k hk => ?_, ?_⟩
    · exact congrArg (fun y : Reg 64 => if d = 0 then 0 else y.val) ((reads_s hd).advanceBy_lt hp hk).1
    · rw [Task.readS, if_neg hd, hland, Reg.land_val hcond, merge_outS]
  case vector =>
    intro t d m x n hn hpend hcond u
    have hp : pendsAt (.v d) u.pend = [⟨n, ⟨.v d, m, x⟩⟩] := pendsAt_append hpend n rfl
    have hland : (u.advanceBy n).regs.v[d] = (t.regs.v[d]).land ⟨.v d, m, x⟩ := (reads_v d).advanceBy_eq hp hn
    refine ⟨fun k hk => congrArg Reg.val ((reads_v d).advanceBy_lt hp hk).1, fun i => ?_⟩
    rw [hland, Reg.land_val hcond, getLsbD_merge _ _ i.isLt]
end Sys2Proof.Proofs
end

section
namespace Sys2Proof.Proofs
open Sys2Proof.Claims Sys2Proof.Machine

/-- Settles O58: every part is a value of the reset state; those over all registers or contexts are finite checks. -/
theorem resetState : Obligations.ResetState := by
  unfold Obligations.ResetState
  refine ⟨rfl, rfl, rfl, rfl, rfl, rfl, ?_, ?_, rfl, rfl, rfl, rfl, ?_, rfl, rfl, rfl, rfl, rfl, rfl, fun _ => rfl, rfl, ?_, ?_, rfl⟩
  all_goals decide +kernel

/-- Settles O53: the words are written out, so the decoder is run on each. -/
theorem wordsDecode : Obligations.WordsDecode := by
  unfold Obligations.WordsDecode
  decide +kernel

end Sys2Proof.Proofs
end

section
/-! PROOFS. The frame of a bundle of one slot: what its boundary changes (06 R131, R134), and what its results and operations do (06
R121, R124). -/
namespace Sys2Proof.Machine

/-! ### One bundle on (06 R131, R134) -/

theorem Task.writeCtl_pc_pend (t : Task) (k : Nat) (v a : Word) (ps : List Pend) :
    ({ t with pc := a, pend := ps } : Task).writeCtl k v = { t.writeCtl k v with pc := a, pend := ps } := by
  unfold Task.writeCtl
  split <;> rfl

/-- A result lands alike whatever the pc is and whatever is pending beside it. -/
theorem Task.land_pc_pend (t : Task) (o : Out) (a : Word) (ps : List Pend) :
    ({ t with pc := a, pend := ps } : Task).land o = { t.land o with pc := a, pend := ps } := by
  unfold Task.land
  cases o.dst with
  | s i | p i | shadow k => dsimp only; split <;> rfl
  | cr k => exact t.writeCtl_pc_pend k _ a ps
  | _ => rfl

theorem Task.lands_pc_pend (os : List Pend) (t : Task) (a : Word) (ps : List Pend) :
    os.foldl (fun t p => t.land p.out) { t with pc := a, pend := ps } =
      { os.foldl (fun t p => t.land p.out) t with pc := a, pend := ps } := by
  induction os generalizing t with
  | nil => rfl
  | cons o os ih => rw [List.foldl_cons, List.foldl_cons, Task.land_pc_pend, ih]

/-- A result that lands at a task whose pc moves on. -/
theorem Task.land_pc (t : Task) (o : Out) (a : Word) : ({ t with pc := a } : Task).land o = { t.land o with pc := a } := by
  obtain ⟨r, c, x, h⟩ := t.land_eq o
  have := t.land_pc_pend o a t.pend
  rw [h] at this ⊢
  exact this

/-- A bundle boundary with nothing pending changes nothing. -/
theorem Task.advance_of_pend_nil {t : Task} (h : t.pend = []) : t.advance = t := by
  rw [Task.advance, h]
  exact congrArg (fun ps => { t with pend := ps }) h.symm

/-- The results of a list whose count ends at a bundle boundary. -/
def pendsDue (ps : List Pend) : List Pend := (ps.map fun p => { p with rem := p.rem - 1 }).filter fun p => p.rem == 0

/-- The results of a list that are left after a bundle boundary. -/
def pendsLeft (ps : List Pend) : List Pend := (ps.map fun p => { p with rem := p.rem - 1 }).filter fun p => p.rem != 0

theorem Task.advance_pends (t : Task) :
    t.advance = (pendsDue t.pend).foldl (fun t p => t.land p.out) { t with pend := pendsLeft t.pend } := rfl

theorem pendsDue_append (ps qs : List Pend) : pendsDue (ps ++ qs) = pendsDue ps ++ pendsDue qs := by
  rw [pendsDue, List.map_append, List.filter_append]
  rfl

theorem pendsLeft_append (ps qs : List Pend) : pendsLeft (ps ++ qs) = pendsLeft ps ++ pendsLeft qs := by
  rw [pendsLeft, List.map_append, List.filter_append]
  rfl

/-- A result of latency 1 lands at the next bundle boundary, after those that were pending. -/
theorem Task.advance_later_one (t : Task) (o : Out) :
    ({ t with pend := t.pend ++ [⟨1, o⟩] } : Task).advance = t.advance.land o := by
  have hdue : pendsDue (t.pend ++ [⟨1, o⟩]) = pendsDue t.pend ++ [⟨0, o⟩] := pendsDue_append _ _
  have hleft : pendsLeft (t.pend ++ [⟨1, o⟩]) = pendsLeft t.pend := (pendsLeft_append _ _).trans (List.append_nil _)
  rw [Task.advance_pends, Task.advance_pends]
  dsimp only
  rw [hdue, hleft, List.foldl_append]
  rfl

/-- A longer one is left pending. -/
theorem Task.advance_later (t : Task) (o : Out) {n : Nat} (hn : 2 ≤ n) :
    ({ t with pend := t.pend ++ [⟨n, o⟩] } : Task).advance = { t.advance with pend := t.advance.pend ++ [⟨n - 1, o⟩] } := by
  have hne : n - 1 ≠ 0 := by omega
  have hdue : pendsDue (t.pend ++ [⟨n, o⟩]) = pendsDue t.pend := by
    rw [pendsDue_append]
    simp [pendsDue, hne]
  have hleft : pendsLeft (t.pend ++ [⟨n, o⟩]) = pendsLeft t.pend ++ [⟨n - 1, o⟩] := by
    rw [pendsLeft_append]
    simp [pendsLeft, hne]
  have hpend : t.advance.pend = pendsLeft t.pend := t.advance_pend
  rw [hpend, Task.advance_pends, Task.advance_pends]
  dsimp only
  rw [hdue, hleft]
  exact (Task.lands_pc_pend (pendsDue t.pend) { t with pend := pendsLeft t.pend } t.pc _).trans (by
    obtain ⟨r, c, x, h⟩ := Task.lands_eq (pendsDue t.pend) { t with pend := pendsLeft t.pend }
    rw [h])

/-- A bundle of one slot that transfers control differs in the pc alone from one that goes straight on (08 R172). -/
theorem State.commit_goto {s : State} (h : s.Fresh) (a : Word) :
    (s.goto a).commit = { s.moved with cur := { s.moved.cur with pc := a } } := by
  have hmoved : s.commit = s.moved := State.commit_moved h
  rw [State.Fresh] at h
  rw [← hmoved]
  simp only [State.commit, State.goto, State.setCtl, State.setCur]
  rw [h]
  rfl

theorem State.commit_later_one {s : State} (h : s.Fresh) (o : Out) :
    (s.later 1 o).commit = s.moved.setCur fun t => t.land o :=
  have hcur : { (s.later 1 o).cur.advance with pc := s.cur.pc + 4 } = ({ s.cur.advance with pc := s.cur.pc + 4 } : Task).land o :=
    (congrArg (fun t : Task => { t with pc := s.cur.pc + 4 }) (s.cur.advance_later_one o)).trans (s.cur.advance.land_pc o _).symm
  (s.commit_effect (u := s.later 1 o) h rfl).trans (congrArg (fun t => { s with cur := t }) hcur)

theorem State.commit_later {s : State} (h : s.Fresh) (o : Out) {n : Nat} (hn : 2 ≤ n) :
    (s.later n o).commit = s.moved.setCur fun t => { t with pend := t.pend ++ [⟨n - 1, o⟩] } := by
  rw [s.commit_effect (u := s.later n o) h rfl, State.moved, State.later, State.setCur, Task.advance_later _ _ hn]
  rfl

/-- With nothing pending, one bundle on changes no register and nothing else but the pc. -/
theorem State.moved_of_pend_nil {s : State} (h : s.cur.pend = []) : s.SameButRegs s.moved ∧ s.moved.cur.regs = s.cur.regs := by
  rw [State.SameButRegs, State.moved, Task.advance_of_pend_nil h]
  exact ⟨rfl, rfl⟩

/-! ### Destinations marked (06 R124) -/

/-- A destination marked changes its own register alone. -/
theorem Task.mark_frame (t : Task) (d : Dst) :
    (∀ r : SReg, d ≠ .s r → (t.mark d).regs.s[r] = t.regs.s[r]) ∧ (∀ r : VReg, d ≠ .v r → (t.mark d).regs.v[r] = t.regs.v[r]) ∧
      ∃ rs rv re, (t.mark d).regs = { t.regs with s := rs, v := rv, em := re } := by
  refine ⟨fun r h => ?_, fun r h => ?_, ?_⟩
  · unfold Task.mark
    cases d with
    | s i =>
      dsimp only
      split
      · rfl
      · exact Vector.getElem_set_ne i.isLt r.isLt fun he => h (congrArg Dst.s (Fin.ext he))
    | _ => rfl
  · unfold Task.mark
    cases d with
    | v i => exact Vector.getElem_set_ne i.isLt r.isLt fun he => h (congrArg Dst.v (Fin.ext he))
    | s i => dsimp only; split <;> rfl
    | _ => rfl
  · unfold Task.mark
    cases d with
    | s i => dsimp only; split <;> exact ⟨_, _, _, rfl⟩
    | _ => exact ⟨_, _, _, rfl⟩

/-- Destinations marked change their own registers alone. -/
theorem Task.marks_frame (outs : List Out) (t : Task) : let u := outs.foldl (fun t o => t.mark o.dst) t
    (∀ r : SReg, (∀ o ∈ outs, o.dst ≠ .s r) → u.regs.s[r] = t.regs.s[r]) ∧
      (∀ r : VReg, (∀ o ∈ outs, o.dst ≠ .v r) → u.regs.v[r] = t.regs.v[r]) ∧
      ∃ rs rv re, u.regs = { t.regs with s := rs, v := rv, em := re } := by
  induction outs generalizing t with
  | nil => exact ⟨fun _ _ => rfl, fun _ _ => rfl, _, _, _, rfl⟩
  | cons o outs ih =>
    obtain ⟨hs, hv, rs, rv, re, hr⟩ := t.mark_frame o.dst
    obtain ⟨hs', hv', rs', rv', re', hr'⟩ := ih (t.mark o.dst)
    refine ⟨fun r h => ?_, fun r h => ?_, rs', rv', re', ?_⟩
    · exact (hs' r fun o ho => h o (List.mem_cons_of_mem _ ho)).trans (hs r (h _ List.mem_cons_self))
    · exact (hv' r fun o ho => h o (List.mem_cons_of_mem _ ho)).trans (hv r (h _ List.mem_cons_self))
    · rw [List.foldl_cons, hr', hr]

/-- An operation begun marks its destinations; nothing else changes but that it stands among the operations. -/
theorem State.beginOp_frame (s : State) (kind : OpKind) (outs : List Out) (parks : Bool) : let t := s.beginOp kind outs parks
    t.mem = s.mem ∧ t.others = s.others ∧ t.cur.ctl = s.cur.ctl ∧ t.cur.tls = s.cur.tls ∧ t.cur.pc = s.cur.pc ∧
      (∀ r : SReg, (∀ o ∈ outs, o.dst ≠ .s r) → t.cur.regs.s[r] = s.cur.regs.s[r]) ∧
      (∀ r : VReg, (∀ o ∈ outs, o.dst ≠ .v r) → t.cur.regs.v[r] = s.cur.regs.v[r]) ∧
      t.cur.regs.p = s.cur.regs.p ∧ t.cur.regs.cm = s.cur.regs.cm ∧ t.cur.regs.fmt = s.cur.regs.fmt ∧
      t.cur.regs.sp = s.cur.regs.sp ∧ t.cur.regs.lk = s.cur.regs.lk ∧ t.cur.regs.mp = s.cur.regs.mp := by
  have hregs : (s.beginOp kind outs parks).cur.regs = (outs.foldl (fun t o => t.mark o.dst) s.cur).regs := rfl
  obtain ⟨hs, hv, rs, rv, re, hr⟩ := Task.marks_frame outs s.cur
  obtain ⟨r, p, h⟩ := s.beginOp_eq kind outs parks
  rw [h] at hregs ⊢
  obtain rfl : r = _ := hregs
  refine ⟨rfl, rfl, rfl, rfl, rfl, hs, hv, ?_⟩
  dsimp only
  rw [hr]
  exact ⟨rfl, rfl, rfl, rfl, rfl, rfl⟩

/-! ### A result that lands (06 R121, R131) -/

/-- A predicate bit written leaves the others. -/
theorem getLsbD_writeBit_ne {i r : Fin 8} (h : i ≠ r) (p : BitVec 8) (b : Bool) :
    (if b then p ||| ((1 : BitVec 8) <<< i.val) else p &&& ~~~((1 : BitVec 8) <<< i.val)).getLsbD r.val = p.getLsbD r.val := by
  have hone : ((1 : BitVec 8) <<< i.val).getLsbD r.val = false := by
    revert h; revert i r; decide
  cases b <;> simp only [BitVec.getLsbD_or, BitVec.getLsbD_and, BitVec.getLsbD_not, hone, r.isLt, if_true, Bool.false_eq_true, if_false,
    Bool.or_false, Bool.not_false, decide_true, Bool.and_true]

/-- A result that lands changes its destination alone; one for a control register, control registers alone. -/
theorem Task.land_frame (t : Task) (o : Out) : let u := t.land o
    (∀ r : SReg, o.dst ≠ .s r → (∀ k, o.dst ≠ .cr k) → u.regs.s[r] = t.regs.s[r]) ∧
    (∀ r : VReg, o.dst ≠ .v r → (∀ k, o.dst ≠ .cr k) → u.regs.v[r] = t.regs.v[r]) ∧
    (∀ r : PReg, o.dst ≠ .p r → (∀ k, o.dst ≠ .cr k) → u.regs.p.getLsbD r.val = t.regs.p.getLsbD r.val) ∧
    (o.dst ≠ .em → u.regs.em = t.regs.em) ∧ (o.dst ≠ .cm → u.regs.cm = t.regs.cm) ∧ (o.dst ≠ .fmt → u.regs.fmt = t.regs.fmt) ∧
    (o.dst ≠ .sp → (∀ k, o.dst ≠ .cr k) → u.regs.sp = t.regs.sp) ∧ (o.dst ≠ .lk → (∀ k, o.dst ≠ .cr k) → u.regs.lk = t.regs.lk) ∧
    (∀ k : Fin 8, o.dst ≠ .mp k → u.regs.mp[k] = t.regs.mp[k]) ∧
    (o.dst ≠ .convx → (∀ k, o.dst ≠ .cr k) → u.ctl = t.ctl) ∧ (∀ k : Fin 11, o.dst ≠ .shadow k.val → u.shadow[k] = t.shadow[k]) ∧
    u.binds = t.binds ∧ u.ops = t.ops ∧ u.tls = t.tls ∧ u.pc = t.pc ∧ u.status = t.status := by
  refine ⟨fun r hr _ => ?_, fun r hr _ => ?_, fun r hr _ => ?_, fun hr => ?_, fun hr => ?_, fun hr => ?_, fun hr _ => ?_,
    fun hr _ => ?_, fun k hr => ?_, fun hr hcr => ?_, fun k hr => ?_, ?_⟩
  case _ => rw [Task.land_s, if_neg fun h => hr h.1]
  case _ => rw [Task.land_v, if_neg hr]
  case _ =>
    unfold Task.land
    cases hd : o.dst with
    | p i =>
      dsimp only
      split
      · rfl
      · exact getLsbD_writeBit_ne (fun he => hr (hd.trans (congrArg Dst.p he))) t.regs.p _
    | s i | shadow i => dsimp only; split <;> rfl
    | cr k => obtain ⟨c, h⟩ := t.writeCtl_eq k (o.data.setWidth 64); simp [h]
    | _ => rfl
  all_goals
    unfold Task.land
    cases hd : o.dst with
    | s i | p i => dsimp only; split <;> simp
    | cr k => obtain ⟨c, h⟩ := t.writeCtl_eq k (o.data.setWidth 64); simp_all
    | shadow i => dsimp only; split <;> simp_all [Vector.getElem_set_ne]
    | mp i => simp_all [Fin.val_inj, Vector.getElem_set_ne]
    | _ => simp_all

end Sys2Proof.Machine

namespace Sys2Proof.Proofs
open Sys2Proof.Machine

/-- Settles O9: the boundary moves the task on, a result lands in its destination, and an operation marks its own. -/
theorem commitMovesOneBundle : Obligations.CommitMovesOneBundle :=
  ⟨fun _ h => ⟨State.commit_moved h, State.commit_goto h⟩,
    ⟨fun _ o h => State.commit_later_one h o, fun _ o _ h hn => State.commit_later h o hn,
      fun s => ⟨rfl, rfl, s.cur.advance_keeps.1, State.moved_of_pend_nil⟩, State.beginOp_frame, Task.land_frame⟩⟩

end Sys2Proof.Proofs
end

section
/-! PROOFS. What the check of a bundle of one slot answers where the slot is not ready (06 R122, R124, R125, R134): an ILLEGAL use, a
source that is EMPTY, POISONED or FAILED (O10), and the instructions that user mode may not run (O15). -/
namespace Sys2Proof.Machine

/-! ### A slot with an ILLEGAL use, with one that waits and with one that raises (06 R134) -/

section
variable {s : State} {us : List Use}

/-- A use that is ILLEGAL makes the bundle ILLEGAL, whatever else it uses. -/
theorem State.issue_illegal (h : us.any s.cur.illegal = true) : s.issue [us] = some (.trap (.now cIllegal (s.enc 0)), 0) := by
  simp only [State.issue, firstSlot, h, if_true]

/-- The conditions under which the check of a slot comes to its waits and its causes. -/
structure State.Legal (s : State) (us : List Use) : Prop where
  legal : ∀ u ∈ us, s.cur.illegal u = false
  fmt : ∀ u ∈ us, s.cur.badFmt u = false
  limits : breaksLimits [us] = false

theorem State.Legal.any_illegal (h : s.Legal us) : us.any s.cur.illegal = false := by simpa using h.legal

theorem State.Legal.any_badFmt (h : s.Legal us) : us.any s.cur.badFmt = false := by simpa using h.fmt

/-- A legal slot waits, as its uses that wait say, where all that wait say the same. -/
theorem State.issue_waits (h : s.Legal us) {u : Use} {p : Bool} (hu : u ∈ us) (hp : s.cur.waits u = some p)
    (hall : ∀ v ∈ us, ∀ q, s.cur.waits v = some q → q = p) : s.issue [us] = some (.wait p, 0) := by
  have hmem : p ∈ us.filterMap s.cur.waits := List.mem_filterMap.mpr ⟨u, hu, hp⟩
  have heq : ∀ q ∈ us.filterMap s.cur.waits, q = p := fun q hq =>
    let ⟨v, hv, hvq⟩ := List.mem_filterMap.mp hq
    hall v hv q hvq
  simp only [State.issue, firstSlot, h.any_illegal, h.limits, Bool.false_eq_true, if_false, List.flatten_cons, List.flatten_nil,
    List.append_nil]
  cases hw : us.filterMap s.cur.waits with
  | nil => rw [hw] at hmem; exact absurd hmem List.not_mem_nil
  | cons q qs =>
    rw [hw] at heq
    have hq : q = p := heq q List.mem_cons_self
    have hany : (q || qs.any id) = p := by
      cases p with
      | true => simp [hq]
      | false => simpa [hq] using fun hmem' => Bool.noConfusion (heq true (List.mem_cons_of_mem _ hmem'))
    simp only [hany]

/-- A legal slot that waits for nothing raises the first cause of its uses. -/
theorem State.issue_raises (h : s.Legal us) (hw : ∀ u ∈ us, s.cur.waits u = none) {x : Trap}
    (hx : us.findSome? s.cur.raises = some x) : s.issue [us] = some (.trap x, 0) := by
  have hnone : us.filterMap s.cur.waits = [] := List.filterMap_eq_nil_iff.mpr hw
  simp only [State.issue, firstSlot, h.any_illegal, h.limits, h.any_badFmt, hnone, hx, Bool.false_eq_true, if_false,
    List.flatten_cons, List.flatten_nil, List.append_nil]

variable {i : Instr} {body : State → Except Stop State} (hs : s.Fresh)
include hs

theorem slot_of_issue_trap {x : Trap} (h : s.issue [us] = some (.trap x, 0)) : s.slot us body = .next (s.takeTrap x 0) := by
  have hp : s.scr.ph = .whole := by rw [hs]; rfl
  simp only [State.slot, hp, h]

theorem slot_of_issue_wait {p : Bool} (h : s.issue [us] = some (.wait p, 0)) : s.slot us body = .next (s.waitAt [us] p) := by
  have hp : s.scr.ph = .whole := by rw [hs]; rfl
  simp only [State.slot, hp, h]

variable (he : exec i s = s.slot us body)
include he

/-- An instruction with an ILLEGAL use. -/
theorem raises_illegal {u : Use} (hu : u ∈ us) (h : s.cur.illegal u = true) : Raises i s (.now cIllegal (s.enc 0)) :=
  he.trans (slot_of_issue_trap hs (State.issue_illegal (List.any_eq_true.mpr ⟨u, hu, h⟩)))

end

/-! ### A source register that is not FULL (06 R124, R125) -/

section
variable {s : State} {i : Instr} {a : SReg} {w free : Bool} {pre post : List Use} {body : State → Except Stop State}

/-- The uses of an instruction are ready but for the source A, which may be the destination too. -/
structure State.ReadyBut (s : State) (a : SReg) (pre post : List Use) : Prop where
  caps : a.val < s.cur.capS
  pre : ∀ u ∈ pre, s.readyFor u = true
  post : ∀ u ∈ post, s.readyFor u = true ∨ u = .write (.s a) ∨ u = .mark (.s a)

theorem State.ReadyBut.not_illegal (h : s.ReadyBut a pre post) : ∀ u ∈ pre ++ .srcS a w :: post, s.cur.illegal u = false := by
  have ha : s.cur.illegal (.srcS a w) = false := decide_eq_false (Nat.not_le.mpr h.caps)
  simp only [List.forall_mem_append, List.forall_mem_cons]
  refine ⟨fun u hu => not_illegal_of_ready (h.pre u hu), ha, fun u hu => ?_⟩
  obtain hr | rfl | rfl := h.post u hu
  · exact not_illegal_of_ready hr
  · exact ha
  · exact ha

theorem State.ReadyBut.not_badFmt (h : s.ReadyBut a pre post) : ∀ u ∈ pre ++ .srcS a w :: post, s.cur.badFmt u = false := by
  simp only [List.forall_mem_append, List.forall_mem_cons]
  refine ⟨fun u hu => not_badFmt_of_ready (h.pre u hu), rfl, fun u hu => ?_⟩
  obtain hr | rfl | rfl := h.post u hu
  · exact not_badFmt_of_ready hr
  · rfl
  · rfl

/-- Only the source waits, and the destination where it is the same register. -/
theorem State.ReadyBut.waits (h : s.ReadyBut a pre post) : ∀ u ∈ pre ++ .srcS a w :: post, ∀ p, s.cur.waits u = some p →
    s.cur.cond (.s a) = .empty ∧ p = s.cur.parksFor (.s a) := by
  have ha : ∀ (c : Bool) (p : Bool), (if c && s.cur.cond (.s a) == .empty then some (s.cur.parksFor (.s a)) else none) = some p →
      s.cur.cond (.s a) = .empty ∧ p = s.cur.parksFor (.s a) := fun c p hp => by
    split at hp
    · next hc => exact ⟨by simpa using (Bool.and_eq_true_iff.mp hc).2, (Option.some.inj hp).symm⟩
    · cases hp
  have ready : ∀ {u : Use} {p : Bool}, s.readyFor u = true → s.cur.waits u = some p → False := fun hr hp =>
    absurd ((not_waits_of_ready hr).symm.trans hp) (Option.some_ne_none _).symm
  simp only [List.forall_mem_append, List.forall_mem_cons]
  refine ⟨fun u hu p hp => (ready (h.pre u hu) hp).elim, fun p => ha w p, fun u hu p hp => ?_⟩
  obtain hr | rfl | rfl := h.post u hu
  · exact (ready hr hp).elim
  · exact ha true p hp
  · cases hp

/-- The source is the first use that raises anything. -/
theorem State.ReadyBut.raises (h : s.ReadyBut a pre post) {x : Trap} (hx : s.cur.sourceTrap (.s a) w = some x) :
    (pre ++ .srcS a w :: post).findSome? s.cur.raises = some x := by
  have hpre : pre.findSome? s.cur.raises = none := List.findSome?_eq_none_iff.mpr fun u hu => not_raises_of_ready (h.pre u hu)
  have ha : s.cur.raises (.srcS a w) = some x := hx
  rw [List.findSome?_append, hpre, Option.none_or, List.findSome?_cons, ha]

/-- What each state of the source makes of an instruction that is ready but for it. -/
theorem State.ReadyBut.sourceRules (h : s.ReadyBut a pre post) (hs : s.Fresh)
    (he : ∀ s, exec i s = s.slot (pre ++ .srcS a w :: post) body) (hscalar : (pre ++ .srcS a w :: post).all Use.scalar = true)
    (hfree : free = true → ∀ u ∈ post, s.cur.waits u = none) : Claims.sourceRules i s a w free := by
  have hlegal : s.Legal (pre ++ .srcS a w :: post) := ⟨h.not_illegal, h.not_badFmt, breaksLimits_scalar hscalar⟩
  have huses : s.usesOf i = pre ++ .srcS a w :: post := State.usesOf_slot (us := fun _ => _) he
  have raises : ∀ {x : Trap}, (∀ u ∈ pre ++ .srcS a w :: post, s.cur.waits u = none) → s.cur.sourceTrap (.s a) w = some x →
      Raises i s x := fun hw hx => (he s).trans (slot_of_issue_trap hs (State.issue_raises hlegal hw (h.raises hx)))
  have full : s.cur.cond (.s a) ≠ .empty → ∀ u ∈ pre ++ .srcS a w :: post, s.cur.waits u = none := fun hne u hu =>
    Option.eq_none_iff_forall_ne_some.mpr fun p hp => hne (h.waits u hu p hp).1
  refine ⟨fun hc hw => ?wait, fun hc hw hf => ?empty, fun hc => ?poisoned, fun f op hc => ?failed⟩
  case wait =>
    have hwaits : s.cur.waits (.srcS a w) = some (s.cur.parksFor (.s a)) := if_pos (by rw [hw, hc]; rfl)
    rw [he, huses, slot_of_issue_wait hs (State.issue_waits hlegal (List.mem_append_right _ List.mem_cons_self) hwaits
      fun v hv q hq => (h.waits v hv q hq).2)]
  case empty =>
    refine raises ?_ (by simp only [Task.sourceTrap, hc, hw, Bool.false_eq_true, if_false]; rfl)
    simp only [List.forall_mem_append, List.forall_mem_cons]
    exact ⟨fun u hu => not_waits_of_ready (h.pre u hu), if_neg (by simp [hw]), hfree hf⟩
  case poisoned => exact raises (full (by simp [hc])) (by simp only [Task.sourceTrap, hc]; rfl)
  case failed => exact raises (full (by simp [hc])) (by simp only [Task.sourceTrap, hc]; rfl)

end

section
variable {s : State} {r : SReg} (hcap : r.val < s.cur.capS)
include hcap

theorem State.readyFor_srcS (h : s.cur.cond (.s r) = .ok) (w : Bool) : s.readyFor (.srcS r w) = true := by
  simp [State.readyFor, Task.inCaps, hcap, h]

theorem State.readyFor_write_s (h : Claims.destReady s r = true) : s.readyFor (.write (.s r)) = true := by
  simpa [State.readyFor, Task.inCaps, hcap, Claims.destReady] using h

theorem State.readyFor_mark_s (h : Claims.markReady s r = true) : s.readyFor (.mark (.s r)) = true := by
  simpa [State.readyFor, Task.inCaps, hcap, Claims.markReady] using h

end

/-! ### The forms of the integer unit -/

open Sys2Proof.Claims

section
variable {s : State} {i : Instr} {a b d : SReg} {wa wb : Bool} {body : State → Except Stop State} (hs : s.Fresh)
include hs

/-- The form D, A. -/
theorem sourceChecks_unary (he : ∀ s, exec i s = s.slot [.srcS a wa, .write (.s d)] body) :
    (s.cur.capS ≤ a.val ∨ s.cur.capS ≤ d.val → Raises i s (.now cIllegal (s.enc 0))) ∧
      (a.val < s.cur.capS → d.val < s.cur.capS → destReady s d = true ∨ d = a → sourceRules i s a wa (destReady s d)) := by
  refine ⟨fun h => ?_, fun ha hd hdst => ?_⟩
  · obtain h | h := h
    · exact raises_illegal hs (he s) (u := .srcS a wa) (by simp) (decide_eq_true h)
    · exact raises_illegal hs (he s) (u := .write (.s d)) (by simp) (decide_eq_true h)
  · refine State.ReadyBut.sourceRules (pre := []) (post := [.write (.s d)]) ⟨ha, nofun, ?_⟩ hs he rfl ?_
    · simpa using hdst.imp (State.readyFor_write_s hd) id
    · simpa using fun hf => not_waits_of_ready (State.readyFor_write_s hd hf)

/-- The form D, A, B, of a fixed latency. -/
theorem sourceChecks_binary (he : ∀ s, exec i s = s.slot [.srcS a wa, .srcS b wb, .write (.s d)] body) :
    (s.cur.capS ≤ a.val ∨ s.cur.capS ≤ b.val ∨ s.cur.capS ≤ d.val → Raises i s (.now cIllegal (s.enc 0))) ∧
      (a.val < s.cur.capS → b.val < s.cur.capS → d.val < s.cur.capS →
        (s.cur.cond (.s b) = .ok → destReady s d = true ∨ d = a → sourceRules i s a wa (destReady s d)) ∧
        (s.cur.cond (.s a) = .ok → destReady s d = true ∨ d = b → sourceRules i s b wb (destReady s d))) := by
  refine ⟨fun h => ?_, fun ha hb hd => ⟨fun hok hdst => ?_, fun hok hdst => ?_⟩⟩
  · obtain h | h | h := h
    · exact raises_illegal hs (he s) (u := .srcS a wa) (by simp) (decide_eq_true h)
    · exact raises_illegal hs (he s) (u := .srcS b wb) (by simp) (decide_eq_true h)
    · exact raises_illegal hs (he s) (u := .write (.s d)) (by simp) (decide_eq_true h)
  · have hb := State.readyFor_srcS hb hok wb
    refine State.ReadyBut.sourceRules (pre := []) (post := [.srcS b wb, .write (.s d)]) ⟨ha, nofun, ?_⟩ hs he rfl ?_
    · simpa [hb] using hdst.imp (State.readyFor_write_s hd) id
    · simpa [not_waits_of_ready hb] using fun hf => not_waits_of_ready (State.readyFor_write_s hd hf)
  · refine State.ReadyBut.sourceRules (pre := [.srcS a wa]) (post := [.write (.s d)]) ⟨hb, ?_, ?_⟩ hs he rfl ?_
    · simpa using State.readyFor_srcS ha hok wa
    · simpa using hdst.imp (State.readyFor_write_s hd) id
    · simpa using fun hf => not_waits_of_ready (State.readyFor_write_s hd hf)

/-- The form D, A, B, of an operation. -/
theorem sourceChecks_operation (he : ∀ s, exec i s = s.slot [.srcS a wa, .srcS b wb, .mark (.s d)] body) :
    (s.cur.capS ≤ a.val ∨ s.cur.capS ≤ b.val ∨ s.cur.capS ≤ d.val → Raises i s (.now cIllegal (s.enc 0))) ∧
      (a.val < s.cur.capS → b.val < s.cur.capS → d.val < s.cur.capS →
        (s.cur.cond (.s b) = .ok → markReady s d = true ∨ d = a → sourceRules i s a wa true) ∧
        (s.cur.cond (.s a) = .ok → markReady s d = true ∨ d = b → sourceRules i s b wb true)) := by
  have hmark : s.cur.waits (.mark (.s d)) = none := rfl
  refine ⟨fun h => ?_, fun ha hb hd => ⟨fun hok hdst => ?_, fun hok hdst => ?_⟩⟩
  · obtain h | h | h := h
    · exact raises_illegal hs (he s) (u := .srcS a wa) (by simp) (decide_eq_true h)
    · exact raises_illegal hs (he s) (u := .srcS b wb) (by simp) (decide_eq_true h)
    · exact raises_illegal hs (he s) (u := .mark (.s d)) (by simp) (decide_eq_true h)
  · have hb := State.readyFor_srcS hb hok wb
    refine State.ReadyBut.sourceRules (pre := []) (post := [.srcS b wb, .mark (.s d)]) ⟨ha, nofun, ?_⟩ hs he rfl ?_
    · simpa [hb] using hdst.imp (State.readyFor_mark_s hd) id
    · simp [not_waits_of_ready hb, hmark]
  · refine State.ReadyBut.sourceRules (pre := [.srcS a wa]) (post := [.mark (.s d)]) ⟨hb, ?_, ?_⟩ hs he rfl ?_
    · simpa using State.readyFor_srcS ha hok wa
    · simpa using hdst.imp (State.readyFor_mark_s hd) id
    · simp [hmark]

end

/-! ### Privileged and read-only registers (06 R136, 08 R169) -/

/-- Of c.MCSTAT its enable and its stack and address bits hold anything (06 R136). -/
theorem getLsbD_mcstatMask (i : Fin 64) : mcstatMask.getLsbD i = (i.val == 0 || (5 ≤ i.val && i.val < 48)) := by
  revert i
  decide

/-- A read-only register is not written. -/
theorem Task.writeCtl_readOnly (t : Task) {k : Nat} (h : ctlReadOnly k = true) (v : Word) : t.writeCtl k v = t := by
  unfold Task.writeCtl
  split
  case h_12 => rfl
  all_goals exact absurd h (by decide)

/-- A register that CWR writes whole reads back what was written. -/
theorem State.readCtl_writeCtl (s : State) (v : Word) :
    ∀ k ∈ [0x004, 0x005, 0x010, 0x011, 0x012, 0x103, 0x104, 0x105, 0x106], (s.setCur fun t => t.writeCtl k v).readCtl k = v := by
  simp only [List.forall_mem_cons, List.not_mem_nil, false_imp_iff, implies_true, and_true]
  exact ⟨rfl, rfl, rfl, rfl, rfl, Vector.getElem_set_self _, Vector.getElem_set_self _, Vector.getElem_set_self _,
    Vector.getElem_set_self _⟩

end Sys2Proof.Machine

namespace Sys2Proof.Proofs
open Sys2Proof.Machine Sys2Proof.Claims

/-- Settles O10: every form is a slot whose uses are ready but for one source. -/
theorem sourceChecks : Obligations.SourceChecks := by
  refine ⟨fun row hrow s o hs => sourceChecks_binary hs (exec_aluRows row hrow o),
    fun row hrow s o hs => sourceChecks_unary hs (exec_immRows row hrow o),
    fun row hrow s o hs => sourceChecks_unary hs (exec_countRows row hrow o), fun row hrow s o hs => ?_⟩
  obtain ⟨signed, quotient, he, -⟩ := exec_divRows row hrow
  exact sourceChecks_operation hs (he o)

/-- Settles O15: user mode is checked by the instruction itself, an unassigned number by its slot. -/
theorem privilegeAndReadOnly : Obligations.PrivilegeAndReadOnly := by
  refine ⟨⟨?crd, ?cwr, ?readOnly, ?rte, ?halt, ?outside, ?crdNumber, ?cwrNumber⟩,
    fun s k v hk => s.readCtl_writeCtl v k hk, ?mcstat, fun _ _ => ⟨rfl, rfl, rfl, rfl⟩,
    fun s k v hk => congrArg (fun t => { s with cur := t }) (s.cur.writeCtl_readOnly hk v)⟩
  case crd =>
    intro s o h hsv hk
    exact raises_of_slot (exec_crd o) rfl h (breaksLimits_scalar rfl) (if_pos (by simp [hk, hsv]))
  case cwr =>
    intro s o h hsv hk
    refine raises_of_slot (exec_cwr o) rfl h (breaksLimits_scalar rfl) (if_pos ?_)
    obtain hk | hk := hk <;> simp [hk, hsv]
  case readOnly =>
    intro s o h hk
    exact raises_of_slot (exec_cwr o) rfl h (breaksLimits_scalar rfl) (if_pos (by simp [hk]))
  case rte =>
    intro s h hsv
    exact raises_of_slot exec_rte rfl h (breaksLimits_scalar rfl) (if_neg (by simp [hsv]))
  case halt =>
    intro s h hsv
    exact raises_scalar exec_halt rfl h (if_neg (by simp [hsv]))
  case outside =>
    intro s hs hsv hin
    exact raises_illegal hs (exec_rte s) (u := .illegalIf (s.cur.ctl.sv && !s.cur.ctl.intrap)) (by simp) (by simp [Task.illegal, hsv, hin])
  case crdNumber =>
    intro s o hs hsv hk
    rw [Raises, exec_crd, execCrd]
    exact slot_of_issue_trap hs (State.issue_illegal (by simp [Task.illegal, hsv, hk]))
  case cwrNumber =>
    intro s o hs hsv hk
    rw [Raises, exec_cwr, execCwr]
    exact slot_of_issue_trap hs (State.issue_illegal (by simp [Task.illegal, hsv, hk]))
  case mcstat =>
    intro s v r i
    rw [← getLsbD_mcstatMask i]
    exact BitVec.getLsbD_and ..

end Sys2Proof.Proofs
end

section
/-! PROOFS. A register that is EMPTY for no outstanding operation (06 R124): s0, which a producer neither marks nor fills, is left as it
is when the operation that it is EMPTY for ends (O2). -/
namespace Sys2Proof.Machine

/-- A state whose s0 is EMPTY for the one division that is outstanding, which ends next. -/
noncomputable def s0Empty : State := { State.reset with
  nextId := 2, agenda := [.scalarDivComplete 1]
  cur := { State.reset.cur with
    ops := [⟨1, .div, [outS 0 0], none, false, false, false, false, 0, false, none, 0⟩]
    regs := { State.reset.cur.regs with s := State.reset.cur.regs.s.set 0 ⟨0, .empty 1 0 none false⟩ } } }

/-- Of its registers s0 alone is EMPTY. -/
theorem s0Empty_s (r : SReg) : (s0Empty.cur.regs.s[r]).st = if r = 0 then .empty 1 0 none false else .full := by
  revert r
  decide +kernel

theorem s0Empty_v (r : VReg) : (s0Empty.cur.regs.v[r]).st = .full := by
  revert r
  decide +kernel

/-- That division has s0 among its results. -/
theorem s0Empty_producersOutstanding : Claims.producersOutstanding s0Empty := by
  refine ⟨List.forall_mem_singleton.mpr ⟨⟨fun r n b f p h => ?_, fun r n b f p h => ?_, fun n b f p h => ?_⟩, ?_⟩, ?_⟩
  · rw [s0Empty_s] at h
    split at h
    · next h0 =>
      obtain ⟨rfl, -⟩ := RState.empty.inj h
      subst h0
      decide +kernel
    · cases h
  · rw [s0Empty_v] at h
    cases h
  · cases h
  · decide +kernel
  · decide +kernel

/-- A task whose s0 is EMPTY although nothing of it is outstanding. -/
def s0Left (t : Task) : Prop := t.ops = [] ∧ (t.regs.s[(0 : SReg)]).st = .empty 1 0 none false

theorem not_emptyCounted_of_s0Left {t : Task} (h : s0Left t) : ¬ Claims.emptyCounted t := by
  obtain ⟨hops, hs0⟩ := h
  rintro ⟨hs, -⟩
  have hdue := hs 0 _ _ _ _ hs0
  rw [hops] at hdue
  exact absurd hdue (by decide)

/-- The division ends, and s0 is EMPTY still. -/
theorem step_s0Empty : ∃ t, step s0Empty = .next t ∧ s0Left t.cur := by
  have h : (match step s0Empty with
      | .next t => decide (t.cur.ops = []) && decide ((t.cur.regs.s[(0 : SReg)]).st = .empty 1 0 none false)
      | _ => false) = true := by decide +kernel
  split at h
  · next t ht => exact ⟨t, ht, by simpa [s0Left] using h⟩
  · cases h

end Sys2Proof.Machine

namespace Sys2Proof.Proofs
open Sys2Proof.Machine

/-- Refutes O2: the count holds of s0 as of any register, but no operation fills s0, so at a state whose s0 is EMPTY for an operation
that then ends, the operation is gone and s0 stays EMPTY. -/
theorem not_emptyRegistersHaveProducers : ¬ Obligations.EmptyRegistersHaveProducers := by
  rintro ⟨hstep, -⟩
  obtain ⟨t, ht, hleft⟩ := step_s0Empty
  exact not_emptyCounted_of_s0Left hleft ((hstep _ _ s0Empty_producersOutstanding ht).1 _ List.mem_cons_self).1

end Sys2Proof.Proofs
end

section
/-! PROOFS. The encoding of slots (07 R138 to R145): the decoder reads exactly what the encoder writes (O51, O52). -/
namespace Sys2Proof

/-! ### Fields of a number -/

/-- The `w` bits of a number from bit `k` up. -/
def field (k w n : Nat) : Nat := n / 2 ^ k % 2 ^ w

/-- A value as a field of `w` bits holds it. -/
def fit (w v : Nat) : Nat := v % 2 ^ w

/-- The fields of `n` from bit `k` up, whose widths are `ws`. -/
@[simp] def fieldsFrom (n : Nat) : Nat → List Nat → List Nat
  | _, [] => []
  | k, w :: ws => field k w n :: fieldsFrom n (k + w) ws

theorem cut_div (n k : Nat) (ws : List Nat) : cut ws (n / 2 ^ k) = fieldsFrom n k ws := by
  induction ws generalizing k with
  | nil => rfl
  | cons w ws ih => rw [cut, fieldsFrom, field, Nat.div_div_eq_div_mul, ← Nat.pow_add, ih]

/-- What the decoder cuts a number into are its fields from bit 0 up. -/
@[simp] theorem cut_eq_fieldsFrom (ws : List Nat) (n : Nat) : cut ws n = fieldsFrom n 0 ws := by
  rw [← cut_div, Nat.pow_zero, Nat.div_one]

/-- One field more: the low bits are the field, the rest is what is above it. -/
theorem glue_cons_eq_iff (w v : Nat) (fs : List (Nat × Nat)) (n : Nat) :
    glue ((w, v) :: fs) = n ↔ n % 2 ^ w = fit w v ∧ glue fs = n / 2 ^ w := by
  have hpos : 0 < 2 ^ w := Nat.two_pow_pos w
  have hv : v % 2 ^ w < 2 ^ w := Nat.mod_lt v hpos
  constructor
  · rintro rfl
    exact ⟨by rw [glue, Nat.add_mul_mod_self_left, Nat.mod_mod, fit],
      by rw [glue, Nat.add_mul_div_left _ _ hpos, Nat.div_eq_of_lt hv, Nat.zero_add]⟩
  · rintro ⟨hm, hd⟩
    rw [glue, hd, ← fit, ← hm, Nat.mod_add_div]

/-- A number is glued from fields if each of them is what it holds there and it has no bit above them. -/
theorem glue_eq_iff (fs : List (Nat × Nat)) (n : Nat) :
    glue fs = n ↔ cut (fs.map Prod.fst) n = fs.map (fun f => fit f.1 f.2) ∧ n < 2 ^ (fs.map Prod.fst).sum := by
  induction fs generalizing n with
  | nil => simp [glue, eq_comm]
  | cons f fs ih =>
    have hlt : n / 2 ^ f.1 < 2 ^ (fs.map Prod.fst).sum ↔ n < 2 ^ (f.1 + (fs.map Prod.fst).sum) := by
      rw [Nat.div_lt_iff_lt_mul (Nat.two_pow_pos _), Nat.pow_add, Nat.mul_comm]
    rw [glue_cons_eq_iff, ih, hlt]
    simp only [cut, List.map_cons, List.cons.injEq, List.sum_cons, and_assoc]

/-! ### The values that fields hold -/

section
open Fin.NatCast
variable (k n : Nat)

@[simp] theorem fit_zero (w : Nat) : fit w 0 = 0 := Nat.zero_mod _

@[simp] theorem fit_sreg (r : SReg) : fit 6 r.val = r.val := Nat.mod_eq_of_lt r.isLt
@[simp] theorem fit_vreg (r : VReg) : fit 5 r.val = r.val := Nat.mod_eq_of_lt r.isLt
@[simp] theorem fit_preg (r : PReg) : fit 3 r.val = r.val := Nat.mod_eq_of_lt r.isLt
@[simp] theorem fit_bits {w : Nat} (b : BitVec w) : fit w b.toNat = b.toNat := Nat.mod_eq_of_lt b.isLt
@[simp] theorem fit_bit (b : Bool) : fit 1 b.toNat = b.toNat := Nat.mod_eq_of_lt b.toNat_lt

theorem field_lt (w : Nat) : field k w n < 2 ^ w := Nat.mod_lt _ (Nat.two_pow_pos w)

@[simp] theorem sreg_of_field (r : SReg) : ((field k 6 n : Nat) : Fin 64) = r ↔ field k 6 n = r.val := by
  rw [Fin.ext_iff, Fin.val_natCast, Nat.mod_eq_of_lt (show field k 6 n < 64 from field_lt k n 6)]

@[simp] theorem vreg_of_field (r : VReg) : ((field k 5 n : Nat) : Fin 32) = r ↔ field k 5 n = r.val := by
  rw [Fin.ext_iff, Fin.val_natCast, Nat.mod_eq_of_lt (show field k 5 n < 32 from field_lt k n 5)]

@[simp] theorem preg_of_field (r : PReg) : ((field k 3 n : Nat) : Fin 8) = r ↔ field k 3 n = r.val := by
  rw [Fin.ext_iff, Fin.val_natCast, Nat.mod_eq_of_lt (show field k 3 n < 8 from field_lt k n 3)]

@[simp] theorem bits_of_field {w : Nat} (b : BitVec w) : BitVec.ofNat w (field k w n) = b ↔ field k w n = b.toNat := by
  rw [← BitVec.toNat_inj, BitVec.toNat_ofNat, Nat.mod_eq_of_lt (field_lt k n w)]

@[simp] theorem bit_of_field (b : Bool) : (field k 1 n == 1) = b ↔ field k 1 n = b.toNat := by
  have hlt : field k 1 n < 2 := field_lt k n 1
  cases b <;> simp
  omega

end

/-! ### Coded fields -/

@[simp] theorem Width.ofCode_eq_some (x : Nat) (c : Width) : Width.ofCode x = some c ↔ x = c.code := by
  cases c <;> unfold Width.ofCode <;> split <;> simp_all [Width.code]
@[simp] theorem Width.fit_code (c : Width) : fit 2 c.code = c.code := by cases c <;> rfl

@[simp] theorem ElemType.ofCode_eq_some (x : Nat) (c : ElemType) : ElemType.ofCode x = some c ↔ x = c.code := by
  cases c <;> unfold ElemType.ofCode <;> split <;> simp_all [ElemType.code]
@[simp] theorem ElemType.fit_code (c : ElemType) : fit 3 c.code = c.code := by cases c <;> rfl

@[simp] theorem Esz.ofCode_eq_some (x : Nat) (c : Esz) : Esz.ofCode x = some c ↔ x = c.code := by
  cases c <;> unfold Esz.ofCode <;> split <;> simp_all [Esz.code]
@[simp] theorem Esz.fit_code (c : Esz) : fit 2 c.code = c.code := by cases c <;> rfl

@[simp] theorem Scope.ofCode_eq_some (x : Nat) (c : Scope) : Scope.ofCode x = some c ↔ x = c.code := by
  cases c <;> unfold Scope.ofCode <;> split <;> simp_all [Scope.code]
@[simp] theorem Scope.fit_code (c : Scope) : fit 3 c.code = c.code := by cases c <;> rfl

@[simp] theorem AScope.ofCode_eq_some (x : Nat) (c : AScope) : AScope.ofCode x = some c ↔ x = c.code := by
  cases c <;> unfold AScope.ofCode <;> split <;> simp_all [AScope.code]
@[simp] theorem AScope.fit_code (c : AScope) : fit 2 c.code = c.code := by cases c <;> rfl

@[simp] theorem Ord.ofCode_eq_some (x : Nat) (c : Ord) : Ord.ofCode x = some c ↔ x = c.code := by
  cases c <;> unfold Ord.ofCode <;> split <;> simp_all [Ord.code]
@[simp] theorem Ord.fit_code (c : Ord) : fit 2 c.code = c.code := by cases c <;> rfl

@[simp] theorem CcV.ofCode_eq_some (x : Nat) (c : CcV) : CcV.ofCode x = some c ↔ x = c.code := by
  cases c <;> unfold CcV.ofCode <;> split <;> simp_all [CcV.code]
@[simp] theorem CcV.fit_code (c : CcV) : fit 3 c.code = c.code := by cases c <;> rfl

@[simp] theorem CcI.ofCode_eq_some (x : Nat) (c : CcI) : CcI.ofCode x = some c ↔ x = c.code := by
  cases c <;> unfold CcI.ofCode <;> split <;> simp_all [CcI.code]
@[simp] theorem CcI.fit_code (c : CcI) : fit 3 c.code = c.code := by cases c <;> rfl

@[simp] theorem CcF.ofCode_eq_some (x : Nat) (c : CcF) : CcF.ofCode x = some c ↔ x = c.code := by
  cases c <;> unfold CcF.ofCode <;> split <;> simp_all [CcF.code]
@[simp] theorem CcF.fit_code (c : CcF) : fit 3 c.code = c.code := by cases c <;> rfl

@[simp] theorem Ovf.ofCode_eq_some (x : Nat) (c : Ovf) : Ovf.ofCode x = some c ↔ x = c.code := by
  cases c <;> unfold Ovf.ofCode <;> split <;> simp_all [Ovf.code]
@[simp] theorem Ovf.fit_code (c : Ovf) : fit 2 c.code = c.code := by cases c <;> rfl

@[simp] theorem Rnd.ofCode_eq_some (x : Nat) (c : Rnd) : Rnd.ofCode x = some c ↔ x = c.code := by
  cases c <;> unfold Rnd.ofCode <;> split <;> simp_all [Rnd.code]
@[simp] theorem Rnd.fit_code (c : Rnd) : fit 2 c.code = c.code := by cases c <;> rfl

@[simp] theorem QFmt.ofCode_eq_some (x : Nat) (c : QFmt) : QFmt.ofCode x = some c ↔ x = c.code := by
  cases c <;> unfold QFmt.ofCode <;> split <;> simp_all [QFmt.code]
@[simp] theorem QFmt.fit_code (c : QFmt) : fit 3 c.code = c.code := by cases c <;> rfl

@[simp] theorem FType.ofCode_eq_some (x : Nat) (c : FType) : FType.ofCode x = some c ↔ x = c.code := by
  cases c <;> unfold FType.ofCode <;> split <;> simp_all [FType.code]
@[simp] theorem FType.fit_code (c : FType) : fit 2 c.code = c.code := by cases c <;> rfl

@[simp] theorem CvtType.ofCode_eq_some (x : Nat) (c : CvtType) : CvtType.ofCode x = some c ↔ x = c.code := by
  cases c <;> unfold CvtType.ofCode <;> split <;> simp_all [CvtType.code]
@[simp] theorem CvtType.fit_code (c : CvtType) : fit 3 c.code = c.code := by cases c <;> rfl

@[simp] theorem Timeline.ofCode_eq_some (x : Nat) (c : Timeline) : Timeline.ofCode x = some c ↔ x = c.code := by
  cases c <;> unfold Timeline.ofCode <;> split <;> simp_all [Timeline.code]
@[simp] theorem Timeline.fit_code (c : Timeline) : fit 3 c.code = c.code := by cases c <;> rfl

/-! ### Operand layouts -/

/-- A decoder of operand fields that reads exactly the encodings of its layout, which have 22 bits. -/
def Layout {α : Type} (dec : Nat → Option α) (enc : α → Nat) : Prop := ∀ n o, (dec n = some o ∧ n < 2 ^ 22) ↔ enc o = n

/-- A layout whose fields make up 22 bits and are decoded one by one. -/
theorem layout_of_fields {α : Type} {dec : Nat → Option α} {enc : α → Nat} {fs : α → List (Nat × Nat)}
    (henc : ∀ o, enc o = glue (fs o)) (hsum : ∀ o, ((fs o).map Prod.fst).sum = 22)
    (h : ∀ n o, dec n = some o ↔ cut ((fs o).map Prod.fst) n = (fs o).map fun f => fit f.1 f.2) : Layout dec enc := fun n o => by
  rw [henc, glue_eq_iff, hsum, h]

@[simp] theorem RRR.layout : Layout RRR.dec RRR.enc :=
  layout_of_fields (fun _ => rfl) (fun _ => rfl) fun n o => by cases o; simp [RRR.dec]; tauto

@[simp] theorem RI.layout : Layout RI.dec RI.enc :=
  layout_of_fields (fun _ => rfl) (fun _ => rfl) fun n o => by cases o; simp [RI.dec]; tauto

@[simp] theorem RR.layout : Layout RR.dec RR.enc :=
  layout_of_fields (fun _ => rfl) (fun _ => rfl) fun n o => by cases o; simp [RR.dec]; tauto

@[simp] theorem SelOps.layout : Layout SelOps.dec SelOps.enc :=
  layout_of_fields (fun _ => rfl) (fun _ => rfl) fun n o => by cases o; simp [SelOps.dec]; tauto

@[simp] theorem LiOps.layout : Layout LiOps.dec LiOps.enc :=
  layout_of_fields (fun _ => rfl) (fun _ => rfl) fun n o => by cases o; simp [LiOps.dec]; tauto

@[simp] theorem CmpOps.layout : Layout CmpOps.dec CmpOps.enc :=
  layout_of_fields (fun _ => rfl) (fun _ => rfl) fun n o => by cases o; simp [CmpOps.dec, Option.bind_eq_some_iff]; tauto

@[simp] theorem CmpiOps.layout : Layout CmpiOps.dec CmpiOps.enc :=
  layout_of_fields (fun _ => rfl) (fun _ => rfl) fun n o => by cases o; simp [CmpiOps.dec, Option.bind_eq_some_iff]; tauto

@[simp] theorem DOnly.layout : Layout DOnly.dec DOnly.enc :=
  layout_of_fields (fun _ => rfl) (fun _ => rfl) fun n o => by cases o; simp [DOnly.dec]

@[simp] theorem AOnly.layout : Layout AOnly.dec AOnly.enc :=
  layout_of_fields (fun _ => rfl) (fun _ => rfl) fun n o => by cases o; simp [AOnly.dec]; tauto

@[simp] theorem FRRR.layout : Layout FRRR.dec FRRR.enc :=
  layout_of_fields (fun _ => rfl) (fun _ => rfl) fun n o => by cases o; simp [FRRR.dec, Option.bind_eq_some_iff]; tauto

@[simp] theorem FcmpOps.layout : Layout FcmpOps.dec FcmpOps.enc :=
  layout_of_fields (fun _ => rfl) (fun _ => rfl) fun n o => by cases o; simp [FcmpOps.dec, Option.bind_eq_some_iff]; tauto

@[simp] theorem FcvtOps.layout : Layout FcvtOps.dec FcvtOps.enc :=
  layout_of_fields (fun _ => rfl) (fun _ => rfl) fun n o => by cases o; simp [FcvtOps.dec, Option.bind_eq_some_iff]; tauto

@[simp] theorem FRR.layout : Layout FRR.dec FRR.enc :=
  layout_of_fields (fun _ => rfl) (fun _ => rfl) fun n o => by cases o; simp [FRR.dec, Option.bind_eq_some_iff]; tauto

@[simp] theorem DK.layout : Layout DK.dec DK.enc :=
  layout_of_fields (fun _ => rfl) (fun _ => rfl) fun n o => by cases o; simp [DK.dec]; tauto

@[simp] theorem AK.layout : Layout AK.dec AK.enc :=
  layout_of_fields (fun _ => rfl) (fun _ => rfl) fun n o => by cases o; simp [AK.dec]; tauto

@[simp] theorem AX.layout : Layout AX.dec AX.enc :=
  layout_of_fields (fun _ => rfl) (fun _ => rfl) fun n o => by cases o; simp [AX.dec]; tauto

@[simp] theorem BrOps.layout : Layout BrOps.dec BrOps.enc :=
  layout_of_fields (fun _ => rfl) (fun _ => rfl) fun n o => by cases o; simp [BrOps.dec]; tauto

@[simp] theorem FrameOps.layout : Layout FrameOps.dec FrameOps.enc :=
  layout_of_fields (fun _ => rfl) (fun _ => rfl) fun n o => by cases o; simp [FrameOps.dec]; tauto

@[simp] theorem DbnzOps.layout : Layout DbnzOps.dec DbnzOps.enc :=
  layout_of_fields (fun _ => rfl) (fun _ => rfl) fun n o => by cases o; simp [DbnzOps.dec]; tauto

@[simp] theorem KOnly.layout : Layout KOnly.dec KOnly.enc :=
  layout_of_fields (fun _ => rfl) (fun _ => rfl) fun n o => by cases o; simp [KOnly.dec]; tauto

@[simp] theorem VRR.layout : Layout VRR.dec VRR.enc :=
  layout_of_fields (fun _ => rfl) (fun _ => rfl) fun n o => by cases o; simp [VRR.dec, Option.bind_eq_some_iff]; tauto

@[simp] theorem VR1.layout : Layout VR1.dec VR1.enc :=
  layout_of_fields (fun _ => rfl) (fun _ => rfl) fun n o => by cases o; simp [VR1.dec, Option.bind_eq_some_iff]; tauto

@[simp] theorem VcmpOps.layout : Layout VcmpOps.dec VcmpOps.enc :=
  layout_of_fields (fun _ => rfl) (fun _ => rfl) fun n o => by cases o; simp [VcmpOps.dec, Option.bind_eq_some_iff]; tauto

@[simp] theorem VBc.layout : Layout VBc.dec VBc.enc :=
  layout_of_fields (fun _ => rfl) (fun _ => rfl) fun n o => by cases o; simp [VBc.dec, Option.bind_eq_some_iff]; tauto

@[simp] theorem VextOps.layout : Layout VextOps.dec VextOps.enc :=
  layout_of_fields (fun _ => rfl) (fun _ => rfl) fun n o => by cases o; simp [VextOps.dec, Option.bind_eq_some_iff]; tauto

@[simp] theorem VSS.layout : Layout VSS.dec VSS.enc :=
  layout_of_fields (fun _ => rfl) (fun _ => rfl) fun n o => by cases o; simp [VSS.dec, Option.bind_eq_some_iff]; tauto

@[simp] theorem VII.layout : Layout VII.dec VII.enc :=
  layout_of_fields (fun _ => rfl) (fun _ => rfl) fun n o => by cases o; simp [VII.dec, Option.bind_eq_some_iff]; tauto

@[simp] theorem VLiOps.layout : Layout VLiOps.dec VLiOps.enc :=
  layout_of_fields (fun _ => rfl) (fun _ => rfl) fun n o => by cases o; simp [VLiOps.dec, Option.bind_eq_some_iff]; tauto

@[simp] theorem VIota.layout : Layout VIota.dec VIota.enc :=
  layout_of_fields (fun _ => rfl) (fun _ => rfl) fun n o => by cases o; simp [VIota.dec, Option.bind_eq_some_iff]; tauto

@[simp] theorem VcntOps.layout : Layout VcntOps.dec VcntOps.enc :=
  layout_of_fields (fun _ => rfl) (fun _ => rfl) fun n o => by cases o; simp [VcntOps.dec, Option.bind_eq_some_iff]; tauto

@[simp] theorem VdfOps.layout : Layout VdfOps.dec VdfOps.enc :=
  layout_of_fields (fun _ => rfl) (fun _ => rfl) fun n o => by cases o; simp [VdfOps.dec]; tauto

@[simp] theorem VdstatOps.layout : Layout VdstatOps.dec VdstatOps.enc :=
  layout_of_fields (fun _ => rfl) (fun _ => rfl) fun n o => by cases o; simp [VdstatOps.dec]; tauto

@[simp] theorem VcvtOps.layout : Layout VcvtOps.dec VcvtOps.enc :=
  layout_of_fields (fun _ => rfl) (fun _ => rfl) fun n o => by cases o; simp [VcvtOps.dec, Option.bind_eq_some_iff]; tauto

@[simp] theorem VqOps.layout : Layout VqOps.dec VqOps.enc :=
  layout_of_fields (fun _ => rfl) (fun _ => rfl) fun n o => by cases o; simp [VqOps.dec, Option.bind_eq_some_iff]; tauto

@[simp] theorem VdqOps.layout : Layout VdqOps.dec VdqOps.enc :=
  layout_of_fields (fun _ => rfl) (fun _ => rfl) fun n o => by cases o; simp [VdqOps.dec, Option.bind_eq_some_iff]; tauto

@[simp] theorem VredOps.layout : Layout VredOps.dec VredOps.enc :=
  layout_of_fields (fun _ => rfl) (fun _ => rfl) fun n o => by cases o; simp [VredOps.dec, Option.bind_eq_some_iff]; tauto

@[simp] theorem XmOps.layout : Layout XmOps.dec XmOps.enc :=
  layout_of_fields (fun _ => rfl) (fun _ => rfl) fun n o => by cases o; simp [XmOps.dec]; tauto

@[simp] theorem MmaOps.layout : Layout MmaOps.dec MmaOps.enc :=
  layout_of_fields (fun _ => rfl) (fun _ => rfl) fun n o => by cases o; simp [MmaOps.dec]; tauto

@[simp] theorem MpsetOps.layout : Layout MpsetOps.dec MpsetOps.enc :=
  layout_of_fields (fun _ => rfl) (fun _ => rfl) fun n o => by cases o; simp [MpsetOps.dec]; tauto

@[simp] theorem MpgetOps.layout : Layout MpgetOps.dec MpgetOps.enc :=
  layout_of_fields (fun _ => rfl) (fun _ => rfl) fun n o => by cases o; simp [MpgetOps.dec]; tauto

@[simp] theorem AttnOps.layout : Layout AttnOps.dec AttnOps.enc :=
  layout_of_fields (fun _ => rfl) (fun _ => rfl) fun n o => by cases o; simp [AttnOps.dec]; tauto

@[simp] theorem MSOps.layout : Layout MSOps.dec MSOps.enc :=
  layout_of_fields (fun _ => rfl) (fun _ => rfl) fun n o => by cases o; simp [MSOps.dec]; tauto

@[simp] theorem MROps.layout : Layout MROps.dec MROps.enc :=
  layout_of_fields (fun _ => rfl) (fun _ => rfl) fun n o => by cases o; simp [MROps.dec, Option.bind_eq_some_iff]; tauto

@[simp] theorem MVOps.layout : Layout MVOps.dec MVOps.enc :=
  layout_of_fields (fun _ => rfl) (fun _ => rfl) fun n o => by cases o; simp [MVOps.dec, Option.bind_eq_some_iff]; tauto

@[simp] theorem MVSOps.layout : Layout MVSOps.dec MVSOps.enc :=
  layout_of_fields (fun _ => rfl) (fun _ => rfl) fun n o => by cases o; simp [MVSOps.dec, Option.bind_eq_some_iff]; tauto

@[simp] theorem MVGOps.layout : Layout MVGOps.dec MVGOps.enc :=
  layout_of_fields (fun _ => rfl) (fun _ => rfl) fun n o => by cases o; simp [MVGOps.dec, Option.bind_eq_some_iff]; tauto

@[simp] theorem ATOps.layout : Layout ATOps.dec ATOps.enc :=
  layout_of_fields (fun _ => rfl) (fun _ => rfl) fun n o => by cases o; simp [ATOps.dec, Option.bind_eq_some_iff]; tauto

@[simp] theorem SyncOps.layout : Layout SyncOps.dec SyncOps.enc :=
  layout_of_fields (fun _ => rfl) (fun _ => rfl) fun n o => by cases o; simp [SyncOps.dec, Option.bind_eq_some_iff]; tauto

@[simp] theorem BindOps.layout : Layout BindOps.dec BindOps.enc :=
  layout_of_fields (fun _ => rfl) (fun _ => rfl) fun n o => by cases o; simp [BindOps.dec]; tauto

@[simp] theorem FenceOps.layout : Layout FenceOps.dec FenceOps.enc :=
  layout_of_fields (fun _ => rfl) (fun _ => rfl) fun n o => by cases o; simp [FenceOps.dec, Option.bind_eq_some_iff]; tauto

@[simp] theorem TlAOps.layout : Layout TlAOps.dec TlAOps.enc :=
  layout_of_fields (fun _ => rfl) (fun _ => rfl) fun n o => by cases o; simp [TlAOps.dec, Option.bind_eq_some_iff]; tauto

@[simp] theorem TlOps.layout : Layout TlOps.dec TlOps.enc :=
  layout_of_fields (fun _ => rfl) (fun _ => rfl) fun n o => by cases o; simp [TlOps.dec, Option.bind_eq_some_iff]; tauto

@[simp] theorem MSZ.layout : Layout MSZ.dec MSZ.enc :=
  layout_of_fields (fun _ => rfl) (fun _ => rfl) fun n o => by cases o; simp [MSZ.dec, Option.bind_eq_some_iff]; tauto

@[simp] theorem HsetOps.layout : Layout HsetOps.dec HsetOps.enc :=
  layout_of_fields (fun _ => rfl) (fun _ => rfl) fun n o => by cases o; simp [HsetOps.dec]; tauto

@[simp] theorem HgoOps.layout : Layout HgoOps.dec HgoOps.enc :=
  layout_of_fields (fun _ => rfl) (fun _ => rfl) fun n o => by cases o; simp [HgoOps.dec]; tauto

@[simp] theorem HgetOps.layout : Layout HgetOps.dec HgetOps.enc :=
  layout_of_fields (fun _ => rfl) (fun _ => rfl) fun n o => by cases o; simp [HgetOps.dec]; tauto

@[simp] theorem GrantOps.layout : Layout GrantOps.dec GrantOps.enc :=
  layout_of_fields (fun _ => rfl) (fun _ => rfl) fun n o => by cases o; simp [GrantOps.dec]; tauto

@[simp] theorem ChOps.layout : Layout ChOps.dec ChOps.enc :=
  layout_of_fields (fun _ => rfl) (fun _ => rfl) fun n o => by cases o; simp [ChOps.dec]; tauto

@[simp] theorem MSA.layout : Layout MSA.dec MSA.enc :=
  layout_of_fields (fun _ => rfl) (fun _ => rfl) fun n o => by cases o; simp [MSA.dec]; tauto

@[simp] theorem WayOps.layout : Layout WayOps.dec WayOps.enc :=
  layout_of_fields (fun _ => rfl) (fun _ => rfl) fun n o => by cases o; simp [WayOps.dec]; tauto

@[simp] theorem QAOps.layout : Layout QAOps.dec QAOps.enc :=
  layout_of_fields (fun _ => rfl) (fun _ => rfl) fun n o => by cases o; simp [QAOps.dec]; tauto

@[simp] theorem QDOps.layout : Layout QDOps.dec QDOps.enc :=
  layout_of_fields (fun _ => rfl) (fun _ => rfl) fun n o => by cases o; simp [QDOps.dec]; tauto

@[simp] theorem DAX.layout : Layout DAX.dec DAX.enc :=
  layout_of_fields (fun _ => rfl) (fun _ => rfl) fun n o => by cases o; simp [DAX.dec]; tauto

@[simp] theorem SpaceOps.layout : Layout SpaceOps.dec SpaceOps.enc :=
  layout_of_fields (fun _ => rfl) (fun _ => rfl) fun n o => by cases o; simp [SpaceOps.dec]; tauto

/-! ### Layouts with a sub-operation -/

/-- A decoder of operand fields that reads exactly the encodings of a layout whose `w` bits from bit `k` say which instruction it is. -/
def OpLayout {α : Type} (k w : Nat) (dec : Nat → Option α) (enc : Nat → α → Nat) : Prop :=
  ∀ op < 2 ^ w, ∀ n o, (dec n = some o ∧ field k w n = op ∧ n < 2 ^ 22) ↔ enc op o = n

theorem opLayout_of_fields {α : Type} {k w : Nat} {dec : Nat → Option α} {enc : Nat → α → Nat} {fs : Nat → α → List (Nat × Nat)}
    (henc : ∀ op o, enc op o = glue (fs op o)) (hsum : ∀ op o, ((fs op o).map Prod.fst).sum = 22)
    (h : ∀ op, fit w op = op → ∀ n o,
      dec n = some o ∧ field k w n = op ↔ cut ((fs op o).map Prod.fst) n = (fs op o).map fun f => fit f.1 f.2) :
    OpLayout k w dec enc := fun op hop n o => by
  rw [henc, glue_eq_iff, hsum, ← h op (Nat.mod_eq_of_lt hop), and_assoc]

theorem DivOps.layout : OpLayout 0 2 DivOps.dec DivOps.enc :=
  opLayout_of_fields (fun _ _ => rfl) (fun _ _ => rfl) fun op hop n o => by cases o; simp [DivOps.dec, hop]; tauto

theorem FesetOps.layout : OpLayout 0 2 FesetOps.dec FesetOps.enc :=
  opLayout_of_fields (fun _ _ => rfl) (fun _ _ => rfl) fun op hop n o => by cases o; simp [FesetOps.dec, hop]; tauto

theorem TlbOps.layout : OpLayout 0 2 TlbOps.dec TlbOps.enc :=
  opLayout_of_fields (fun _ _ => rfl) (fun _ _ => rfl) fun op hop n o => by cases o; simp [TlbOps.dec, hop]; tauto

theorem PlogOps.layout : OpLayout 10 3 PlogOps.dec PlogOps.enc :=
  opLayout_of_fields (fun _ _ => rfl) (fun _ _ => rfl) fun op hop n o => by cases o; simp [PlogOps.dec, hop]; tauto

/-! ### What is encoded is decoded -/

/-- What the decoder makes of the operands that it read, if any. -/
def readAs {α : Type} (f : α → Instr) (x : Option α) : Except DecodeErr Instr :=
  match x with
  | some o => .ok (f o)
  | none => .error .field

/-- The decoder reads an instruction back from its opcode and operand field. -/
def ReadBack (i : Instr) : Prop := ∀ op n, encodeParts i = some (op, n) → candidate op n = .ok i ∧ op < 2 ^ 9 ∧ n < 2 ^ 22

section
variable {i : Instr} {α : Type} {f : α → Instr} {op : Nat}

theorem readBack_none (h : encodeParts i = none) : ReadBack i := fun _ _ hp => (Option.some_ne_none _ (hp.symm.trans h)).elim

theorem readBack_some {n : Nat} (h : encodeParts i = some (op, n)) (hcand : candidate op n = .ok i) (hop : op < 2 ^ 9) (hn : n < 2 ^ 22) :
    ReadBack i := fun op' n' hp => by
  obtain ⟨rfl, rfl⟩ := Prod.mk.inj (Option.some.inj (h.symm.trans hp))
  exact ⟨hcand, hop, hn⟩

theorem Layout.readBack {dec : Nat → Option α} {enc : α → Nat} (h : Layout dec enc) (henc : ∀ o, encodeParts (f o) = some (op, enc o))
    (hcand : ∀ n, candidate op n = readAs f (dec n)) (hop : op < 2 ^ 9) (o : α) : ReadBack (f o) := by
  obtain ⟨hdec, hn⟩ := (h _ o).mpr rfl
  exact readBack_some (henc o) (by rw [hcand, hdec]; rfl) hop hn

/-- The rows of an opcode with a sub-operation are told apart by its field. -/
theorem OpLayout.readBack {k w j : Nat} {dec : Nat → Option α} {enc : Nat → α → Nat} (h : OpLayout k w dec enc)
    {rows : Nat → List (Except DecodeErr Instr)} (hcand : ∀ n, candidate op n = (rows n).getD (field k w n) (.error .field))
    (henc : ∀ o, encodeParts (f o) = some (op, enc j o)) (hrow : ∀ n, (rows n)[j]? = some (readAs f (dec n))) (hj : j < 2 ^ w)
    (hop : op < 2 ^ 9) (o : α) : ReadBack (f o) := by
  obtain ⟨hdec, hfield, hn⟩ := (h j hj _ o).mpr rfl
  exact readBack_some (henc o) (by rw [hcand, hfield, List.getD_eq_getElem?_getD, hrow, hdec]; rfl) hop hn

end

/-- The rows of the divisions, by the field that tells them apart. -/
theorem candidate_division (n : Nat) : candidate 0x006 n =
    ([Instr.div, .divu, .rem, .remu].map fun f => readAs f (DivOps.dec n)).getD (field 0 2 n) (.error .field) := by
  have hlt : field 0 2 n < 4 := field_lt 0 n 2
  change (match field 0 2 n with
    | 0 => readAs .div (DivOps.dec n)
    | 1 => readAs .divu (DivOps.dec n)
    | 2 => readAs .rem (DivOps.dec n)
    | 3 => readAs .remu (DivOps.dec n)
    | _ => .error .field) = _
  interval_cases field 0 2 n <;> rfl

/-- The rows of the operations on predicates, by the field that tells them apart. -/
theorem candidate_predicates (n : Nat) : candidate 0x01E n =
    ([Instr.pand, .por, .pxor, .pandc, .porc, .pnand, .pnor, .pxnor].map fun f => readAs f (PlogOps.dec n)).getD (field 10 3 n) (.error .field) := by
  have hlt : field 10 3 n < 8 := field_lt 10 n 3
  change (match field 10 3 n with
    | 0 => readAs .pand (PlogOps.dec n)
    | 1 => readAs .por (PlogOps.dec n)
    | 2 => readAs .pxor (PlogOps.dec n)
    | 3 => readAs .pandc (PlogOps.dec n)
    | 4 => readAs .porc (PlogOps.dec n)
    | 5 => readAs .pnand (PlogOps.dec n)
    | 6 => readAs .pnor (PlogOps.dec n)
    | 7 => readAs .pxnor (PlogOps.dec n)
    | _ => .error .field) = _
  interval_cases field 10 3 n <;> rfl

/-- The rows of FESET, by the field that tells them apart. -/
theorem candidate_feset (n : Nat) : candidate 0x19C n =
    ([Instr.fesetEmpty, .fesetFull].map fun f => readAs f (FesetOps.dec n)).getD (field 0 2 n) (.error .field) := by
  have hlt : field 0 2 n < 4 := field_lt 0 n 2
  change (match field 0 2 n with
    | 0 => readAs .fesetEmpty (FesetOps.dec n)
    | 1 => readAs .fesetFull (FesetOps.dec n)
    | _ => .error .field) = _
  interval_cases field 0 2 n <;> rfl

/-- The rows of TLBINV, by the field that tells them apart. -/
theorem candidate_tlbinv (n : Nat) : candidate 0x1F0 n =
    ([Instr.tlbinvPage, .tlbinvCtx, .tlbinvAll].map fun f => readAs f (TlbOps.dec n)).getD (field 0 2 n) (.error .field) := by
  have hlt : field 0 2 n < 4 := field_lt 0 n 2
  change (match field 0 2 n with
    | 0 => readAs .tlbinvPage (TlbOps.dec n)
    | 1 => readAs .tlbinvCtx (TlbOps.dec n)
    | 2 => readAs .tlbinvAll (TlbOps.dec n)
    | _ => .error .field) = _
  interval_cases field 0 2 n <;> rfl

/-- Decoding the encoding of an instruction gives the instruction back: by its layout, and the row of its opcode. -/
theorem readBack (i : Instr) : ReadBack i := by
  cases i with
  | nop | ret | rte | halt | texit | knext => exact readBack_some rfl rfl (by decide) (by decide)
  | div o | divu o | rem o | remu o =>
    exact DivOps.layout.readBack candidate_division (fun _ => rfl) (fun _ => rfl) (by decide) (by decide) o
  | pand o | por o | pxor o | pandc o | porc o | pnand o | pnor o | pxnor o =>
    exact PlogOps.layout.readBack candidate_predicates (fun _ => rfl) (fun _ => rfl) (by decide) (by decide) o
  | fesetEmpty o | fesetFull o =>
    exact FesetOps.layout.readBack candidate_feset (fun _ => rfl) (fun _ => rfl) (by decide) (by decide) o
  | tlbinvPage o | tlbinvCtx o | tlbinvAll o =>
    exact TlbOps.layout.readBack candidate_tlbinv (fun _ => rfl) (fun _ => rfl) (by decide) (by decide) o
  | add o | sub o | mul o | mulh o | and o | or o | xor o | shl o | shr o | sar o | rotl o | min o | max o =>
    exact RRR.layout.readBack (fun _ => rfl) (fun _ => rfl) (by decide) o
  | addi o | andi o | ori o | xori o | shli o | shri o | sari o =>
    exact RI.layout.readBack (fun _ => rfl) (fun _ => rfl) (by decide) o
  | clz o | ctz o | popc o | emcomb o | tspawn o =>
    exact RR.layout.readBack (fun _ => rfl) (fun _ => rfl) (by decide) o
  | sel o =>
    exact SelOps.layout.readBack (fun _ => rfl) (fun _ => rfl) (by decide) o
  | li o | lsi o =>
    exact LiOps.layout.readBack (fun _ => rfl) (fun _ => rfl) (by decide) o
  | cmp o =>
    exact CmpOps.layout.readBack (fun _ => rfl) (fun _ => rfl) (by decide) o
  | cmpi o =>
    exact CmpiOps.layout.readBack (fun _ => rfl) (fun _ => rfl) (by decide) o
  | ppack o | emsave o | cmsave o | rdcyc o | wayrest o =>
    exact DOnly.layout.readBack (fun _ => rfl) (fun _ => rfl) (by decide) o
  | punpack o | emload o | cmload o | jmp o | callr o =>
    exact AOnly.layout.readBack (fun _ => rfl) (fun _ => rfl) (by decide) o
  | fadd o | fsub o | fmul o | ffma o | fmin o | fmax o | fdiv o =>
    exact FRRR.layout.readBack (fun _ => rfl) (fun _ => rfl) (by decide) o
  | fcmp o =>
    exact FcmpOps.layout.readBack (fun _ => rfl) (fun _ => rfl) (by decide) o
  | fcvt o =>
    exact FcvtOps.layout.readBack (fun _ => rfl) (fun _ => rfl) (by decide) o
  | fsqrt o =>
    exact FRR.layout.readBack (fun _ => rfl) (fun _ => rfl) (by decide) o
  | crd o =>
    exact DK.layout.readBack (fun _ => rfl) (fun _ => rfl) (by decide) o
  | cwr o | etchmark o =>
    exact AK.layout.readBack (fun _ => rfl) (fun _ => rfl) (by decide) o
  | fmtset o =>
    exact AX.layout.readBack (fun _ => rfl) (fun _ => rfl) (by decide) o
  | br o | call o =>
    exact BrOps.layout.readBack (fun _ => rfl) (fun _ => rfl) (by decide) o
  | enter o | leave o =>
    exact FrameOps.layout.readBack (fun _ => rfl) (fun _ => rfl) (by decide) o
  | dbnz o =>
    exact DbnzOps.layout.readBack (fun _ => rfl) (fun _ => rfl) (by decide) o
  | trap o | svc o | brk o =>
    exact KOnly.layout.readBack (fun _ => rfl) (fun _ => rfl) (by decide) o
  | vadd o | vsub o | vmul o | vfma o | vfnma o | vmin o | vmax o | vand o | vor o | vxor o | vshl o | vshr o | vsar o | vminu o
  | vmaxu o | vadds o | vsubs o | vmulh o | vsel o | vperm o | vsort o | vmrg o =>
    exact VRR.layout.readBack (fun _ => rfl) (fun _ => rfl) (by decide) o
  | vabs o | vneg o | vnot o | vmov o | vmovu o | vexp2 o | vlog2 o | vrcp o | vrsqrt o | vsqrt o | vtanh o | vsigm o | vsint o
  | vcost o | vexp o | verf o | vscan o =>
    exact VR1.layout.readBack (fun _ => rfl) (fun _ => rfl) (by decide) o
  | vcmp o =>
    exact VcmpOps.layout.readBack (fun _ => rfl) (fun _ => rfl) (by decide) o
  | vbcast o =>
    exact VBc.layout.readBack (fun _ => rfl) (fun _ => rfl) (by decide) o
  | vext o =>
    exact VextOps.layout.readBack (fun _ => rfl) (fun _ => rfl) (by decide) o
  | vins o | vaddsc o | vmulsc o | vfmasc o | vslide o | vrng o =>
    exact VSS.layout.readBack (fun _ => rfl) (fun _ => rfl) (by decide) o
  | vaddi o | vshli o | vshri o | vsari o =>
    exact VII.layout.readBack (fun _ => rfl) (fun _ => rfl) (by decide) o
  | vli o =>
    exact VLiOps.layout.readBack (fun _ => rfl) (fun _ => rfl) (by decide) o
  | viota o =>
    exact VIota.layout.readBack (fun _ => rfl) (fun _ => rfl) (by decide) o
  | vpopc o | vfirst o =>
    exact VcntOps.layout.readBack (fun _ => rfl) (fun _ => rfl) (by decide) o
  | vdefer o | vdrain o =>
    exact VdfOps.layout.readBack (fun _ => rfl) (fun _ => rfl) (by decide) o
  | vdstat o =>
    exact VdstatOps.layout.readBack (fun _ => rfl) (fun _ => rfl) (by decide) o
  | vcvt o =>
    exact VcvtOps.layout.readBack (fun _ => rfl) (fun _ => rfl) (by decide) o
  | vquant o =>
    exact VqOps.layout.readBack (fun _ => rfl) (fun _ => rfl) (by decide) o
  | vdequant o =>
    exact VdqOps.layout.readBack (fun _ => rfl) (fun _ => rfl) (by decide) o
  | vredsum o | vredmax o | vredmin o | vargmax o =>
    exact VredOps.layout.readBack (fun _ => rfl) (fun _ => rfl) (by decide) o
  | smerge o =>
    exact XmOps.layout.readBack (fun _ => rfl) (fun _ => rfl) (by decide) o
  | mma o =>
    exact MmaOps.layout.readBack (fun _ => rfl) (fun _ => rfl) (by decide) o
  | mpset o =>
    exact MpsetOps.layout.readBack (fun _ => rfl) (fun _ => rfl) (by decide) o
  | mpget o =>
    exact MpgetOps.layout.readBack (fun _ => rfl) (fun _ => rfl) (by decide) o
  | attn o =>
    exact AttnOps.layout.readBack (fun _ => rfl) (fun _ => rfl) (by decide) o
  | ldb o | ldh o | ldw o | ldd o | ldbu o | ldhu o | ldwu o | stb o | sth o | stw o | std o | ldwf o | ldtk o | stwe o | stfl o
  | feget o | kvopen o | kvfork o | kvrsv o | kvwr o | kvtrim o | kvfree o | kvclass o | kvpin o | kvdemote o | kvpromote o
  | kvlend o | kvquery o =>
    exact MSOps.layout.readBack (fun _ => rfl) (fun _ => rfl) (by decide) o
  | ldx o | stx o =>
    exact MROps.layout.readBack (fun _ => rfl) (fun _ => rfl) (by decide) o
  | vld o | vst o | rldv o | rstv o =>
    exact MVOps.layout.readBack (fun _ => rfl) (fun _ => rfl) (by decide) o
  | vlds o | vsts o =>
    exact MVSOps.layout.readBack (fun _ => rfl) (fun _ => rfl) (by decide) o
  | vgath o | vscat o =>
    exact MVGOps.layout.readBack (fun _ => rfl) (fun _ => rfl) (by decide) o
  | ataddW o | ataddD o | atminW o | atminD o | atmaxW o | atmaxD o | atminuW o | atminuD o | atmaxuW o | atmaxuD o | atandW o
  | atandD o | atorW o | atorD o | atxorW o | atxorD o | atxchW o | atxchD o | atcasW o | atcasD o | atfaddW o | atfaddD o =>
    exact ATOps.layout.readBack (fun _ => rfl) (fun _ => rfl) (by decide) o
  | acq o | rel o =>
    exact SyncOps.layout.readBack (fun _ => rfl) (fun _ => rfl) (by decide) o
  | bind o | unbind o =>
    exact BindOps.layout.readBack (fun _ => rfl) (fun _ => rfl) (by decide) o
  | fence o =>
    exact FenceOps.layout.readBack (fun _ => rfl) (fun _ => rfl) (by decide) o
  | tlwait o =>
    exact TlAOps.layout.readBack (fun _ => rfl) (fun _ => rfl) (by decide) o
  | tlread o | tlbump o =>
    exact TlOps.layout.readBack (fun _ => rfl) (fun _ => rfl) (by decide) o
  | rld o | rst o =>
    exact MSZ.layout.readBack (fun _ => rfl) (fun _ => rfl) (by decide) o
  | hset o =>
    exact HsetOps.layout.readBack (fun _ => rfl) (fun _ => rfl) (by decide) o
  | hgo o =>
    exact HgoOps.layout.readBack (fun _ => rfl) (fun _ => rfl) (by decide) o
  | hget o =>
    exact HgetOps.layout.readBack (fun _ => rfl) (fun _ => rfl) (by decide) o
  | blygrant o =>
    exact GrantOps.layout.readBack (fun _ => rfl) (fun _ => rfl) (by decide) o
  | blystat o =>
    exact ChOps.layout.readBack (fun _ => rfl) (fun _ => rfl) (by decide) o
  | pref o | flush o | inval o =>
    exact MSA.layout.readBack (fun _ => rfl) (fun _ => rfl) (by decide) o
  | wayconv o =>
    exact WayOps.layout.readBack (fun _ => rfl) (fun _ => rfl) (by decide) o
  | qpush o =>
    exact QAOps.layout.readBack (fun _ => rfl) (fun _ => rfl) (by decide) o
  | qpop o | qstat o =>
    exact QDOps.layout.readBack (fun _ => rfl) (fun _ => rfl) (by decide) o
  | watch o | unwatch o =>
    exact DAX.layout.readBack (fun _ => rfl) (fun _ => rfl) (by decide) o
  | kvspace o =>
    exact SpaceOps.layout.readBack (fun _ => rfl) (fun _ => rfl) (by decide) o
  | _ => exact readBack_none rfl

/-! ### What is decoded is encoded -/

/-- What the decoder answers for an opcode and operand field is encoded so. -/
def Exact (op n : Nat) (r : Except DecodeErr Instr) : Prop := ∀ i, r = .ok i → encodeParts i = some (op, n)

theorem exact_error {op n : Nat} {x : DecodeErr} : Exact op n (.error x) := fun _ h => nomatch h

/-- An instruction without operands. -/
theorem exact_unit {op n : Nat} {i : Instr} (h : encodeParts i = some (op, 0)) : Exact op n (if n = 0 then .ok i else .error .field) := by
  split
  · next hn => exact fun j hj => Except.ok.inj hj ▸ hn ▸ h
  · exact exact_error

section
variable {got : {α : Type} → Option α → (α → Instr) → Except DecodeErr Instr}
  (hgot : ∀ {α : Type} (x : Option α) (f : α → Instr) (i : Instr), got x f = .ok i → ∃ o, x = some o ∧ f o = i)
  {n : Nat} (hn : n < 2 ^ 22) {α : Type} {f : α → Instr} {op : Nat}
include hgot hn

theorem Layout.exact {dec : Nat → Option α} {enc : α → Nat} (h : Layout dec enc)
    (henc : ∀ o, encodeParts (f o) = some (op, enc o)) : Exact op n (got (dec n) f) := fun i hi => by
  obtain ⟨o, ho, rfl⟩ := hgot _ _ _ hi
  rw [henc, (h n o).mp ⟨ho, hn⟩]

theorem OpLayout.exact {k w : Nat} {dec : Nat → Option α} {enc : Nat → α → Nat} (h : OpLayout k w dec enc) {j : Nat}
    (hj : field k w n = j) (henc : ∀ o, encodeParts (f o) = some (op, enc j o)) : Exact op n (got (dec n) f) := fun i hi => by
  obtain ⟨o, ho, rfl⟩ := hgot _ _ _ hi
  rw [henc, (h j (hj ▸ field_lt k n w) n o).mp ⟨ho, hj, hn⟩]

end

/-- One opcode of a decoder that compares an opcode with those it knows in turn. -/
theorem exact_row {op k n : Nat} {a : Except DecodeErr Instr} {e : op ≠ k → Except DecodeErr Instr} (ha : Exact k n a)
    (he : ∀ h, Exact op n (e h)) :
    Exact op n (dite (op = k) (fun h => Eq.ndrec_symm (motive := fun _ => Except DecodeErr Instr) a h) e) := by
  by_cases h : op = k
  · subst h
    rwa [dif_pos rfl]
  · rw [dif_neg h]
    exact he h

/-- What decodes is the encoding of what it decodes to: row after row of the decoder, by the layout of the row. -/
theorem exact_candidate (op : Nat) {n : Nat} (hn : n < 2 ^ 22) : Exact op n (candidate op n) := by
  unfold candidate
  extract_lets got
  have hgot : ∀ {α : Type} (x : Option α) (f : α → Instr) (i : Instr), got x f = .ok i → ∃ o, x = some o ∧ f o = i :=
    fun x f i h => by
      cases x with
      | none => cases h
      | some o => exact ⟨o, rfl, Except.ok.inj h⟩
  clear_value got
  -- the first row unfolds the comparison of the opcodes
  set_option smartUnfolding false in
    refine exact_row (exact_unit rfl) fun _ => ?_
  iterate 5 refine exact_row (Layout.exact hgot hn (by simp) fun _ => rfl) fun _ => ?_
  refine exact_row ?_ fun _ => ?_
  · dsimp only
    split
    iterate 4 exact DivOps.layout.exact hgot hn ‹_› fun _ => rfl
    exact exact_error
  iterate 23 refine exact_row (Layout.exact hgot hn (by simp) fun _ => rfl) fun _ => ?_
  refine exact_row ?_ fun _ => ?_
  · dsimp only
    split
    iterate 8 exact PlogOps.layout.exact hgot hn ‹_› fun _ => rfl
    exact exact_error
  iterate 24 refine exact_row (Layout.exact hgot hn (by simp) fun _ => rfl) fun _ => ?_
  refine exact_row (exact_unit rfl) fun _ => ?_
  iterate 5 refine exact_row (Layout.exact hgot hn (by simp) fun _ => rfl) fun _ => ?_
  refine exact_row (exact_unit rfl) fun _ => ?_
  refine exact_row (Layout.exact hgot hn (by simp) fun _ => rfl) fun _ => ?_
  refine exact_row (exact_unit rfl) fun _ => ?_
  refine exact_row (Layout.exact hgot hn (by simp) fun _ => rfl) fun _ => ?_
  refine exact_row (exact_unit rfl) fun _ => ?_
  refine exact_row (exact_unit rfl) fun _ => ?_
  iterate 96 refine exact_row (Layout.exact hgot hn (by simp) fun _ => rfl) fun _ => ?_
  refine exact_row ?_ fun _ => ?_
  · dsimp only
    split
    iterate 2 exact FesetOps.layout.exact hgot hn ‹_› fun _ => rfl
    exact exact_error
  iterate 62 refine exact_row (Layout.exact hgot hn (by simp) fun _ => rfl) fun _ => ?_
  refine exact_row ?_ fun _ => ?_
  · dsimp only
    split
    iterate 3 exact TlbOps.layout.exact hgot hn ‹_› fun _ => rfl
    exact exact_error
  refine exact_row (Layout.exact hgot hn (by simp) fun _ => rfl) fun _ => ?_
  exact exact_error

/-! ### Slots -/

/-- The parts of a word: the bit above class and opcode, class and opcode, and the operand field. -/
theorem word_eq_parts_iff {w e op n : Nat} (hop : op < 2 ^ 9) (hn : n < 2 ^ 22) :
    e * 2 ^ 31 + op * 2 ^ 22 + n = w ↔ w / 2 ^ 31 = e ∧ w / 2 ^ 22 % 2 ^ 9 = op ∧ w % 2 ^ 22 = n := by
  omega

theorem toNat_mod_two_beq (e : Bool) : (e.toNat % 2 == 1) = e := by cases e <;> rfl

theorem mod_two_beq_toNat (x : Nat) : (x % 2 == 1).toNat = x % 2 := by
  obtain h | h := Nat.mod_two_eq_zero_or_one x <;> simp [h]

/-- A well-formed slot is decoded from its encoding. -/
theorem decodeSlot_encode {sl : Slot} {w : Nat} (hwf : sl.i.wf = true) (h : encode sl = some w) : w < 2 ^ 32 ∧ decodeSlot w = .ok sl := by
  obtain ⟨⟨op, n⟩, hp, hw⟩ := Option.map_eq_some_iff.mp h
  obtain ⟨hcand, hop, hn⟩ := readBack sl.i op n hp
  obtain ⟨he, hcode, hfield⟩ := (word_eq_parts_iff hop hn).mp hw
  have hbit : sl.e.toNat < 2 := sl.e.toNat_lt
  refine ⟨by omega, ?_⟩
  rw [decodeSlot, hcode, hfield, hcand, he, toNat_mod_two_beq]
  exact if_pos hwf

/-- A word that decodes is the encoding of a well-formed slot. -/
theorem encode_of_decodeSlot {sl : Slot} {w : Nat} (hw : w < 2 ^ 32) (h : decodeSlot w = .ok sl) :
    encode sl = some w ∧ sl.i.wf = true := by
  unfold decodeSlot at h
  split at h
  · next i hi =>
    split at h
    · next hwf =>
      cases h
      have hp : encodeParts i = some (w / 2 ^ 22 % 2 ^ 9, w % 2 ^ 22) :=
        exact_candidate _ (Nat.mod_lt _ (Nat.two_pow_pos 22)) i hi
      have hbit : w / 2 ^ 31 % 2 = w / 2 ^ 31 := Nat.mod_eq_of_lt (by omega)
      refine ⟨?_, hwf⟩
      rw [encode, hp, Option.map_some, mod_two_beq_toNat, hbit]
      exact congrArg some ((word_eq_parts_iff (Nat.mod_lt _ (Nat.two_pow_pos 9)) (Nat.mod_lt _ (Nat.two_pow_pos 22))).mpr ⟨rfl, rfl, rfl⟩)
    · cases h
  · cases h

end Sys2Proof

namespace Sys2Proof.Proofs

/-- Settles O51: class and opcode, the operand field and the top bit are read back from the word. -/
theorem encodedSlotsDecode : Obligations.EncodedSlotsDecode := fun _ _ hwf h => decodeSlot_encode hwf h

/-- Settles O52: the rows of the decoder read the encodings of their layouts only. -/
theorem decodedWordsAreEncodings : Obligations.DecodedWordsAreEncodings := fun _ _ hw h => encode_of_decodeSlot hw h

end Sys2Proof.Proofs
end

section
/-! PROOFS. What a step leaves of the bundle that it ran: nothing (log 6: O55), since what ends a step clears the scratch first and
leaves it alone afterwards. A trap taken leaves it alone too, so that a bundle that traps does not wait, and the step is the one
that fetch and decoder say (O54). -/
namespace Sys2Proof.Machine

/-! ### The scratch of the bundle under way

Only the slots of a bundle write it. The lemmas go up from the writes of memory by way of traps, tickets, requests and KV moves to the
end of a step; each unfolds its function once. -/

/-- A run of steps that each leave the scratch leaves it. -/
@[simp] theorem foldl_scr {β : Type} {f : State → β → State} (h : ∀ t b, (f t b).scr = t.scr) (l : List β) (s : State) :
    (l.foldl f s).scr = s.scr := List.foldlRecOn l f (motive := fun t => t.scr = s.scr) rfl fun t ht b _ => (h t b).trans ht

theorem State.HomeAndL1Only.scr {s t : State} (h : s.HomeAndL1Only t) : t.scr = s.scr := (congrArg State.scr h).trans rfl

theorem State.HomeOnly.scr {s t : State} (h : s.HomeOnly t) : t.scr = s.scr := h.andL1.scr

theorem getD_scr {x : Option State} {u : State} {c : Scratch} (hx : ∀ t, x = some t → t.scr = c) (hu : u.scr = c) :
    (x.getD u).scr = c := by
  cases x with
  | none => exact hu
  | some t => exact hx t rfl

@[simp] theorem State.note_scr (s : State) (pa : Nat) (owner : Option Nat) (type slot : Nat) :
    (s.note pa owner type slot).scr = s.scr := rfl

@[simp] theorem State.markCharged_scr (s : State) (pa : Nat) : (s.markCharged pa).scr = s.scr := rfl

@[simp] theorem State.sectorLostTo_scr (s : State) (owner : Option Nat) (pa type : Nat) :
    (s.sectorLostTo owner pa type).scr = s.scr := rfl

@[simp] theorem State.putL2_scr (s : State) (pa : Nat) (x : L2Sector) : (s.putL2 pa x).scr = s.scr := rfl

@[simp] theorem State.fetchSector_scr (s : State) (pa : Nat) : (s.fetchSector pa).scr = s.scr :=
  (s.fetchSector_homeOnly pa).scr

@[simp] theorem State.putBytes_scr (s : State) (pa : Nat) (bs : List (Option Byte)) : (s.putBytes pa bs).scr = s.scr := by
  induction bs generalizing s pa with
  | nil => rfl
  | cons b bs ih =>
    cases b with
    | none => exact ih s (pa + 1)
    | some b => exact (ih _ (pa + 1)).trans (s.putByte_scr pa b)

@[simp] theorem State.writeSector_scr (s : State) (pa owner : Nat) (poison bad : Bool) :
    (s.writeSector pa owner poison bad).scr = s.scr :=
  (s.writeSector_homeOnly ..).scr

@[simp] theorem State.holdLine_scr (s : State) (line : Nat) : (s.holdLine line).scr = s.scr :=
  (s.holdLine_homeAndL1Only line).scr

@[simp] theorem State.chargeOnce_scr (s : State) (ctx pa : Nat) : (s.chargeOnce ctx pa).scr = s.scr := by
  unfold State.chargeOnce
  split <;> simp

@[simp] theorem State.touch_scr (s : State) (ctx pa n : Nat) : (s.touch ctx pa n).scr = s.scr :=
  (s.touch_homeAndL1Only ..).scr

@[simp] theorem State.walkLost_scr (s : State) (ctx pa : Nat) : (s.walkLost ctx pa).scr = s.scr := by
  unfold State.walkLost
  split <;> simp

@[simp] theorem State.walkCharge_scr (s : State) (ctx : Nat) (t : Trap) : (s.walkCharge ctx t).scr = s.scr :=
  (s.walkCharge_homeOnly ..).scr

@[simp] theorem State.ctxTouch_scr (s : State) (ctx : Nat) (va : Word) (n : Nat) : (s.ctxTouch ctx va n).scr = s.scr :=
  (s.ctxTouch_homeAndL1Only ..).scr

@[simp] theorem State.homeWriteBy_scr (s : State) (unit : Nat) (a : Agent) (pa : Nat) (bs : List (Option Byte)) :
    (s.homeWriteBy unit a pa bs).scr = s.scr :=
  foldl_scr (fun t _ => (((t.holdLine_homeAndL1Only _).trans (State.mergeSector_homeOnly ..).andL1).scr)) _ _

@[simp] theorem State.homeWrite_scr (s : State) (a : Agent) (pa : Nat) (bs : List (Option Byte)) :
    (s.homeWrite a pa bs).scr = s.scr :=
  (s.homeWrite_homeAndL1Only ..).scr

@[simp] theorem State.logDrop_scr (s : State) (die : Nat) : (s.logDrop die).scr = s.scr := by
  rw [State.logDrop, State.mcrPut_scr]

@[simp] theorem State.errLog_scr (s : State) (die type stack chan slot sym : Nat) (pa : Word) :
    (s.errLog die type stack chan slot sym pa).scr = s.scr := by
  unfold State.errLog
  split
  dsimp only
  split
  · exact State.homeWrite_scr ..
  · split
    · exact State.logDrop_scr ..
    · rw [State.mcrPut_scr, State.homeWrite_scr, State.tookFree_scr]

@[simp] theorem State.spoil_scr (s : State) (pa n task op : Nat) : (s.spoil pa n task op).scr = s.scr := rfl

@[simp] theorem State.clearPoison_scr (s : State) (pa : Nat) : (s.clearPoison pa).scr = s.scr := rfl

@[simp] theorem State.padPut_scr (s : State) (pa : Nat) (bs : List (Option Byte)) : (s.padPut pa bs).scr = s.scr :=
  foldl_scr (fun t p => by dsimp only; split <;> simp) _ _

@[simp] theorem State.padWrite_scr (s : State) (pa : Nat) (bs : List (Option Byte)) :
    (s.padWrite pa bs).scr = s.scr := by simp [State.padWrite]

@[simp] theorem State.writeOver_scr (s : State) (a : Agent) (ps : List (Nat × Nat)) (bs : List (Option Byte)) :
    (s.writeOver a ps bs).scr = s.scr := by
  induction ps generalizing s bs with
  | nil => rfl
  | cons p ps ih =>
    rw [State.writeOver, ih]
    split <;> simp

theorem State.ctxWrite_scr {t : State} (s : State) (ctx depth : Nat) (va : Word) (bs : List (Option Byte)) (h : s.ctxWrite ctx depth va bs = some t) :
    t.scr = s.scr := by
  unfold State.ctxWrite at h
  split at h
  · cases h
    simp
  · cases h

@[simp] theorem State.ctxMiss_scr (s : State) (ctx : Nat) (va : Word) (n : Nat) : (s.ctxMiss ctx va n).scr = s.scr :=
  (s.ctxMiss_homeOnly ..).scr

@[simp] theorem State.faultRing_scr (s0 : State) (c : Ctx) (die type cause task : Nat) (value aux : Word) :
    (s0.faultRing c die type cause task value aux).1.scr = s0.scr := by
  have hlog : ∀ t : State, (t.errLog die 11 0xFF (c.id % 256) cause 0 c.fring).scr = t.scr := fun t => t.errLog_scr ..
  have hmiss : ∀ (t : State) (va : Word) (n : Nat),
      ((t.ctxMiss c.id va n).errLog die 11 0xFF (c.id % 256) cause 0 c.fring).scr = t.scr := fun t va n =>
    (hlog _).trans (t.ctxMiss_scr ..)
  unfold State.faultRing
  rw [← s0.ctxTouch_scr c.id c.fring 64]
  generalize s0.ctxTouch c.id c.fring 64 = u
  dsimp only
  split
  · exact hlog u
  · split
    · split
      · next h => exact State.ctxWrite_scr _ _ _ _ _ h
      · dsimp only
        exact hmiss u (c.fring + 8) 4
    · split
      · split
        · next h => exact State.ctxWrite_scr _ _ _ _ _ h
        · dsimp only
          exact hmiss u (c.fring + 8) 4
      · next h =>
        split
        · next h' => exact (State.ctxWrite_scr _ _ _ _ _ h').trans (State.ctxWrite_scr _ _ _ _ _ h)
        · dsimp only
          exact hmiss u c.fring 4

@[simp] theorem State.record_scr (s : State) (ctx die type cause task : Nat) (value aux : Word) :
    (s.record ctx die type cause task value aux).scr = s.scr := by
  unfold State.record
  split <;> simp

@[simp] theorem State.divNotice_scr (s : State) (c : Ctx) (die : Nat) (event : Word) :
    (s.divNotice c die event).scr = s.scr := by simp [State.divNotice]

@[simp] theorem State.etchTouch_scr (s : State) (c : Ctx) : (s.etchTouch c).scr = s.scr := by simp [State.etchTouch]

@[simp] theorem State.ctxPut_scr (s : State) (ctx : Nat) (va : Word) (bs : List Byte) : (s.ctxPut ctx va bs).scr = s.scr := by
  unfold State.ctxPut
  exact getD_scr (fun _ h => State.ctxWrite_scr _ _ _ _ _ h) (s.ctxMiss_scr ..)

@[simp] theorem State.divReport_scr (s : State) (c : Ctx) (want : Option (List Byte)) (got : List Byte) :
    (s.divReport c want got).scr = s.scr := by
  unfold State.divReport
  (repeat' split) <;> simp

@[simp] theorem State.diverged_scr (s : State) (c : Ctx) (die : Nat) (want : Option (List Byte)) (got : List Byte) (event : Word) :
    (s.diverged c die want got event).scr = s.scr := by
  unfold State.diverged
  split <;> simp

@[simp] theorem State.settle_scr (s : State) (t : Trap) : (s.settle t).scr = s.scr := by
  unfold State.settle
  (repeat' split) <;> simp

@[simp] theorem State.doubleFault_scr (s : State) (cause : Nat) : (s.doubleFault cause).scr = s.scr := by simp [State.doubleFault]

@[simp] theorem State.takeTrap_scr (s : State) (t : Trap) (slot : Nat) : (s.takeTrap t slot).scr = s.scr := by
  unfold State.takeTrap
  dsimp only
  split <;> simp

@[simp] theorem State.haulAnswered_scr (s : State) (h : Nat) (o : OutReq) (st : FabStatus) (bytes : List Byte) (poison : Bool) :
    (s.haulAnswered h o st bytes poison).scr = s.scr := rfl

@[simp] theorem State.unitWrite_scr (s : State) (a : Agent) (pa : Nat) (bs : List (Option Byte)) :
    (s.unitWrite a pa bs).scr = s.scr :=
  (s.unitWrite_homeAndL1Only ..).scr

@[simp] theorem State.outsideWrite_scr (s : State) (pa : Nat) (bs : List (Option Byte)) :
    (s.outsideWrite pa bs).scr = s.scr := by simp [State.outsideWrite]

@[simp] theorem State.journalPut_scr (s : State) (tag launch : Word) (setId status kind : Nat) :
    (s.journalPut tag launch setId status kind).scr = s.scr := by
  unfold State.journalPut
  dsimp only
  (repeat' split) <;> simp

@[simp] theorem State.interrupt_scr (s : State) : s.interrupt.scr = s.scr := by
  unfold State.interrupt
  split <;> simp

@[simp] theorem State.notify_scr (s : State) (tag word : Word) : (s.notify tag word).scr = s.scr := by
  unfold State.notify
  dsimp only
  (repeat' split) <;> simp

@[simp] theorem State.donePut_scr (s : State) (d : DoneWait) : (s.donePut d).scr = s.scr := by
  unfold State.donePut
  (repeat' split) <;> simp

@[simp] theorem State.drainDone_scr (s : State) : s.drainDone.scr = s.scr :=
  foldl_scr (fun t _ => by
    split
    · split <;> simp
    · rfl) _ _

@[simp] theorem State.journalDone_scr (s : State) (d : DoneWait) : (s.journalDone d).scr = s.scr := by simp [State.journalDone]

@[simp] theorem State.completeTicket_scr (s : State) (task : Nat) (i : Fin 6) (n : Nat) (f : Option Fail) (op : Option Nat) :
    (s.completeTicket task i n f op).scr = s.scr := rfl

@[simp] theorem State.storeDone_scr (s : State) (o : OutReq) (st : FabStatus) : (s.storeDone o st).scr = s.scr := by
  unfold State.storeDone
  dsimp only
  (repeat' split) <;> simp

@[simp] theorem State.updOp_scr (s : State) (task : Nat) (op : Op) : (s.updOp task op).scr = s.scr := rfl

@[simp] theorem State.etchFail_scr (s : State) (c : Ctx) (die : Nat) : (s.etchFail c die).scr = s.scr := by simp [State.etchFail]

@[simp] theorem State.etchReserve_scr (s0 : State) (ctx die : Nat) : (s0.etchReserve ctx die).1.scr = s0.scr := by
  unfold State.etchReserve
  split
  · rfl
  · next c _ =>
    split
    · rfl
    · rw [← s0.etchTouch_scr c]
      generalize s0.etchTouch c = u
      dsimp only
      split
      · exact State.etchFail_scr ..
      · split
        · exact (State.etchFail_scr ..).trans (State.ctxMiss_scr ..)
        · next h =>
          have hhead := State.ctxWrite_scr _ _ _ _ _ h
          split
          · exact ((State.record_scr ..).trans (State.ctxPut_scr ..)).trans hhead
          · exact hhead

@[simp] theorem State.etchTake_scr (s : State) (task : Nat) : (s.etchTake task).1.scr = s.scr := by
  unfold State.etchTake
  split
  · rfl
  · next t _ =>
    have h := s.etchReserve_scr t.ctx (dieOf t.loc)
    split
    · next s1 h1 => rwa [h1] at h
    · next s1 k h1 =>
      rw [h1] at h
      simpa using h

@[simp] theorem State.serTouch_scr (s : State) (c : Ctx) (cb : EtchCb) (ser : Series) : (s.serTouch c cb ser).scr = s.scr := by
  unfold State.serTouch
  split <;> simp

theorem State.serPut_scr {t : State} (s : State) (c : Ctx) (cb : EtchCb) (seq : Nat) (ser : Series) (h : s.serPut c cb seq ser = some t) :
    t.scr = s.scr := by
  cases ser with
  | word x => exact State.ctxWrite_scr _ _ _ _ _ h
  | _ => exact Option.some.inj h ▸ rfl

@[simp] theorem State.etchRecord_scr (s0 : State) (ctx die taskWord type flags : Nat) (obj value : Word) (ser : Series) (event slot : Nat) :
    (s0.etchRecord ctx die taskWord type flags obj value ser event slot).1.scr = s0.scr := by
  unfold State.etchRecord
  split
  · rfl
  · next c _ =>
    split
    · rfl
    · split
      · exact (State.etchFail_scr ..).trans (State.etchTouch_scr ..)
      · next cb _ =>
        have hu : ((s0.etchTouch c).serTouch c cb ser).scr = s0.scr := (State.serTouch_scr ..).trans (State.etchTouch_scr ..)
        generalize (s0.etchTouch c).serTouch c cb ser = u at hu
        dsimp only
        split
        · exact (State.etchFail_scr ..).trans hu
        · refine getD_scr (fun t h => ?_) (((State.etchFail_scr ..).trans (State.ctxMiss_scr ..)).trans hu)
          obtain ⟨v, hv, ht⟩ := Option.bind_eq_some_iff.mp h
          exact (State.ctxWrite_scr _ _ _ _ _ ht).trans ((State.serPut_scr _ _ _ _ _ hv).trans hu)

@[simp] theorem State.streamTouch_scr (s : State) (c : Ctx) (cursor : Nat) : (s.streamTouch c cursor).scr = s.scr := by
  unfold State.streamTouch
  split <;> simp

@[simp] theorem State.etchDone_scr (s : State) (task type flags : Nat) (obj value : Word) (ser : Series) (slot : Option EtchSlot) :
    (s.etchDone task type flags obj value ser slot).1.scr = s.scr := by
  unfold State.etchDone
  split
  next s0 k h0 =>
    have hs0 : s0.scr = s.scr := by
      split at h0
      · cases h0
        rfl
      · exact (congrArg (fun p => p.1.scr) h0).symm.trans (s.etchTake_scr task)
    rw [← hs0]
    split
    · split
      · rfl
      · dsimp only
        split
        · exact State.etchRecord_scr ..
        · split
          · split
            · exact (State.streamTouch_scr ..).trans (State.etchRecord_scr ..)
            · exact ((State.diverged_scr ..).trans (State.streamTouch_scr ..)).trans (State.etchRecord_scr ..)
          · exact State.etchRecord_scr ..
    · rfl

@[simp] theorem State.etchRemote_scr (s : State) (task : Nat) (op : Op) (st : FabStatus) (value : Word) (seq : Nat) :
    (s.etchRemote task op st value seq).1.scr = s.scr := by
  unfold State.etchRemote
  split
  · extract_lets ser
    exact State.etchDone_scr ..
  · rfl

@[simp] theorem State.finishOp_scr (s : State) (task : Nat) (op : Op) : (s.finishOp task op).scr = s.scr := rfl

@[simp] theorem State.advanceGen_scr (s : State) (loc : Nat) : (s.advanceGen loc).scr = s.scr := by
  unfold State.advanceGen
  dsimp only
  split <;> simp

@[simp] theorem State.remoteDone_scr (s : State) (t : Task) (op : Op) (acq : Bool) : (s.remoteDone t op acq).scr = s.scr := by
  unfold State.remoteDone
  (repeat' split) <;> simp

@[simp] theorem State.loadDone_scr (s : State) (o : OutReq) (st : FabStatus) (bytes : List Byte) (poison : Bool) (seq : Nat) :
    (s.loadDone o st bytes poison seq).scr = s.scr := by
  unfold State.loadDone
  (repeat' split) <;> simp

@[simp] theorem State.reqDone_scr (s : State) (id : Nat) (st : FabStatus) (bytes : List Byte) (poison : Bool) (seq : Nat) :
    (s.reqDone id st bytes poison seq).scr = s.scr := by
  unfold State.reqDone
  (repeat' split) <;> simp

@[simp] theorem State.send_scr (s : State) (p : Packet) : (s.send p).scr = s.scr := rfl

@[simp] theorem State.sendOrHold_scr (s : State) (ctx : Nat) (o : OutReq) (off : Nat) (kind : ReqKind) (poison many : Bool) :
    (s.sendOrHold ctx o off kind poison many).scr = s.scr := by
  unfold State.sendOrHold
  split <;> simp

@[simp] theorem State.dispatch_scr (s : State) (ctx : Nat) (o : OutReq) (off : Nat) (kind : ReqKind) (poison : Bool) :
    (s.dispatch ctx o off kind poison).scr = s.scr := by
  unfold State.dispatch
  split <;> simp

@[simp] theorem State.enlist_scr (s : State) (o : OutReq) (off : Nat) : (s.enlist o off).scr = s.scr := rfl

@[simp] theorem State.request_scr (s : State) (ctx : Nat) (o : OutReq) (off : Nat) (kind : ReqKind) (poison : Bool) :
    (s.request ctx o off kind poison).scr = s.scr := by simp [State.request]

@[simp] theorem State.homeRead_scr (s : State) (ctx pa n : Nat) : (s.homeRead ctx pa n).1.scr = s.scr := by simp [State.homeRead]

@[simp] theorem State.writeBack_scr (s : State) (l : L1Line) : (s.writeBack l).scr = s.scr :=
  (s.writeBack_homeAndL1Only ..).scr

@[simp] theorem State.dropLines_scr (s : State) (p : L1Line → Bool) : (s.dropLines p).scr = s.scr :=
  (s.dropLines_homeAndL1Only ..).scr

@[simp] theorem State.dropOwn_scr (s : State) (t : Task) (d : Dest) : (s.dropOwn t d).scr = s.scr := by
  unfold State.dropOwn
  split <;> simp

@[simp] theorem State.makeRoom_scr (s : State) (loc line : Nat) : (s.makeRoom loc line).scr = s.scr :=
  (s.makeRoom_homeAndL1Only ..).scr

@[simp] theorem State.markPresent_scr (s : State) (loc line : Nat) : (s.markPresent loc line).scr = s.scr :=
  (s.markPresent_homeAndL1Only ..).scr

@[simp] theorem State.openLine_scr (s : State) (a : Agent) (line : Nat) : (s.openLine a line).1.scr = s.scr :=
  (s.openLine_ready a line).1.scr

@[simp] theorem State.fill_scr (s : State) (l : L1Line) : (s.fill l).1.scr = s.scr := by simp [State.fill]

@[simp] theorem State.putLine_scr (s : State) (l : L1Line) : (s.putLine l).scr = s.scr := rfl

@[simp] theorem State.l1Load_scr (s : State) (a : Agent) (pa : Nat) (mask : List Bool) : (s.l1Load a pa mask).1.scr = s.scr := by
  unfold State.l1Load
  dsimp only
  (repeat' split) <;> simp

@[simp] theorem State.readMasked_scr (s : State) (a : Agent) (d : Dest) (mask : List Bool) :
    (s.readMasked a d mask).1.scr = s.scr := by
  unfold State.readMasked
  split <;> simp

@[simp] theorem State.readDest_scr (s : State) (a : Agent) (d : Dest) (n : Nat) :
    (s.readDest a d n).1.scr = s.scr := by simp [State.readDest]

@[simp] theorem State.acqGo_scr (s : State) (t : Task) (op : Op) : (s.acqGo t op).scr = s.scr := by
  unfold State.acqGo
  dsimp only
  (repeat' split) <;> simp

@[simp] theorem State.exportCharge_scr (s : State) (fctx off n perm : Nat) (k : Acc) :
    (s.exportCharge fctx off n perm k).scr = s.scr := by
  unfold State.exportCharge
  (repeat' split) <;> simp

@[simp] theorem State.readPieces_scr (s : State) (ctx : Nat) (ps : List (Nat × Nat)) :
    (s.readPieces ctx ps).1.scr = s.scr := by simp [State.readPieces]

@[simp] theorem State.raiseRemote_scr (s : State) (c : Ctx) (obj : Word) : (s.raiseRemote c obj).1.scr = s.scr := by
  unfold State.raiseRemote
  split
  · rfl
  · split
    · simp
    · next cb n _ =>
      dsimp only
      split
      · next s1 h => simpa using State.ctxWrite_scr _ _ _ _ _ h
      · simp

@[simp] theorem State.padPoison_scr (s : State) (pa : Nat) : (s.padPoison pa).scr = s.scr := rfl

@[simp] theorem State.setPoison_scr (s : State) (ctx pa : Nat) : (s.setPoison ctx pa).scr = s.scr := by
  unfold State.setPoison
  (repeat' split) <;> simp

@[simp] theorem State.spreadPoison_scr (s : State) (ctx pa n : Nat) :
    (s.spreadPoison ctx pa n).scr = s.scr := by simp [State.spreadPoison]

@[simp] theorem State.poisonPieces_scr (s : State) (ctx : Nat) (ps : List (Nat × Nat)) (bad : Bool) :
    (s.poisonPieces ctx ps bad).scr = s.scr := by
  unfold State.poisonPieces
  split <;> simp

@[simp] theorem State.physWrite_scr (s : State) (a : Agent) (pa : Nat) (bs : List (Option Byte)) :
    (s.physWrite a pa bs).scr = s.scr := by
  unfold State.physWrite
  split <;> simp

@[simp] theorem State.writePieces_scr (s : State) (a : Agent) (ps : List (Nat × Nat)) (bs : List (Option Byte)) :
    (s.writePieces a ps bs).scr = s.scr := by
  induction ps generalizing s bs with
  | nil => rfl
  | cons p ps ih => rw [State.writePieces, ih, State.physWrite_scr]

@[simp] theorem State.opWrite_scr (s : State) (a : Agent) (op pa : Nat) (bs : List (Option Byte)) :
    (s.opWrite a op pa bs).scr = s.scr := by
  unfold State.opWrite
  split <;> simp

@[simp] theorem State.atomicAt_scr (s : State) (a : Agent) (id pa : Nat) (op : AtOp) (n : Nat) (b e : Word) :
    (s.atomicAt a id pa op n b e).1.scr = s.scr := by
  unfold State.atomicAt
  dsimp only
  split <;> simp

@[simp] theorem State.serve_scr (s : State) (q : Request) : (s.serve q).1.scr = s.scr := by
  unfold State.serve
  dsimp only
  (repeat' split) <;> simp

@[simp] theorem State.answerReq_scr (s : State) (q : Request) (st : FabStatus) (bytes : List Byte) (bad : Bool) (seq : Nat) :
    (s.answerReq q st bytes bad seq).scr = s.scr := rfl

@[simp] theorem State.countDrop_scr (s : State) (loop : Bool) : (s.countDrop loop).scr = s.scr := rfl

@[simp] theorem State.countAccess_scr (s : State) (src : Nat) : (s.countAccess src).scr = s.scr := by
  unfold State.countAccess
  dsimp only
  (repeat' split) <;> simp

@[simp] theorem State.acqAgain_scr (s : State) (x : Nat × Request) : (s.acqAgain x).scr = s.scr := by
  unfold State.acqAgain
  dsimp only
  (repeat' split) <;> simp

@[simp] theorem State.wakeAcqs_scr (s : State) : s.wakeAcqs.scr = s.scr :=
  foldl_scr (fun t id => by
    split
    · split <;> simp
    · simp
    · rfl) _ _

@[simp] theorem State.answerRemote_scr (s : State) (q : Request) : (s.answerRemote q).scr = s.scr := by
  unfold State.answerRemote
  dsimp only
  (repeat' split) <;> simp

@[simp] theorem State.serveWaits_scr (s : State) : s.serveWaits.scr = s.scr :=
  foldl_scr (fun t q => by split <;> simp) _ _

@[simp] theorem State.seeTails_scr (s : State) : s.seeTails.scr = s.scr := by
  refine foldl_scr (fun t c => ?_) _ _
  split
  · rfl
  · split
    · rfl
    · split
      · rfl
      · dsimp only
        split <;> simp

@[simp] theorem State.goOn_scr (s : State) (h : HeldReq) : (s.goOn h).scr = s.scr := by
  unfold State.goOn
  (repeat' split) <;> simp

@[simp] theorem State.sendHeld_scr (s : State) : s.sendHeld.scr = s.scr := by
  refine foldl_scr (fun t h => ?_) _ _
  split
  · rfl
  · dsimp only
    split <;> simp

@[simp] theorem State.ownMove_scr (s : State) (sid id tier : Nat) (why : MoveWhy) : (s.ownMove sid id tier why).scr = s.scr := by
  unfold State.ownMove
  split <;> simp

@[simp] theorem State.autoStep_scr (s : State) (sid : Nat) : (s.autoStep sid).scr = s.scr := by
  unfold State.autoStep
  (repeat' split) <;> simp

@[simp] theorem State.checkMarks_scr (s : State) (sid : Nat) : (s.checkMarks sid).scr = s.scr := by
  unfold State.checkMarks
  (repeat' split) <;> simp

@[simp] theorem State.beginMove_scr (s : State) (sid id tier : Nat) (why : MoveWhy) :
    (s.beginMove sid id tier why).scr = s.scr := by
  unfold State.beginMove
  (repeat' split) <;> simp

@[simp] theorem State.recallStep_scr (s : State) (sid : Nat) : (s.recallStep sid).scr = s.scr := by
  unfold State.recallStep
  split
  · rfl
  · refine foldl_scr (fun t id => ?_) _ _
    (repeat' split) <;> simp

@[simp] theorem State.engineWrite_scr (s : State) (a : Agent) (pa : Nat) (bs : List (Option Byte)) :
    (s.engineWrite a pa bs).scr = s.scr := by simp [State.engineWrite]

@[simp] theorem State.kvMiss_scr (s : State) (ctx : Nat) (va : Word) : (s.kvMiss ctx va).scr = s.scr := by
  unfold State.kvMiss
  split <;> simp

@[simp] theorem State.kvPut_scr (s : State) (ctx who : Nat) (va : Word) (bs : List Byte) :
    (s.kvPut ctx who va bs).1.scr = s.scr := by
  unfold State.kvPut
  refine List.foldlRecOn _ _ (motive := fun acc : (State × Bool) × List Byte => acc.1.1.scr = s.scr) rfl fun acc h p _ => ?_
  split <;> simpa using h

@[simp] theorem State.kvBack_scr (s : State) (p : Space) (who : Nat) (l : KvLine) : (s.kvBack p who l).scr = s.scr := by
  unfold State.kvBack
  dsimp only
  split <;> simp

@[simp] theorem State.syncSpace_scr (s : State) (who : Nat) (old new : Space) :
    (s.syncSpace who old new).scr = s.scr := by simp [State.syncSpace]

@[simp] theorem State.kvSyncBy_scr (s : State) (who : Nat) (old : State) : (s.kvSyncBy who old).scr = s.scr := by
  refine foldl_scr (fun t p => ?_) _ _
  dsimp only
  (repeat' split) <;> simp

@[simp] theorem State.kvSync_scr (s old : State) : (s.kvSync old).scr = s.scr := by simp [State.kvSync]

@[simp] theorem State.control_scr (s : State) (target : Nat) (p : Packet) : (s.control target p).scr = s.scr := by
  unfold State.control
  split <;> simp

@[simp] theorem State.lendFree_scr (s : State) (p : Space) (peer ident : Nat) :
    (s.lendFree p peer ident).scr = s.scr := by simp [State.lendFree]

@[simp] theorem State.updKv_scr (s : State) (n : Nat) (f : KvCmd → KvCmd) : (s.updKv n f).scr = s.scr := rfl

@[simp] theorem State.abandon_scr (s : State) (sid id st : Nat) : (s.abandon sid id st).scr = s.scr := by
  unfold State.abandon
  (repeat' split) <;> simp

@[simp] theorem State.loseFrame_scr (s : State) (sid id : Nat) : (s.loseFrame sid id).scr = s.scr := by simp [State.loseFrame]

@[simp] theorem State.lenderLost_scr (s : State) (peer : Nat) (rsp : Option Nat) : (s.lenderLost peer rsp).scr = s.scr := by
  refine foldl_scr (fun t p => ?_) _ _
  split <;> simp

@[simp] theorem State.freeFrame_scr (s : State) (sid id : Nat) : (s.freeFrame sid id).scr = s.scr := by
  unfold State.freeFrame
  (repeat' split) <;> simp

@[simp] theorem State.borrowerLost_scr (s : State) (peer : Nat) : (s.borrowerLost peer).scr = s.scr := by
  refine foldl_scr (fun t p => ?_) _ _
  exact foldl_scr (fun t e => by split <;> simp) _ _

@[simp] theorem State.noticePeers_scr (s old : State) : (s.noticePeers old).scr = s.scr := by simp [State.noticePeers]

@[simp] theorem State.passTime_scr (s : State) : s.passTime.scr = s.scr := by
  unfold State.passTime
  exact foldl_scr (fun t loc => by simp) _ _

@[simp] theorem State.refreshImages_scr (s old : State) : (s.refreshImages old).scr = s.scr := by
  refine foldl_scr (fun t x => ?_) _ _
  split
  · dsimp only
    split <;> simp
  · rfl

@[simp] theorem State.countError_scr (s : State) (die stack chan bit : Nat) : (s.countError die stack chan bit).scr = s.scr := by
  unfold State.countError
  dsimp only
  (repeat' split) <;> simp

@[simp] theorem State.logFound_scr (s : State) (x : Found) : (s.logFound x).scr = s.scr := by
  unfold State.logFound
  split <;> simp

@[simp] theorem State.goneMailboxes_scr (s : State) : s.goneMailboxes.scr = s.scr :=
  (s.goneMailboxes_homeAndL1Only).scr

@[simp] theorem State.moduleReset_scr (s : State) : s.moduleReset.scr = s.scr := by simp [State.moduleReset]

@[simp] theorem State.chargeUe_scr (s : State) (ctx die pa : Nat) : (s.chargeUe ctx die pa).scr = s.scr := by
  unfold State.chargeUe
  split <;> simp

@[simp] theorem State.chargeAll_scr (s : State) (xs : List Found) : (s.chargeAll xs).scr = s.scr := by
  induction xs generalizing s with
  | nil => rfl
  | cons x xs ih =>
    rw [State.chargeAll]
    split
    · simp [ih]
    · split <;> simp [ih]

@[simp] theorem State.chargeFound_scr (n : Nat) (s : State) : (State.chargeFound n s).scr = s.scr := by
  induction n generalizing s with
  | zero => rfl
  | succ n ih =>
    rw [State.chargeFound]
    split
    · rfl
    · simp [ih]

/-- The end of a step clears the scratch. -/
@[simp] theorem State.stepEnd_scr (s old : State) : (s.stepEnd old).scr = Scratch.clean := by
  simp only [State.stepEnd, State.passTime_scr, State.refreshImages_scr, State.chargeFound_scr, State.wakeAcqs_scr,
    State.serveWaits_scr, State.seeTails_scr, State.sendHeld_scr, State.noticePeers_scr]
  rfl

/-! ### What a step does with a bundle that does not wait (06 R134) -/

theorem andThen_eq_next {r : Res} {f : State → Res} {t : State} (h : andThen r f = .next t) : ∃ u, r = .next u ∧ f u = .next t := by
  cases r with
  | next u => exact ⟨u, rfl, h⟩
  | fault x | refused x => cases h

/-- A step ends with what the machine does between two steps. -/
theorem step_eq_next {s t : State} (h : step s = .next t) : ∃ u : State, t = u.stepEnd s := by
  obtain ⟨u, -, hu⟩ := andThen_eq_next h
  exact ⟨u, (Host.Outcome.next.inj hu).symm⟩

/-- A step of a running task with nothing on the agenda issues its bundle; where that does not wait, it ends the step. -/
theorem step_of_issue {s t : State} (ha : s.agenda = []) (ht : s.turn = []) (hr : s.cur.status = .running) (hw : s.cur.wdExpired = false)
    (h : issueBundle s = .next t) (hwait : t.scr.waiting = none) : step s = .next (t.stepEnd s) := by
  have hbody : stepBody s = .next t := by
    simp only [stepBody, ha, ht, hr, issueOrWait, hw, h, andThen, hwait, Option.isNone_none, Bool.false_eq_true, if_true, if_false]
  rw [step, hbody]
  rfl

section
variable {s s1 : State} {b : IBlock} (h : s.fetchBlock = .ok (s1, b))

/-- The words at the pc of a block, and whether they end. -/
def State.wordsAt (s : State) (b : IBlock) : List Nat × Bool := bundleWords b.bytes 8 (s.cur.pc.toNat % 1024)

/-- The machine with a bundle of these words under way. -/
def State.withBundle (s : State) (ws : List Nat) : State :=
  { s with scr := { Scratch.clean with encs := ws.map (BitVec.ofNat 64), slots := ws.length } }

include h

theorem issueBundle_misaligned (hpc : s1.cur.pc.toNat % 4 ≠ 0) :
    issueBundle s = .next ((s1.withBundle (s1.wordsAt b).1).takeTrap (.now cMisalign s1.cur.pc) 0) := by
  simp only [issueBundle, h]
  exact if_pos hpc

theorem issueBundle_aligned (hpc : s1.cur.pc.toNat % 4 = 0) {is : List Instr}
    (hd : decodeBundle (s1.wordsAt b).1 (s1.wordsAt b).2 = .ok is) : issueBundle s = execBundle is (s1.withBundle (s1.wordsAt b).1) := by
  simp only [issueBundle, h]
  refine (if_neg (not_not_intro hpc)).trans ?_
  simp only [State.wordsAt] at hd
  simp only [hd]
  rfl

theorem issueBundle_illegal (hpc : s1.cur.pc.toNat % 4 = 0) {bad : Option Nat}
    (hd : decodeBundle (s1.wordsAt b).1 (s1.wordsAt b).2 = .error bad) :
    let s2 := s1.withBundle (s1.wordsAt b).1
    let k := s2.illegalSlot (s1.wordsAt b).1 bad
    issueBundle s = .next (s2.takeTrap (.now cIllegal (s2.enc k)) k) := by
  simp only [issueBundle, h]
  refine (if_neg (not_not_intro hpc)).trans ?_
  simp only [State.wordsAt] at hd
  simp only [hd]
  rfl

end

theorem issueBundle_unfetched {s s1 : State} {x : Trap} (h : s.fetchBlock = .error (s1, x)) : issueBundle s = .next (s1.takeTrap x 0) := by
  simp only [issueBundle, h]

/-- One slot of a bundle obeys its limits. -/
theorem classesOk_single (i : Instr) : classesOk [i] = true := by
  refine List.all_eq_true.mpr fun c _ => decide_eq_true ?_
  refine (List.length_filter_le _ [i]).trans ?_
  unfold classLimit
  split <;> simp

/-- A single FMTSET is the first slot of its class. -/
theorem lateFmtset_single (i : Instr) : lateFmtset [i] = none := by
  have hfirst : ([i].findIdx? fun i => slotClass i == 0).getD 0 = 0 := by
    simp only [List.findIdx?_singleton]
    split <;> rfl
  simp only [lateFmtset, hfirst]
  simp

/-- A bundle of one word is the slot of that word. -/
theorem decodeBundle_single {w : Nat} {sl : Slot} (h : decodeSlot w = .ok sl) : decodeBundle [w] true = .ok [sl.i] := by
  have hp : decodePrefix [w] = [sl.i] := by simp only [decodePrefix, h]
  simp only [decodeBundle, hp, lateFmtset_single, classesOk_single]
  rfl

end Sys2Proof.Machine

namespace Sys2Proof.Proofs
open Sys2Proof.Machine

/-- Settles O55: the end of a step clears the scratch, and nothing after that writes it. -/
theorem noBundleBetweenSteps : Obligations.NoBundleBetweenSteps := by
  intro s t h
  obtain ⟨u, rfl⟩ := step_eq_next h
  have hscr := u.stepEnd_scr s
  exact ⟨hscr, by rw [State.Fresh, hscr]⟩

/-- Settles O54: what the fetch and the decoder answer says what is issued, and a trap taken leaves no bundle that waits. -/
theorem stepRunsTheDecodedInstruction : Obligations.StepRunsTheDecodedInstruction := by
  intro s ha ht hr hw
  refine ⟨fun s1 x h hwait => ?unfetched, fun s1 b h => ?_⟩
  case unfetched =>
    exact step_of_issue ha ht hr hw (issueBundle_unfetched h) ((congrArg Scratch.waiting (s1.takeTrap_scr x 0)).trans hwait)
  intro p s2
  have hp : s1.wordsAt b = p := rfl
  have hs2 : s1.withBundle p.1 = s2 := rfl
  have htrap : ∀ (x : Trap) (k : Nat), (s2.takeTrap x k).scr.waiting = none := fun x k => congrArg Scratch.waiting (s2.takeTrap_scr x k)
  clear_value s2 p
  have haligned : ∀ is, s1.cur.pc.toNat % 4 = 0 → decodeBundle p.1 p.2 = .ok is → issueBundle s = execBundle is s2 := fun is hpc hd => by
    rw [issueBundle_aligned h hpc (hp ▸ hd), hp, hs2]
  refine ⟨fun hpc => ?misaligned, fun hpc => ⟨?one, ?more, ?illegal⟩⟩
  case misaligned =>
    have hissue := issueBundle_misaligned h hpc
    rw [hp, hs2] at hissue
    exact step_of_issue ha ht hr hw hissue (htrap _ _)
  case one =>
    intro w i hword hi t hx hwait
    have hd : decodeBundle p.1 p.2 = .ok [i] := by rw [hword]; exact decodeBundle_single hi
    exact step_of_issue ha ht hr hw ((haligned _ hpc hd).trans hx) hwait
  case more =>
    intro i j is hd t hx hwait
    exact step_of_issue ha ht hr hw ((haligned _ hpc hd).trans hx) hwait
  case illegal =>
    intro bad hd k
    have hissue := issueBundle_illegal h hpc (hp ▸ hd)
    rw [hp, hs2] at hissue
    exact step_of_issue ha ht hr hw hissue (htrap _ _)

end Sys2Proof.Proofs
end
